-- ==== Sys2Proof/Word.lean ====
section
/-!
DEFINITION. The words of the SB-4128 that the manual treats as bits: the byte of a frame, the 8-bit node
address (R100), the 32-bit run-second value (R55) and the 32-bit ticket (section 4.2 of 00_scope.md).
-/
namespace Sys2Proof

/-- One byte of a link frame (R99). -/
abbrev Byte := BitVec 8

/-- An 8-bit node address (R100): 0x00 is the null address, 0xFF the broadcast address. -/
abbrev Addr := BitVec 8

/-- A run-second value: 32 bits, sums formed modulo 2^32 (R55, R56). -/
abbrev Time := BitVec 32

/-- A ticket: 1 to 0xFFFFFFFF, 0 is not a ticket (00_scope.md 4.2). -/
abbrev Ticket := BitVec 32

end Sys2Proof
end

