-- ==== Sys2Proof/Config.lean ====
section
/-!
DEFINITION. What the SB-4128 fixes once and for all: the capacities of its queues and lists, its fixed
addresses and the bounds of its saturating counts. The manual leaves no implementation-defined value, so
there is no free value here.
-/
namespace Sys2Proof.Config

/-- Frames waiting in the uplink transmit FIFO (R104). -/
def uplinkFifo : Nat := 32
/-- Frames in the downlink forward queue (R107). -/
def forwardQueue : Nat := 16
/-- Requests in the hold request queue (R27). -/
def holdQueue : Nat := 8
/-- Requests in the management queue (R126). -/
def managementQueue : Nat := 4
/-- Entries of the Waitlist (R36). -/
def waitlist : Nat := 32
/-- Entries of the Early Arrival List (R47). -/
def earlyList : Nat := 8
/-- Bytes of a port's receive buffer (R103), the longest frame. -/
def receiveBuffer : Nat := 55
/-- Payload bytes of the longest frame (R99). -/
def maxPayload : Nat := 48
/-- The null address (R100). -/
def nullAddr : Addr := 0x00
/-- The broadcast address (R100). -/
def broadcast : Addr := 0xFF
/-- Own address after power-on reset (R100). -/
def ownAddress : Addr := 0xF0
/-- Notice destination after power-on reset, and the address of the power-on SERVER entry (R120, R172). -/
def serverAddress : Addr := 0xF1
/-- Where the gated counters and energy delivered stay (R71, R73). -/
def counterMax : Nat := 4294967295

end Sys2Proof.Config
end

