-- ==== Sys2Proof/Machine/Data.lean ====
section
/-!
DEFINITION. The plain data of the SB-4128: sized tables, the enumerations of Table 11-1 with their codes, the
hold record (Table 1-3), the dynamic part of the bay record (Table 1-2), the link frame (Table 5-1), and
the CRC-16 that guards frames (R101) and bay records (R3).
-/
namespace Sys2Proof.Machine

/-! ## Sized tables -/

/-- A table of `n` entries: a list that carries the proof of its length. -/
structure Table (α : Type) (n : Nat) where
  items : List α
  size : items.length = n
  deriving DecidableEq, Repr

/-- Every entry the same. -/
def Table.replicate (n : Nat) (a : α) : Table α n := ⟨List.replicate n a, List.length_replicate⟩

/-- The entry at an index. -/
def Table.get (t : Table α n) (i : Fin n) : α := t.items[i.val]'(by rw [t.size]; exact i.isLt)

/-- The table with one entry replaced. -/
def Table.set (t : Table α n) (i : Fin n) (a : α) : Table α n :=
  ⟨t.items.set i.val a, by rw [List.length_set, t.size]⟩

/-- The table with one entry changed by `f`. -/
def Table.modify (t : Table α n) (i : Fin n) (f : α → α) : Table α n := t.set i (f (t.get i))

/-- Every entry changed by `f`. -/
def Table.map (t : Table α n) (f : α → β) : Table β n := ⟨t.items.map f, by rw [List.length_map, t.size]⟩

/-- A bay, numbered from 0 here and from 1 on the link: bay `b` is bay number `b + 1` (00_scope.md 4.2). -/
abbrev BayIx := Fin 128

/-- Every bay, in ascending order. -/
def allBays : List BayIx := List.finRange 128

/-- The bay's number on the link, 1 to 128. -/
def bayNo (b : BayIx) : Nat := b.val + 1

/-- The bay a number names: 1 to 128, and none for 0 or above 128. -/
def bayOfNo (n : Nat) : Option BayIx :=
  if h : 1 ≤ n ∧ n ≤ 128 then some ⟨n - 1, by omega⟩ else none

/-- The Node Map index of an address (R115). -/
def addrIx (a : Addr) : Fin 256 := a.toFin

/-! ## Enumerations and their codes (Table 11-1) -/

/-- Bay class (Table 1-1). -/
inductive BayClass where
  | standard | accessible | fleet | shortStay
  deriving DecidableEq, Repr

/-- The class's number, the order of the Class Table (Table 10-2). -/
def BayClass.ix : BayClass → Fin 4
  | .standard => 0 | .accessible => 1 | .fleet => 2 | .shortStay => 3

/-- The class a code 0 to 3 names. -/
def BayClass.ofNat? : Nat → Option BayClass
  | 0 => some .standard | 1 => some .accessible | 2 => some .fleet | 3 => some .shortStay | _ => none

/-- Bay state (Table 1-4). -/
inductive BayState where
  | closed | free | unbooked | held | contested | arrived | charging | done | overstay | faulted
  deriving DecidableEq, Repr

def BayState.code : BayState → Nat
  | .closed => 0 | .free => 1 | .unbooked => 2 | .held => 3 | .contested => 4
  | .arrived => 5 | .charging => 6 | .done => 7 | .overstay => 8 | .faulted => 9

/-- Accepted occupancy (Table 1-2). -/
inductive Occupancy where
  | vacant | occupied | unknown
  deriving DecidableEq, Repr

def Occupancy.code : Occupancy → Nat
  | .vacant => 0 | .occupied => 1 | .unknown => 2

/-- What a sensor can report (R10), and so what a debounce candidate can be. -/
inductive Sensed where
  | vacant | occupied
  deriving DecidableEq, Repr

def Sensed.occupancy : Sensed → Occupancy
  | .vacant => .vacant | .occupied => .occupied

/-- Connector (Table 1-2). -/
inductive Connector where
  | none | idle | plugged | charging | finished | fault
  deriving DecidableEq, Repr

def Connector.code : Connector → Nat
  | .none => 0 | .idle => 1 | .plugged => 2 | .charging => 3 | .finished => 4 | .fault => 5

/-- The connector a POST-STATUS may report: codes 1 to 5 (R181). -/
def Connector.reported? : Nat → Option Connector
  | 1 => some .idle | 2 => some .plugged | 3 => some .charging | 4 => some .finished | 5 => some .fault
  | _ => Option.none

/-- PLUGGED or CHARGING: the connector values of plug evidence (R12). -/
def Connector.isPlug : Connector → Bool
  | .plugged | .charging => true
  | _ => false

/-- Close mode (Table 1-2). -/
inductive CloseMode where
  | none | closingAtEnd
  deriving DecidableEq, Repr

/-- A hold slot of a bay (R5). -/
inductive Slot where
  | active | staged
  deriving DecidableEq, Repr

def Slot.code : Slot → Nat
  | .active => 1 | .staged => 2

/-- The slot code of the Waitlist and of the Early Arrival List (Table 11-1). -/
def waitlistCode : Nat := 3
def earlyCode : Nat := 4

/-- End reason of a hold (Table 1-6). -/
inductive EndReason where
  | departed | freed | expired | forced | relocated | lost
  deriving DecidableEq, Repr

def EndReason.code : EndReason → Nat
  | .departed => 1 | .freed => 2 | .expired => 3 | .forced => 4 | .relocated => 5 | .lost => 6

/-- BAY-NOTICE cause (Table 1-8). -/
inductive BayCause where
  | evidence | walkIn | placed | holdEnded | overstay | faulted | faultCleared | holderWaiting | closed
  | opened | amended
  deriving DecidableEq, Repr

def BayCause.code : BayCause → Nat
  | .evidence => 1 | .walkIn => 2 | .placed => 3 | .holdEnded => 4 | .overstay => 5 | .faulted => 6
  | .faultCleared => 7 | .holderWaiting => 8 | .closed => 9 | .opened => 10 | .amended => 11

/-- The order in which R25 chooses among several causes met in one event. -/
def BayCause.order : List BayCause :=
  [.holdEnded, .walkIn, .faulted, .faultCleared, .opened, .closed, .overstay, .amended, .placed,
    .evidence, .holderWaiting]

/-- Fault cause of a bay (R8, R25). -/
inductive FaultCause where
  | connectorFault | postUnreachable | suspect
  deriving DecidableEq, Repr

def FaultCause.code : FaultCause → Nat
  | .connectorFault => 1 | .postUnreachable => 2 | .suspect => 3

/-- HOLD-NOTICE event (Table 11-1). -/
inductive HoldEvent where
  | granted | relocated | displaced | expired | evicted | lost | ended
  deriving DecidableEq, Repr

def HoldEvent.code : HoldEvent → Nat
  | .granted => 0 | .relocated => 1 | .displaced => 2 | .expired => 3 | .evicted => 4 | .lost => 5
  | .ended => 6

/-- Refusal reason of an ANSWER (Table 2-1). -/
inductive Reason where
  | notPermitted | badTicket | duplicate | tooFar | badClass | waitlistFull | busy | unknownTicket
  | notOwner | conflict
  deriving DecidableEq, Repr

def Reason.code : Reason → Nat
  | .notPermitted => 1 | .badTicket => 2 | .duplicate => 3 | .tooFar => 4 | .badClass => 5
  | .waitlistFull => 6 | .busy => 7 | .unknownTicket => 8 | .notOwner => 9 | .conflict => 10

/-- MGMT-ANSWER status (Table 10-1). -/
inductive Status where
  | ok | clamped | badTable | badIndex | bayInUse | emergencyActive | notPermitted
  deriving DecidableEq, Repr

def Status.code : Status → Nat
  | .ok => 0 | .clamped => 1 | .badTable => 2 | .badIndex => 3 | .bayInUse => 4
  | .emergencyActive => 5 | .notPermitted => 6

/-- Node Map role (Table 6-1). -/
inductive Role where
  | unused | self | post | sensor | requester | server
  deriving DecidableEq, Repr

def Role.code : Role → Nat
  | .unused => 0 | .self => 1 | .post => 2 | .sensor => 3 | .requester => 4 | .server => 5

/-- The role a code names; codes above 5 name none (R181). -/
def Role.ofNat? : Nat → Option Role
  | 0 => some .unused | 1 => some .self | 2 => some .post | 3 => some .sensor | 4 => some .requester
  | 5 => some .server | _ => none

/-- Roles of the downlink segment (Table 6-1). -/
def Role.isDown : Role → Bool
  | .post | .sensor => true
  | _ => false

/-- Roles of the uplink segment (Table 6-1). -/
def Role.isUp : Role → Bool
  | .requester | .server => true
  | _ => false

/-- Uplink action of a kind (R121). -/
inductive UplinkAction where
  | forward | claim | claimForward | drop
  deriving DecidableEq, Repr

def UplinkAction.code : UplinkAction → Nat
  | .forward => 0 | .claim => 1 | .claimForward => 2 | .drop => 3

def UplinkAction.ofNat? : Nat → Option UplinkAction
  | 0 => some .forward | 1 => some .claim | 2 => some .claimForward | 3 => some .drop | _ => none

/-- Class mode (Table 4-1). -/
inductive ClassMode where
  | rotate | holdToEnd
  deriving DecidableEq, Repr

def ClassMode.code : ClassMode → Nat
  | .rotate => 0 | .holdToEnd => 1

/-- Reset mode of the Controller Settings (R112). -/
inductive ResetMode where
  | boundary | immediate
  deriving DecidableEq, Repr

def ResetMode.code : ResetMode → Nat
  | .boundary => 0 | .immediate => 1

/-- Action of a severity (R160). -/
inductive FaultAction where
  | none | notice | noticeAndLine
  deriving DecidableEq, Repr

def FaultAction.code : FaultAction → Nat
  | .none => 0 | .notice => 1 | .noticeAndLine => 2

/-- Error kind (Table 9-1). -/
inductive ErrorKind where
  | frameCheck | frameShape | forwardDrop | noticeDrop | requestBusy | notPermitted | noAnswer
  | unexpectedAnswer | nodeUnreachable | postFault | overdraw | energyRegress | sensorDisagree
  | configMismatch | recordCheck | emergencyEntered
  deriving DecidableEq, Repr

/-- The place of a kind in the Fault Settings: its code less 1 (Table 9-1, Table 11-3). -/
def ErrorKind.ix : ErrorKind → Fin 16
  | .frameCheck => 0 | .frameShape => 1 | .forwardDrop => 2 | .noticeDrop => 3 | .requestBusy => 4
  | .notPermitted => 5 | .noAnswer => 6 | .unexpectedAnswer => 7 | .nodeUnreachable => 8
  | .postFault => 9 | .overdraw => 10 | .energyRegress => 11 | .sensorDisagree => 12
  | .configMismatch => 13 | .recordCheck => 14 | .emergencyEntered => 15

def ErrorKind.code (k : ErrorKind) : Nat := k.ix.val + 1

/-- Delivery state of a bay (Table 7-2). -/
inductive DeliveryState where
  | none | unknown | settled | pending | inFlight | waitContact
  deriving DecidableEq, Repr

def DeliveryState.code : DeliveryState → Nat
  | .none => 0 | .unknown => 1 | .settled => 2 | .pending => 3 | .inFlight => 4 | .waitContact => 5

/-- The two link ports (Chapter 5). -/
inductive Port where
  | uplink | downlink
  deriving DecidableEq, Repr

/-! ## Frame kinds (Table 11-2) -/

namespace Kind
def hold : Byte := 0x10
def amend : Byte := 0x11
def free : Byte := 0x12
def query : Byte := 0x13
def arrive : Byte := 0x14
def answer : Byte := 0x20
def holdState : Byte := 0x22
def holdNotice : Byte := 0x24
def bayNotice : Byte := 0x28
def faultNotice : Byte := 0x29
def occupancy : Byte := 0x30
def postStatus : Byte := 0x31
def allot : Byte := 0x38
def poll : Byte := 0x39
def setTable : Byte := 0x40
def getTable : Byte := 0x41
def control : Byte := 0x42
def mgmtAnswer : Byte := 0x43
def emergency : Byte := 0x4F
end Kind

/-! ## Fields of several bytes, most significant byte first (R99) -/

/-- One byte of a number. -/
def byteOf (n : Nat) : Byte := BitVec.ofNat 8 n

/-- Two bytes of a number. -/
def be16 (n : Nat) : List Byte := [byteOf (n / 256), byteOf n]

/-- Four bytes of a number. -/
def be32 (n : Nat) : List Byte :=
  [byteOf (n / 16777216), byteOf (n / 65536), byteOf (n / 256), byteOf n]

/-- Four bytes of a 32-bit word. -/
def be32w (w : BitVec 32) : List Byte := be32 w.toNat

/-- A flag byte: the flags from bit 0 upward, the other bits 0 (11.1). -/
def flagByte : List Bool → Byte
  | fs => byteOf (fs.foldr (fun f n => 2 * n + (if f then 1 else 0)) 0)

/-! ## The CRC-16 of R101 and R3 -/

/-- One bit step of the CRC with polynomial x^16+x^12+x^5+1, most significant bit first. -/
def crcShift (c : BitVec 16) : BitVec 16 :=
  if c.msb then (c <<< 1) ^^^ 0x1021 else c <<< 1

/-- One byte taken into the CRC, most significant bit first. -/
def crcByte (c : BitVec 16) (b : Byte) : BitVec 16 :=
  let c0 := c ^^^ (b.zeroExtend 16 <<< 8)
  crcShift (crcShift (crcShift (crcShift (crcShift (crcShift (crcShift (crcShift c0)))))))

/-- The CRC-16 of a run of bytes: initial value all ones, nothing reflected, nothing inverted (R101). -/
def crc16 (bs : List Byte) : BitVec 16 := bs.foldl crcByte 0xFFFF

/-! ## The hold record (Table 1-3) and the dynamic part of a bay record (Table 1-2) -/

/-- A hold record: the booking of one bay for one vehicle (R4). -/
structure Hold where
  /-- 1 to 0xFFFFFFFF, absent for a walk-in hold. -/
  ticket : Option Ticket
  /-- Absent for a walk-in hold. -/
  requester : Option Addr
  /-- 0 to 3, 3 highest. -/
  priority : Fin 4
  windowStart : Time
  windowEnd : Time
  graceEnd : Time
  /-- 1 to 200000 Wh, or absent. -/
  energyWanted : Option Nat
  entrySeen : Bool
  /-- Absent until arrival capture (R18). -/
  arrival : Option Time
  occupiedSeconds : Nat
  chargedSeconds : Nat
  energyDelivered : Nat
  /-- Absent until the first session energy figure for this hold (R72). -/
  lastPostEnergy : Option Nat
  deriving DecidableEq, Repr

/-- A hold is arrived when its arrival time is present (R4). -/
def Hold.arrived (h : Hold) : Bool := h.arrival.isSome

/-- The dynamic part of a bay record, less its check word (Table 1-2). -/
structure BayDyn where
  state : BayState
  occupancy : Occupancy
  candidate : Option Sensed
  debounce : Nat
  connector : Connector
  active : Option Hold
  staged : Option Hold
  closeMode : CloseMode
  suspect : Bool
  deriving DecidableEq, Repr

/-- The power-on values of Table 1-2. -/
def BayDyn.powerOn : BayDyn where
  state := .closed
  occupancy := .unknown
  candidate := none
  debounce := 0
  connector := .none
  active := none
  staged := none
  closeMode := .none
  suspect := false

/-- An optional field inside the check word: a presence byte, then the value. DESIGN CHOICE (log 6). -/
def checkOpt (enc : α → List Byte) : Option α → List Byte
  | none => [0]
  | some a => 1 :: enc a

/-- A hold record's contribution to the check word: all the fields of Table 1-3 in its order (R3).
DESIGN CHOICE (log 6): the widths; R3's Remark says the encoding is internal to the part. -/
def checkHold (h : Hold) : List Byte :=
  checkOpt be32w h.ticket ++ checkOpt (fun a => [a]) h.requester ++ [byteOf h.priority.val]
    ++ be32w h.windowStart ++ be32w h.windowEnd ++ be32w h.graceEnd
    ++ checkOpt be32 h.energyWanted ++ [flagByte [h.entrySeen]] ++ checkOpt be32w h.arrival
    ++ be32 h.occupiedSeconds ++ be32 h.chargedSeconds ++ be32 h.energyDelivered
    ++ checkOpt be32 h.lastPostEnergy

/-- The bytes the check word is computed over: the fields of Table 1-2 in its order, an empty hold slot
giving the absent marker 0 (R3). DESIGN CHOICE (log 6): the codes and widths. -/
def checkBytes (d : BayDyn) : List Byte :=
  [byteOf d.state.code, byteOf d.occupancy.code,
    (match d.candidate with | none => 0xFF | some .vacant => 0 | some .occupied => 1),
    byteOf d.debounce, byteOf d.connector.code]
    ++ checkOpt checkHold d.active ++ checkOpt checkHold d.staged
    ++ [(match d.closeMode with | .none => 0 | .closingAtEnd => 1), flagByte [d.suspect]]

/-- The check word of a record's contents (R3). -/
def checkWord (d : BayDyn) : BitVec 16 := crc16 (checkBytes d)

/-! ## Link frames -/

/-- A link frame (Table 5-1). LEN and CHECK are computed from the other fields, because every frame
that the part builds or accepts has LEN equal to its payload bytes and a CHECK that passes (R99, R103). -/
structure Frame where
  dest : Addr
  src : Addr
  kind : Byte
  tag : Byte
  payload : List Byte
  deriving DecidableEq, Repr

/-- The bytes DEST through the last payload byte (R101). -/
def Frame.body (f : Frame) : List Byte :=
  f.dest :: f.src :: f.kind :: f.tag :: byteOf f.payload.length :: f.payload

/-- The CHECK field (R101). -/
def Frame.check (f : Frame) : BitVec 16 := crc16 f.body

/-- The frame on the wire, its CHECK more significant byte first (R99, R101). -/
def Frame.bytes (f : Frame) : List Byte := f.body ++ be16 f.check.toNat

/-- A captured frame header: DEST, SRC, KIND, TAG and LEN (R159). -/
structure Header where
  dest : Byte
  src : Byte
  kind : Byte
  tag : Byte
  len : Byte
  deriving DecidableEq, Repr

/-- The header of a frame. -/
def Frame.header (f : Frame) : Header :=
  ⟨f.dest, f.src, f.kind, f.tag, byteOf f.payload.length⟩

/-- One received character: its data bits, and whether its stop bit was received as 0, which is a
character fault (R102). -/
structure RxChar where
  data : Byte
  faulty : Bool
  deriving DecidableEq, Repr

end Sys2Proof.Machine
end

