-- ==== Sys2Proof/Syntax.lean ====
section
/-!
DEFINITION. The commands of the SB-4128: one constructor per row of spec/opcode_table.json, in its order. The
table gives no operands; those here are the model's (log 1). A booking request and a management request
carry none: they stand in the hold request queue (R27) and in the management queue (R172), and the command
takes the one at the head.
-/
namespace Sys2Proof

open Machine

/-- A command: one whole event of the part. -/
inductive Instr where
  /-- POWER_ON_RESET (R114). Operand: whether the filtered EMERGENCY state is active as the reset ends. -/
  | powerOnReset (emergency : Bool)
  /-- WARM_RESET (R179): the RESET pin has been low for 10 µs. -/
  | warmReset
  /-- EMERGENCY_ACTIVE (R149). -/
  | emergencyActive
  /-- EMERGENCY_INACTIVE (R150). -/
  | emergencyInactive
  /-- TICK (R55): one second. -/
  | tick
  /-- NO_SHOW_EXPIRY (R20): bay number, ticket or walk-in marker, carried value (R60). -/
  | noShowExpiry (bay : Byte) (ticket : Option Ticket) (value : Time)
  /-- OVERSTAY_EXPIRY (R21): bay number, ticket or walk-in marker, carried value (R60). -/
  | overstayExpiry (bay : Byte) (ticket : Option Ticket) (value : Time)
  /-- DISPLACEMENT_CHECK (R43): bay number, ticket, carried value (R60). -/
  | displacementCheck (bay : Byte) (ticket : Ticket) (value : Time)
  /-- WAITLIST_EXPIRY (R40): ticket, carried value. -/
  | waitlistExpiry (ticket : Ticket) (value : Time)
  /-- EARLY_ARRIVAL_EXPIRY (R47): ticket, carried value. -/
  | earlyArrivalExpiry (ticket : Ticket) (value : Time)
  /-- ROTATION_EXPIRY (R93): bay number. -/
  | rotationExpiry (bay : Byte)
  /-- LINK_LOSS_EXPIRY (R142): bay number. -/
  | linkLossExpiry (bay : Byte)
  /-- POLL_DUE (R143): node address. -/
  | pollDue (node : Addr)
  /-- REPLY_WINDOW_CLOSE (R139). -/
  | replyWindowClose
  /-- END_OF_SENDING (R109). -/
  | endOfSending
  /-- DOWNLINK_FRAME_START (R109). -/
  | downlinkFrameStart
  /-- UPLINK_SEND_START (R105). -/
  | uplinkSendStart
  /-- UPLINK_SEND_END (R105). -/
  | uplinkSendEnd
  /-- FRAME_RECEPTION (R103): the port, and the characters received since the frame began. -/
  | frameReception (port : Port) (chars : List RxChar)
  /-- HOLD (R35). -/
  | hold
  /-- AMEND (R48). -/
  | amend
  /-- FREE (R49). -/
  | free
  /-- QUERY (R50). -/
  | query
  /-- ARRIVE (R46). -/
  | arrive
  /-- NODE_MAP (R117). -/
  | nodeMap
  /-- KIND_FILTER (R121). -/
  | kindFilter
  /-- CLASS_TABLE (R174). -/
  | classTable
  /-- BAY_CONFIGURATION (R175). -/
  | bayConfiguration
  /-- ALLOCATOR_SETTINGS (R95). -/
  | allocatorSettings
  /-- TIMING_SETTINGS (R67). -/
  | timingSettings
  /-- FAULT_SETTINGS (R160). -/
  | faultSettings
  /-- CONTROLLER_SETTINGS (R176). -/
  | controllerSettings
  /-- SET_TABLE (R173): a SET-TABLE that names no writable table. -/
  | setTable
  /-- GET_TABLE (R177). -/
  | getTable
  /-- OPEN (R155). -/
  | openBay
  /-- CLOSE_NOW (R154). -/
  | closeNow
  /-- CLOSE_AT_END (R153). -/
  | closeAtEnd
  /-- FORCE_END (R156, R157). -/
  | forceEnd
  /-- SET_ENABLE (R148). -/
  | setEnable
  /-- RESTART (R151). -/
  | restart
  /-- SET_CAP (R77). -/
  | setCap
  /-- SET_TIME (R57). -/
  | setTime
  /-- CLEAR_LOG (R164). -/
  | clearLog
  /-- CLEAR_COUNTER (R165). -/
  | clearCounter
  /-- SCRUB (R169). -/
  | scrub
  /-- RESET (R179): the CONTROL operation. -/
  | reset
  /-- STORAGE_FAULT (R3): bay number, the contents and the check word the storage then holds. -/
  | storageFault (bay : Byte) (contents : BayDyn) (check : BitVec 16)
  /-- FRAME_BEGIN (R102): a port takes a start bit as the beginning of a frame. -/
  | frameBegin (port : Port)
  /-- SUPPLY_LOSS (R114). -/
  | supplyLoss
  /-- RESET_PIN_RELEASE (R114). -/
  | resetPinRelease
  /-- CONTROL (R178): a CONTROL whose code names no operation, or whose LEN is 0. -/
  | control
  deriving DecidableEq, Repr

end Sys2Proof
end

