-- ==== Sys2Proof/Decode.lean ====
section
/-!
DEFINITION. The word decoder over spec/opcode_table.json. No row of the table gives bits (a command is an
event, a request in a queue or a pin, never a word), so no word spells a command (log 21).
-/
namespace Sys2Proof

/-- The command a word spells by the table's bits: none, because no row of the table gives bits. -/
def decodeTableWord (_nbits _w : Nat) : Option Instr := none

end Sys2Proof
end

