-- ==== Sys2Proof/Machine/State.lean ====
section
/-!
DEFINITION. The state of the SB-4128: every item the manual's blocks own (Table 2-1 of 00_scope.md), as plain
data, and `State.reset`, the part right after power-on reset.
-/
namespace Sys2Proof.Machine

/-! ## Hold Timer Unit (Chapter 3) -/

/-- A SET hold deadline: the hold it was set for (its ticket, or none for a walk-in), and the run second
(R59, R60). A CLEAR deadline is an absent one. -/
structure Deadline where
  owner : Option Ticket
  due : Time
  deriving DecidableEq, Repr

/-- The three states of a rotation deadline (R66). -/
inductive Rotation where
  | clear
  | set (at_ : Time)
  | due (at_ : Time)
  deriving DecidableEq, Repr

/-- An expiry delivered and not yet taken, with the identity of R60 and its value. -/
inductive Expiry where
  | noShow (bay : BayIx) (owner : Option Ticket) (value : Time)
  | overstay (bay : BayIx) (owner : Option Ticket) (value : Time)
  | displacement (bay : BayIx) (ticket : Option Ticket) (value : Time)
  | waitlist (ticket : Ticket) (value : Time)
  | early (ticket : Ticket) (value : Time)
  | rotation (bay : BayIx)
  deriving DecidableEq, Repr

/-- The deadlines of one bay (Table 3-2). -/
structure BayTimer where
  noShow : Option Deadline
  overstay : Option Deadline
  displacement : Option Deadline
  rotation : Rotation
  deriving DecidableEq, Repr

/-! ## Per-bay state -/

/-- The Power Allocator's state of one bay (R82, R86, R90) and its copies of what other blocks report
(R78). `suspectCopy` is also the Downlink Scheduler's copy (R130): both get the same reports. -/
structure BayAlloc where
  ceiling : Nat
  underDraw : Nat
  target : Nat
  admittedSince : Option Time
  chargingCopy : Bool
  enableCopy : Bool
  suspectCopy : Bool
  deriving DecidableEq, Repr

/-- The delivery record of one bay (Table 7-1). In-force UNKNOWN is `none`. -/
structure Delivery where
  target : Nat
  inForce : Option Nat
  unacknowledged : Option Nat
  drawn : Nat
  sequence : Nat
  repeatMark : Bool
  overdrawCount : Nat
  linkLost : Bool
  state : DeliveryState
  deriving DecidableEq, Repr

/-- Everything the part keeps of one bay. The post node and the sensor node are not kept: R1 derives them
from the Node Map. -/
structure Bay where
  cls : BayClass
  postMax : Nat
  allotEnable : Bool
  savedMask : Bool
  dyn : BayDyn
  check : BitVec 16
  timer : BayTimer
  alloc : BayAlloc
  delivery : Delivery
  deriving DecidableEq, Repr

/-- The power-on values of a bay (Tables 1-1, 1-2, 7-1, 8-1, R75, R97). -/
def Bay.powerOn (allotEnable : Bool) : Bay where
  cls := .standard
  postMax := 60
  allotEnable := allotEnable
  savedMask := false
  dyn := BayDyn.powerOn
  check := checkWord BayDyn.powerOn
  timer := { noShow := none, overstay := none, displacement := none, rotation := .clear }
  alloc :=
    { ceiling := 60, underDraw := 0, target := 0, admittedSince := none, chargingCopy := false,
      enableCopy := allotEnable, suspectCopy := false }
  delivery :=
    { target := 0, inForce := some 0, unacknowledged := none, drawn := 0, sequence := 0,
      repeatMark := false, overdrawCount := 0, linkLost := false, state := .none }

/-! ## Reservation Engine (Chapters 1 and 2) -/

/-- Where the Ticket Index says a ticket stands (R29). -/
inductive Location where
  | active (bay : BayIx)
  | staged (bay : BayIx)
  | waitlist
  deriving DecidableEq, Repr

/-- An entry of the Ticket Index (R29). -/
structure IndexEntry where
  ticket : Ticket
  requester : Addr
  location : Location
  deriving DecidableEq, Repr

/-- A waitlist entry (R36): a hold record, the class wanted and preferred bay of its search, and its
deadline (R64). -/
structure WaitEntry where
  hold : Hold
  classWanted : BayClass
  preferred : Option BayIx
  deadline : Option Time
  deriving DecidableEq, Repr

/-- An Early Arrival List entry (R47) with its deadline (R65). -/
structure EarlyEntry where
  ticket : Ticket
  recorded : Time
  deadline : Option Time
  deriving DecidableEq, Repr

/-- A request waiting in the hold request queue (R27) or in the management queue (R172). -/
structure Request where
  src : Addr
  kind : Byte
  tag : Byte
  payload : List Byte
  deriving DecidableEq, Repr

/-- A Class Table entry (R174). An empty substitution place is `none`. -/
structure ClassEntry where
  weight : Nat
  mode : ClassMode
  walkIn : Bool
  verify : Bool
  stay : Nat
  grace : Nat
  substitution : Table (Option BayClass) 3
  deriving DecidableEq, Repr

/-! ## Power Allocator (Chapter 4) -/

/-- The Allocator Settings (Table 4-1). The cap NONE is `none`. -/
structure AllocatorSettings where
  feeder : Nat
  reserve : Nat
  cap : Option Nat
  minimum : Nat
  step : Nat
  reclaim : Nat
  margin : Nat
  overdraw : Nat
  rotation : Nat
  deriving DecidableEq, Repr

/-- A Charge Queue entry (R80). -/
structure ChargeEntry where
  bay : BayIx
  priority : Fin 4
  stamp : Time
  deriving DecidableEq, Repr

/-- The Power Allocator: its settings, the Charge Queue, and its copy of the suspended flag (R78). -/
structure Allocator where
  settings : AllocatorSettings
  queue : List ChargeEntry
  suspendedCopy : Bool
  deriving DecidableEq, Repr

/-- The Timing Settings (Table 11-3). -/
structure TimingSettings where
  window : Nat
  pollInterval : Nat
  failLimit : Nat
  linkLoss : Nat
  debounce : Nat
  overstay : Nat
  turnover : Nat
  lead : Nat
  deriving DecidableEq, Repr

/-! ## Link ports and classifier (Chapters 5 and 6) -/

/-- A port's receiver (R102): waiting for an end-of-frame gap after a reset, idle, or assembling. -/
inductive RxState where
  | awaitGap | idle | assembling
  deriving DecidableEq, Repr

/-- A port's receiver with its 55-byte receive buffer (R103). -/
structure Receiver where
  state : RxState
  buffer : List Byte
  deriving DecidableEq, Repr

/-- The uplink port: the transmit FIFO (R104) and the frame on the line (R105). -/
structure UplinkPort where
  fifo : List Frame
  sending : Option Frame
  rx : Receiver
  deriving DecidableEq, Repr

/-- A frame of the downlink forward queue with its answer-expected setting (R107). -/
structure ForwardEntry where
  frame : Frame
  answerExpected : Bool
  deriving DecidableEq, Repr

/-- The downlink port: the forward queue (R107) and the frame on the line. It is TRANSMITTING, with
direction-enable active, exactly while there is a frame on the line (R109). -/
structure DownlinkPort where
  forward : List ForwardEntry
  sending : Option Frame
  rx : Receiver
  deriving DecidableEq, Repr

/-- The permissions of a Node Map entry (R116). -/
structure Permissions where
  hold : Bool
  freeAny : Bool
  arrive : Bool
  manage : Bool
  emergency : Bool
  deriving DecidableEq, Repr

/-- The contact record of a downlink node (R115) with its due time (R143). -/
structure Contact where
  reachable : Bool
  failures : Nat
  last : Time
  due : Time
  deriving DecidableEq, Repr

/-- A Node Map entry (R115); the bay association is a bay for POST and SENSOR, and none (0) for every
other role. -/
structure NodeEntry where
  role : Role
  permissions : Permissions
  bay : Option BayIx
  contact : Option Contact
  deriving DecidableEq, Repr

/-- A Kind Filter entry (R121). -/
structure KindEntry where
  action : UplinkAction
  copyUp : Bool
  answerExpected : Bool
  deriving DecidableEq, Repr

/-! ## Downlink Scheduler and Node Supervisor (Chapter 7) -/

/-- The three sources of the downlink arbiter (R136). -/
inductive Source where
  | raise | forward | poll
  deriving DecidableEq, Repr

/-- What a downlink transaction sends (R137). -/
inductive TransactionKind where
  | allot (bay : BayIx) (sequence : Nat)
  | poll
  | forward (answerExpected : Bool)
  deriving DecidableEq, Repr

/-- Where a transaction stands: its frame waits at the port (R109), is on the line, or its reply window is
open (R137). -/
inductive Phase where
  | waiting | sending | window
  deriving DecidableEq, Repr

/-- The outstanding downlink transaction (R136 to R139). -/
structure Transaction where
  kind : TransactionKind
  frame : Frame
  /-- True in the second attempt (R139). -/
  retried : Bool
  /-- Length of the reply window in milliseconds, as it stood when the transaction was chosen (R137). -/
  window : Nat
  phase : Phase
  /-- The DEST node's contact record was discarded during the transaction (R118, R139). -/
  destLost : Bool
  deriving DecidableEq, Repr

/-- The Downlink Scheduler's state common to all bays. -/
structure Scheduler where
  /-- The budget handed over with the targets (R91, R132). -/
  budget : Nat
  rotor : Source
  /-- The poll ring cursor: position 2·b is bay b's post, 2·b + 1 its sensor (R143). -/
  cursor : Fin 256
  /-- The downlink tag (R137). -/
  tag : Byte
  transaction : Option Transaction
  deriving DecidableEq, Repr

/-! ## Suspension, Fault Recorder, scrubber and management (Chapters 8 to 10) -/

/-- Suspension and Override Logic, less the per-bay fields (Table 8-1). -/
structure Suspension where
  suspended : Bool
  /-- The filtered EMERGENCY state: true is active. -/
  emergency : Bool
  deriving DecidableEq, Repr

/-- The log enable and severity of one error kind (R160). -/
structure KindSetting where
  enabled : Bool
  severity : Fin 3
  deriving DecidableEq, Repr

/-- The Fault Settings (R160). Bit k − 1 of a selection selects kind k. -/
structure FaultSettings where
  kinds : Table KindSetting 16
  actions : Table FaultAction 3
  selections : Table (BitVec 16) 2
  deriving DecidableEq, Repr

/-- A logged error (R161). -/
structure LogEntry where
  kind : ErrorKind
  second : Time
  bay : Option BayIx
  header : Option Header
  deriving DecidableEq, Repr

/-- The logs of one severity (R161). The first log is locked exactly while it is filled, and the next log
valid exactly while it is filled. -/
structure SeverityLog where
  first : Option LogEntry
  next : Option LogEntry
  lost : Nat
  pending : Bool
  deriving DecidableEq, Repr

/-- An error counter (R165). -/
structure Counter where
  count : Nat
  overflow : Bool
  deriving DecidableEq, Repr

/-- The Fault Recorder, with the ALERT output it drives (R163). -/
structure Recorder where
  settings : FaultSettings
  logs : Table SeverityLog 3
  counters : Table Counter 2
  alert : Bool
  deriving DecidableEq, Repr

/-- The Record Scrubber (R167, R168). -/
structure Scrubber where
  cursor : BayIx
  degraded : Bool
  deriving DecidableEq, Repr

/-- The Controller Settings (R172). -/
structure ControllerSettings where
  own : Addr
  noticeDest : Addr
  resetMode : ResetMode
  deriving DecidableEq, Repr

/-! ## The whole part -/

/-- The state of the part. -/
structure State where
  /-- The model's own: the commands that wait, first in, first out. -/
  pending : List Instr
  /-- The supply monitor holds the part in reset (R114). -/
  heldInReset : Bool
  /-- The RESET pin has been low and its warm reset has been taken; it has not returned high (R114). -/
  resetPinTaken : Bool
  /-- The run-seconds count (R55). -/
  now : Time
  /-- The site-time offset (R57). -/
  siteOffset : Time
  bays : Table Bay 128
  /-- The Ticket Index (R29). -/
  index : List IndexEntry
  /-- The Waitlist, head first (R36). -/
  waitlist : List WaitEntry
  /-- The Early Arrival List, oldest first (R47). -/
  early : List EarlyEntry
  classes : Table ClassEntry 4
  /-- The placement cursors, one per class (R34). -/
  cursors : Table BayIx 4
  /-- The hold request queue (R27). -/
  requests : List Request
  /-- Expiries delivered and not yet taken (R59). -/
  expiries : List Expiry
  allocator : Allocator
  timing : TimingSettings
  nodes : Table NodeEntry 256
  kinds : Table KindEntry 256
  uplink : UplinkPort
  downlink : DownlinkPort
  /-- The notice tag (R106). -/
  noticeTag : Byte
  scheduler : Scheduler
  suspension : Suspension
  recorder : Recorder
  scrubber : Scrubber
  /-- The management queue (R126, R172). -/
  management : List Request
  controller : ControllerSettings
  deriving DecidableEq, Repr

/-- The part has no machine fault: every condition the manual names has a stated effect, so nothing raises
a fault and there is no constructor. -/
inductive Fault where
  deriving DecidableEq, Repr

/-- The refusals of the model. -/
inductive Refusal where
  /-- Raised by `exec` for a command that has no meaning yet (safe: the model stops). No arm raises it. -/
  | notModelled (mnemonic : String)
  deriving DecidableEq, Repr

/-! ## Power-on contents -/

/-- No permission (R116). -/
def Permissions.none : Permissions := ⟨false, false, false, false, false⟩

/-- All five permissions (R120). -/
def Permissions.all : Permissions := ⟨true, true, true, true, true⟩

/-- An UNUSED Node Map entry (R120). -/
def NodeEntry.unused : NodeEntry := ⟨.unused, Permissions.none, Option.none, Option.none⟩

/-- The Node Map after power-on reset (R120). -/
def powerOnNodes : Table NodeEntry 256 :=
  ((Table.replicate 256 NodeEntry.unused).set (addrIx Config.ownAddress)
    ⟨.self, Permissions.none, none, none⟩).set (addrIx Config.serverAddress)
    ⟨.server, Permissions.all, none, none⟩

/-- The Kind Filter entry of a kind after power-on reset (Table 6-2). -/
def powerOnKind (k : Nat) : KindEntry :=
  if 0x10 ≤ k ∧ k ≤ 0x14 ∨ 0x40 ≤ k ∧ k ≤ 0x42 ∨ k = 0x4F then ⟨.claim, false, false⟩
  else if k = 0x31 then ⟨.drop, true, false⟩
  else if 0x50 ≤ k ∧ k ≤ 0x5F then ⟨.forward, false, true⟩
  else ⟨.drop, false, false⟩

/-- The Kind Filter after power-on reset (Table 6-2). -/
def powerOnKinds : Table KindEntry 256 :=
  ⟨(List.range 256).map powerOnKind, by rw [List.length_map, List.length_range]⟩

/-- A Class Table entry after power-on reset (Table 11-4). -/
def ClassEntry.powerOn : ClassEntry :=
  ⟨2, .rotate, false, false, 120, 10, Table.replicate 3 none⟩

/-- The default severities of Table 9-1, kinds 1 to 16 in code order. -/
def defaultSeverities : Table KindSetting 16 :=
  ⟨[⟨true, 0⟩, ⟨true, 0⟩, ⟨true, 0⟩, ⟨true, 1⟩, ⟨true, 0⟩, ⟨true, 1⟩, ⟨true, 0⟩, ⟨true, 0⟩,
    ⟨true, 1⟩, ⟨true, 1⟩, ⟨true, 2⟩, ⟨true, 0⟩, ⟨true, 0⟩, ⟨true, 1⟩, ⟨true, 2⟩, ⟨true, 2⟩], rfl⟩

/-- The Fault Settings after power-on reset (R160): counter 0 selects FRAME-CHECK and FRAME-SHAPE, counter
1 NO-ANSWER and UNEXPECTED-ANSWER. -/
def FaultSettings.powerOn : FaultSettings where
  kinds := defaultSeverities
  actions := ⟨[.none, .notice, .noticeAndLine], rfl⟩
  selections := ⟨[0x0003, 0x00C0], rfl⟩

/-- Cleared logs of a severity (R161, R164). -/
def SeverityLog.cleared : SeverityLog := ⟨none, none, 0, false⟩

/-- The part at its power-on values, the filtered EMERGENCY state being `emergency` as the reset ends: when
it is active the part starts suspended with every allot enable off (R114, R147, R152). -/
def State.powerOn (emergency : Bool) : State where
  pending := []
  heldInReset := false
  resetPinTaken := false
  now := 0
  siteOffset := 0
  bays := Table.replicate 128 (Bay.powerOn (!emergency))
  index := []
  waitlist := []
  early := []
  classes := Table.replicate 4 ClassEntry.powerOn
  cursors := Table.replicate 4 0
  requests := []
  expiries := []
  allocator :=
    { settings :=
        { feeder := 0, reserve := 0, cap := none, minimum := 60, step := 5, reclaim := 30, margin := 20,
          overdraw := 20, rotation := 20 }
      queue := []
      suspendedCopy := emergency }
  timing :=
    { window := 10, pollInterval := 5, failLimit := 3, linkLoss := 60, debounce := 2, overstay := 15,
      turnover := 5, lead := 10 }
  nodes := powerOnNodes
  kinds := powerOnKinds
  uplink := { fifo := [], sending := none, rx := { state := .awaitGap, buffer := [] } }
  downlink := { forward := [], sending := none, rx := { state := .awaitGap, buffer := [] } }
  noticeTag := 0
  scheduler := { budget := 0, rotor := .raise, cursor := 0, tag := 0, transaction := none }
  suspension := { suspended := emergency, emergency := emergency }
  recorder :=
    { settings := FaultSettings.powerOn
      logs := Table.replicate 3 SeverityLog.cleared
      counters := Table.replicate 2 ⟨0, false⟩
      alert := false }
  scrubber := { cursor := 0, degraded := false }
  management := []
  controller := { own := Config.ownAddress, noticeDest := Config.serverAddress, resetMode := .boundary }

/-- The part right after power-on reset with the EMERGENCY input inactive (log 5): every field at the value
the manual states, no command waiting. -/
def State.reset : State := State.powerOn false

end Sys2Proof.Machine
end

