-- ==== Sys2Proof/Machine/Operands.lean ====
section
/-!
DEFINITION. Operand forms: the comparison of run seconds (R56), the conversion of minutes (R58), clamping, the
fields of received payloads (R180), and the one-step readers of the state that the blocks share.
-/
namespace Sys2Proof.Machine

/-! ## Run seconds -/

/-- T is at or after U: the difference T − U modulo 2^32 is below 2^31 (R56). -/
def atOrAfter (t u : Time) : Bool := (t - u).toNat < 2147483648

/-- T is later than U: the difference is below 2^31 and not 0 (R56). -/
def laterThan (t u : Time) : Bool := atOrAfter t u && t != u

/-- A number of seconds as a run-second difference. -/
def secs (n : Nat) : Time := BitVec.ofNat 32 n

/-- A number of minutes in seconds (R58). -/
def mins (n : Nat) : Time := secs (n * 60)

/-- A value stored at the nearer end of its range (R76, R173). -/
def clamp (lo hi n : Nat) : Nat := max lo (min hi n)

/-! ## Received payloads -/

/-- A byte of a payload; a missing byte is 0 (R180). -/
def byteAt (p : List Byte) (i : Nat) : Nat := (p.getD i 0).toNat

/-- A two-byte field, most significant byte first (R99, R180). -/
def field16 (p : List Byte) (i : Nat) : Nat := byteAt p i * 256 + byteAt p (i + 1)

/-- A four-byte field, most significant byte first (R99, R180). -/
def field32 (p : List Byte) (i : Nat) : Nat := field16 p i * 65536 + field16 p (i + 2)

/-- A ticket field: a request shorter than its ticket has ticket 0 (R180). -/
def ticketField (p : List Byte) (i : Nat) : Ticket :=
  if p.length < i + 4 then 0 else BitVec.ofNat 32 (field32 p i)

/-- A bit of a received flag byte (11.1). -/
def bitAt (n k : Nat) : Bool := n / 2 ^ k % 2 == 1

/-! ## Readers of the state -/

/-- A bay. -/
def State.bay (s : State) (b : BayIx) : Bay := s.bays.get b

/-- The Class Table entry of a class. -/
def State.classOf (s : State) (c : BayClass) : ClassEntry := s.classes.get c.ix

/-- The Node Map entry of an address. -/
def State.node (s : State) (a : Addr) : NodeEntry := s.nodes.get (addrIx a)

/-- Every address with its entry, in ascending order. -/
def nodeList (t : Table NodeEntry 256) : List (Addr × NodeEntry) :=
  t.items.zipIdx.map (fun e => (BitVec.ofNat 8 e.2, e.1))

/-- The POST and SENSOR entries of the map. -/
def downNodes (t : Table NodeEntry 256) : List (Addr × NodeEntry) :=
  (nodeList t).filter (fun e => e.2.role.isDown)

/-- The node of a role whose bay association names the bay (R1). -/
def nodeOf (t : Table NodeEntry 256) (r : Role) (b : BayIx) : Option (Addr × NodeEntry) :=
  (downNodes t).find? (fun e => e.2.role == r && e.2.bay == some b)

/-- The bay's post node, or absent (R1). -/
def State.post (s : State) (b : BayIx) : Option (Addr × NodeEntry) := nodeOf s.nodes .post b

/-- The bay's sensor node, or absent (R1). -/
def State.sensor (s : State) (b : BayIx) : Option (Addr × NodeEntry) := nodeOf s.nodes .sensor b

/-- A node entry with a contact record whose contact state is REACHABLE (R115). -/
def NodeEntry.isReachable (e : NodeEntry) : Bool :=
  match e.contact with
  | some c => c.reachable
  | none => false

/-- A node entry with a contact record whose contact state is UNREACHABLE. -/
def NodeEntry.isUnreachable (e : NodeEntry) : Bool :=
  match e.contact with
  | some c => !c.reachable
  | none => false

/-- The bay's post node is present and REACHABLE. -/
def State.postReachable (s : State) (b : BayIx) : Bool :=
  match s.post b with
  | some (_, e) => e.isReachable
  | none => false

/-- The bay's post node is present and UNREACHABLE. -/
def State.postUnreachable (s : State) (b : BayIx) : Bool :=
  match s.post b with
  | some (_, e) => e.isUnreachable
  | none => false

/-- The fault causes a bay has now (R8), in the order of their codes. -/
def State.faultCauses (s : State) (b : BayIx) : List FaultCause :=
  (if (s.bay b).dyn.connector = .fault then [.connectorFault] else [])
    ++ (if s.postUnreachable b then [.postUnreachable] else [])
    ++ (if (s.bay b).dyn.suspect then [.suspect] else [])

/-- Plug evidence is in force: connector PLUGGED or CHARGING and the post REACHABLE (R12). -/
def State.plugEvidence (s : State) (b : BayIx) : Bool :=
  (s.bay b).dyn.connector.isPlug && s.postReachable b

/-- The budget B formed from F, Rv and C (R77). -/
def budgetOf (a : AllocatorSettings) : Nat :=
  match a.cap with
  | some c => min c (a.feeder - a.reserve)
  | none => a.feeder - a.reserve

/-- The Ticket Index entry of a ticket (R29). -/
def State.lookup (s : State) (t : Ticket) : Option IndexEntry := s.index.find? (fun e => e.ticket == t)

/-- The overstay time of a hold (Table 3-1): window end plus O × 60. -/
def State.overstayTime (s : State) (h : Hold) : Time := h.windowEnd + mins s.timing.overstay

/-- The displacement-check time of a hold (Table 3-1): window start less lead × 60. -/
def State.checkTime (s : State) (h : Hold) : Time := h.windowStart - mins s.timing.lead

/-- A run-second value reported as site time (R57). -/
def State.site (s : State) (t : Time) : Time := t + s.siteOffset

end Sys2Proof.Machine
end

