-- ==== Sys2Proof/Machine/Flags.lean ====
section
/-!
DEFINITION. The flag bytes of Chapter 11: permissions, Kind Filter flags, class flags, hold flags, bay status
flags and the fault-setting byte, each from bit 0 upward as its table lists them.
-/
namespace Sys2Proof.Machine

/-- The permission byte: HOLD, FREE-ANY, ARRIVE, MANAGE, EMERGENCY (Table 11-3). -/
def Permissions.byte (p : Permissions) : Byte := flagByte [p.hold, p.freeAny, p.arrive, p.manage, p.emergency]

/-- The permissions a received byte asks for; bits the layout does not name are ignored (R180). -/
def Permissions.ofNat (n : Nat) : Permissions :=
  ⟨bitAt n 0, bitAt n 1, bitAt n 2, bitAt n 3, bitAt n 4⟩

/-- The permissions stored for a role (R116). -/
def Permissions.stored (p : Permissions) : Role → Permissions
  | .server => p
  | .requester => { p with manage := false, emergency := false }
  | _ => Permissions.none

/-- The Kind Filter flag byte: copy-up, answer expected. -/
def KindEntry.flags (k : KindEntry) : Byte := flagByte [k.copyUp, k.answerExpected]

/-- The Class Table flag byte: walk-in permitted, verify arrival. -/
def ClassEntry.flags (c : ClassEntry) : Byte := flagByte [c.walkIn, c.verify]

/-- The flag byte of views 17 and 18: present, walk-in, entry seen, arrived, energy wanted present, last post
energy present. -/
def Hold.flags (h : Hold) : Byte :=
  flagByte [true, h.ticket.isNone, h.entrySeen, h.arrived, h.energyWanted.isSome, h.lastPostEnergy.isSome]

/-- The flag byte of the Bay Status view: allot enable, saved mask entry, suspect, CLOSING-AT-END, suspended,
degraded. The saved mask entry is shown while the part is suspended (R147; DEDUCED, log 15). -/
def State.bayFlags (s : State) (b : BayIx) : Byte :=
  flagByte [(s.bay b).allotEnable, s.suspension.suspended && (s.bay b).savedMask, (s.bay b).dyn.suspect,
    (s.bay b).dyn.closeMode == .closingAtEnd, s.suspension.suspended, s.scrubber.degraded]

/-- A fault-setting byte: severity in bits 0–1, log enable in bit 2 (Table 11-3). -/
def KindSetting.byte (k : KindSetting) : Byte := byteOf (k.severity.val + (if k.enabled then 4 else 0))

/-- The fault setting a received byte asks for: a severity above 2 is stored as 2 (R160). -/
def KindSetting.ofNat (n : Nat) : KindSetting :=
  ⟨bitAt n 2, if n % 4 = 0 then 0 else if n % 4 = 1 then 1 else 2⟩

end Sys2Proof.Machine
end

