-- ==== Sys2Proof/Machine/Recorder.lean ====
section
/-!
DEFINITION. The Fault Recorder (Chapter 9) and the uplink transmit FIFO (R104): building a notice, logging and
counting an error, and placing a frame. They stand together because a full FIFO logs NOTICE-DROP and a
logged error may build a FAULT-NOTICE.
-/
namespace Sys2Proof.Machine

/-- An error report (R159): its kind, and the bay and captured header where Table 9-1 gives them. -/
structure ErrorReport where
  kind : ErrorKind
  bay : Option BayIx := none
  header : Option Header := none
  deriving DecidableEq, Repr

/-! ## Frames the part builds for the uplink -/

/-- A notice (R106): own address as SRC, the next notice tag as TAG. A notice for the null address is not
built and takes no tag (R100). -/
def State.buildNotice (s : State) (dest : Addr) (kind : Byte) (payload : List Byte) :
    State × Option Frame :=
  if dest = Config.nullAddr then (s, none)
  else ({ s with noticeTag := s.noticeTag + 1 }, some ⟨dest, s.controller.own, kind, s.noticeTag, payload⟩)

/-- An answer (R106): DEST and TAG of the request. An answer to SRC 0x00 is not built (R100). -/
def State.buildAnswer (s : State) (dest : Addr) (tag kind : Byte) (payload : List Byte) : Option Frame :=
  if dest = Config.nullAddr then none else some ⟨dest, s.controller.own, kind, tag, payload⟩

/-- The FAULT-NOTICE payload (Table 11-2). -/
def faultNoticePayload (s : State) (sev : Fin 3) (e : LogEntry) : List Byte :=
  [byteOf sev.val, byteOf e.kind.code] ++ be32w (s.site e.second)
    ++ [(match e.bay with | some b => byteOf (bayNo b) | none => 0), flagByte [e.header.isSome]]
    ++ (match e.header with
        | some h => [h.dest, h.src, h.kind, h.tag, h.len]
        | none => [0, 0, 0, 0, 0])

/-! ## Counters, ALERT and logs -/

/-- A counter counts one error: below 255 it rises, at 255 its overflow flag is set (R165). -/
def Counter.bump (c : Counter) : Counter :=
  if c.count < 255 then { c with count := c.count + 1 } else { c with overflow := true }

/-- Counter `i` counts the error when its selection holds the kind (R165). -/
def Recorder.countIn (k : ErrorKind) (r : Recorder) (i : Fin 2) : Recorder :=
  if (r.settings.selections.get i).getLsbD k.ix.val then
    { r with counters := r.counters.modify i Counter.bump }
  else r

/-- Every error reported is counted by each counter that selects its kind (R165). -/
def Recorder.count (k : ErrorKind) (r : Recorder) : Recorder := (r.countIn k 0).countIn k 1

/-- Whether a severity drives ALERT: its action is NOTICE-AND-LINE and its pending flag is set (R163). -/
def Recorder.driven (r : Recorder) (sev : Fin 3) : Bool :=
  r.settings.actions.get sev == .noticeAndLine && (r.logs.get sev).pending

/-- The level ALERT is to have (R163). -/
def Recorder.alertLevel (r : Recorder) : Bool := r.driven 0 || r.driven 1 || r.driven 2

/-- ALERT is re-evaluated (R163). -/
def Recorder.evalAlert (r : Recorder) : Recorder := { r with alert := r.alertLevel }

/-- An error taken into the logs of its severity: the first log when it is unlocked, otherwise the next log
with the lost count rising to at most 15; the pending flag is set (R161). -/
def SeverityLog.take (l : SeverityLog) (e : LogEntry) : SeverityLog :=
  match l.first with
  | none => { l with first := some e, pending := true }
  | some _ => { l with next := some e, lost := min 15 (l.lost + 1), pending := true }

/-- The logs of one severity replaced, and ALERT re-evaluated (R163). -/
def Recorder.setLog (r : Recorder) (sev : Fin 3) (l : SeverityLog) : Recorder :=
  Recorder.evalAlert { r with logs := r.logs.set sev l }

/-- An error is taken by the recorder (R159, R161, R162, R165): counted; when its kind has log enable on,
logged; and when it fills a first log whose severity's action is not NONE, the FAULT-NOTICE is built. -/
def State.recordError (s : State) (e : ErrorReport) : State × Option Frame :=
  let r := s.recorder.count e.kind
  let setting := r.settings.kinds.get e.kind.ix
  if !setting.enabled then ({ s with recorder := r }, none)
  else
    let entry : LogEntry := ⟨e.kind, s.now, e.bay, e.header⟩
    let log := r.logs.get setting.severity
    let s' := { s with recorder := r.setLog setting.severity (log.take entry) }
    if log.first.isNone && r.settings.actions.get setting.severity != .none then
      s'.buildNotice s.controller.noticeDest Kind.faultNotice (faultNoticePayload s setting.severity entry)
    else (s', none)

/-! ## The uplink transmit FIFO -/

/-- A frame added at the tail of the FIFO. -/
def State.pushUplink (s : State) (f : Frame) : State :=
  { s with uplink := { s.uplink with fifo := s.uplink.fifo ++ [f] } }

/-- A frame is placed in the uplink transmit FIFO. When the FIFO holds 32 frames the frame is dropped and
NOTICE-DROP is logged with its header, but for a FAULT-NOTICE, whose drop is not logged (R104). The
FAULT-NOTICE of that NOTICE-DROP meets the same full FIFO: it has used its tag and is dropped (R162). A FAULT-NOTICE is
told by its KIND, so a frame of KIND 0x29 carried up from the downlink counts as one (DESIGN CHOICE, log 35). -/
def State.placeUplink (s : State) (f : Frame) : State :=
  if s.uplink.fifo.length < Config.uplinkFifo then s.pushUplink f
  else if f.kind = Kind.faultNotice then s
  else (s.recordError { kind := .noticeDrop, header := some f.header }).1

end Sys2Proof.Machine
end

