-- ==== Sys2Proof/Machine/Ops.lean ====
section
/-!
DEFINITION. One event of the part and its named operations: the state with what the event still owes (an answer,
bay notices, a waitlist scan, a recompute), placing frames, logging errors, changing one bay, the Ticket
Index, the deadlines and the contact records.
-/
namespace Sys2Proof.Machine

/-- What one event has met at one bay, for its one BAY-NOTICE (R25). -/
structure BayNote where
  bay : BayIx
  before : BayState
  causes : List BayCause
  endReason : Option EndReason
  fault : Option FaultCause
  deriving DecidableEq, Repr

/-- An event in progress: the state, and what the event still owes. -/
structure Ev where
  st : State
  /-- The event answers a request and the answer is not built yet: frames wait behind it (R28, R162, R172). -/
  buffering : Bool
  buffer : List Frame
  notes : List BayNote
  /-- A waitlist scan has been triggered (R39). -/
  scan : Bool
  /-- A recompute is owed (R85). -/
  recompute : Bool
  /-- A hold was made arrived, or was created as a walk-in, in this event (R72). -/
  captured : Bool
  deriving DecidableEq, Repr

/-- An event that answers no request. -/
def Ev.start (s : State) : Ev := ⟨s, false, [], [], false, false, false⟩

/-- An event that answers a request: frames wait until `Ev.answer`. -/
def Ev.startRequest (s : State) : Ev := ⟨s, true, [], [], false, false, false⟩

/-- A change of the state alone. -/
def Ev.onState (ev : Ev) (f : State → State) : Ev := { ev with st := f ev.st }

/-- A waitlist scan is triggered (R39). -/
def Ev.wantScan (ev : Ev) : Ev := { ev with scan := true }

/-- A recompute is triggered (R85). -/
def Ev.wantRecompute (ev : Ev) : Ev := { ev with recompute := true }

/-! ## Frames and errors -/

/-- A frame is placed in the uplink transmit FIFO, or waits behind the answer of the event. -/
def Ev.place (ev : Ev) (f : Frame) : Ev :=
  if ev.buffering then { ev with buffer := ev.buffer ++ [f] } else ev.onState (·.placeUplink f)

/-- A frame that may not have been built (R100). -/
def Ev.placeOpt (ev : Ev) : Option Frame → Ev
  | none => ev
  | some f => ev.place f

/-- The answer is placed, and behind it the frames that waited for it (R28, R162, R172). The frames that wait were built,
and have their notice tags, before the answer is placed, whether or not the FIFO has room for them. So the FAULT-NOTICE of
a NOTICE-DROP, of the answer or of the first frame behind it that finds the FIFO full, takes a tag behind those of all the
frames that wait (DESIGN CHOICE, log 37). -/
def Ev.answer (ev : Ev) (f : Option Frame) : Ev :=
  ev.buffer.foldl Ev.place
    (Ev.placeOpt { ev with buffering := false, buffer := [] } f)

/-- A notice is built and placed (R106). -/
def Ev.notice (ev : Ev) (dest : Addr) (kind : Byte) (payload : List Byte) : Ev :=
  let r := ev.st.buildNotice dest kind payload
  Ev.placeOpt { ev with st := r.1 } r.2

/-- An error is reported: logged and counted, its FAULT-NOTICE placed at this point (R159, R162). -/
def Ev.log (ev : Ev) (e : ErrorReport) : Ev :=
  let r := ev.st.recordError e
  Ev.placeOpt { ev with st := r.1 } r.2

/-! ## One bay -/

/-- One bay changed. -/
def State.modBay (s : State) (b : BayIx) (f : Bay → Bay) : State := { s with bays := s.bays.modify b f }

/-- The dynamic part of a bay record changed, its check word recomputed when any field changes (R3). -/
def Bay.modDyn (y : Bay) (f : BayDyn → BayDyn) : Bay :=
  let d := f y.dyn
  if d = y.dyn then y else { y with dyn := d, check := checkWord d }

/-- The stored check word agrees with the stored contents (R3). -/
def Bay.checkOk (y : Bay) : Bool := y.check == checkWord y.dyn

def State.modDyn (s : State) (b : BayIx) (f : BayDyn → BayDyn) : State := s.modBay b (·.modDyn f)

def State.modAlloc (s : State) (b : BayIx) (f : BayAlloc → BayAlloc) : State :=
  s.modBay b (fun y => { y with alloc := f y.alloc })

def State.modDelivery (s : State) (b : BayIx) (f : Delivery → Delivery) : State :=
  s.modBay b (fun y => { y with delivery := f y.delivery })

def State.modTimer (s : State) (b : BayIx) (f : BayTimer → BayTimer) : State :=
  s.modBay b (fun y => { y with timer := f y.timer })

def Ev.modDyn (ev : Ev) (b : BayIx) (f : BayDyn → BayDyn) : Ev := ev.onState (·.modDyn b f)
def Ev.modAlloc (ev : Ev) (b : BayIx) (f : BayAlloc → BayAlloc) : Ev := ev.onState (·.modAlloc b f)
def Ev.modDelivery (ev : Ev) (b : BayIx) (f : Delivery → Delivery) : Ev := ev.onState (·.modDelivery b f)
def Ev.modTimer (ev : Ev) (b : BayIx) (f : BayTimer → BayTimer) : Ev := ev.onState (·.modTimer b f)

/-- A bay of the event's state. -/
def Ev.bay (ev : Ev) (b : BayIx) : Bay := ev.st.bay b

/-! ## Bay notices (R25) -/

/-- The event touches a bay: its state before the event is kept for the notice. -/
def Ev.touch (ev : Ev) (b : BayIx) : Ev :=
  if ev.notes.any (·.bay == b) then ev
  else { ev with notes := ev.notes ++ [⟨b, (ev.bay b).dyn.state, [], none, none⟩] }

/-- The note of a bay changed. -/
def Ev.modNote (ev : Ev) (b : BayIx) (f : BayNote → BayNote) : Ev :=
  { ev with notes := ev.notes.map (fun n => if n.bay = b then f n else n) }

/-- The event meets a cause of Table 1-8 at a bay. -/
def Ev.note (ev : Ev) (b : BayIx) (c : BayCause) : Ev :=
  (ev.touch b).modNote b (fun n => { n with causes := n.causes ++ [c] })

/-- The active hold of a bay ends: the notice carries the reason of the first end of the event. -/
def Ev.noteEnd (ev : Ev) (b : BayIx) (r : EndReason) : Ev :=
  (ev.note b .holdEnded).modNote b (fun n => { n with endReason := n.endReason <|> some r })

/-- The bay enters FAULTED: the notice carries the fault cause. -/
def Ev.noteFault (ev : Ev) (b : BayIx) (c : FaultCause) : Ev :=
  (ev.touch b).modNote b (fun n => { n with fault := n.fault <|> some c })

/-- The cause a notice carries: the first met, in the order of R25. -/
def BayNote.cause (n : BayNote) : BayCause :=
  (BayCause.order.find? (fun c => n.causes.contains c)).getD .evidence

/-- Whether an event raises a notice for a bay: it changed the bay's state, ended its active hold, or raised
HOLDER-WAITING (R25). -/
def BayNote.raised (n : BayNote) (after : BayState) : Bool :=
  n.before != after || n.causes.contains .holdEnded || n.causes.contains .holderWaiting

/-- The BAY-NOTICE payload (Table 11-2). -/
def BayNote.payload (n : BayNote) (after : BayState) : List Byte :=
  [byteOf (bayNo n.bay), byteOf n.before.code, byteOf after.code, byteOf n.cause.code,
    byteOf (match n.endReason with | some r => r.code | none => 0),
    byteOf (match n.fault with | some c => c.code | none => 0)]

/-- The BAY-NOTICE of one bay, when the event raises one. -/
def Ev.raiseNote (ev : Ev) (n : BayNote) : Ev :=
  let after := (ev.bay n.bay).dyn.state
  if n.raised after then ev.notice ev.st.controller.noticeDest Kind.bayNotice (n.payload after) else ev

/-- The BAY-NOTICEs owed so far are raised, in the order in which the event touched the bays (log 12), behind the
FAULT-NOTICEs of the errors that the event has logged so far (DESIGN CHOICE, log 38). -/
def Ev.flushNotes (ev : Ev) : Ev := ev.notes.foldl Ev.raiseNote { ev with notes := [] }

/-! ## Hold notices (R24, Table 1-7) -/

/-- The content of a HOLD-NOTICE beyond its event and ticket; fields not used are 0 (11.1). -/
structure HoldNoticeBody where
  bay : Nat := 0
  slot : Nat := 0
  position : Nat := 0
  reason : Nat := 0
  arrival : Option Time := none
  windowStart : Nat := 0
  windowEnd : Nat := 0
  graceEnd : Nat := 0
  occupied : Nat := 0
  charged : Nat := 0
  energy : Nat := 0

/-- The HOLD-NOTICE payload (Table 11-2). -/
def holdNoticePayload (s : State) (e : HoldEvent) (t : Ticket) (c : HoldNoticeBody) : List Byte :=
  [byteOf e.code] ++ be32w t
    ++ [byteOf c.bay, byteOf c.slot, byteOf c.position, byteOf c.reason, flagByte [c.arrival.isSome]]
    ++ be32 c.windowStart ++ be32 c.windowEnd ++ be32 c.graceEnd
    ++ (match c.arrival with | some a => be32w (s.site a) | none => be32 0)
    ++ be32 c.occupied ++ be32 c.charged ++ be32 c.energy

/-- The summary of a hold (R24): end reason, window start and end, arrival time if present, and the three
counts. -/
def summary (s : State) (bay : Nat) (h : Hold) (r : EndReason) : HoldNoticeBody :=
  { bay := bay, reason := r.code, arrival := h.arrival,
    windowStart := (s.site h.windowStart).toNat, windowEnd := (s.site h.windowEnd).toNat,
    occupied := h.occupiedSeconds, charged := h.chargedSeconds, energy := h.energyDelivered }

/-- The summary of a staged hold or a waitlist entry: no arrival time and zero counters (R24, R40, R49). -/
def bareSummary (s : State) (bay : Nat) (h : Hold) (r : EndReason) : HoldNoticeBody :=
  { bay := bay, reason := r.code,
    windowStart := (s.site h.windowStart).toNat, windowEnd := (s.site h.windowEnd).toNat }

/-- A HOLD-NOTICE to a node. -/
def Ev.holdNoticeTo (ev : Ev) (dest : Addr) (t : Ticket) (e : HoldEvent) (c : HoldNoticeBody) : Ev :=
  ev.notice dest Kind.holdNotice (holdNoticePayload ev.st e t c)

/-- A HOLD-NOTICE for a hold, to its requester; a walk-in hold, which has no ticket, raises none (R22). Nor does a hold
stored with a ticket and no requester, or the reverse, which only a storage fault leaves (DESIGN CHOICE, log 36). -/
def Ev.holdNotice (ev : Ev) (h : Hold) (e : HoldEvent) (c : HoldNoticeBody) : Ev :=
  match h.ticket, h.requester with
  | some t, some r => ev.holdNoticeTo r t e c
  | _, _ => ev

/-! ## The Ticket Index (R29) -/

/-- A ticket's entry is removed. -/
def State.unindex (s : State) (t : Ticket) : State :=
  { s with index := s.index.filter (fun e => e.ticket != t) }

/-- A hold's ticket leaves the index; a walk-in hold has no entry. It leaves also where storage faults have put the ticket
in another hold or waitlist entry, which stays (DESIGN CHOICE, log 42). -/
def State.unindexHold (s : State) (h : Hold) : State :=
  match h.ticket with
  | some t => s.unindex t
  | none => s

/-- A ticket's location is rewritten, or an entry is added where there is none. The part gives every ticket its place of
288; storage faults that overwrite indexed holds leave their entries standing, and an entry that then has no place is
added all the same (DESIGN CHOICE, log 39). Where storage faults have put the ticket in two places, its entry names the
place it took last and keeps the requester it has (DESIGN CHOICE, log 42). -/
def State.setIndex (s : State) (t : Ticket) (r : Addr) (l : Location) : State :=
  if s.index.any (·.ticket == t) then
    { s with index := s.index.map (fun e => if e.ticket = t then { e with location := l } else e) }
  else { s with index := s.index ++ [⟨t, r, l⟩] }

/-- A hold's ticket stands at a location; a walk-in hold takes no entry. A hold stored with a ticket and no requester, or
the reverse, which only a storage fault leaves, changes no entry (DESIGN CHOICE, log 36). -/
def State.indexHold (s : State) (h : Hold) (l : Location) : State :=
  match h.ticket, h.requester with
  | some t, some r => s.setIndex t r l
  | _, _ => s

/-! ## Deadlines (R59 to R66) -/

/-- The no-show deadline of a hold in the active slot, at its grace end (R61). -/
def noShowOf (h : Hold) : Deadline := ⟨h.ticket, h.graceEnd⟩

/-- The overstay deadline of an arrived hold, at window end plus O × 60 (R62). -/
def State.overstayOf (s : State) (h : Hold) : Deadline := ⟨h.ticket, s.overstayTime h⟩

/-- The displacement check of a staged hold, at window start less lead × 60 (R63). -/
def State.checkOf (s : State) (h : Hold) : Deadline := ⟨h.ticket, s.checkTime h⟩

/-- The active hold's deadlines are withdrawn (R61, R62). -/
def BayTimer.clearActive (t : BayTimer) : BayTimer := { t with noShow := none, overstay := none }

/-- The deadline of an active hold: no-show before arrival, overstay after it (Table 3-2). -/
def BayTimer.setActive (t : BayTimer) (noShow overstay : Deadline) (arrived : Bool) : BayTimer :=
  if arrived then { t with noShow := none, overstay := some overstay }
  else { t with noShow := some noShow, overstay := none }

/-- The rotation deadline of a bay set to a value: a value at or before now is DUE at once and its expiry is
delivered (R66, R92). -/
def State.setRotation (s : State) (b : BayIx) (v : Time) : State :=
  if atOrAfter s.now v then
    { s.modTimer b (fun t => { t with rotation := .due v }) with expiries := s.expiries ++ [.rotation b] }
  else s.modTimer b (fun t => { t with rotation := .set v })

/-- The hold expiries of one bay that have fallen due (R59). -/
def Bay.dueExpiries (now : Time) (b : BayIx) (y : Bay) : List Expiry :=
  (match y.timer.noShow with
    | some d => if atOrAfter now d.due then [Expiry.noShow b d.owner d.due] else []
    | none => [])
  ++ (match y.timer.overstay with
    | some d => if atOrAfter now d.due then [Expiry.overstay b d.owner d.due] else []
    | none => [])
  ++ (match y.timer.displacement with
    | some d => if atOrAfter now d.due then [Expiry.displacement b d.owner d.due] else []
    | none => [])
  ++ (match y.timer.rotation with
    | .set v => if atOrAfter now v then [Expiry.rotation b] else []
    | _ => [])

/-- A deadline that has fallen due becomes CLEAR (R59). -/
def clearDue (now : Time) (d : Option Deadline) : Option Deadline :=
  d.filter (fun d => !atOrAfter now d.due)

/-- A SET rotation deadline that has fallen due becomes DUE (R66). -/
def Rotation.fallDue (now : Time) : Rotation → Rotation
  | .set v => if atOrAfter now v then .due v else .set v
  | r => r

/-- The bay's deadlines after delivery. -/
def Bay.deliver (now : Time) (y : Bay) : Bay :=
  { y with timer :=
    { noShow := clearDue now y.timer.noShow, overstay := clearDue now y.timer.overstay,
      displacement := clearDue now y.timer.displacement, rotation := y.timer.rotation.fallDue now } }

/-- Every SET deadline at or before now is delivered: it becomes CLEAR (a rotation deadline DUE) and its
expiry waits at its owner (R59, R66). The deadline of a waitlist entry without a ticket, which only a storage fault brings
about, becomes CLEAR and no expiry is delivered, as there is no identity to carry (R60; DESIGN CHOICE, log 36). -/
def State.deliverDue (s : State) : State :=
  { s with
    expiries := s.expiries
      ++ (allBays.flatMap (fun b => (s.bay b).dueExpiries s.now b))
      ++ s.waitlist.filterMap (fun e =>
          match e.hold.ticket, e.deadline with
          | some t, some v => if atOrAfter s.now v then some (Expiry.waitlist t v) else none
          | _, _ => none)
      ++ s.early.filterMap (fun e =>
          match e.deadline with
          | some v => if atOrAfter s.now v then some (Expiry.early e.ticket v) else none
          | none => none)
    bays := s.bays.map (Bay.deliver s.now)
    waitlist := s.waitlist.map (fun e => { e with deadline := e.deadline.filter (fun v => !atOrAfter s.now v) })
    early := s.early.map (fun e => { e with deadline := e.deadline.filter (fun v => !atOrAfter s.now v) }) }

/-! ## Contact records (R115, R141) -/

/-- The contact record of an address changed, where there is one. -/
def State.modContact (s : State) (a : Addr) (f : Contact → Contact) : State :=
  { s with nodes := s.nodes.modify (addrIx a) (fun e => { e with contact := e.contact.map f }) }

end Sys2Proof.Machine
end

