-- ==== Sys2Proof/Machine/Queue.lean ====
section
/-!
DEFINITION. Eligibility and the Charge Queue (Chapter 4, R78 to R82): joining and leaving the queue as the other
blocks report CHARGING membership, allot enable, suspect flag, suspension and writes of M.
-/
namespace Sys2Proof.Machine

/-- A bay is eligible, by the allocator's copies (R78). -/
def State.eligible (s : State) (b : BayIx) : Bool :=
  let y := s.bay b
  y.alloc.chargingCopy && y.alloc.enableCopy && !y.alloc.suspectCopy && !s.allocator.suspendedCopy
    && s.allocator.settings.minimum ≤ y.postMax

/-- The bay stands in the Charge Queue. -/
def State.inQueue (s : State) (b : BayIx) : Bool := s.allocator.queue.any (·.bay == b)

/-- Entry `e` stands ahead of a later join with priority `p` and stamp `t`: higher priority, or equal
priority and a stamp not later than `t` (R80). -/
def ChargeEntry.ahead (e : ChargeEntry) (p : Fin 4) (t : Time) : Bool :=
  p < e.priority || (e.priority == p && !laterThan e.stamp t)

/-- A joining entry takes its place in the queue, behind every entry that stands ahead of it (R80). -/
def insertEntry (x : ChargeEntry) : List ChargeEntry → List ChargeEntry
  | [] => [x]
  | e :: q => if e.ahead x.priority x.stamp then e :: insertEntry x q else x :: e :: q

/-- The priority a bay joins with: that of its active hold (R80), and 0 where a storage fault has emptied the active slot
of a bay that is reported CHARGING (DESIGN CHOICE, log 40). -/
def Bay.holdPriority (y : Bay) : Fin 4 :=
  match y.dyn.active with
  | some h => h.priority
  | none => 0

/-- The Charge Queue replaced. -/
def State.setQueue (s : State) (q : List ChargeEntry) : State :=
  { s with allocator := { s.allocator with queue := q } }

/-- A bay joins the queue: join stamp now, ceiling its post maximum, under-draw count 0 (R81). -/
def Ev.join (ev : Ev) (b : BayIx) : Ev :=
  let s := ev.st
  let x : ChargeEntry := ⟨b, (s.bay b).holdPriority, s.now⟩
  (({ ev with st := s.setQueue (insertEntry x s.allocator.queue) }).modAlloc b
    (fun a => { a with ceiling := (s.bay b).postMax, underDraw := 0 })).wantRecompute

/-- The rotation deadline of a bay is withdrawn (R66). -/
def State.clearRotation (s : State) (b : BayIx) : State := s.modTimer b (fun t => { t with rotation := .clear })

/-- A bay leaves the queue: target 0, ceiling its post maximum, under-draw count 0, admitted-since absent,
rotation deadline withdrawn (R81). -/
def Ev.leave (ev : Ev) (b : BayIx) : Ev :=
  let s := ev.st
  ((({ ev with st := s.setQueue (s.allocator.queue.filter (·.bay != b)) }).modAlloc b
    (fun a => { a with target := 0, ceiling := (s.bay b).postMax, underDraw := 0, admittedSince := none })).onState
      (·.clearRotation b)).wantRecompute

/-- The queue is brought to hold the bay exactly when it is eligible (R78, R81). -/
def Ev.syncQueue (ev : Ev) (b : BayIx) : Ev :=
  if ev.st.eligible b then (if ev.st.inQueue b then ev else ev.join b)
  else if ev.st.inQueue b then ev.leave b else ev

/-- Every bay is brought into line, in ascending bay number (R81). -/
def Ev.syncAll (ev : Ev) : Ev := allBays.foldl Ev.syncQueue ev

/-- The engine reports the bay's CHARGING membership (R6). An entry with the post maximum below M logs
CONFIG-MISMATCH (R79). A report that changes nothing is none. -/
def Ev.reportCharging (ev : Ev) (b : BayIx) (v : Bool) : Ev :=
  if (ev.bay b).alloc.chargingCopy = v then ev
  else
    let ev := ev.modAlloc b (fun a => { a with chargingCopy := v })
    let ev := if v && (ev.bay b).postMax < ev.st.allocator.settings.minimum then
      ev.log { kind := .configMismatch, bay := some b } else ev
    ev.syncQueue b

/-- The engine reports the bay's suspect flag to the allocator and the scheduler (R166, R169). -/
def Ev.reportSuspect (ev : Ev) (b : BayIx) (v : Bool) : Ev :=
  (ev.modAlloc b (fun a => { a with suspectCopy := v })).syncQueue b

/-- The Suspension and Override Logic stores a bay's allot enable and reports a change (R148). -/
def Ev.setEnable (ev : Ev) (b : BayIx) (v : Bool) : Ev :=
  if ev.st.suspension.suspended then ev.onState (·.modBay b (fun y => { y with savedMask := v }))
  else if (ev.bay b).allotEnable = v then ev
  else
    ((ev.onState (·.modBay b (fun y => { y with allotEnable := v }))).modAlloc b
      (fun a => { a with enableCopy := v })).syncQueue b

end Sys2Proof.Machine
end

