-- ==== Sys2Proof/Machine/Engine.lean ====
section
/-!
DEFINITION. The Reservation Engine (Chapters 1 and 2): bay states and derivation, fault causes, the end of a hold,
placement search, relocation, the Waitlist and its scan, and occupancy and connector evidence.
-/
namespace Sys2Proof.Machine

/-! ## Bay state -/

/-- The bay state is set, and each entry into and exit from CHARGING reported (R6). -/
def Ev.setState (ev : Ev) (b : BayIx) (st : BayState) : Ev :=
  ((ev.touch b).modDyn b (fun d => { d with state := st })).reportCharging b (st == .charging)

/-- A fault cause has come to a bay that is not CLOSED and not FAULTED: it becomes FAULTED (R8). -/
def Ev.gainFault (ev : Ev) (b : BayIx) (c : FaultCause) : Ev :=
  let st := (ev.bay b).dyn.state
  if st = .closed ∨ st = .faulted then ev
  else ((ev.noteFault b c).setState b .faulted).note b .faulted

/-- A record fails its check-word comparison (R166). -/
def Ev.makeSuspect (ev : Ev) (b : BayIx) : Ev :=
  ((((ev.log { kind := .recordCheck, bay := some b }).touch b).modDyn b
    (fun d => { d with suspect := true })).gainFault b .suspect).reportSuspect b true
    |>.onState (fun s => { s with scrubber := { s.scrubber with degraded := true } })

/-- A record whose suspect flag is clear is compared with its check word (R3, R166). -/
def Ev.compareRecord (ev : Ev) (b : BayIx) : Ev :=
  if (ev.bay b).dyn.suspect || (ev.bay b).checkOk then ev else ev.makeSuspect b

/-- The bay is out of service: CLOSED, close mode NONE (R9, R22, R153). -/
def Ev.closeBay (ev : Ev) (b : BayIx) : Ev :=
  (ev.setState b .closed).modDyn b (fun d => { d with closeMode := .none })

/-! ## Arrival capture and the end of a hold -/

/-- Arrival capture: arrival time now, no-show withdrawn, overstay set (R18, R61, R62). -/
def Ev.capture (ev : Ev) (b : BayIx) (h : Hold) : Ev :=
  let s := ev.st
  let h' := { h with arrival := some s.now }
  { ((ev.modDyn b (fun d => { d with active := some h' })).modTimer b
      (fun t => t.setActive (noShowOf h') (s.overstayOf h') true)) with captured := true }

/-- How a hold leaves its slot: it ends with a reason, it has been given a new slot (R41), it has joined the
Waitlist at a position (R42), or it is lost to a full Waitlist (R38). -/
inductive Leave where
  | ended (r : EndReason)
  | relocated (bay : BayIx) (slot : Slot)
  | displaced (position : Nat)
  | lost
  deriving DecidableEq, Repr

/-- The end reason the BAY-NOTICE carries (Table 1-6, R42). -/
def Leave.reason : Leave → EndReason
  | .ended r => r
  | .relocated _ _ => .relocated
  | .displaced _ => .relocated
  | .lost => .lost

/-- The HOLD-NOTICE event of an end reason (Table 1-7). -/
def endEvent : EndReason → HoldEvent
  | .expired => .expired
  | .relocated => .relocated
  | .lost => .lost
  | _ => .ended

/-- The HOLD-NOTICE of a hold that leaves its slot (R24); `sum` is its summary. -/
def Ev.leaveNotice (ev : Ev) (b : BayIx) (h : Hold) (l : Leave) (sum : EndReason → HoldNoticeBody) : Ev :=
  match l with
  | .ended r => ev.holdNotice h (endEvent r) (sum r)
  | .relocated b' sl => ev.holdNotice h .relocated { bay := bayNo b', slot := sl.code }
  | .displaced p => ev.holdNotice h .displaced { bay := bayNo b, position := p }
  | .lost => ev.holdNotice h .lost { bay := bayNo b }

/-- A hold that ends takes its Ticket Index entry with it; one that moves keeps it, and the entry of a lost
one has been removed by R38. -/
def Ev.leaveIndex (ev : Ev) (h : Hold) (l : Leave) : Ev :=
  match l with
  | .ended _ => ev.onState (·.unindexHold h)
  | _ => ev

/-- The staged hold, if there is one, is promoted into the emptied active slot (R22 step 3, R61). -/
def Ev.promote (ev : Ev) (b : BayIx) : Ev :=
  match (ev.bay b).dyn.staged with
  | none => ev.modDyn b (fun d => { d with active := none })
  | some h =>
    let s := ev.st
    ((ev.modDyn b (fun d => { d with active := some h, staged := none })).onState
        (·.indexHold h (.active b))).modTimer b
      (fun t => { t.setActive (noShowOf h) (s.overstayOf h) h.arrived with displacement := none })

/-- Steps 4 and 6 of R22: the state of a bay whose active hold has ended, and the scan. `derive` is the derivation of
R7. `nested` tells that a derivation itself has ended the hold: the bay is in service then, whatever state is still
stored. A bay stored CLOSED with an active hold, which only a storage fault leaves, stays CLOSED, as R7 derives no CLOSED
bay, and the scan is triggered, as the bay did not become CLOSED (DEDUCED, log 28). A bay stored neither CLOSED nor
FAULTED is derived and scanned whatever fault causes it has: a cause beside such a state is left by a storage fault alone
(DESIGN CHOICE, log 36). Where the derivation ends the promoted hold in its turn and the bay becomes CLOSED by that, step
6 triggers no scan. -/
def Ev.settleEnd (derive : BayIx → Ev → Ev) (nested : Bool) (ev : Ev) (b : BayIx) : Ev :=
  let d := (ev.bay b).dyn
  if !nested ∧ d.state = .faulted then ev
  else if d.closeMode = .closingAtEnd ∧ d.active = none then ev.closeBay b
  else if !nested ∧ d.state = .closed then ev.wantScan
  else
    let ev := derive b ev
    if (ev.bay b).dyn.state = .closed then ev else ev.wantScan

/-- The active hold of a bay ends (R22); `derive` and `nested` as in `Ev.settleEnd`. -/
def Ev.endActiveWith (derive : BayIx → Ev → Ev) (nested : Bool) (ev : Ev) (b : BayIx) (l : Leave) : Ev :=
  match (ev.bay b).dyn.active with
  | none => ev
  | some h =>
    let ev := (ev.touch b).modTimer b BayTimer.clearActive
    let ev := ev.reportCharging b false
    let ev := (ev.leaveIndex h l).leaveNotice b h l (summary ev.st (bayNo b) h)
    ((ev.promote b).noteEnd b l.reason).settleEnd derive nested b

/-- Derivation of an arrived hold (R7 step 3), with `onVacant` for the DEPARTED end. -/
def Ev.deriveArrivedWith (onVacant : Ev → Ev) (ev : Ev) (b : BayIx) (h : Hold) : Ev :=
  let d := (ev.bay b).dyn
  if d.occupancy = .vacant then onVacant ev
  else if atOrAfter ev.st.now (ev.st.overstayTime h) then ev.setState b .overstay
  else if d.connector = .finished ∨ (h.energyWanted.any (· ≤ h.energyDelivered)) = true then
    ev.setState b .done
  else if d.connector.isPlug then ev.setState b .charging
  else ev.setState b .arrived

/-- Derivation (R7) of a bay that is not CLOSED and has no fault cause. The fuel counts the DEPARTED ends the
derivation may itself make: each empties a slot, so a bay of two slots needs 3. -/
def deriveFuel : Nat → BayIx → Ev → Ev
  | 0, _, ev => ev
  | n + 1, b, ev =>
    let onVacant := fun ev => Ev.endActiveWith (deriveFuel n) true ev b (.ended .departed)
    let y := ev.bay b
    match y.dyn.active with
    | none => ev.setState b (if y.dyn.occupancy = .occupied then .unbooked else .free)
    | some h =>
      if h.arrived then ev.deriveArrivedWith onVacant b h
      else if y.dyn.occupancy = .occupied then
        if (ev.st.classOf y.cls).verify && !h.entrySeen then ev.setState b .contested
        else
          let ev := ev.capture b h
          ev.deriveArrivedWith onVacant b { h with arrival := some ev.st.now }
      else ev.setState b .held

/-- Derivation (R7). -/
def Ev.derive (ev : Ev) (b : BayIx) : Ev := deriveFuel 3 b ev

/-- The active hold of a bay ends (R22). -/
def Ev.endActive (ev : Ev) (b : BayIx) (l : Leave) : Ev :=
  Ev.endActiveWith (fun b ev => ev.derive b) false ev b l

/-- Step 3 of the derivation for the bay's active hold, when it is arrived (R16, R48, R74). -/
def Ev.rederive (ev : Ev) (b : BayIx) : Ev :=
  match (ev.bay b).dyn.active with
  | some h =>
    if h.arrived then ev.deriveArrivedWith (fun ev => ev.endActive b (.ended .departed)) b h else ev
  | none => ev

/-- A staged hold leaves its slot without promotion (R23). -/
def Ev.endStaged (ev : Ev) (b : BayIx) (l : Leave) : Ev :=
  match (ev.bay b).dyn.staged with
  | none => ev
  | some h =>
    let ev := (ev.modDyn b (fun d => { d with staged := none })).modTimer b
      (fun t => { t with displacement := none })
    let ev := (ev.leaveIndex h l).leaveNotice b h l (bareSummary ev.st (bayNo b) h)
    if l.reason = .lost then ev else ev.wantScan

/-! ## Fault recovery (R9) -/

/-- The last fault cause of a FAULTED bay has ended: the bay re-enters service. A bay that is not FAULTED, or
still has a cause, is left alone. -/
def Ev.recover (ev : Ev) (b : BayIx) : Ev :=
  let y := ev.bay b
  if y.dyn.state = .faulted ∧ ev.st.faultCauses b = [] then
    let ev := ev.note b .faultCleared
    (if y.dyn.closeMode = .closingAtEnd ∧ y.dyn.active = none then ev.closeBay b
      else ev.derive b).wantScan
  else ev

/-! ## Placement (R32 to R35) -/

/-- The substitution list of a class, empty places skipped (R174). -/
def State.substitutes (s : State) (c : BayClass) : List BayClass :=
  (s.classOf c).substitution.items.filterMap id

/-- The search list of a class: the class, then its substitution list, repeats skipped (R32). -/
def State.searchList (s : State) (c : BayClass) : List BayClass :=
  (s.substitutes c).foldl (fun l x => if l.contains x then l else l ++ [x]) [c]

/-- Whether the search may read the bay: neither CLOSED nor FAULTED, close mode NONE, not suspect (R33). -/
def Bay.searchable (y : Bay) : Bool :=
  y.dyn.state != .closed && y.dyn.state != .faulted && y.dyn.closeMode == .none && !y.dyn.suspect

/-- The slot in which a bay fits a hold that starts at `ws`: active when FREE, staged behind an active hold
(R33). A bay stored FREE fits whatever its slots hold (DESIGN CHOICE, log 36). -/
def State.fit (s : State) (b : BayIx) (ws : Time) : Option Slot :=
  let d := (s.bay b).dyn
  if d.state = .free then some .active
  else
    match d.active, d.staged with
    | some a, none =>
      if atOrAfter ws (a.windowEnd + mins s.timing.turnover)
          && laterThan (ws - mins s.timing.lead) s.now && !s.scrubber.degraded then some .staged
      else none
    | _, _ => none

/-- One bay examined by a search: its record is compared, and a bay that fails does not fit (R33). -/
def Ev.examine (ev : Ev) (b : BayIx) (ws : Time) : Ev × Option Slot :=
  if (ev.bay b).searchable then
    let ev := ev.compareRecord b
    if (ev.bay b).dyn.suspect then (ev, none) else (ev, ev.st.fit b ws)
  else (ev, none)

/-- The first bay of a list that fits. -/
def Ev.examineAll (ev : Ev) (ws : Time) : List BayIx → Ev × Option (BayIx × Slot)
  | [] => (ev, none)
  | b :: bs =>
    match ev.examine b ws with
    | (ev, some sl) => (ev, some (b, sl))
    | (ev, none) => ev.examineAll ws bs

/-- The bays of a class in ascending order from its placement cursor, wrapping after bay 128 (R34). -/
def State.classOrder (s : State) (c : BayClass) : List BayIx :=
  let cur := s.cursors.get c.ix
  ((allBays.filter (fun b => cur ≤ b)) ++ (allBays.filter (fun b => b < cur))).filter
    (fun b => (s.bay b).cls == c)

/-- The bay after a bay, 128 followed by 1. -/
def nextBay (b : BayIx) : BayIx := b + 1

/-- The classes of the search list tried in order; the cursor of the class that gives the bay passes on to
the bay after it (R34 step 2). -/
def Ev.searchClasses (ev : Ev) (excluded : Option BayIx) (ws : Time) :
    List BayClass → Ev × Option (BayIx × Slot)
  | [] => (ev, none)
  | c :: cs =>
    let r := ev.examineAll ws ((ev.st.classOrder c).filter (fun b => some b != excluded))
    match r.2 with
    | some (b, sl) =>
      (r.1.onState (fun s => { s with cursors := s.cursors.set c.ix (nextBay b) }), some (b, sl))
    | none => r.1.searchClasses excluded ws cs

/-- The placement search for a hold that starts at `ws` (R34): the preferred bay when its class is acceptable
and it fits, otherwise the classes of the search list. -/
def Ev.search (ev : Ev) (c : BayClass) (preferred excluded : Option BayIx) (ws : Time) :
    Ev × Option (BayIx × Slot) :=
  let classes := ev.st.searchList c
  match preferred with
  | some b =>
    if classes.contains (ev.bay b).cls then
      let r := ev.examine b ws
      match r.2 with
      | some sl => (r.1, some (b, sl))
      | none => r.1.searchClasses excluded ws classes
    else ev.searchClasses excluded ws classes
  | none => ev.searchClasses excluded ws classes

/-- A hold takes a slot: the record, the Ticket Index and the slot's deadline; a FREE bay becomes HELD (R5,
R29, R61, R63). -/
def Ev.placeHold (ev : Ev) (b : BayIx) (sl : Slot) (h : Hold) : Ev :=
  match sl with
  | .active =>
    let s := ev.st
    let ev := ((ev.touch b).modDyn b (fun d => { d with active := some h })).onState (·.indexHold h (.active b))
    let ev := ev.modTimer b (fun t => t.setActive (noShowOf h) (s.overstayOf h) h.arrived)
    if (ev.bay b).dyn.state = .free then (ev.setState b .held).note b .placed else ev
  | .staged =>
    let s := ev.st
    ((ev.modDyn b (fun d => { d with staged := some h })).onState (·.indexHold h (.staged b))).modTimer b
      (fun t => { t with displacement := some (s.checkOf h) })

/-! ## The Waitlist (R36 to R40) -/

/-- An entry joins at the tail of its priority group (R37). -/
def insertTail (x : WaitEntry) : List WaitEntry → List WaitEntry
  | [] => [x]
  | e :: l => if x.hold.priority ≤ e.hold.priority then e :: insertTail x l else x :: e :: l

/-- An entry joins at the head of its priority group (R38). -/
def insertHead (x : WaitEntry) : List WaitEntry → List WaitEntry
  | [] => [x]
  | e :: l => if x.hold.priority < e.hold.priority then e :: insertHead x l else x :: e :: l

def State.setWaitlist (s : State) (l : List WaitEntry) : State := { s with waitlist := l }

/-- The position of a ticket on the Waitlist, counted from 1; 0 where it does not stand there (R36).
Of two entries with the ticket, which only storage faults bring about, the first counts (DESIGN CHOICE, log 42). -/
def waitPosition (l : List WaitEntry) (t : Option Ticket) : Nat :=
  match l.findIdx? (fun e => e.hold.ticket == t) with
  | some i => i + 1
  | none => 0

/-- The last entry of the Waitlist is evicted: removed with its index entry, HOLD-NOTICE EVICTED (R37). -/
def Ev.evictLast (ev : Ev) : Ev :=
  match ev.st.waitlist.getLast? with
  | none => ev
  | some e =>
    ((ev.onState (fun s => s.setWaitlist s.waitlist.dropLast)).onState (·.unindexHold e.hold)).holdNotice
      e.hold .evicted {}

/-- Whether a HOLD of a priority may join the Waitlist (R37). -/
def State.admitsTail (s : State) (p : Fin 4) : Bool :=
  s.waitlist.length < Config.waitlist
    || (match s.waitlist.getLast? with | some e => e.hold.priority < p | none => false)

/-- Whether a displaced hold of a priority may join the Waitlist (R38). -/
def State.admitsHead (s : State) (p : Fin 4) : Bool :=
  s.waitlist.length < Config.waitlist
    || (match s.waitlist.getLast? with | some e => e.hold.priority ≤ p | none => false)

/-- Room is made in a full Waitlist. -/
def Ev.makeRoom (ev : Ev) : Ev :=
  if ev.st.waitlist.length < Config.waitlist then ev else ev.evictLast

/-- An entry joins the Waitlist by one of the two insertions: room is made, its index location becomes WAITLIST
and its deadline is set at its grace end (R37, R38, R64). -/
def Ev.joinWaitlist (ev : Ev) (insert : WaitEntry → List WaitEntry → List WaitEntry) (h : Hold)
    (c : BayClass) (preferred : Option BayIx) : Ev :=
  (ev.makeRoom.onState (fun s => s.setWaitlist (insert ⟨h, c, preferred, some h.graceEnd⟩ s.waitlist))).onState
    (·.indexHold h .waitlist)

/-- A hold is displaced to the Waitlist, or is lost to a full one, its index entry removed (R38). Answers how
the hold is to leave its slot. -/
def Ev.displace (ev : Ev) (h : Hold) (c : BayClass) : Ev × Leave :=
  if ev.st.admitsHead h.priority then
    let ev := ev.joinWaitlist insertHead h c none
    (ev, .displaced (waitPosition ev.st.waitlist h.ticket))
  else (ev.onState (·.unindexHold h), .lost)

/-- The stored window of a hold as site time, in a HOLD-NOTICE GRANTED (R39). -/
def grantedBody (s : State) (b : BayIx) (sl : Slot) (h : Hold) : HoldNoticeBody :=
  { bay := bayNo b, slot := sl.code, windowStart := (s.site h.windowStart).toNat,
    windowEnd := (s.site h.windowEnd).toNat, graceEnd := (s.site h.graceEnd).toNat }

/-- One entry of a waitlist scan (R39). -/
def Ev.scanEntry (ev : Ev) (e : WaitEntry) : Ev :=
  let r := ev.search e.classWanted e.preferred none e.hold.windowStart
  let ev := r.1.flushNotes
  match r.2 with
  | none => ev
  | some (b, sl) =>
    let ev := ev.onState (fun s => s.setWaitlist (s.waitlist.erase e))
    let ev := ev.placeHold b sl e.hold
    (ev.holdNotice e.hold .granted (grantedBody ev.st b sl e.hold)).flushNotes

/-- The waitlist scan the event has triggered: the Waitlist walked once from head to tail (R39). -/
def Ev.runScan (ev : Ev) : Ev :=
  if ev.scan then ev.st.waitlist.foldl Ev.scanEntry { ev with scan := false } else ev

/-! ## Relocation (R41 to R45) -/

/-- The slot of a bay. -/
def BayDyn.slot (d : BayDyn) : Slot → Option Hold
  | .active => d.active
  | .staged => d.staged

/-- A hold leaves the slot it stands in (R22, R23). -/
def Ev.leaveSlot (ev : Ev) (b : BayIx) (sl : Slot) (l : Leave) : Ev :=
  match sl with
  | .active => ev.endActive b l
  | .staged => ev.endStaged b l

/-- The search of a relocation: the class of the present bay, no preferred bay, the present bay excluded
(R41). -/
def Ev.relocationSearch (ev : Ev) (b : BayIx) (h : Hold) : Ev × Option (BayIx × Slot) :=
  ev.search (ev.bay b).cls none (some b) h.windowStart

/-- The success of a relocation: the hold leaves its slot and takes the one found (R41). -/
def Ev.relocateTo (ev : Ev) (b : BayIx) (sl : Slot) (h : Hold) (b' : BayIx) (sl' : Slot) : Ev :=
  ((ev.touch b).leaveSlot b sl (.relocated b' sl')).placeHold b' sl' h

/-- Relocation of a hold, with displacement to the Waitlist on failure (R41, R42). -/
def Ev.relocateOrDisplace (ev : Ev) (b : BayIx) (sl : Slot) : Ev :=
  match (ev.bay b).dyn.slot sl with
  | none => ev
  | some h =>
    let r := ev.relocationSearch b h
    match r.2 with
    | some (b', sl') => r.1.relocateTo b sl h b' sl'
    | none =>
      let q := r.1.displace h (r.1.bay b).cls
      q.1.leaveSlot b sl q.2

/-! ## Occupancy (R10 to R14) -/

/-- The response of a bay to a change of its accepted occupancy (Table 1-5). A record whose stored state and slots
contradict Table 1-4, which only a storage fault leaves, is taken by its stored state (DESIGN CHOICE, log 36): HELD with
an arrived hold is captured anew, HELD without a hold records the occupancy alone. -/
def Ev.occupancyResponse (ev : Ev) (b : BayIx) : Ev :=
  let y := ev.bay b
  match y.dyn.occupancy, y.dyn.state with
  | .occupied, .free => (ev.setState b .unbooked).note b .evidence
  | .occupied, .held =>
    match y.dyn.active with
    | some h =>
      if (ev.st.classOf y.cls).verify && !h.entrySeen then (ev.setState b .contested).note b .evidence
      else ((ev.touch b).capture b h).rederive b |>.note b .evidence
    | none => ev
  | .vacant, .unbooked | .unknown, .unbooked => (ev.setState b .free).note b .evidence
  | .vacant, .contested | .unknown, .contested => (ev.setState b .held).note b .evidence
  | .vacant, .arrived | .vacant, .charging | .vacant, .done | .vacant, .overstay =>
    ev.endActive b (.ended .departed) |>.note b .evidence
  | _, _ => ev

/-- The accepted occupancy is set; a change acts by Table 1-5 (R14). -/
def Ev.setOccupancy (ev : Ev) (b : BayIx) (o : Occupancy) : Ev :=
  if (ev.bay b).dyn.occupancy = o then ev
  else ((ev.touch b).modDyn b (fun d => { d with occupancy := o })).occupancyResponse b

/-- The debounce run is ended: candidate absent, count 0. -/
def BayDyn.endRun (d : BayDyn) : BayDyn := { d with candidate := none, debounce := 0 }

/-- One more report of S against the accepted occupancy (R10). -/
def BayDyn.advance (d : BayDyn) (s : Sensed) : BayDyn :=
  if d.candidate = some s then { d with debounce := min 7 (d.debounce + 1) }
  else { d with candidate := some s, debounce := 1 }

/-- An OCCUPANCY report of health GOOD and state S from the bay's sensor (R10, R12). -/
def Ev.sensorReport (ev : Ev) (b : BayIx) (s : Sensed) : Ev :=
  let d := (ev.bay b).dyn
  let limit := ev.st.timing.debounce
  if ev.st.plugEvidence b then
    match s with
    | .occupied => ev.modDyn b BayDyn.endRun
    | .vacant =>
      let d' := d.advance .vacant
      let ev := ev.modDyn b (·.advance .vacant)
      let before := if d.candidate = some .vacant then d.debounce else 0
      if before < limit ∧ limit ≤ d'.debounce then ev.log { kind := .sensorDisagree, bay := some b } else ev
  else if d.occupancy = .unknown then (ev.modDyn b BayDyn.endRun).setOccupancy b s.occupancy
  else if d.occupancy = s.occupancy then ev.modDyn b BayDyn.endRun
  else
    let d' := d.advance s
    if limit ≤ d'.debounce then (ev.modDyn b BayDyn.endRun).setOccupancy b s.occupancy
    else ev.modDyn b (·.advance s)

/-- The bay's sensor node becomes UNREACHABLE (R11). -/
def Ev.sensorLost (ev : Ev) (b : BayIx) : Ev :=
  let ev := ev.modDyn b BayDyn.endRun
  if ev.st.plugEvidence b then ev else ev.setOccupancy b .unknown

/-- Plug evidence has ended at a bay with a sensor node (R12). -/
def Ev.plugEnds (ev : Ev) (b : BayIx) (sensor : NodeEntry) : Ev :=
  let d := (ev.bay b).dyn
  if sensor.isReachable then
    if d.candidate = some .vacant ∧ ev.st.timing.debounce ≤ d.debounce then
      (ev.modDyn b BayDyn.endRun).setOccupancy b .vacant
    else ev
  else ev.setOccupancy b .unknown

/-- The occupancy effect of a report at a bay, `before` telling whether plug evidence was in force before the
event (R12, R13). Without a sensor node the POST-STATUS governs: the debounce fields that a removed sensor may have
left (R118) are absent and 0 from it on (R13; DEDUCED, log 24). A report under plug evidence gives OCCUPIED, also where
the post that makes it was entered while the bay kept an older connector and occupancy (R118; DEDUCED, log 24). -/
def Ev.reportOccupancy (ev : Ev) (b : BayIx) (before : Bool) : Ev :=
  match ev.st.sensor b with
  | none =>
    let ev := ev.modDyn b BayDyn.endRun
    match (ev.bay b).dyn.connector with
    | .idle => ev.setOccupancy b .vacant
    | .plugged | .charging | .finished => ev.setOccupancy b .occupied
    | _ => ev
  | some (_, e) =>
    if ev.st.plugEvidence b then ev.setOccupancy b .occupied
    else if before then ev.plugEnds b e else ev

/-- The bay's post node has become UNREACHABLE, `before` telling whether plug evidence was in force (R12,
R13). -/
def Ev.postLost (ev : Ev) (b : BayIx) (before : Bool) : Ev :=
  match ev.st.sensor b with
  | none => ev.setOccupancy b .unknown
  | some (_, e) => if before then ev.plugEnds b e else ev

/-! ## Connector evidence (R15 to R17) -/

/-- The walk-in hold of a plug-in at a bay (R17, Table 1-3). -/
def State.walkInHold (s : State) (b : BayIx) : Hold :=
  let c := s.classOf (s.bay b).cls
  { ticket := none, requester := none, priority := 0, windowStart := s.now,
    windowEnd := s.now + mins c.stay, graceEnd := s.now + mins c.grace, energyWanted := none,
    entrySeen := true, arrival := some s.now, occupiedSeconds := 0, chargedSeconds := 0,
    energyDelivered := 0, lastPostEnergy := none }

/-- A walk-in hold is created and the bay derived from step 3 (R17). At an UNBOOKED bay whose active slot a storage
fault has filled, it takes the place of the hold stored there (DESIGN CHOICE, log 36). -/
def Ev.walkIn (ev : Ev) (b : BayIx) : Ev :=
  let h := ev.st.walkInHold b
  ({ ((ev.touch b).capture b h) with captured := true }.rederive b).note b .walkIn

/-- What a change of connector does to a bay that is in service (R16, R17). A bay stored ARRIVED, CHARGING or DONE without
an arrived hold keeps its state (DESIGN CHOICE, log 36). -/
def Ev.connectorChange (ev : Ev) (b : BayIx) (old : Connector) : Ev :=
  let y := ev.bay b
  if y.dyn.connector = old then ev
  else
    match y.dyn.state with
    | .unbooked =>
      if !old.isPlug && y.dyn.connector.isPlug && (ev.st.classOf y.cls).walkIn then ev.walkIn b else ev
    | .arrived | .charging | .done => (ev.rederive b).note b .evidence
    | _ => ev

/-- The connector and occupancy effects of a POST-STATUS (R15): the connector is set; a change to FAULT logs
POST-FAULT and brings its fault cause; the occupancy follows; and then either a FAULTED bay without a cause recovers (R9)
or the connector change acts (R16, R17). `wasPlug` is whether plug evidence was in force before the event. DEDUCED (log 10,
11): the cause is brought before Table 1-5 is applied, and a report that ends a connector fault sets connector and
occupancy before the bay is derived. A bay stored FAULTED without any cause, which only a storage fault leaves, recovers
by it (DESIGN CHOICE, log 36). -/
def Ev.connectorReport (ev : Ev) (b : BayIx) (c : Connector) (wasPlug : Bool) : Ev :=
  let old := (ev.bay b).dyn.connector
  let wasFaulted := (ev.bay b).dyn.state = .faulted
  let ev := (ev.touch b).modDyn b (fun d => { d with connector := c })
  let ev := if c = .fault ∧ old ≠ .fault then
      (ev.log { kind := .postFault, bay := some b }).gainFault b .connectorFault
    else ev
  let ev := ev.reportOccupancy b wasPlug
  if wasFaulted then ev.recover b else ev.connectorChange b old

end Sys2Proof.Machine
end

