-- ==== Sys2Proof/Machine/Allotment.lean ====
section
/-!
DEFINITION. The allotment computation (R85 to R93): admission, tier fill, water-fill and rounding as functions on
plain lists, then the recompute of the part, its hand-over to the scheduler (R91, R132), and rotation.
-/
namespace Sys2Proof.Machine

/-! ## The computation on plain lists -/

/-- An admitted bay in the tier fill: its headroom h = D − M, its class weight w and its share x. -/
structure Share where
  bay : BayIx
  headroom : Nat
  weight : Nat
  share : Nat
  deriving DecidableEq, Repr

def headroomSum (u : List Share) : Nat := (u.map (·.headroom)).sum
def weightSum (u : List Share) : Nat := (u.map (·.weight)).sum
def shareSum (u : List Share) : Nat := (u.map (·.share)).sum

/-- The share of one round of a water-fill: floor(At × w / W) (R88 step 1). -/
def roundShare (at_ w total : Nat) : Nat := at_ * w / total

/-- A bay that takes its whole headroom. -/
def Share.full (x : Share) : Share := { x with share := x.headroom }

/-- The rounds of a water-fill (R88): answers the capped bays, the bays left in U with their shares, and At.
The fuel counts the rounds: each caps at least one bay or is the last. -/
def waterFill : Nat → List Share → Nat → List Share × List Share × Nat
  | 0, u, at_ => ([], u, at_)
  | n + 1, u, at_ =>
    let total := weightSum u
    let u := u.map (fun x => { x with share := roundShare at_ x.weight total })
    let capped := u.filter (fun x => x.headroom ≤ x.share)
    let rest := u.filter (fun x => !(x.headroom ≤ x.share))
    if capped.isEmpty then ([], rest, at_)
    else
      let r := waterFill n rest (at_ - headroomSum capped)
      (capped.map Share.full ++ r.1, r.2.1, r.2.2)

/-- A share rounded down to a multiple of S (R89). -/
def roundDown (s x : Nat) : Nat := x - x % s

/-- One pass through U in queue order: each bay takes one step when the step keeps it within its headroom and
the leftover allows it (R89). -/
def stepPass (s : Nat) : List Share → Nat → List Share × Nat
  | [], l => ([], l)
  | x :: u, l =>
    if x.share + s ≤ x.headroom ∧ s ≤ l then
      let r := stepPass s u (l - s)
      ({ x with share := x.share + s } :: r.1, r.2)
    else
      let r := stepPass s u l
      (x :: r.1, r.2)

/-- Passes repeat until a pass in which no bay takes a step (R89). Each pass but the last lowers the
leftover, which is the fuel. -/
def stepPasses (s : Nat) : Nat → List Share → Nat → List Share × Nat
  | 0, u, l => (u, l)
  | n + 1, u, l =>
    let r := stepPass s u l
    if r.2 = l then (u, l) else stepPasses s n r.1 r.2

/-- One tier (R87): every bay its headroom when the tier's headrooms fit in A, otherwise the water-fill with
rounding and steps. Answers the bays with their shares and what is left of A. -/
def fillTier (s : Nat) (tier : List Share) (a : Nat) : List Share × Nat :=
  if headroomSum tier ≤ a then (tier.map Share.full, a - headroomSum tier)
  else
    let w := waterFill (tier.length + 1) tier a
    let u := w.2.1.map (fun x => { x with share := roundDown s x.share })
    let r := stepPasses s (w.2.2 - shareSum u + 1) u (w.2.2 - shareSum u)
    (w.1 ++ r.1, r.2)

/-- The tiers in the order priority 3, 2, 1, 0, each filled from what the one before it left (R87). -/
def fillTiers (s : Nat) (admitted : List (Fin 4 × Share)) : List (Fin 4) → Nat → List Share
  | [], _ => []
  | p :: ps, a =>
    let r := fillTier s ((admitted.filter (fun e => e.1 == p)).map (·.2)) a
    r.1 ++ fillTiers s admitted ps r.2

/-- A Charge Queue entry as the computation sees it: its priority, demand D and weight (R82, R87). -/
structure Claim where
  bay : BayIx
  priority : Fin 4
  demand : Nat
  weight : Nat
  deriving DecidableEq, Repr

/-- The number of bays admitted: min(E, floor(B / M)) (R86). -/
def admittedCount (budget minimum entries : Nat) : Nat := min entries (budget / minimum)

/-- The targets of the admitted bays: M + x each (R86 to R90). -/
def allotTargets (budget minimum step : Nat) (claims : List Claim) : List (BayIx × Nat) :=
  let n := admittedCount budget minimum claims.length
  let admitted := (claims.take n).map
    (fun c => (c.priority, ({ bay := c.bay, headroom := c.demand - minimum, weight := c.weight, share := 0 } : Share)))
  (fillTiers step admitted [3, 2, 1, 0] (budget - n * minimum)).map (fun x => (x.bay, minimum + x.share))

/-! ## The recompute of the part -/

/-- The demand of a bay: min(post maximum, ceiling) (R82). -/
def Bay.demand (y : Bay) : Nat := min y.postMax y.alloc.ceiling

/-- The Charge Queue as the computation sees it. -/
def State.claims (s : State) : List Claim :=
  s.allocator.queue.map (fun e =>
    let y := s.bay e.bay
    ⟨e.bay, e.priority, y.demand, (s.classOf y.cls).weight⟩)

/-- The targets of the admitted bays now. -/
def State.targets (s : State) : List (BayIx × Nat) :=
  allotTargets (budgetOf s.allocator.settings) s.allocator.settings.minimum s.allocator.settings.step s.claims

/-- The target of the bay at index `i` in a list of targets: 0 for a bay not in it (R90). -/
def targetIn (ts : List (BayIx × Nat)) (i : Nat) : Nat :=
  match ts.find? (fun e => e.1.val == i) with
  | some e => e.2
  | none => 0

/-- A bay's target is set; a change sets its under-draw count to 0 (R83, R90). -/
def BayAlloc.retarget (a : BayAlloc) (t : Nat) : BayAlloc :=
  if a.target = t then a else { a with target := t, underDraw := 0 }

/-- Admission at one bay (R86, R92): a bay newly admitted takes admitted-since now, and its rotation deadline
when its class rotates; a bay not admitted has both withdrawn. A bay is newly admitted when its admitted-since is absent, a
bay just rotated included (DESIGN CHOICE, log 41). -/
def State.markAdmitted (s : State) (b : BayIx) (admitted : Bool) : State :=
  let y := s.bay b
  if admitted then
    match y.alloc.admittedSince with
    | some _ => s
    | none =>
      let s' := s.modAlloc b (fun a => { a with admittedSince := some s.now })
      if (s.classOf y.cls).mode = .rotate then s'.setRotation b (s.now + mins s.allocator.settings.rotation)
      else s'.clearRotation b
  else if y.alloc.admittedSince = none ∧ y.timer.rotation = .clear then s
  else (s.modAlloc b (fun a => { a with admittedSince := none })).clearRotation b

/-- The delivery state of a bay against its target (R131, R132): SETTLED when target equals in-force and the
repeat mark is clear, otherwise PENDING. -/
def Delivery.settle (d : Delivery) : Delivery :=
  { d with state := if d.inForce = some d.target ∧ d.repeatMark = false then .settled else .pending }

/-- A new target handed to the scheduler (R132): a bay in SETTLED or PENDING is settled afresh, any other
keeps its state. -/
def Delivery.handTarget (d : Delivery) (t : Nat) : Delivery :=
  let d := { d with target := t }
  match d.state with
  | .settled | .pending => d.settle
  | _ => d

/-- The allocator hands the scheduler every target and the budget in force (R91, R132). -/
def State.handOver (s : State) : State :=
  { s with
    bays := s.bays.map (fun y => { y with delivery := y.delivery.handTarget y.alloc.target })
    scheduler := { s.scheduler with budget := budgetOf s.allocator.settings } }

/-- The targets of one recompute replace those before it and are handed over (R86 to R91). -/
def State.retarget (s : State) : State :=
  let ts := s.targets
  let s := allBays.foldl (fun s b => s.markAdmitted b (ts.any (fun e => e.1 == b))) s
  State.handOver { s with bays :=
    ⟨s.bays.items.zipIdx.map (fun e =>
      { e.1 with alloc := e.1.alloc.retarget (targetIn ts e.2) }),
      by rw [List.length_map, List.length_zipIdx]; exact s.bays.size⟩ }

/-- A recompute reads the record of each bay in the Charge Queue and compares it; a bay that fails leaves the
queue before the targets are made (R85). The records are read in queue order, which no rule gives (DESIGN CHOICE,
log 34). -/
def Ev.compareQueue (ev : Ev) : Ev :=
  ((ev.st.allocator.queue.map (·.bay)).foldl Ev.compareRecord ev).flushNotes

/-! ## Rotation (R93) -/

/-- A bay's rotation deadline is DUE. -/
def Bay.rotationDue (y : Bay) : Bool :=
  match y.timer.rotation with
  | .due _ => true
  | _ => false

/-- The candidate with the earliest admitted-since, the one first in the queue among equals (R93 step 4). -/
def State.earliest (s : State) : List ChargeEntry → Option ChargeEntry
  | [] => none
  | e :: q =>
    match s.earliest q with
    | none => some e
    | some f =>
      match (s.bay e.bay).alloc.admittedSince, (s.bay f.bay).alloc.admittedSince with
      | some a, some b => if laterThan a b then some f else some e
      | _, _ => some e

/-- The bay a rotation check would rotate (R93 steps 1 to 4). -/
def State.rotationChoice (s : State) : Option ChargeEntry :=
  match s.allocator.queue.find? (fun e => (s.bay e.bay).alloc.admittedSince.isNone) with
  | none => none
  | some paused =>
    s.earliest (s.allocator.queue.filter (fun e =>
      (s.bay e.bay).alloc.admittedSince.isSome && e.priority == paused.priority && (s.bay e.bay).rotationDue))

/-- A bay is rotated: join stamp now, moved to its place, its admitted-since absent and its deadline withdrawn
(R93). Where the recompute that follows admits it all the same, as its record comparison has removed another bay, it is
newly admitted, with admitted-since now and a fresh deadline (DESIGN CHOICE, log 41). -/
def State.rotate (s : State) (e : ChargeEntry) : State :=
  let x := { e with stamp := s.now }
  ((s.setQueue (insertEntry x (s.allocator.queue.filter (·.bay != e.bay)))).modAlloc e.bay
    (fun a => { a with admittedSince := none })).clearRotation e.bay

/-- Recomputes with their rotation checks, until a check rotates no bay (R93). The fuel counts the rotations:
each turns one DUE deadline to CLEAR. -/
def Ev.recomputeFuel : Nat → Ev → Ev
  | 0, ev => ev
  | n + 1, ev =>
    let ev := ev.compareQueue.onState State.retarget
    match ev.st.rotationChoice with
    | none => ev
    | some e => Ev.recomputeFuel n (ev.onState (·.rotate e))

/-- The recompute the event has brought (R85). -/
def Ev.runRecompute (ev : Ev) : Ev :=
  if ev.recompute then { Ev.recomputeFuel 130 ev with recompute := false } else ev

end Sys2Proof.Machine
end

