-- ==== Sys2Proof/Machine/Scheduler.lean ====
section
/-!
DEFINITION. The Downlink Scheduler and Node Supervisor (Chapter 7): committed values, sheds and raises, the
arbiter, the delivery record, ceilings and overdraw, energy figures, contact supervision and link-loss.
-/
namespace Sys2Proof.Machine

/-! ## Committed values (R130) -/

/-- The committed value of a bay, given whether it has a post node (R130). -/
def Bay.committed (y : Bay) (hasPost : Bool) : Nat :=
  if !hasPost then 0
  else if y.alloc.suspectCopy then y.postMax
  else
    match y.delivery.inForce with
    | none => y.postMax
    | some f => max (max f (y.delivery.unacknowledged.getD 0)) y.delivery.drawn

/-- The committed value of a bay. -/
def State.committed (s : State) (b : BayIx) : Nat := (s.bay b).committed (s.post b).isSome

/-- The committed sum: bays 1 to 128 (R130). -/
def State.committedSum (s : State) : Nat := (allBays.map s.committed).sum

/-! ## Sheds and raises (R133, R134) -/

/-- A bay in PENDING whose target is below its committed value (R133). -/
def State.isShed (s : State) (b : BayIx) : Bool :=
  (s.bay b).delivery.state == .pending && (s.bay b).delivery.target < s.committed b

/-- The pending sheds in the order of R133: bays outside the Charge Queue in ascending number, then the
queue by priority ascending and within one priority from the back. -/
def State.sheds (s : State) : List BayIx :=
  let q := s.allocator.queue
  ((allBays.filter (fun b => !s.inQueue b))
    ++ [0, 1, 2, 3].flatMap (fun (p : Fin 4) => ((q.filter (fun e => e.priority == p)).map (·.bay)).reverse)).filter
      s.isShed

/-- A bay in PENDING that is not a shed (R133). -/
def State.isRaise (s : State) (b : BayIx) : Bool :=
  (s.bay b).delivery.state == .pending && !s.isShed b

/-- The raise the RAISE source offers: the first candidate in queue order when it fits the budget in force,
none while the part is suspended (R134). -/
def State.raiseOffer (s : State) : Option BayIx :=
  if s.suspension.suspended then none
  else
    match (s.allocator.queue.map (·.bay)).find? s.isRaise with
    | none => none
    | some b =>
      if s.committedSum - s.committed b + (s.bay b).delivery.target ≤ s.scheduler.budget then some b else none

/-! ## The poll ring (R143) -/

/-- A ring position: the post of bay k at 2·k, its sensor at 2·k + 1. -/
def ringRole (p : Fin 256) : Role := if p.val % 2 = 0 then .post else .sensor

def ringBay (p : Fin 256) : BayIx := ⟨p.val / 2, by omega⟩

/-- The ring positions from the cursor, wrapping after the last. -/
def ringOrder (c : Fin 256) : List (Fin 256) :=
  (List.finRange 256).filter (fun p => c ≤ p) ++ (List.finRange 256).filter (fun p => p < c)

/-- A node is due when now is at or after its due time (R143). -/
def NodeEntry.isDue (e : NodeEntry) (now : Time) : Bool :=
  match e.contact with
  | some c => atOrAfter now c.due
  | none => false

/-- The node the POLL source offers: the first filled position whose node is due, in ring order from the
cursor (R143). It is asked only while no transaction is outstanding. -/
def State.pollOffer (s : State) : Option (Fin 256 × Addr) :=
  let due := (downNodes s.nodes).filter (fun e => e.2.isDue s.now)
  (ringOrder s.scheduler.cursor).findSome? (fun p =>
    (due.find? (fun e => e.2.role == ringRole p && e.2.bay == some (ringBay p))).map (fun e => (p, e.1)))

/-! ## Transactions (R136, R137) -/

def State.modScheduler (s : State) (f : Scheduler → Scheduler) : State := { s with scheduler := f s.scheduler }

/-- The outstanding transaction replaced. -/
def State.setTransaction (s : State) (t : Option Transaction) : State :=
  s.modScheduler (fun c => { c with transaction := t })

/-- A transaction begins: its frame waits at the port, with the reply window of this moment (R137). -/
def State.begin (s : State) (k : TransactionKind) (f : Frame) : State :=
  s.setTransaction (some ⟨k, f, false, s.timing.window, .waiting, false⟩)

/-- The allot sequence after one: 255 and 0 are each followed by 1 (R137). -/
def nextSequence (n : Nat) : Nat := if n < 255 then n + 1 else 1

/-- The downlink tag rises by 1, 255 followed by 0 (R137). -/
def State.takeTag (s : State) : State := s.modScheduler (fun c => { c with tag := c.tag + 1 })

/-- An ALLOT is chosen for a bay: frame, sequence and tag; the bay becomes IN-FLIGHT with the target
unacknowledged and its repeat mark cleared (R135, R137). -/
def State.chooseAllot (s : State) (b : BayIx) : State :=
  match s.post b with
  | none => s
  | some (a, _) =>
    let d := (s.bay b).delivery
    let q := nextSequence d.sequence
    let f : Frame := ⟨a, s.controller.own, Kind.allot, s.scheduler.tag, be16 d.target ++ [byteOf q]⟩
    ((s.modDelivery b (fun d =>
      { d with sequence := q, unacknowledged := some d.target, repeatMark := false, state := .inFlight })).begin
        (.allot b q) f).takeTag

/-- A POLL is chosen for a node; the ring cursor passes on (R137, R143). -/
def State.choosePoll (s : State) (p : Fin 256) (a : Addr) : State :=
  let f : Frame := ⟨a, s.controller.own, Kind.poll, s.scheduler.tag, []⟩
  ((s.begin .poll f).takeTag).modScheduler (fun c => { c with cursor := p + 1 })

/-- The head of the forward queue is chosen (R107, R137). -/
def State.chooseForward (s : State) : State :=
  match s.downlink.forward with
  | [] => s
  | e :: q => ({ s with downlink := { s.downlink with forward := q } }).begin (.forward e.answerExpected) e.frame

/-- One source asked for work: it answers the state with its transaction begun, or nothing (R136). -/
def State.serve (s : State) : Source → Option State
  | .raise => s.raiseOffer.map s.chooseAllot
  | .forward => if s.downlink.forward.isEmpty then none else some s.chooseForward
  | .poll => s.pollOffer.map (fun o => s.choosePoll o.1 o.2)

/-- The source after a source, POLL followed by RAISE (R136). -/
def Source.next : Source → Source
  | .raise => .forward | .forward => .poll | .poll => .raise

/-- A source is served, and the rotor set to the source after it (R136). -/
def State.serveFrom (s : State) (c : Source) : Option State :=
  (s.serve c).map (·.modScheduler (fun x => { x with rotor := c.next }))

/-- The arbiter's choice (R136): while no transaction is outstanding, the first pending shed, otherwise the
first source from the rotor that offers work. -/
def State.arbitrate (s : State) : State :=
  match s.scheduler.transaction with
  | some _ => s
  | none =>
    match s.sheds with
    | b :: _ => s.chooseAllot b
    | [] =>
      let c := s.scheduler.rotor
      ((s.serveFrom c <|> s.serveFrom c.next) <|> s.serveFrom c.next.next).getD s

/-! ## The end of an event -/

/-- What every event ends with: the bay notices it still owes, the waitlist scan (R39), the recompute (R85),
the delivery of deadlines that are due (R59), and the arbiter's choice (R136). -/
def Ev.finish (ev : Ev) : State :=
  ((ev.flushNotes.runScan).runRecompute.flushNotes).st.deliverDue.arbitrate

/-! ## Link-loss (R142) -/

/-- A post is link-lost: UNREACHABLE, and now at or after its last contact plus L (R142). -/
def State.linkLostNow (s : State) (b : BayIx) : Bool :=
  match s.post b with
  | some (_, e) =>
    match e.contact with
    | some c => !c.reachable && atOrAfter s.now (c.last + secs s.timing.linkLoss)
    | none => false
  | none => false

/-- What the link-loss expiry does to the delivery record (R142). -/
def Delivery.lose (d : Delivery) : Delivery :=
  { d with inForce := some 0, drawn := 0, unacknowledged := none, repeatMark := false, overdrawCount := 0,
           linkLost := true, state := if d.target = 0 then .settled else .pending }

/-- The link-loss test of a bay: the expiry is taken for a link-lost post whose bay does not have link lost
set and is not IN-FLIGHT (R142). -/
def State.linkLossTest (s : State) (b : BayIx) : State :=
  let d := (s.bay b).delivery
  if s.linkLostNow b && !d.linkLost && d.state != .inFlight then s.modDelivery b Delivery.lose else s

/-- The link-loss test of every post (R142). -/
def State.linkLossTests (s : State) : State := allBays.foldl State.linkLossTest s

/-! ## Answers: delivery record, overdraw, ceilings, energy -/

/-- A POST-STATUS as decoded (Table 11-2). -/
structure PostReport where
  connector : Connector
  drawn : Nat
  inForce : Nat
  ack : Nat
  energy : Nat
  deriving DecidableEq, Repr

/-- A POST-STATUS payload decoded; shorter than its layout, a connector 0 or above 5, or an allotment above 800
closes the attempt (R180, R181). -/
def postReport? (p : List Byte) : Option PostReport :=
  if p.length < 11 then none
  else
    match Connector.reported? (byteAt p 0) with
    | none => none
    | some c => if field16 p 3 ≤ 800 then some ⟨c, field16 p 1, field16 p 3, byteAt p 5, field32 p 6⟩ else none

/-- The delivery record after an answered POST-STATUS (R131). -/
def Delivery.acknowledge (d : Delivery) (r : PostReport) : Delivery :=
  Delivery.settle { d with inForce := some r.inForce, drawn := r.drawn, unacknowledged := none, linkLost := false }

/-- The overdraw test on a POLL answer (R135), given the tolerance V: answers the record and whether OVERDRAW
is logged. -/
def Delivery.overdrawTest (d : Delivery) (v : Nat) : Delivery × Bool :=
  if d.inForce.any (fun f => f + v < d.drawn) then
    if d.overdrawCount + 1 ≥ 2 then
      ({ d with overdrawCount := 0, repeatMark := true,
                state := if d.state = .settled then .pending else d.state }, true)
    else ({ d with overdrawCount := d.overdrawCount + 1 }, false)
  else ({ d with overdrawCount := 0 }, false)

/-- The report reaches the scheduler (R131, R135). -/
def Ev.deliveryReport (ev : Ev) (b : BayIx) (r : PostReport) (isPoll : Bool) : Ev :=
  let ev := ev.modDelivery b (·.acknowledge r)
  if isPoll then
    let t := (ev.bay b).delivery.overdrawTest ev.st.allocator.settings.overdraw
    let ev := if t.2 then ev.log { kind := .overdraw, bay := some b } else ev
    ev.modDelivery b (fun _ => t.1)
  else ev

/-- A bay's ceiling is set; a change triggers a recompute (R82). -/
def Ev.setCeiling (ev : Ev) (b : BayIx) (c : Nat) : Ev :=
  if (ev.bay b).alloc.ceiling = c then ev
  else (ev.modAlloc b (fun a => { a with ceiling := c })).wantRecompute

/-- The ceiling test on a reported drawn current (R83, R84). -/
def Ev.ceilingTest (ev : Ev) (b : BayIx) (drawn inForce : Nat) : Ev :=
  let a := ev.st.allocator.settings
  let y := ev.bay b
  if ev.st.inQueue b && a.minimum ≤ y.alloc.target && inForce == y.alloc.target then
    if drawn + a.reclaim < y.alloc.target then
      if y.alloc.underDraw + 1 ≥ 2 then
        (ev.modAlloc b (fun x => { x with underDraw := 0 })).setCeiling b
          (max a.minimum (min y.postMax (drawn + a.margin)))
      else ev.modAlloc b (fun x => { x with underDraw := x.underDraw + 1 })
    else
      let ev := ev.modAlloc b (fun x => { x with underDraw := 0 })
      if y.alloc.target ≤ drawn + 10 ∧ y.alloc.ceiling < y.postMax then ev.setCeiling b y.postMax else ev
  else ev.modAlloc b (fun x => { x with underDraw := 0 })

/-- A session energy figure reaches the Hold Timer Unit (R72 to R74). `plugIn` is whether the report is a
plug-in at the bay. -/
def Ev.energyFigure (ev : Ev) (b : BayIx) (e : Nat) (plugIn : Bool) : Ev :=
  let d := (ev.bay b).dyn
  match d.active with
  | none => ev
  | some h =>
    if h.arrived && (d.connector.isPlug || d.connector == .finished) then
      match (if plugIn || ev.captured then none else h.lastPostEnergy) with
      | none => ev.modDyn b (fun d => { d with active := some { h with lastPostEnergy := some e } })
      | some p =>
        if p ≤ e then
          let n := min Config.counterMax (h.energyDelivered + (e - p))
          let ev := ev.modDyn b (fun d =>
            { d with active := some { h with lastPostEnergy := some e, energyDelivered := n } })
          if h.energyWanted.any (fun w => h.energyDelivered < w && w ≤ n)
              && (d.state == .arrived || d.state == .charging || d.state == .done) then
            ((ev.touch b).rederive b).note b .evidence
          else ev
        else
          (ev.log { kind := .energyRegress, bay := some b }).modDyn b (fun d =>
            { d with active := some { h with lastPostEnergy := some e } })
    else ev

/-- The evidence of an answered POST-STATUS, in the order of R15 and R140: connector and occupancy, energy,
drawn current, and the delivery record. -/
def Ev.postEvidence (ev : Ev) (b : BayIx) (r : PostReport) (wasPlug isPoll : Bool) : Ev :=
  let plugIn := !(ev.bay b).dyn.connector.isPlug && r.connector.isPlug
  let ev := ev.connectorReport b r.connector wasPlug
  let ev := ev.energyFigure b r.energy plugIn
  let ev := ev.ceilingTest b r.drawn r.inForce
  ev.deliveryReport b r isPoll

/-- The evidence of an answered OCCUPANCY: a state or health above 1 is taken as DEGRADED, which is no evidence
(R10, R11, R181). -/
def Ev.sensorEvidence (ev : Ev) (b : BayIx) (p : List Byte) : Ev :=
  if byteAt p 1 = 0 then
    match byteAt p 0 with
    | 0 => ev.sensorReport b .vacant
    | 1 => ev.sensorReport b .occupied
    | _ => ev
  else ev

/-! ## Contact supervision (R140, R141) -/

/-- A node's contact record after an answered transaction (R140 step 1). -/
def Contact.answered (c : Contact) (now : Time) (interval : Nat) : Contact :=
  { c with reachable := true, failures := 0, last := now, due := now + secs interval }

def State.contactAnswered (s : State) (a : Addr) : State :=
  s.modContact a (·.answered s.now s.timing.pollInterval)

/-- The post of a bay becomes REACHABLE by an answered transaction (R140 step 1), before the evidence of the answer: plug
evidence that the restored contact brings into force makes the bay occupied (R12), and the unreachable cause ends (R9).
`c` is the connector that the answer reports, or the stored one where it reports none. Plug evidence comes into force here
only where the stored connector and `c` are both plugged, since R12 speaks of the event as a whole; a report of FAULT
keeps the bay FAULTED, with the connector fault as its cause, as the Remark of R9 says (DEDUCED, log 11). -/
def Ev.contactRestored (ev : Ev) (b : BayIx) (c : Connector) : Ev :=
  let ev := if ev.st.plugEvidence b && c.isPlug then ev.setOccupancy b .occupied else ev
  if c = .fault then ev else ev.recover b

/-- A failure is counted at a node (R141): at the limit K a REACHABLE node becomes UNREACHABLE, which is
logged; a post's bay gains a fault cause, its plug evidence lapses and the link-loss test is made; a
sensor's occupancy becomes UNKNOWN unless plug evidence holds. -/
def Ev.countFailure (ev : Ev) (a : Addr) : Ev :=
  let e := ev.st.node a
  match e.contact with
  | none => ev
  | some c =>
    let n := min 7 (c.failures + 1)
    let ev' := ev.onState (·.modContact a (fun c => { c with failures := n }))
    if c.reachable && ev.st.timing.failLimit ≤ n then
      let wasPlug := e.bay.any ev.st.plugEvidence
      let ev := (ev'.onState (·.modContact a (fun c => { c with reachable := false }))).log
        { kind := .nodeUnreachable, bay := e.bay }
      match e.role, e.bay with
      | .post, some b => ((ev.gainFault b .postUnreachable).postLost b wasPlug).onState (·.linkLossTest b)
      | .sensor, some b => ev.sensorLost b
      | _, _ => ev
    else ev'

/-- The transaction ends unanswered (R139). -/
def Ev.endUnanswered (ev : Ev) (t : Transaction) : Ev :=
  let s := ev.st
  let a := t.frame.dest
  let ev := ev.onState (·.setTransaction none)
  match t.kind with
  | .forward _ => ev.log { kind := .noAnswer, header := some t.frame.header }
  | .allot b _ =>
    (((ev.log { kind := .noAnswer, bay := (s.node a).bay, header := some t.frame.header }).modDelivery b
      (fun d => { d with state := .waitContact })).countFailure a).onState (·.linkLossTest b)
  | .poll =>
    ((ev.log { kind := .noAnswer, bay := (s.node a).bay, header := some t.frame.header }).onState
      (·.modContact a (fun c => { c with due := s.now + secs s.timing.pollInterval }))).countFailure a

/-- The reply window of an attempt closes without an answer (R139): nothing more when the node has lost its
contact record, otherwise one retry of an ALLOT or POLL, otherwise the unanswered end. -/
def Ev.windowClosed (ev : Ev) (t : Transaction) : Ev :=
  if t.destLost then ev.onState (·.setTransaction none)
  else
    match t.kind with
    | .forward _ => ev.endUnanswered t
    | _ =>
      if t.retried then ev.endUnanswered t
      else ev.onState (·.setTransaction (some { t with retried := true, phase := .waiting }))

end Sys2Proof.Machine
end

