-- ==== Sys2Proof/Machine/Power.lean ====
section
/-!
DEFINITION. Events of the whole part: how an event runs, power-on and warm reset (R114, R179 and the reset rules
of each chapter), the RESET pin, suspension on emergency (Chapter 8), and the storage fault (R3).
-/
namespace Sys2Proof.Machine

/-- What a command answers. -/
abbrev Result := Host.Outcome State Fault Refusal

/-- An event that answers no request. A part held in reset takes no event (R114, log 3), and an event whose
condition does not hold has not come about (log 2). -/
def State.event (s : State) (condition : Bool) (body : Ev → Ev) : Result :=
  .next (if s.heldInReset || !condition then s else (body (Ev.start s)).finish)

/-! ## Suspension (R149 to R152) -/

/-- A bay's allot enable is saved and cleared (R149 step 1). -/
def Bay.suspend (y : Bay) : Bay :=
  { y with savedMask := y.allotEnable, allotEnable := false, alloc := { y.alloc with enableCopy := false } }

/-- A bay's allot enable is restored from its saved mask entry (R151). -/
def Bay.restore (y : Bay) : Bay :=
  { y with allotEnable := y.savedMask, alloc := { y.alloc with enableCopy := y.savedMask } }

/-- The suspended flag, and the allocator's copy of it (R78). -/
def State.setSuspended (s : State) (v : Bool) : State :=
  { s with suspension := { s.suspension with suspended := v }
           allocator := { s.allocator with suspendedCopy := v } }

/-- EMERGENCY-ENTERED is logged, with the header of the frame that caused it (R149 step 4). -/
def Ev.logEmergency (ev : Ev) (header : Option Header) : Ev :=
  ev.log { kind := .emergencyEntered, header := header }

/-- Suspension is entered (R149): enables saved and cleared, the flag set, the queue emptied, every target 0. -/
def Ev.enterSuspension (ev : Ev) (header : Option Header) : Ev :=
  let ev := ev.onState (fun s => { s with bays := s.bays.map Bay.suspend })
  ((ev.onState (·.setSuspended true)).syncAll.wantRecompute).logEmergency header

/-- An emergency demand: it enters suspension, or is only logged when the part is suspended (R149, R150). -/
def Ev.emergencyDemand (ev : Ev) (header : Option Header) : Ev :=
  if ev.st.suspension.suspended then ev.logEmergency header else ev.enterSuspension header

/-- Suspension ends: the saved mask is restored and the bays that meet R78 join in ascending number (R151). -/
def Ev.endSuspension (ev : Ev) : Ev :=
  let ev := ev.onState (fun s => { s with bays := s.bays.map Bay.restore })
  ((ev.onState (·.setSuspended false)).syncAll).wantRecompute

/-- EMERGENCY_ACTIVE (R149, R150): the filtered input becomes active. -/
def execEmergencyActive (s : State) : Result :=
  s.event (!s.suspension.emergency) (fun ev =>
    (ev.onState (fun s => { s with suspension := { s.suspension with emergency := true } })).emergencyDemand none)

/-- EMERGENCY_INACTIVE (R150): the filtered input becomes inactive; suspension continues. -/
def execEmergencyInactive (s : State) : Result :=
  s.event s.suspension.emergency (fun ev =>
    ev.onState (fun s => { s with suspension := { s.suspension with emergency := false } }))

/-! ## Power-on reset (R114) -/

/-- The part at its power-on values; the waiting commands are the sender's and stay. -/
def State.powerUp (s : State) (emergency : Bool) : State :=
  { State.powerOn emergency with pending := s.pending }

/-- POWER_ON_RESET (R114, R152): every item of state to its power-on value; a part that starts suspended logs
EMERGENCY-ENTERED, with no bay and no header, in the first event after the reset (log 5: taken here). -/
def execPowerOnReset (emergency : Bool) (s : State) : Result :=
  .next (if emergency then ((Ev.start (s.powerUp true)).logEmergency none).finish else s.powerUp false)

/-- SUPPLY_LOSS (R114): the supply monitor resets the part and holds it in reset (log 3). -/
def execSupplyLoss (s : State) : Result := .next { s.powerUp false with heldInReset := true }

/-- RESET_PIN_RELEASE (R114): the pin returns high, so that a further low level can take another warm reset. -/
def execResetPinRelease (s : State) : Result :=
  s.event true (·.onState (fun s => { s with resetPinTaken := false }))

/-! ## Warm reset (R179) -/

/-- The hold deadlines of a bay set afresh from its holds (R75). -/
def State.freshTimers (s : State) (y : Bay) : Bay :=
  let t := match y.dyn.active with
    | some h => y.timer.setActive (noShowOf h) (s.overstayOf h) h.arrived
    | none => y.timer.clearActive
  { y with timer := { t with displacement := y.dyn.staged.map s.checkOf, rotation := .clear } }

/-- The delivery record of a bay with a post node after a warm reset (R146). -/
def Delivery.warm (d : Delivery) : Delivery :=
  { d with inForce := none, state := .unknown, unacknowledged := none, repeatMark := false,
           overdrawCount := 0, linkLost := false }

/-- A node entry after a warm reset: failure count 0, and a post is due now (R120, R143). -/
def NodeEntry.warm (now : Time) (e : NodeEntry) : NodeEntry :=
  { e with contact := e.contact.map (fun c =>
      { c with failures := 0, due := if e.role = .post then now else c.due }) }

/-- A port's receiver after a warm reset: the frame being assembled is discarded, and the port waits for the
gap (R111). -/
def Receiver.fresh : Receiver := ⟨.awaitGap, []⟩

/-- What a port is sending after a warm reset (R112). -/
def ResetMode.keep (m : ResetMode) (f : Option Frame) : Option Frame :=
  match m with
  | .boundary => f
  | .immediate => none

/-- What a warm reset keeps and clears, block by block (R26, R27, R75, R98, R111, R112, R120, R126, R146). -/
def State.warm (s : State) : State :=
  { s with
    bays := ⟨(allBays.map (fun b =>
        let y := s.freshTimers (s.bay b)
        { y with alloc := { y.alloc with underDraw := 0 }
                 delivery := if (s.post b).isSome then y.delivery.warm else y.delivery })),
      by rw [List.length_map]; exact List.length_finRange⟩
    waitlist := s.waitlist.map (fun e => { e with deadline := some e.hold.graceEnd })
    early := s.early.map (fun e => { e with deadline := some (e.recorded + secs 600) })
    requests := []
    management := []
    expiries := []
    nodes := s.nodes.map (NodeEntry.warm s.now)
    uplink := { fifo := [], sending := s.controller.resetMode.keep s.uplink.sending, rx := Receiver.fresh }
    downlink :=
      { forward := [], sending := s.controller.resetMode.keep s.downlink.sending, rx := Receiver.fresh }
    scheduler := { s.scheduler with rotor := .raise, transaction := none } }

/-- The rotation deadline of a bay set afresh from its admitted-since (R92, R98). -/
def State.freshRotation (s : State) (b : BayIx) : State :=
  let y := s.bay b
  match y.alloc.admittedSince with
  | some t =>
    if (s.classOf y.cls).mode = .rotate then s.setRotation b (t + mins s.allocator.settings.rotation)
    else s.clearRotation b
  | none => s.clearRotation b

/-- The engine reports a bay's CHARGING membership after a warm reset (R26, R98). The report logs no CONFIG-MISMATCH, also
for a bay that a storage fault has stored CHARGING and that the allocator did not have as CHARGING before: R79 logs one
when a bay enters CHARGING, and the reset is no entry (DESIGN CHOICE, log 40). -/
def Ev.reportAfresh (ev : Ev) (b : BayIx) : Ev :=
  (ev.modAlloc b (fun a => { a with chargingCopy := (ev.bay b).dyn.state == .charging })).syncQueue b

/-- A warm reset, taken at every block (R179): what each block keeps and clears, the deadlines set afresh,
the link-loss tests (R142), the engine's report and the recompute (R98), and the EMERGENCY test (R152). -/
def Ev.warmReset (ev : Ev) : Ev :=
  let ev := (ev.onState State.warm).onState (fun s => allBays.foldl State.freshRotation s)
  let ev := (allBays.foldl Ev.reportAfresh (ev.onState State.linkLossTests)).wantRecompute
  if ev.st.suspension.emergency && !ev.st.suspension.suspended then ev.enterSuspension none else ev

/-- WARM_RESET (R114, R179): the RESET pin has been low for 10 µs; holding it low longer takes no further
reset. -/
def execWarmReset (s : State) : Result :=
  s.event (!s.resetPinTaken) (fun ev =>
    (ev.onState (fun s => { s with resetPinTaken := true })).warmReset)

/-! ## Storage fault (R3) -/

/-- STORAGE_FAULT (R3): the stored contents and check word of a bay record become those given, without
recomputation, and no block is told (log 7). -/
def execStorageFault (bay : Byte) (contents : BayDyn) (check : BitVec 16) (s : State) : Result :=
  match bayOfNo bay.toNat with
  | none => .next s
  | some b =>
    .next (if s.heldInReset then s else s.modBay b (fun y => { y with dyn := contents, check := check }))

end Sys2Proof.Machine
end

