-- ==== Sys2Proof/Machine/Time.lean ====
section
/-!
DEFINITION. The tick (R55) and the expiries (Chapter 3): gated counters, the scrubber's examination, and each
expiry taken or discarded by its identity (R60).
-/
namespace Sys2Proof.Machine

/-- A count that stays at 4294967295 (R71). -/
def countUp (n : Nat) : Nat := min Config.counterMax (n + 1)

/-- One second of an arrived hold's gated counters: occupied seconds while the accepted occupancy is OCCUPIED
or UNKNOWN (R69), charged seconds while the connector is CHARGING and the post REACHABLE (R70). -/
def Hold.countSecond (h : Hold) (occupied charging : Bool) : Hold :=
  if h.arrived then
    { h with occupiedSeconds := if occupied then countUp h.occupiedSeconds else h.occupiedSeconds
             chargedSeconds := if charging then countUp h.chargedSeconds else h.chargedSeconds }
  else h

/-- One second at a bay's active hold (R69, R70). -/
def BayDyn.countSecond (d : BayDyn) (postReachable : Bool) : BayDyn :=
  { d with active := d.active.map (·.countSecond (d.occupancy != .vacant) (d.connector == .charging && postReachable)) }

/-- The gated counters of one bay advance. -/
def State.countBay (s : State) (b : BayIx) : State :=
  match (s.bay b).dyn.active with
  | none => s
  | some _ => s.modDyn b (·.countSecond (s.postReachable b))

/-- The Record Scrubber examines the bay at its cursor and moves on, 128 followed by 1 (R167). -/
def Ev.scrubStep (ev : Ev) : Ev :=
  let b := ev.st.scrubber.cursor
  (ev.compareRecord b).onState (fun s => { s with scrubber := { s.scrubber with cursor := nextBay b } })

/-- TICK (R55, R59, R69 to R71, R142, R167). The scrubber's examination stands before the gated counters
(log 8), and the link-loss tests of R142 are made in the tick (log 9). -/
def execTick (s : State) : Result :=
  s.event true (fun ev =>
    let ev := (ev.onState (fun s => { s with now := s.now + 1 })).onState State.deliverDue
    (ev.scrubStep.onState (fun s => allBays.foldl State.countBay s)).onState State.linkLossTests)

/-! ## Expiries (R60) -/

/-- An expiry that waits is taken from those delivered. -/
def State.dropExpiry (s : State) (x : Expiry) : State := { s with expiries := s.expiries.erase x }

/-- An expiry is taken by its owner: an event only where it has been delivered (log 2). -/
def State.takeExpiry (s : State) (x : Expiry) (body : Ev → Ev) : Result :=
  s.event (s.expiries.contains x) (fun ev => body (ev.onState (·.dropExpiry x)))

/-- The no-show expiry at its bay (R20, R60): taken when the active hold matches, its grace end is the carried
value and it is not arrived; otherwise discarded. -/
def Ev.noShow (ev : Ev) (b : BayIx) (t : Option Ticket) (v : Time) : Ev :=
  match (ev.bay b).dyn.active with
  | some h => if h.ticket = t ∧ h.graceEnd = v ∧ h.arrived = false then ev.endActive b (.ended .expired) else ev
  | none => ev

/-- NO_SHOW_EXPIRY (R20). -/
def execNoShowExpiry (bay : Byte) (ticket : Option Ticket) (value : Time) (s : State) : Result :=
  match bayOfNo bay.toNat with
  | none => .next s
  | some b => s.takeExpiry (.noShow b ticket value) (·.noShow b ticket value)

/-- The overstay expiry at its bay (R21, R60, R62): a bay in ARRIVED, CHARGING or DONE becomes OVERSTAY, any
other is not changed. -/
def Ev.overstay (ev : Ev) (b : BayIx) (t : Option Ticket) (v : Time) : Ev :=
  match (ev.bay b).dyn.active with
  | some h =>
    if h.ticket = t ∧ ev.st.overstayTime h = v ∧ h.arrived = true then
      match (ev.bay b).dyn.state with
      | .arrived | .charging | .done => (ev.setState b .overstay).note b .overstay
      | _ => ev
    else ev
  | none => ev

/-- OVERSTAY_EXPIRY (R21). -/
def execOverstayExpiry (bay : Byte) (ticket : Option Ticket) (value : Time) (s : State) : Result :=
  match bayOfNo bay.toNat with
  | none => .next s
  | some b => s.takeExpiry (.overstay b ticket value) (·.overstay b ticket value)

/-- The displacement check at its bay (R43, R60): the staged hold is relocated, or displaced to the Waitlist. -/
def Ev.displacement (ev : Ev) (b : BayIx) (t : Ticket) (v : Time) : Ev :=
  match (ev.bay b).dyn.staged with
  | some h =>
    if h.ticket = some t ∧ ev.st.checkTime h = v then ev.relocateOrDisplace b .staged else ev
  | none => ev

/-- DISPLACEMENT_CHECK (R43). The expiry carries a ticket (R60), so that of a staged hold which a storage fault has stored
without one is never taken (DESIGN CHOICE, log 36). -/
def execDisplacementCheck (bay : Byte) (ticket : Ticket) (value : Time) (s : State) : Result :=
  match bayOfNo bay.toNat with
  | none => .next s
  | some b => s.takeExpiry (.displacement b (some ticket) value) (·.displacement b ticket value)

/-- A waitlist entry is removed with its index entry. A ticket has one index entry, so that where storage faults have put
it on the Waitlist twice the entry that stays has none (DESIGN CHOICE, log 42). -/
def State.removeWaiting (s : State) (e : WaitEntry) : State :=
  (s.setWaitlist (s.waitlist.erase e)).unindexHold e.hold

/-- The waitlist entry of a ticket: the first from the head, where a storage fault followed by a displacement has put
one ticket on the Waitlist twice, which R29 excludes (DESIGN CHOICE, log 42). -/
def State.waiting (s : State) (t : Ticket) : Option WaitEntry :=
  s.waitlist.find? (fun e => e.hold.ticket == some t)

/-- The waitlist expiry (R40, R60): the entry is removed, with HOLD-NOTICE EXPIRED; no scan. Where storage faults have put
the ticket on the Waitlist twice, the expiry is tested against the first of its entries alone, whichever of them it was
set for, and is discarded where that entry's grace end is another (DESIGN CHOICE, log 42). -/
def Ev.waitlistExpiry (ev : Ev) (t : Ticket) (v : Time) : Ev :=
  match ev.st.waiting t with
  | some e =>
    if e.hold.graceEnd = v then
      (ev.onState (·.removeWaiting e)).holdNotice e.hold .expired (bareSummary ev.st 0 e.hold .expired)
    else ev
  | none => ev

/-- WAITLIST_EXPIRY (R40). -/
def execWaitlistExpiry (ticket : Ticket) (value : Time) (s : State) : Result :=
  s.takeExpiry (.waitlist ticket value) (·.waitlistExpiry ticket value)

/-- An Early Arrival List entry is removed. -/
def State.removeEarly (s : State) (t : Ticket) : State :=
  { s with early := s.early.filter (fun e => e.ticket != t) }

/-- The early-arrival expiry (R47, R60): the entry is removed when its recorded time is still the one for which
the expiry was set. -/
def State.earlyExpiry (s : State) (t : Ticket) (v : Time) : State :=
  match s.early.find? (fun e => e.ticket == t) with
  | some e => if e.recorded + secs 600 = v then s.removeEarly t else s
  | none => s

/-- EARLY_ARRIVAL_EXPIRY (R47). -/
def execEarlyArrivalExpiry (ticket : Ticket) (value : Time) (s : State) : Result :=
  s.takeExpiry (.early ticket value) (·.onState (·.earlyExpiry ticket value))

/-- The rotation expiry (R66, R93): a check is made when the bay's deadline is DUE; a rotation is followed by
a recompute. -/
def Ev.rotationExpiry (ev : Ev) (b : BayIx) : Ev :=
  if (ev.bay b).rotationDue then
    match ev.st.rotationChoice with
    | some e => (ev.onState (·.rotate e)).wantRecompute
    | none => ev
  else ev

/-- ROTATION_EXPIRY (R93). -/
def execRotationExpiry (bay : Byte) (s : State) : Result :=
  match bayOfNo bay.toNat with
  | none => .next s
  | some b => s.takeExpiry (.rotation b) (·.rotationExpiry b)

/-- LINK_LOSS_EXPIRY (R142): the test of one post, as an event of its own (log 9). -/
def execLinkLossExpiry (bay : Byte) (s : State) : Result :=
  match bayOfNo bay.toNat with
  | none => .next s
  | some b => s.event (s.linkLostNow b) (·.onState (·.linkLossTest b))

/-- POLL_DUE (R136, R143): a node that is due gives the POLL source work, and the arbiter chooses at the end of
the event (log 9). -/
def execPollDue (node : Addr) (s : State) : Result := s.event ((s.node node).isDue s.now) id

end Sys2Proof.Machine
end

