-- ==== Sys2Proof/Machine/Link.lean ====
section
/-!
DEFINITION. The ports and the Frame Classifier (Chapters 5 and 6), and the matching of answers by the Node
Supervisor (R138 to R140): the beginning and the end of a received frame, the sending of frames on both
segments, and the close of a reply window.
-/
namespace Sys2Proof.Machine

/-! ## Ports -/

/-- The receiver of a port. -/
def State.rx (s : State) : Port → Receiver
  | .uplink => s.uplink.rx
  | .downlink => s.downlink.rx

/-- The receiver of a port replaced. -/
def State.setRx (s : State) (p : Port) (r : Receiver) : State :=
  match p with
  | .uplink => { s with uplink := { s.uplink with rx := r } }
  | .downlink => { s with downlink := { s.downlink with rx := r } }

/-- The uplink frame on the line replaced (R105). -/
def State.setUplinkSending (s : State) (f : Option Frame) : State :=
  { s with uplink := { s.uplink with sending := f } }

/-- The downlink frame on the line replaced; the direction-enable is active exactly while there is one (R109). -/
def State.setDownlinkSending (s : State) (f : Option Frame) : State :=
  { s with downlink := { s.downlink with sending := f } }

/-- A port may take the beginning of a frame: it is not assembling one, and the downlink is not transmitting,
since its receiver is then disabled (R102, R109). -/
def State.mayBegin (s : State) (p : Port) : Bool :=
  (s.rx p).state != .assembling
    && (match p with | .uplink => true | .downlink => s.downlink.sending.isNone)

/-- FRAME_BEGIN (R102): a start bit, after the end-of-frame gap, begins a frame. -/
def execFrameBegin (port : Port) (s : State) : Result :=
  s.event (s.mayBegin port) (·.onState (·.setRx port ⟨.assembling, []⟩))

/-! ## Reception (R103) -/

/-- The captured header of a received frame, present when it held at least 5 bytes (R103). -/
def rxHeader? (chars : List RxChar) : Option Header :=
  match chars.map (·.data) with
  | a :: b :: c :: d :: e :: _ => some ⟨a, b, c, d, e⟩
  | _ => none

/-- The received CHECK agrees with the CRC computed over the bytes before it (R101). -/
def checkPasses (bytes : List Byte) : Bool :=
  let n := bytes.length - 2
  be16 (crc16 (bytes.take n)).toNat == bytes.drop n

/-- The tests of R103 in their order: the frame received whole, or the error it is dropped with. -/
def receive (chars : List RxChar) : Except ErrorKind Frame :=
  let bytes := chars.map (·.data)
  if bytes.length < 7 ∨ Config.receiveBuffer < bytes.length then .error .frameShape
  else if chars.any (·.faulty) then .error .frameCheck
  else if !checkPasses bytes then .error .frameCheck
  else
    match bytes with
    | dest :: src :: kind :: tag :: len :: rest =>
      if Config.maxPayload < len.toNat ∨ len.toNat + 7 ≠ bytes.length then .error .frameShape
      else .ok ⟨dest, src, kind, tag, rest.take len.toNat⟩
    | _ => .error .frameShape

/-! ## The claim half (R124 to R127) -/

/-- A received frame as a waiting request (R27, R126). -/
def Frame.request (f : Frame) : Request := ⟨f.src, f.kind, f.tag, f.payload⟩

/-- A kind of the hold request queue (R124). -/
def isBooking (k : Byte) : Bool :=
  k == Kind.hold || k == Kind.amend || k == Kind.free || k == Kind.query || k == Kind.arrive

/-- A kind of the management queue (R124). -/
def isManagement (k : Byte) : Bool := k == Kind.setTable || k == Kind.getTable || k == Kind.control

/-- The ticket a BUSY refusal carries (R125): none for a QUERY by bay, and in a QUERY the ticket stands behind
its form. -/
def busyTicket (f : Frame) : Ticket :=
  if f.kind = Kind.query then (if byteAt f.payload 0 = 1 then 0 else ticketField f.payload 1)
  else ticketField f.payload 0

/-- The ANSWER payload (Table 11-2), the times being site times. -/
structure AnswerBody where
  outcome : Nat
  reason : Nat := 0
  bay : Nat := 0
  slot : Nat := 0
  position : Nat := 0
  windowStart : Nat := 0
  windowEnd : Nat := 0
  graceEnd : Nat := 0

def answerPayload (kind : Byte) (t : Ticket) (a : AnswerBody) : List Byte :=
  [kind] ++ be32w t ++ [byteOf a.outcome, byteOf a.reason, byteOf a.bay, byteOf a.slot, byteOf a.position]
    ++ be32 a.windowStart ++ be32 a.windowEnd ++ be32 a.graceEnd

/-- A refusal (R28): fields it does not carry are 0. -/
def refusal (r : Reason) : AnswerBody := { outcome := 2, reason := r.code }

/-- A claimed booking request (R125): it joins the hold request queue, or is refused BUSY. The ANSWER stands
before the FAULT-NOTICE of the REQUEST-BUSY, which is logged first (DEDUCED, log 22). -/
def Ev.claimBooking (ev : Ev) (f : Frame) : Ev :=
  if ev.st.requests.length < Config.holdQueue then
    ev.onState (fun s => { s with requests := s.requests ++ [f.request] })
  else
    let ev := ({ ev with buffering := true }).log { kind := .requestBusy, header := some f.header }
    ev.answer (ev.st.buildAnswer f.src f.tag Kind.answer
      (answerPayload f.kind (busyTicket f) (refusal .busy)))

/-- A claimed management frame (R126): the MANAGE permission is tested before the queue. -/
def Ev.claimManagement (ev : Ev) (f : Frame) : Ev :=
  if !(ev.st.node f.src).permissions.manage then
    let ev := ({ ev with buffering := true }).log { kind := .notPermitted, header := some f.header }
    ev.answer (ev.st.buildAnswer f.src f.tag Kind.mgmtAnswer [f.kind, byteOf Status.notPermitted.code])
  else if ev.st.management.length < Config.managementQueue then
    ev.onState (fun s => { s with management := s.management ++ [f.request] })
  else ev.log { kind := .requestBusy, header := some f.header }

/-- A claimed EMERGENCY frame (R127). -/
def Ev.claimEmergency (ev : Ev) (f : Frame) : Ev :=
  if (ev.st.node f.src).permissions.emergency then ev.emergencyDemand (some f.header)
  else ev.log { kind := .notPermitted, header := some f.header }

/-- A claimed frame on the path of its kind; a kind with no path is dropped (R124). -/
def Ev.claim (ev : Ev) (f : Frame) : Ev :=
  if isBooking f.kind then ev.claimBooking f
  else if isManagement f.kind then ev.claimManagement f
  else if f.kind = Kind.emergency then ev.claimEmergency f
  else ev

/-! ## The forward half (R107, R123) -/

/-- A frame dropped instead of forwarded. -/
def Ev.forwardDrop (ev : Ev) (f : Frame) : Ev := ev.log { kind := .forwardDrop, header := some f.header }

/-- A frame added to the forward queue with its answer-expected setting, or dropped at a full queue (R107). -/
def Ev.forward (ev : Ev) (f : Frame) (answerExpected : Bool) : Ev :=
  if ev.st.downlink.forward.length < Config.forwardQueue then
    ev.onState (fun s =>
      { s with downlink := { s.downlink with forward := s.downlink.forward ++ [⟨f, answerExpected⟩] } })
  else ev.forwardDrop f

/-! ## Classification of an uplink frame (R123) -/

/-- Where the DEST of an uplink frame falls in the columns of R123. -/
inductive DestColumn where
  | own | broadcast | downNode | other
  deriving DecidableEq, Repr

/-- The column of a DEST. -/
def State.destColumn (s : State) (a : Addr) : DestColumn :=
  if a = s.controller.own then .own
  else if a = Config.broadcast then .broadcast
  else if (s.node a).role.isDown then .downNode
  else .other

/-- Whether the claim half is made (R123). -/
def claims : UplinkAction → DestColumn → Bool
  | .claim, .own | .claim, .broadcast | .claimForward, .own | .claimForward, .broadcast => true
  | _, _ => false

/-- What the forward half does (R123): forwarded, FORWARD-DROP, or nothing. -/
inductive ForwardHalf where
  | forwarded | dropLogged | nothing
  deriving DecidableEq, Repr

def forwardHalf : UplinkAction → DestColumn → ForwardHalf
  | .forward, .broadcast | .forward, .downNode | .claimForward, .broadcast | .claimForward, .downNode =>
    .forwarded
  | .forward, .own | .forward, .other | .claimForward, .other => .dropLogged
  | _, _ => .nothing

/-- An uplink frame whose source has passed R122: the claim half first, then the forward half (R123). -/
def Ev.uplinkFrame (ev : Ev) (f : Frame) : Ev :=
  let k := ev.st.kinds.get f.kind.toFin
  let c := ev.st.destColumn f.dest
  let ev := if claims k.action c then ev.claim f else ev
  match forwardHalf k.action c with
  | .forwarded => ev.forward f k.answerExpected
  | .dropLogged => ev.forwardDrop f
  | .nothing => ev

/-! ## The Node Supervisor (R138 to R140) -/

/-- A frame discarded as UNEXPECTED-ANSWER (R110, R138). -/
def Ev.unexpected (ev : Ev) (f : Frame) : Ev := ev.log { kind := .unexpectedAnswer, header := some f.header }

/-- The connector after an answer from the post of a bay: the one it reports, and the stored one for a forwarded frame's
answer, from which no evidence is taken (R140 step 3). -/
def Ev.answeredConnector (ev : Ev) (t : Transaction) (f : Frame) (b : BayIx) : Connector :=
  match t.kind, postReport? f.payload with
  | .forward _, _ | _, none => (ev.bay b).dyn.connector
  | _, some r => r.connector

/-- Step 1 of R140 for the source's Node Map entry `e` as it stood before the event: its contact record is updated, and a
post that was UNREACHABLE ends its bay's unreachable cause. -/
def Ev.restoreContact (ev : Ev) (t : Transaction) (f : Frame) (e : NodeEntry) : Ev :=
  let ev := ev.onState (·.contactAnswered f.src)
  match e.role, e.bay with
  | .post, some b => if e.isUnreachable then ev.contactRestored b (ev.answeredConnector t f b) else ev
  | _, _ => ev

/-- Step 2 of R140: the evidence of an answer to an ALLOT or POLL, by the role and the bay of its source's Node Map entry
(R128). -/
def Ev.takeEvidence (ev : Ev) (t : Transaction) (f : Frame) (e : NodeEntry) (wasPlug : Bool) : Ev :=
  match t.kind, e.role, e.bay with
  | .forward _, _, _ => ev
  | k, .post, some b =>
    match postReport? f.payload with
    | some r => ev.postEvidence b r wasPlug (k == .poll)
    | none => ev
  | _, .sensor, some b => if f.kind = Kind.occupancy then ev.sensorEvidence b f.payload else ev
  | _, _, _ => ev

/-- The copy of an answer for the notice destination, its CHECK computed afresh; none for 0x00 (R108). -/
def State.copyOf (s : State) (f : Frame) : Option Frame :=
  if s.controller.noticeDest = Config.nullAddr then none else some { f with dest := s.controller.noticeDest }

/-- An answered transaction (R140): contact record, evidence, waitlist scan (R39), then the answer carried up
or the copy. The recompute and the arbiter's choice end the event. The BAY-NOTICE of the bay stands behind the
FAULT-NOTICE of every error that the evidence logs, ENERGY-REGRESS and OVERDRAW among them (DESIGN CHOICE, log 38). -/
def Ev.answered (ev : Ev) (t : Transaction) (f : Frame) (copyUp : Bool) : Ev :=
  let e := ev.st.node f.src
  let wasPlug := e.bay.any ev.st.plugEvidence
  let ev := (ev.onState (·.setTransaction none)).restoreContact t f e
  let ev := (ev.takeEvidence t f e wasPlug).flushNotes.runScan
  match t.kind with
  | .forward _ => ev.place f
  | _ => if copyUp then ev.placeOpt (ev.st.copyOf f) else ev

/-- Whether a frame from the transaction's node answers a POLL: a POST-STATUS from a post or an OCCUPANCY from
a sensor, of the form Chapter 11 gives (R138, R180, R181). -/
def answersPoll (role : Role) (f : Frame) : Bool :=
  match role with
  | .post => f.kind == Kind.postStatus && (postReport? f.payload).isSome
  | .sensor => f.kind == Kind.occupancy && 2 ≤ f.payload.length
  | _ => false

/-- Whether a frame from the transaction's node answers an ALLOT of a sequence (R138). -/
def answersAllot (sequence : Nat) (f : Frame) : Bool :=
  f.kind == Kind.postStatus
    && (match postReport? f.payload with | some r => r.ack == sequence | none => false)

/-- Whether a frame with matching source and TAG answers the transaction (R138). -/
def answersTransaction (t : Transaction) (role : Role) (f : Frame) : Bool :=
  match t.kind with
  | .forward _ => true
  | .poll => answersPoll role f
  | .allot _ q => answersAllot q f

/-- A downlink frame whose source has passed R122, matched against the outstanding transaction (R110, R138). -/
def Ev.downlinkFrame (ev : Ev) (f : Frame) : Ev :=
  match ev.st.scheduler.transaction with
  | none => ev.unexpected f
  | some t =>
    if t.phase ≠ .window ∨ f.src ≠ t.frame.dest ∨ f.tag ≠ t.frame.tag then ev.unexpected f
    else if answersTransaction t (ev.st.node f.src).role f then
      ev.answered t f (ev.st.kinds.get f.kind.toFin).copyUp
    else ev.windowClosed t

/-! ## Reception and classification -/

/-- The source test (R122). -/
def State.sourcePasses (s : State) (p : Port) (f : Frame) : Bool :=
  match p with
  | .uplink => (s.node f.src).role.isUp
  | .downlink => (s.node f.src).role.isDown

/-- A frame handed to the Frame Classifier (R122, R123, R128). -/
def Ev.classify (ev : Ev) (p : Port) (f : Frame) : Ev :=
  if !ev.st.sourcePasses p f then ev.log { kind := .notPermitted, header := some f.header }
  else
    match p with
    | .uplink => ev.uplinkFrame f
    | .downlink => ev.downlinkFrame f

/-- The end of a received frame: tested, and classified or dropped with its error; the receive buffer is free
at once (R103). -/
def Ev.frameEnd (ev : Ev) (p : Port) (chars : List RxChar) : Ev :=
  let ev := ev.onState (·.setRx p ⟨.idle, []⟩)
  match receive chars with
  | .ok f => ev.classify p f
  | .error k => ev.log { kind := k, header := rxHeader? chars }

/-- FRAME_RECEPTION (R103): a port that is assembling a frame ends it. -/
def execFrameReception (port : Port) (chars : List RxChar) (s : State) : Result :=
  s.event ((s.rx port).state == .assembling) (·.frameEnd port chars)

/-! ## Sending on the uplink (R105) -/

/-- The uplink port may start: it is not transmitting and a frame waits. -/
def State.uplinkReady (s : State) : Bool := s.uplink.sending.isNone && !s.uplink.fifo.isEmpty

/-- The head of the FIFO leaves it and goes on the line. -/
def State.uplinkStart (s : State) : State :=
  { s with uplink := { s.uplink with sending := s.uplink.fifo.head?, fifo := s.uplink.fifo.tail } }

/-- UPLINK_SEND_START (R105). -/
def execUplinkSendStart (s : State) : Result := s.event s.uplinkReady (·.onState State.uplinkStart)

/-- UPLINK_SEND_END (R105): the last stop bit has been sent. -/
def execUplinkSendEnd (s : State) : Result :=
  s.event s.uplink.sending.isSome (·.onState (·.setUplinkSending none))

/-! ## Sending on the downlink (R109, R137) -/

/-- The downlink port may start the transaction's frame: it waits, and the port is in RECEIVING and assembles
no frame (R109). -/
def State.downlinkReady (s : State) : Bool :=
  (match s.scheduler.transaction with | some t => t.phase == .waiting | none => false)
    && s.downlink.sending.isNone && s.downlink.rx.state != .assembling

/-- The transaction's frame goes on the line. -/
def State.downlinkStart (s : State) : State :=
  match s.scheduler.transaction with
  | none => s
  | some t => (s.setTransaction (some { t with phase := .sending })).setDownlinkSending (some t.frame)

/-- DOWNLINK_FRAME_START (R109). -/
def execDownlinkFrameStart (s : State) : Result := s.event s.downlinkReady (·.onState State.downlinkStart)

/-- Whether a transaction opens a reply window at its end of sending (R137). -/
def Transaction.opensWindow (t : Transaction) : Bool :=
  match t.kind with
  | .forward answerExpected => answerExpected && t.frame.dest != Config.broadcast
  | _ => true

/-- The end of sending (R109): direction-enable is released, and the transaction whose frame was sent opens its
reply window or ends as sent (R137). A frame finished after a warm reset has no transaction (R112). -/
def State.sendingEnds (s : State) : State :=
  let s := s.setDownlinkSending none
  match s.scheduler.transaction with
  | none => s
  | some t =>
    if t.phase = .sending then
      s.setTransaction (if t.opensWindow then some { t with phase := .window } else none)
    else s

/-- END_OF_SENDING (R109). -/
def execEndOfSending (s : State) : Result :=
  s.event s.downlink.sending.isSome (·.onState State.sendingEnds)

/-- The reply window of the outstanding transaction is open. -/
def State.windowOpen (s : State) : Bool :=
  match s.scheduler.transaction with
  | some t => t.phase == .window
  | none => false

/-- The outstanding transaction's window closes (R139). -/
def Ev.closeWindow (ev : Ev) : Ev :=
  match ev.st.scheduler.transaction with
  | some t => ev.windowClosed t
  | none => ev

/-- REPLY_WINDOW_CLOSE (R139). -/
def execReplyWindowClose (s : State) : Result := s.event s.windowOpen Ev.closeWindow

end Sys2Proof.Machine
end

