-- ==== Sys2Proof/Machine/Requests.lean ====
section
/-!
DEFINITION. The booking requests (Chapter 2): HOLD, AMEND, FREE, QUERY and ARRIVE, each taken from the head of
the hold request queue and handled whole (R27).
-/
namespace Sys2Proof.Machine

/-! ## Taking and answering -/

/-- The request at the head of the hold request queue, when it is of a kind, is removed and handled as one
event (R27). Where the head is of another kind, or the queue is empty, this kind of request is not the one to
be taken (log 2). -/
def State.takeRequest (s : State) (kind : Byte) (body : Request → Ev → Ev) : Result :=
  match s.requests with
  | [] => .next s
  | r :: q =>
    .next (if s.heldInReset || r.kind != kind then s
      else (body r (Ev.startRequest { s with requests := q })).finish)

/-- The ANSWER to a request (R28). -/
def Ev.reply (ev : Ev) (r : Request) (t : Ticket) (a : AnswerBody) : Ev :=
  ev.answer (ev.st.buildAnswer r.src r.tag Kind.answer (answerPayload r.kind t a))

/-- An ANSWER with outcome REFUSED (R28). -/
def Ev.refuse (ev : Ev) (r : Request) (t : Ticket) (why : Reason) : Ev := ev.reply r t (refusal why)

/-- The HOLD-STATE that answers a QUERY or an ARRIVE (R28). -/
def Ev.replyState (ev : Ev) (r : Request) (payload : List Byte) : Ev :=
  ev.answer (ev.st.buildAnswer r.src r.tag Kind.holdState payload)

/-- GRANTED with bay, slot and stored window (R28). -/
def grantedAnswer (s : State) (bay slot : Nat) (h : Hold) : AnswerBody :=
  { outcome := 0, bay := bay, slot := slot, windowStart := (s.site h.windowStart).toNat,
    windowEnd := (s.site h.windowEnd).toNat, graceEnd := (s.site h.graceEnd).toNat }

/-- QUEUED with position and stored window (R28). -/
def queuedAnswer (s : State) (position : Nat) (h : Hold) : AnswerBody :=
  { outcome := 1, position := position, windowStart := (s.site h.windowStart).toNat,
    windowEnd := (s.site h.windowEnd).toNat, graceEnd := (s.site h.graceEnd).toNat }

/-- Bay number and slot code of a location; bay 0 for the Waitlist (R30). -/
def Location.codes : Location → Nat × Nat
  | .active b => (bayNo b, Slot.active.code)
  | .staged b => (bayNo b, Slot.staged.code)
  | .waitlist => (0, waitlistCode)

/-! ## HOLD (R30 to R37) -/

/-- The hold record a HOLD is formed into (R31): window length clamped into 15–480 minutes, grace 0 taking the
default of the class wanted, energy wanted 0 absent and above 200000 stored as 200000, priority above 3 taken
as 3 (R181). -/
def State.formHold (s : State) (r : Request) (c : BayClass) (entrySeen : Bool) : Hold :=
  let p := r.payload
  let start := s.now + mins (byteAt p 6)
  let grace := if byteAt p 9 = 0 then (s.classOf c).grace else clamp 1 60 (byteAt p 9)
  let energy := field32 p 11
  { ticket := some (ticketField p 0), requester := some r.src,
    priority := if byteAt p 10 = 0 then 0 else if byteAt p 10 = 1 then 1 else if byteAt p 10 = 2 then 2 else 3,
    windowStart := start, windowEnd := start + mins (clamp 15 480 (field16 p 7)),
    graceEnd := start + mins grace,
    energyWanted := if energy = 0 then none else some (min 200000 energy),
    entrySeen := entrySeen, arrival := none, occupiedSeconds := 0, chargedSeconds := 0,
    energyDelivered := 0, lastPostEnergy := none }

/-- The checks of R30 in their order: the class wanted, or the refusal. -/
def State.checkHold (s : State) (r : Request) : Except AnswerBody BayClass :=
  let p := r.payload
  let t := ticketField p 0
  if !(s.node r.src).permissions.hold then .error (refusal .notPermitted)
  else if t = 0 then .error (refusal .badTicket)
  else
    match s.lookup t with
    | some e => .error { refusal .duplicate with bay := e.location.codes.1, slot := e.location.codes.2 }
    | none =>
      match BayClass.ofNat? (byteAt p 4) with
      | none => .error (refusal .badClass)
      | some c => if 120 < byteAt p 6 then .error (refusal .tooFar) else .ok c

/-- A HOLD that has passed its checks: placed and answered GRANTED, or queued and answered QUEUED, its Early
Arrival List entry consumed, or refused WAITLIST-FULL (R31, R35, R37). -/
def Ev.placeRequest (ev : Ev) (r : Request) (c : BayClass) : Ev :=
  let t := ticketField r.payload 0
  let h := ev.st.formHold r c (ev.st.early.any (·.ticket == t))
  let preferred := bayOfNo (byteAt r.payload 5)
  let q := ev.search c preferred none h.windowStart
  match q.2 with
  | some (b, sl) =>
    let ev := (q.1.placeHold b sl h).onState (·.removeEarly t)
    ev.reply r t (grantedAnswer ev.st (bayNo b) sl.code h)
  | none =>
    if q.1.st.admitsTail h.priority then
      let ev := (q.1.joinWaitlist insertTail h c preferred).onState (·.removeEarly t)
      ev.reply r t (queuedAnswer ev.st (waitPosition ev.st.waitlist h.ticket) h)
    else q.1.refuse r t .waitlistFull

/-- A HOLD request (R30). -/
def Ev.holdRequest (r : Request) (ev : Ev) : Ev :=
  match ev.st.checkHold r with
  | .error a => ev.reply r (ticketField r.payload 0) a
  | .ok c => ev.placeRequest r c

/-- HOLD (R35). -/
def execHold (s : State) : Result := s.takeRequest Kind.hold Ev.holdRequest

/-! ## Ownership (R48, R49) -/

/-- The checks an AMEND and a FREE share, in their order: the index entry of the ticket, or the refusal. -/
def State.checkOwned (s : State) (r : Request) : Except Reason IndexEntry :=
  let t := ticketField r.payload 0
  if t = 0 then .error .badTicket
  else
    match s.lookup t with
    | none => .error .unknownTicket
    | some e =>
      if e.requester ≠ r.src ∧ (s.node r.src).permissions.freeAny = false then .error .notOwner else .ok e

/-- The hold that stands where an index entry says. Its own ticket is not compared with the one named: after a storage
fault a slot may hold another hold, and the request acts on whatever stands there (DESIGN CHOICE, log 7). -/
def State.holdAt (s : State) (t : Ticket) : Location → Option Hold
  | .active b => (s.bay b).dyn.active
  | .staged b => (s.bay b).dyn.staged
  | .waitlist => (s.waiting t).map (·.hold)

/-- An AMEND or FREE that has passed its checks acts on the hold at its location. A location without a hold,
which only a storage fault leaves, is answered UNKNOWN-TICKET (log 7). -/
def Ev.ownedRequest (ev : Ev) (r : Request) (act : Ev → Location → Hold → Ev) : Ev :=
  let t := ticketField r.payload 0
  match ev.st.checkOwned r with
  | .error why => ev.refuse r t why
  | .ok e =>
    match ev.st.holdAt t e.location with
    | none => ev.refuse r t .unknownTicket
    | some h => act ev e.location h

/-! ## AMEND (R48) -/

/-- The window end an AMEND gives (R48): now plus the new end, the window length clamped into 15 to 480 minutes.
The clamp is taken in seconds and an end before the start counts as a negative length (log 17). -/
def amendedEnd (now start : Time) (newEnd : Nat) : Time :=
  let length := (now + mins (clamp 1 480 newEnd) - start).toInt
  start + secs (max 900 (min 28800 length)).toNat

/-- A successful AMEND's effect and answer, by location (R48). Where storage faults have put the ticket on the Waitlist
twice, every entry of it takes the window end, and the answer shows the first (DESIGN CHOICE, log 42). -/
def Ev.amendAt (r : Request) (ev : Ev) (l : Location) (h : Hold) : Ev :=
  let t := ticketField r.payload 0
  let h' := { h with windowEnd := amendedEnd ev.st.now h.windowStart (field16 r.payload 4) }
  match l with
  | .active b =>
    let conflict := match (ev.bay b).dyn.staged with
      | some n => laterThan (h'.windowEnd + mins ev.st.timing.turnover) n.windowStart
      | none => false
    if conflict then ev.refuse r t .conflict
    else
      let ev := (ev.touch b).modDyn b (fun d => { d with active := some h' })
      let ev := if h'.arrived then
          ev.modTimer b (fun x => { x with overstay := some (ev.st.overstayOf h') })
        else ev
      let st := (ev.bay b).dyn.state
      let ev := if st = .faulted ∨ st = .closed then ev else (ev.rederive b).note b .amended
      ev.reply r t (grantedAnswer ev.st (bayNo b) Slot.active.code h')
  | .staged b =>
    let ev := ev.modDyn b (fun d => { d with staged := some h' })
    ev.reply r t (grantedAnswer ev.st (bayNo b) Slot.staged.code h')
  | .waitlist =>
    let ev := ev.onState (fun s => s.setWaitlist
      (s.waitlist.map (fun e =>
        if e.hold.ticket = some t then { e with hold := { e.hold with windowEnd := h'.windowEnd } } else e)))
    ev.reply r t (queuedAnswer ev.st (waitPosition ev.st.waitlist (some t)) h')

/-- AMEND (R48). -/
def execAmend (s : State) : Result :=
  s.takeRequest Kind.amend (fun r ev => ev.ownedRequest r (Ev.amendAt r))

/-! ## FREE (R49) -/

/-- A successful FREE's effect and answer, by location (R49). -/
def Ev.freeAt (r : Request) (ev : Ev) (l : Location) (h : Hold) : Ev :=
  let t := ticketField r.payload 0
  let a := grantedAnswer ev.st l.codes.1 l.codes.2 h
  let ev := match l with
    | .active b => ev.endActive b (.ended .freed)
    | .staged b => ev.endStaged b (.ended .freed)
    | .waitlist =>
      (ev.onState (fun s => match s.waiting t with | some e => s.removeWaiting e | none => s)).holdNotice h .ended
        (bareSummary ev.st 0 h .freed)
  ev.reply r t a

/-- FREE (R49). -/
def execFree (s : State) : Result :=
  s.takeRequest Kind.free (fun r ev => ev.ownedRequest r (Ev.freeAt r))

/-! ## QUERY (R50) -/

/-- HOLD-STATE by ticket with location NONE (Table 11-2). -/
def noneState (t : Ticket) : List Byte := [0] ++ be32w t ++ [0]

/-- HOLD-STATE by ticket of a hold record (Table 11-2). -/
def holdStatePayload (s : State) (t : Ticket) (location bay bayState position : Nat) (h : Hold) : List Byte :=
  [0] ++ be32w t ++ [byteOf location, byteOf bay, byteOf bayState, byteOf position, byteOf h.priority.val,
      flagByte [h.entrySeen, h.arrived]]
    ++ be32w (s.site h.windowStart) ++ be32w (s.site h.windowEnd) ++ be32w (s.site h.graceEnd)
    ++ (match h.arrival with | some a => be32w (s.site a) | none => be32 0)
    ++ be32 h.occupiedSeconds ++ be32 h.chargedSeconds ++ be32 h.energyDelivered

/-- HOLD-STATE by ticket of an EARLY ticket: its recorded time stands in the window start field (11.2). -/
def earlyStatePayload (s : State) (t : Ticket) (recorded : Time) : List Byte :=
  [0] ++ be32w t ++ [byteOf earlyCode, 0, 0, 0, 0, 0] ++ be32w (s.site recorded) ++ List.replicate 24 0

/-- HOLD-STATE by ticket (R50). -/
def State.stateByTicket (s : State) (t : Ticket) : List Byte :=
  if t = 0 then noneState 0
  else
    match s.lookup t with
    | some e =>
      match s.holdAt t e.location with
      | none => noneState t
      | some h =>
        match e.location with
        | .active b => holdStatePayload s t Slot.active.code (bayNo b) (s.bay b).dyn.state.code 0 h
        | .staged b => holdStatePayload s t Slot.staged.code (bayNo b) (s.bay b).dyn.state.code 0 h
        | .waitlist => holdStatePayload s t waitlistCode 0 0 (waitPosition s.waitlist (some t)) h
    | none =>
      match s.early.find? (fun e => e.ticket == t) with
      | some e => earlyStatePayload s t e.recorded
      | none => noneState t

/-- One slot of HOLD-STATE by bay: ticket and window, all 0 where the slot is empty. -/
def slotBytes (s : State) : Option Hold → List Byte
  | none => List.replicate 12 0
  | some h =>
    be32w (h.ticket.getD 0) ++ be32w (s.site h.windowStart) ++ be32w (s.site h.windowEnd)

/-- HOLD-STATE by bay (R50): 2 bytes for a bay outside 1–128, the second the number asked for, which no rule gives
(DESIGN CHOICE, log 33). -/
def State.stateByBay (s : State) (n : Nat) : List Byte :=
  match bayOfNo n with
  | none => [1, byteOf n]
  | some b =>
    let d := (s.bay b).dyn
    [1, byteOf n, byteOf d.state.code, byteOf d.occupancy.code, byteOf d.connector.code,
      (match d.active with
        | some h => flagByte [true, h.ticket.isNone, h.arrived]
        | none => 0)]
      ++ slotBytes s d.active ++ slotBytes s d.staged

/-- The HOLD-STATE that answers a QUERY, by its form; another form names no ticket (R50, R180, R181). -/
def State.queryState (s : State) (p : List Byte) : List Byte :=
  if byteAt p 0 = 1 then s.stateByBay (byteAt p 5)
  else if byteAt p 0 = 0 then s.stateByTicket (ticketField p 1)
  else noneState (ticketField p 1)

/-- QUERY (R50). -/
def execQuery (s : State) : Result :=
  s.takeRequest Kind.query (fun r ev => ev.replyState r (ev.st.queryState r.payload))

/-! ## ARRIVE (R45 to R47) -/

/-- Entry seen of a hold. -/
def Hold.seen (h : Hold) : Hold := { h with entrySeen := true }

/-- The ARRIVE of a ticket in no hold: it is added to the Early Arrival List, the oldest entry leaving a full
list, or moved to its newest end (R47, R65). -/
def State.recordEarly (s : State) (t : Ticket) : State :=
  let others := s.early.filter (fun e => e.ticket != t)
  let kept := if Config.earlyList ≤ others.length then others.tail else others
  { s with early := kept ++ [⟨t, s.now, some (s.now + secs 600)⟩] }

/-- The ARRIVE of the active hold's ticket (R45, R46). -/
def Ev.arriveActive (ev : Ev) (b : BayIx) (h : Hold) : Ev :=
  let ev := (ev.touch b).modDyn b (fun d => { d with active := some h.seen })
  if (ev.bay b).dyn.state = .contested then
    let r := ev.relocationSearch b h.seen
    match r.2 with
    | some (b', sl') => r.1.relocateTo b .active h.seen b' sl'
    | none => r.1.note b .holderWaiting
  else ev

/-- An ARRIVE carried out (R46). A ticket whose slot a storage fault has emptied changes nothing, and is answered
location NONE (DESIGN CHOICE, log 7). Where storage faults have put the ticket on the Waitlist twice, entry seen is set
in every entry of it (DESIGN CHOICE, log 42). -/
def Ev.arriveAt (ev : Ev) (t : Ticket) : Ev :=
  match ev.st.lookup t with
  | none => ev.onState (·.recordEarly t)
  | some e =>
    match e.location, ev.st.holdAt t e.location with
    | .active b, some h => ev.arriveActive b h
    | .staged b, some h => ev.modDyn b (fun d => { d with staged := some h.seen })
    | .waitlist, some _ => ev.onState (fun s => s.setWaitlist
        (s.waitlist.map (fun w => if w.hold.ticket = some t then { w with hold := w.hold.seen } else w)))
    | _, none => ev

/-- An ARRIVE request (R46). -/
def Ev.arriveRequest (r : Request) (ev : Ev) : Ev :=
  let t := ticketField r.payload 0
  if !(ev.st.node r.src).permissions.arrive then ev.refuse r t .notPermitted
  else if t = 0 then ev.refuse r t .badTicket
  else
    let ev := ev.arriveAt t
    ev.replyState r (ev.st.stateByTicket t)

/-- ARRIVE (R46). -/
def execArrive (s : State) : Result := s.takeRequest Kind.arrive Ev.arriveRequest

end Sys2Proof.Machine
end

