-- ==== Sys2Proof/Machine/Management.lean ====
section
/-!
DEFINITION. The Management Handler's tables (Chapter 10): SET-TABLE of each writable table with its checks and
effects, and GET-TABLE over the tables and views of Chapter 11.
-/
namespace Sys2Proof.Machine

/-! ## Taking and answering (R172) -/

/-- The request at the head of the management queue, when it is the one a command takes, is removed and handled
as one event (R172); otherwise this command is not the one to be taken (log 2). -/
def State.takeManagement (s : State) (mine : Request → Bool) (body : Request → Ev → Ev) : Result :=
  match s.management with
  | [] => .next s
  | r :: q =>
    .next (if s.heldInReset || !mine r then s
      else (body r (Ev.startRequest { s with management := q })).finish)

/-- The MGMT-ANSWER to a request: its KIND, and what follows (R172). -/
def Ev.mgmt (ev : Ev) (r : Request) (content : List Byte) : Ev :=
  ev.answer (ev.st.buildAnswer r.src r.tag Kind.mgmtAnswer (r.kind :: content))

/-- A MGMT-ANSWER of a status alone. -/
def Ev.status (ev : Ev) (r : Request) (st : Status) : Ev := ev.mgmt r [byteOf st.code]

/-- OK, or CLAMPED when a value was stored other than as written (R173). -/
def Ev.stored (ev : Ev) (r : Request) (clamped : Bool) : Ev := ev.status r (if clamped then .clamped else .ok)

/-! ## SET-TABLE: the form of the frame (R173) -/

/-- A SET-TABLE that names a table. -/
def namesTable (id : Nat) (r : Request) : Bool :=
  r.kind == Kind.setTable && !r.payload.isEmpty && byteAt r.payload 0 == id

/-- The entries of a run of entry data. -/
def splitEntries (size : Nat) (data : List Byte) : List (List Byte) :=
  (List.range (data.length / size)).map (fun i => (data.drop (i * size)).take size)

/-- The start index and the entries of a SET-TABLE, or BAD-INDEX (R173, R180). -/
def tableEntries (p : List Byte) (size first last : Nat) : Except Status (Nat × List (List Byte)) :=
  let start := byteAt p 1
  let data := p.drop 2
  if p.length < 2 ∨ data = [] ∨ data.length % size ≠ 0 then .error .badIndex
  else if start < first ∨ last < start ∨ last + 1 < start + data.length / size then .error .badIndex
  else .ok (start, splitEntries size data)

/-- What a write of one entry gives: the refusal of the whole frame, or the event with the entry written and
whether a value was clamped. -/
abbrev EntryWrite := Ev → Nat → List Byte → Except Status (Ev × Bool)

/-- The entries written in index order, each checked against the table as the earlier ones leave it; the first
that fails refuses the whole frame (R173). -/
def writeEntries (write : EntryWrite) : Ev → Nat → List (List Byte) → Except Status (Ev × Bool)
  | ev, _, [] => .ok (ev, false)
  | ev, i, e :: es =>
    match write ev i e with
    | .error st => .error st
    | .ok (ev, c) =>
      match writeEntries write ev (i + 1) es with
      | .error st => .error st
      | .ok (ev, c') => .ok (ev, c || c')

/-- A SET-TABLE of one table: refused whole, or written whole and answered OK or CLAMPED (R173). -/
def Ev.writeTable (size first last : Nat) (write : EntryWrite) (r : Request) (ev : Ev) : Ev :=
  match tableEntries r.payload size first last with
  | .error st => ev.status r st
  | .ok (start, entries) =>
    match writeEntries write ev start entries with
    | .error st => ev.status r st
    | .ok (ev, clamped) => ev.stored r clamped

/-- A number clamped, and whether that changed it. -/
def clampTo (lo hi n : Nat) : Nat × Bool := (clamp lo hi n, clamp lo hi n != n)

/-! ## Node Map (R115 to R118) -/

/-- A Node Map entry as asked for: its role, its permissions and its bay byte. -/
structure NodeWrite where
  role : Role
  asked : Permissions
  bayByte : Nat

/-- The bay association stored: none for a role other than POST and SENSOR (R116). -/
def NodeWrite.bay (w : NodeWrite) : Option BayIx := if w.role.isDown then bayOfNo w.bayByte else none

/-- The write leaves a POST or SENSOR entry, or a non-downlink entry, with the same node at the same bay. -/
def NodeWrite.keepsNode (w : NodeWrite) (old : NodeEntry) : Bool :=
  (w.role == old.role && w.bay == old.bay) || (!w.role.isDown && !old.role.isDown)

/-- The bay an entry's node belongs to. -/
def NodeEntry.nodeBay (e : NodeEntry) : Option BayIx := if e.role.isDown then e.bay else none

/-- Another entry gives the bay a node of the role already. -/
def State.roleTaken (s : State) (a : Addr) (role : Role) (b : BayIx) : Bool :=
  (downNodes s.nodes).any (fun e => e.1 != a && e.2.role == role && e.2.bay == some b)

/-- A bay is CLOSED. -/
def State.isClosed (s : State) (b : BayIx) : Bool := (s.bay b).dyn.state == .closed

/-- The checks of R117 in their order. -/
def State.checkNode (s : State) (a : Addr) (w : NodeWrite) : Option Status :=
  let old := s.node a
  if old.role = .self ∨ w.role = .self then some .badIndex
  else if w.role.isDown && (a == Config.nullAddr || a == Config.broadcast) then some .badIndex
  else if w.role.isDown && w.bay.isNone then some .badIndex
  else if w.bay.any (s.roleTaken a w.role) then some .badIndex
  else if !w.keepsNode old && !(old.nodeBay.all s.isClosed && w.bay.all s.isClosed) then some .bayInUse
  else none

/-- The delivery record of a bay whose post node becomes absent (R129). -/
def Delivery.postAbsent (d : Delivery) : Delivery :=
  { d with target := 0, inForce := some 0, drawn := 0, unacknowledged := none, repeatMark := false,
           overdrawCount := 0, linkLost := false, state := .none }

/-- The delivery record of a bay whose post node becomes present (R129). -/
def Delivery.postPresent (d : Delivery) : Delivery :=
  { d with inForce := none, drawn := 0, unacknowledged := none, repeatMark := false, overdrawCount := 0,
           linkLost := false, state := .unknown }

/-- The delivery record of the bay of a POST entry changed. -/
def State.modPostDelivery (s : State) (role : Role) (b : Option BayIx) (f : Delivery → Delivery) : State :=
  match role, b with
  | .post, some b => s.modDelivery b f
  | _, _ => s

/-- The outstanding transaction to a node whose contact record is discarded is marked so (R118, R139). -/
def State.loseDest (s : State) (a : Addr) : State :=
  match s.scheduler.transaction with
  | some t => if t.frame.dest = a then s.setTransaction (some { t with destLost := true }) else s
  | none => s

/-- A contact record as it is created (R118, R143). -/
def Contact.fresh (now : Time) : Contact := ⟨true, 0, now, now⟩

/-- One Node Map entry written (R116, R118). -/
def State.writeNode (s : State) (a : Addr) (w : NodeWrite) : State :=
  let old := s.node a
  let keeps := w.keepsNode old
  let contact := if keeps then old.contact else if w.role.isDown then some (Contact.fresh s.now) else none
  let s' := { s with nodes := s.nodes.set (addrIx a) ⟨w.role, w.asked.stored w.role, w.bay, contact⟩ }
  if keeps then s'
  else
    ((if old.contact.isSome then s'.loseDest a else s').modPostDelivery old.role old.bay
      Delivery.postAbsent).modPostDelivery w.role w.bay Delivery.postPresent

/-- The entry of a Node Map SET-TABLE. -/
def writeNodeEntry : EntryWrite := fun ev i e =>
  match Role.ofNat? (byteAt e 0) with
  | none => .error .badIndex
  | some role =>
    let w : NodeWrite := ⟨role, Permissions.ofNat (byteAt e 1), byteAt e 2⟩
    let a : Addr := BitVec.ofNat 8 i
    match ev.st.checkNode a w with
    | some st => .error st
    | none => .ok (ev.onState (·.writeNode a w), w.asked.stored role != w.asked)

/-- NODE_MAP (R117). -/
def execNodeMap (s : State) : Result :=
  s.takeManagement (namesTable 1) (Ev.writeTable 3 0 255 writeNodeEntry)

/-! ## Kind Filter (R121) -/

/-- The entry of a Kind Filter SET-TABLE: ALLOT and POLL store DROP, and so does an action above 3 (R181). -/
def writeKindEntry : EntryWrite := fun ev i e =>
  let asked := UplinkAction.ofNat? (byteAt e 0)
  let fixed := i = Kind.allot.toNat ∨ i = Kind.poll.toNat
  let action := if fixed then .drop else asked.getD .drop
  let k : KindEntry := ⟨action, bitAt (byteAt e 1) 0, bitAt (byteAt e 1) 1⟩
  .ok (ev.onState (fun s => { s with kinds := s.kinds.set (BitVec.ofNat 8 i).toFin k }), asked != some action)

/-- KIND_FILTER (R121). -/
def execKindFilter (s : State) : Result :=
  s.takeManagement (namesTable 2) (Ev.writeTable 2 0 255 writeKindEntry)

/-! ## Class Table (R174) -/

/-- A substitution place: a class, or empty for 0xFF and for 4 to 0xFE. -/
def substitutionPlace (n : Nat) : Option BayClass × Bool := (BayClass.ofNat? n, 3 < n && n != 255)

/-- A Class Table entry as stored, and whether a value was stored other than as written (R174, R76, R181). -/
def classEntryOf (e : List Byte) : ClassEntry × Bool :=
  let weight := clampTo 1 15 (byteAt e 0)
  let stay := clampTo 30 480 (field16 e 3)
  let grace := clampTo 1 60 (byteAt e 5)
  let s0 := substitutionPlace (byteAt e 6)
  let s1 := substitutionPlace (byteAt e 7)
  let s2 := substitutionPlace (byteAt e 8)
  ({ weight := weight.1, mode := if byteAt e 1 = 1 then .holdToEnd else .rotate,
     walkIn := bitAt (byteAt e 2) 0, verify := bitAt (byteAt e 2) 1, stay := stay.1, grace := grace.1,
     substitution := ⟨[s0.1, s1.1, s2.1], rfl⟩ },
   weight.2 || (1 < byteAt e 1) || stay.2 || grace.2 || s0.2 || s1.2 || s2.2)

/-- The rotation deadline of an admitted bay of a class follows the class mode (R92). -/
def State.modeWritten (s : State) (i : Fin 4) (b : BayIx) : State :=
  if (s.bay b).cls.ix = i ∧ (s.bay b).alloc.admittedSince.isSome = true then s.freshRotation b else s

/-- The entry of a Class Table SET-TABLE. -/
def writeClassEntry : EntryWrite := fun ev i e =>
  let c := classEntryOf e
  let ix : Fin 4 := ⟨i % 4, by omega⟩
  .ok (((ev.onState (fun s => { s with classes := s.classes.set ix c.1 })).onState
    (fun s => allBays.foldl (·.modeWritten ix ·) s)).wantRecompute, c.2)

/-- CLASS_TABLE (R174). -/
def execClassTable (s : State) : Result :=
  s.takeManagement (namesTable 3) (Ev.writeTable 9 0 3 writeClassEntry)

/-! ## Bay Configuration (R175) -/

/-- Class and post maximum of a CLOSED bay written; the ceiling follows (R175, R82). The bay neither joins nor leaves the
Charge Queue and keeps its rotation deadline, also where a storage fault has stored CLOSED at a bay that the allocator
still has as CHARGING: its report of CHARGING has not changed (DESIGN CHOICE, log 40). -/
def Ev.configureBay (ev : Ev) (b : BayIx) (c : BayClass) (postMax : Nat) : Ev :=
  (ev.onState (·.modBay b (fun y => { y with cls := c, postMax := postMax }))).setCeiling b postMax

/-- The entry of a Bay Configuration SET-TABLE. -/
def writeBayEntry : EntryWrite := fun ev i e =>
  match bayOfNo i, BayClass.ofNat? (byteAt e 0) with
  | some b, some c =>
    if 1 < byteAt e 3 then .error .badIndex
    else
      let m := clampTo 60 800 (field16 e 1)
      let y := ev.bay b
      let enable := byteAt e 3 == 1
      if y.cls = c ∧ y.postMax = m.1 then .ok (ev.setEnable b enable, m.2)
      else if y.dyn.state = .closed then .ok ((ev.configureBay b c m.1).setEnable b enable, m.2)
      else .error .bayInUse
  | _, _ => .error .badIndex

/-- BAY_CONFIGURATION (R175). -/
def execBayConfiguration (s : State) : Result :=
  s.takeManagement (namesTable 4) (Ev.writeTable 4 1 128 writeBayEntry)

/-! ## Allocator Settings (R76, R77, R95) -/

/-- The Allocator Settings as stored; the C and B bytes are not (R76). -/
def allocatorOf (old : AllocatorSettings) (e : List Byte) : AllocatorSettings × Bool :=
  let f := clampTo 0 20000 (field16 e 0)
  let rv := clampTo 0 2000 (field16 e 2)
  let m := clampTo 60 160 (byteAt e 4)
  let s := clampTo 1 10 (byteAt e 5)
  let t := clampTo 10 100 (byteAt e 6)
  let g := clampTo 10 100 (byteAt e 7)
  let v := clampTo 10 50 (byteAt e 8)
  let p := clampTo 5 60 (byteAt e 9)
  ({ old with feeder := f.1, reserve := rv.1, minimum := m.1, step := s.1, reclaim := t.1, margin := g.1,
              overdraw := v.1, rotation := p.1 },
   f.2 || rv.2 || m.2 || s.2 || t.2 || g.2 || v.2 || p.2)

/-- A write of M at one CHARGING bay: CONFIG-MISMATCH when it raises M above the post maximum (R79). -/
def Ev.mismatchOnWrite (oldM newM : Nat) (ev : Ev) (b : BayIx) : Ev :=
  let y := ev.bay b
  if y.alloc.chargingCopy && oldM ≤ y.postMax && y.postMax < newM then
    ev.log { kind := .configMismatch, bay := some b }
  else ev

/-- A write of M at one bay that stays in the queue: a ceiling below the new M is raised to it (R82). -/
def Ev.raiseCeiling (newM : Nat) (ev : Ev) (b : BayIx) : Ev :=
  if ev.st.inQueue b && (ev.bay b).alloc.ceiling < newM then ev.setCeiling b newM else ev

/-- A write of the rotation period at one bay: a SET or DUE deadline is recomputed from the bay's
admitted-since (R66). -/
def State.periodWritten (s : State) (b : BayIx) : State :=
  match (s.bay b).timer.rotation, (s.bay b).alloc.admittedSince with
  | .clear, _ => s
  | _, some t => s.setRotation b (t + mins s.allocator.settings.rotation)
  | _, none => s

/-- The Allocator Settings replaced, with the effects of R95 before the recompute. The CONFIG-MISMATCH errors of one
write are logged in ascending bay number, an order no rule gives (DESIGN CHOICE, log 34). -/
def Ev.writeAllocator (ev : Ev) (a : AllocatorSettings) : Ev :=
  let oldM := ev.st.allocator.settings.minimum
  let ev := ev.onState (fun s => { s with allocator := { s.allocator with settings := a } })
  let ev := allBays.foldl (Ev.mismatchOnWrite oldM a.minimum) ev
  let ev := allBays.foldl (Ev.raiseCeiling a.minimum) ev.syncAll
  (ev.onState (fun s => allBays.foldl State.periodWritten s)).wantRecompute

/-- The entry of an Allocator Settings SET-TABLE. -/
def writeAllocatorEntry : EntryWrite := fun ev _ e =>
  let a := allocatorOf ev.st.allocator.settings e
  .ok (ev.writeAllocator a.1, a.2)

/-- ALLOCATOR_SETTINGS (R95). -/
def execAllocatorSettings (s : State) : Result :=
  s.takeManagement (namesTable 5) (Ev.writeTable 14 0 0 writeAllocatorEntry)

/-! ## Timing Settings (R67) -/

/-- The Timing Settings as stored (Table 11-3, with the ranges of R10, R21, R33, R43, R137, R141 to R143). -/
def timingOf (e : List Byte) : TimingSettings × Bool :=
  let w := clampTo 2 50 (byteAt e 0)
  let p := clampTo 1 60 (byteAt e 1)
  let k := clampTo 1 7 (byteAt e 2)
  let l := clampTo 10 300 (field16 e 3)
  let d := clampTo 1 7 (byteAt e 5)
  let o := clampTo 0 60 (byteAt e 6)
  let g := clampTo 0 30 (byteAt e 7)
  let r := clampTo 0 30 (byteAt e 8)
  ({ window := w.1, pollInterval := p.1, failLimit := k.1, linkLoss := l.1, debounce := d.1, overstay := o.1,
     turnover := g.1, lead := r.1 },
   w.2 || p.2 || k.2 || l.2 || d.2 || o.2 || g.2 || r.2)

/-- The deadlines of one bay after a write of O and the relocation lead: the overstay deadline of an arrived
active hold and the displacement check of a staged hold are formed again (R67; log 20). -/
def State.retime (s : State) (y : Bay) : Bay :=
  let overstay := match y.dyn.active with
    | some h => if h.arrived then some (s.overstayOf h) else y.timer.overstay
    | none => y.timer.overstay
  let check := match y.dyn.staged with
    | some h => some (s.checkOf h)
    | none => y.timer.displacement
  { y with timer := { y.timer with overstay := overstay, displacement := check } }

/-- Every node is due P after a write of P (R143). -/
def NodeEntry.redue (due : Time) (e : NodeEntry) : NodeEntry :=
  { e with contact := e.contact.map (fun c => { c with due := due }) }

/-- The Timing Settings replaced, with the effects of R67, R10, R143 and R142. -/
def State.writeTiming (s : State) (t : TimingSettings) : State :=
  let s := { s with timing := t }
  let s := { s with bays := s.bays.map (fun y => (s.retime y).modDyn BayDyn.endRun) }
  State.linkLossTests { s with nodes := s.nodes.map (NodeEntry.redue (s.now + secs t.pollInterval)) }

/-- The entry of a Timing Settings SET-TABLE. -/
def writeTimingEntry : EntryWrite := fun ev _ e =>
  .ok (ev.onState (·.writeTiming (timingOf e).1), (timingOf e).2)

/-- TIMING_SETTINGS (R67). -/
def execTimingSettings (s : State) : Result :=
  s.takeManagement (namesTable 6) (Ev.writeTable 9 0 0 writeTimingEntry)

/-! ## Fault Settings (R160) -/

/-- A severity's action; above 2 it is stored as 2 (R181). -/
def actionOf (n : Nat) : FaultAction × Bool :=
  if n = 0 then (.none, false) else if n = 1 then (.notice, false) else (.noticeAndLine, 2 < n)

/-- The Fault Settings as stored (Table 11-3). -/
def faultSettingsOf (e : List Byte) : FaultSettings × Bool :=
  let a0 := actionOf (byteAt e 16)
  let a1 := actionOf (byteAt e 17)
  let a2 := actionOf (byteAt e 18)
  ({ kinds := ⟨(List.range 16).map (fun i => KindSetting.ofNat (byteAt e i)), by
        rw [List.length_map, List.length_range]⟩,
     actions := ⟨[a0.1, a1.1, a2.1], rfl⟩,
     selections := ⟨[BitVec.ofNat 16 (field16 e 19), BitVec.ofNat 16 (field16 e 21)], rfl⟩ },
   (List.range 16).any (fun i => byteAt e i % 4 == 3) || a0.2 || a1.2 || a2.2)

/-- The Fault Settings replaced, and ALERT re-evaluated (R160, R163). -/
def State.writeFaultSettings (s : State) (f : FaultSettings) : State :=
  { s with recorder := Recorder.evalAlert { s.recorder with settings := f } }

/-- A SET-TABLE of the Fault Settings: the one entry is clamped, never refused. The answer is placed before the settings
are replaced, as they act for errors reported after the event: a NOTICE-DROP of the answer itself goes by the old ones
(R160). -/
def Ev.writeFaults (r : Request) (ev : Ev) : Ev :=
  match tableEntries r.payload 23 0 0 with
  | .error st => ev.status r st
  | .ok (_, entries) =>
    let f := faultSettingsOf (entries.headD [])
    (ev.stored r f.2).onState (·.writeFaultSettings f.1)

/-- FAULT_SETTINGS (R160). -/
def execFaultSettings (s : State) : Result := s.takeManagement (namesTable 7) Ev.writeFaults

/-! ## Controller Settings (R176, R119) -/

/-- A change of own address is possible: not 0x00 or 0xFF, and the new entry UNUSED (R119). -/
def State.ownFree (s : State) (a : Addr) : Bool :=
  a != Config.nullAddr && a != Config.broadcast && (s.node a).role == .unused

/-- The SELF entry moves to the new own address (R119). -/
def State.moveSelf (s : State) (a : Addr) : State :=
  if a = s.controller.own then s
  else
    { s with nodes := (s.nodes.set (addrIx s.controller.own) NodeEntry.unused).set (addrIx a)
              ⟨.self, Permissions.none, none, none⟩ }

/-- The entry of a Controller Settings SET-TABLE. -/
def writeControllerEntry : EntryWrite := fun ev _ e =>
  let own : Addr := e.getD 0 0
  if own ≠ ev.st.controller.own ∧ ev.st.ownFree own = false then .error .badIndex
  else
    let mode : ResetMode := if byteAt e 2 = 1 then .immediate else .boundary
    .ok ((ev.onState (·.moveSelf own)).onState (fun s => { s with controller := ⟨own, e.getD 1 0, mode⟩ }),
      1 < byteAt e 2)

/-- CONTROLLER_SETTINGS (R176). -/
def execControllerSettings (s : State) : Result :=
  s.takeManagement (namesTable 8) (Ev.writeTable 3 0 0 writeControllerEntry)

/-! ## SET_TABLE: no writable table (R173) -/

/-- A SET-TABLE that names no writable table: LEN 0, or an id outside Table 10-2. -/
def namesNoTable (r : Request) : Bool :=
  r.kind == Kind.setTable && (r.payload.isEmpty || byteAt r.payload 0 == 0 || 8 < byteAt r.payload 0)

/-- SET_TABLE (R173): BAD-TABLE, or BAD-INDEX for a payload too short to hold its index (R180; log 16). -/
def execSetTable (s : State) : Result :=
  s.takeManagement namesNoTable (fun r ev =>
    ev.status r (if r.payload.length = 1 then .badIndex else .badTable))

/-! ## GET-TABLE (R177) -/

/-- Two bytes of a current that may be UNKNOWN or a cap that may be NONE (11.1). -/
def orFFFF : Option Nat → List Byte
  | some n => be16 n
  | none => [0xFF, 0xFF]

/-- A bay byte: 0 for none (11.1). -/
def bayByte (b : Option BayIx) : Byte := byteOf (match b with | some b => bayNo b | none => 0)

/-- A time that may be absent, sent as 0. -/
def siteOrZero (s : State) : Option Time → List Byte
  | some t => be32w (s.site t)
  | none => be32 0

def nodeRow (s : State) (i : Nat) : List Byte :=
  let e := s.node (BitVec.ofNat 8 i)
  [byteOf e.role.code, e.permissions.byte, bayByte e.bay]

def kindRow (s : State) (i : Nat) : List Byte :=
  let k := s.kinds.get (BitVec.ofNat 8 i).toFin
  [byteOf k.action.code, k.flags]

/-- A substitution place on the link: 0xFF when empty. -/
def placeByte (c : Option BayClass) : Byte := byteOf (match c with | some c => c.ix.val | none => 0xFF)

def classRow (s : State) (i : Nat) : List Byte :=
  let c := s.classes.get ⟨i % 4, by omega⟩
  [byteOf c.weight, byteOf c.mode.code, c.flags] ++ be16 c.stay ++ [byteOf c.grace]
    ++ c.substitution.items.map placeByte

def bayRow (y : Bay) : List Byte :=
  [byteOf y.cls.ix.val] ++ be16 y.postMax ++ [flagByte [y.allotEnable]]

def allocatorRow (a : AllocatorSettings) : List Byte :=
  be16 a.feeder ++ be16 a.reserve
    ++ [byteOf a.minimum, byteOf a.step, byteOf a.reclaim, byteOf a.margin, byteOf a.overdraw, byteOf a.rotation]
    ++ orFFFF a.cap ++ be16 (budgetOf a)

def timingRow (t : TimingSettings) : List Byte :=
  [byteOf t.window, byteOf t.pollInterval, byteOf t.failLimit] ++ be16 t.linkLoss
    ++ [byteOf t.debounce, byteOf t.overstay, byteOf t.turnover, byteOf t.lead]

def faultRow (f : FaultSettings) : List Byte :=
  f.kinds.items.map KindSetting.byte ++ f.actions.items.map (fun a => byteOf a.code)
    ++ f.selections.items.flatMap (fun x => be16 x.toNat)

def controllerRow (c : ControllerSettings) : List Byte := [c.own, c.noticeDest, byteOf c.resetMode.code]

/-- View 16 (Table 11-3). -/
def statusRow (s : State) (b : BayIx) : List Byte :=
  let y := s.bay b
  [byteOf y.dyn.state.code, byteOf y.dyn.occupancy.code, byteOf y.dyn.connector.code]
    ++ be16 y.delivery.target ++ be16 (s.committed b) ++ orFFFF y.delivery.inForce
    ++ [byteOf y.delivery.state.code, s.bayFlags b]

/-- Views 17 and 18: an empty slot reads with every byte 0 (11.3). -/
def holdRow (s : State) : Option Hold → List Byte
  | none => List.replicate 43 0
  | some h =>
    be32w (h.ticket.getD 0) ++ [h.requester.getD 0, byteOf h.priority.val, h.flags]
      ++ be32w (s.site h.windowStart) ++ be32w (s.site h.windowEnd) ++ be32w (s.site h.graceEnd)
      ++ be32 (h.energyWanted.getD 0) ++ siteOrZero s h.arrival ++ be32 h.occupiedSeconds
      ++ be32 h.chargedSeconds ++ be32 h.energyDelivered ++ be32 (h.lastPostEnergy.getD 0)

/-- View 19. -/
def waitRow (s : State) (e : WaitEntry) : List Byte :=
  let h := e.hold
  be32w (h.ticket.getD 0) ++ [h.requester.getD 0, byteOf h.priority.val, byteOf e.classWanted.ix.val,
      bayByte e.preferred]
    ++ be32w (s.site h.windowStart) ++ be32w (s.site h.windowEnd) ++ be32w (s.site h.graceEnd)
    ++ [flagByte [h.entrySeen]]

/-- View 20. -/
def chargeRow (s : State) (e : ChargeEntry) : List Byte :=
  let a := (s.bay e.bay).alloc
  [byteOf (bayNo e.bay), byteOf e.priority.val] ++ be32w (s.site e.stamp) ++ be16 a.ceiling ++ be16 a.target
    ++ [flagByte [a.admittedSince.isSome]] ++ siteOrZero s a.admittedSince

/-- A log of view 21, every byte 0 when it is empty. -/
def logRow (s : State) : Option LogEntry → List Byte
  | none => List.replicate 12 0
  | some l =>
    [flagByte [true, l.bay.isSome, l.header.isSome], byteOf l.kind.code] ++ be32w (s.site l.second)
      ++ [bayByte l.bay]
      ++ (match l.header with
          | some h => [h.dest, h.src, h.kind, h.tag, h.len]
          | none => List.replicate 5 0)

/-- View 21. -/
def faultLogRow (s : State) (i : Nat) : List Byte :=
  let sev : Fin 3 := ⟨i % 3, by omega⟩
  let l := s.recorder.logs.get sev
  [byteOf (s.recorder.settings.actions.get sev).code] ++ logRow s l.first ++ logRow s l.next
    ++ [byteOf l.lost, flagByte [l.pending]]

/-- View 22. -/
def counterRow (s : State) (i : Nat) : List Byte :=
  let c : Fin 2 := ⟨i % 2, by omega⟩
  be16 (s.recorder.settings.selections.get c).toNat
    ++ [byteOf (s.recorder.counters.get c).count, flagByte [(s.recorder.counters.get c).overflow]]

/-- View 23. -/
def contactRow (s : State) (i : Nat) : List Byte :=
  let e := s.node (BitVec.ofNat 8 i)
  [byteOf e.role.code, bayByte e.bay]
    ++ (match e.contact with
        | some c => [if c.reachable then 0 else 1, byteOf c.failures] ++ be32w (s.site c.last) ++ be32w (s.site c.due)
        | none => [0xFF, 0] ++ be32 0 ++ be32 0)

/-- A row of a bay-indexed table or view. -/
def rowOfBay (i : Nat) (row : BayIx → List Byte) : List Byte :=
  match bayOfNo i with
  | some b => row b
  | none => []

/-- A table or view as GET-TABLE reads it: entry size, first and last index, the last index that is filled, and
its rows. -/
structure TableView where
  size : Nat
  first : Nat
  last : Nat
  filled : Nat
  row : Nat → List Byte

/-- A table or view of a fixed index range. -/
def fixedView (size first last : Nat) (row : Nat → List Byte) : TableView := ⟨size, first, last, last, row⟩

/-- The table or view an id names (Tables 10-2, 10-3 and 11-3). -/
def State.view (s : State) : Nat → Option TableView
  | 1 => some (fixedView 3 0 255 (nodeRow s))
  | 2 => some (fixedView 2 0 255 (kindRow s))
  | 3 => some (fixedView 9 0 3 (classRow s))
  | 4 => some (fixedView 4 1 128 (fun i => rowOfBay i (fun b => bayRow (s.bay b))))
  | 5 => some (fixedView 14 0 0 (fun _ => allocatorRow s.allocator.settings))
  | 6 => some (fixedView 9 0 0 (fun _ => timingRow s.timing))
  | 7 => some (fixedView 23 0 0 (fun _ => faultRow s.recorder.settings))
  | 8 => some (fixedView 3 0 0 (fun _ => controllerRow s.controller))
  | 16 => some (fixedView 11 1 128 (fun i => rowOfBay i (statusRow s)))
  | 17 => some (fixedView 43 1 128 (fun i => rowOfBay i (fun b => holdRow s (s.bay b).dyn.active)))
  | 18 => some (fixedView 43 1 128 (fun i => rowOfBay i (fun b => holdRow s (s.bay b).dyn.staged)))
  | 19 => some ⟨21, 1, 32, s.waitlist.length, fun i => ((s.waitlist[i - 1]?).map (waitRow s)).getD []⟩
  | 20 => some ⟨15, 1, 128, s.allocator.queue.length,
      fun i => ((s.allocator.queue[i - 1]?).map (chargeRow s)).getD []⟩
  | 21 => some (fixedView 27 0 2 (faultLogRow s))
  | 22 => some (fixedView 4 0 1 (counterRow s))
  | 23 => some (fixedView 12 0 255 (contactRow s))
  | _ => none

/-- The count returned (R177): the least of the count asked for, the entries from the start to the last filled
index, and the whole entries that fit in 43 bytes. -/
def TableView.count (v : TableView) (start asked : Nat) : Nat :=
  min asked (min (v.filled + 1 - start) (43 / v.size))

/-- What a GET-TABLE is answered with after the request's KIND (R177, R180). -/
def State.readTable (s : State) (p : List Byte) : List Byte :=
  if p = [] then [byteOf Status.badTable.code]
  else if p.length < 3 then [byteOf Status.badIndex.code]
  else
    match s.view (byteAt p 0) with
    | none => [byteOf Status.badTable.code]
    | some v =>
      let start := byteAt p 1
      if start < v.first ∨ v.last < start then [byteOf Status.badIndex.code]
      else
        let n := v.count start (byteAt p 2)
        [byteOf Status.ok.code, byteOf (byteAt p 0), byteOf start, byteOf n]
          ++ (List.range n).flatMap (fun k => v.row (start + k))

/-- GET_TABLE (R177). -/
def execGetTable (s : State) : Result :=
  s.takeManagement (fun r => r.kind == Kind.getTable) (fun r ev => ev.mgmt r (ev.st.readTable r.payload))

end Sys2Proof.Machine
end

