-- ==== Sys2Proof/Machine/Control.lean ====
section
/-!
DEFINITION. The CONTROL operations (R178, Table 10-4): closing and opening, forced ends, allot enables, RESTART,
the external cap, site time, fault logs and counters, SCRUB and RESET, and the CONTROL that names none.
-/
namespace Sys2Proof.Machine

/-! ## The form of a CONTROL (R178, R180) -/

/-- A CONTROL that names an operation. -/
def namesOperation (code : Nat) (r : Request) : Bool :=
  r.kind == Kind.control && !r.payload.isEmpty && byteAt r.payload 0 == code

/-- A CONTROL with its arguments, or BAD-INDEX for a payload too short to hold them (R180). -/
def State.takeControl (s : State) (code length : Nat) (body : Request → Ev → Ev) : Result :=
  s.takeManagement (namesOperation code) (fun r ev =>
    if r.payload.length < length then ev.status r .badIndex else body r ev)

/-- A CONTROL that names a bay, or BAD-INDEX for a bay outside 1–128. -/
def State.takeBayControl (s : State) (code length : Nat) (body : BayIx → Request → Ev → Ev) : Result :=
  s.takeControl code length (fun r ev =>
    match bayOfNo (byteAt r.payload 1) with
    | none => ev.status r .badIndex
    | some b => body b r ev)

/-! ## OPEN (R155) -/

/-- OPEN of a CLOSED bay with a post node: FAULTED when it has a fault cause, otherwise derived, with a
waitlist scan. -/
def Ev.openClosed (ev : Ev) (b : BayIx) : Ev :=
  match ev.st.faultCauses b with
  | c :: _ => ((ev.noteFault b c).setState b .faulted).note b .opened
  | [] => (((ev.touch b).derive b).note b .opened).wantScan

/-- OPEN at a bay, by its state and close mode (R155). -/
def Ev.openAt (b : BayIx) (r : Request) (ev : Ev) : Ev :=
  let d := (ev.bay b).dyn
  if d.state = .closed then
    if (ev.st.post b).isNone then ev.status r .badIndex else (ev.openClosed b).status r .ok
  else if d.closeMode = .closingAtEnd then
    ((ev.modDyn b (fun d => { d with closeMode := .none })).wantScan).status r .ok
  else ev.status r .ok

/-- OPEN (R155). -/
def execOpen (s : State) : Result := s.takeBayControl 1 2 Ev.openAt

/-! ## CLOSE-NOW and CLOSE-AT-END (R153, R154, R44) -/

/-- A bay without an active hold is closed at once (R153). -/
def Ev.closeEmpty (ev : Ev) (b : BayIx) : Ev := ((ev.touch b).closeBay b).note b .closed

/-- Close mode becomes CLOSING-AT-END. -/
def Ev.startClosing (ev : Ev) (b : BayIx) : Ev :=
  (ev.touch b).modDyn b (fun d => { d with closeMode := .closingAtEnd })

/-- CLOSE-AT-END at a bay (R153). -/
def Ev.closeAtEnd (ev : Ev) (b : BayIx) : Ev :=
  let d := (ev.bay b).dyn
  if d.state = .closed then ev
  else if d.active = none then ev.closeEmpty b
  else ev.startClosing b

/-- The active hold, when it has not arrived, is relocated (R44). -/
def Ev.relocateActive (ev : Ev) (b : BayIx) : Ev :=
  match (ev.bay b).dyn.active with
  | some h => if h.arrived then ev else ev.relocateOrDisplace b .active
  | none => ev

/-- CLOSE-NOW at a bay (R154): the staged hold is relocated, then the active hold that has not arrived (R44). -/
def Ev.closeNow (ev : Ev) (b : BayIx) : Ev :=
  let d := (ev.bay b).dyn
  if d.state = .closed ∨ d.active = none then ev.closeAtEnd b
  else ((ev.startClosing b).relocateOrDisplace b .staged).relocateActive b

/-- CLOSE_NOW (R154). -/
def execCloseNow (s : State) : Result :=
  s.takeBayControl 2 2 (fun b r ev => (ev.closeNow b).status r .ok)

/-- CLOSE_AT_END (R153). -/
def execCloseAtEnd (s : State) : Result :=
  s.takeBayControl 3 2 (fun b r ev => (ev.closeAtEnd b).status r .ok)

/-! ## FORCE-END (R156, R157) -/

/-- The slot a FORCE-END names. -/
def slotOf? : Nat → Option Slot
  | 1 => some .active
  | 2 => some .staged
  | _ => none

/-- FORCE-END at a bay: an empty slot, or a ticket named that is not the hold's, is refused BAD-INDEX. -/
def Ev.forceEnd (b : BayIx) (r : Request) (ev : Ev) : Ev :=
  let named := ticketField r.payload 3
  match slotOf? (byteAt r.payload 2) with
  | none => ev.status r .badIndex
  | some sl =>
    match (ev.bay b).dyn.slot sl with
    | none => ev.status r .badIndex
    | some h =>
      if named ≠ 0 ∧ h.ticket ≠ some named then ev.status r .badIndex
      else (ev.leaveSlot b sl (.ended .forced)).status r .ok

/-- FORCE_END (R156, R157). -/
def execForceEnd (s : State) : Result := s.takeBayControl 4 7 Ev.forceEnd

/-! ## SET-ENABLE and RESTART (R148, R151) -/

/-- SET_ENABLE (R148): a value above 1 is refused BAD-INDEX (R181). -/
def execSetEnable (s : State) : Result :=
  s.takeBayControl 5 3 (fun b r ev =>
    if 1 < byteAt r.payload 2 then ev.status r .badIndex
    else (ev.setEnable b (byteAt r.payload 2 == 1)).status r .ok)

/-- RESTART at the part (R151). -/
def Ev.restart (r : Request) (ev : Ev) : Ev :=
  if ev.st.suspension.emergency then ev.status r .emergencyActive
  else if ev.st.suspension.suspended then ev.endSuspension.status r .ok
  else ev.status r .ok

/-- RESTART (R151). -/
def execRestart (s : State) : Result := s.takeControl 6 1 Ev.restart

/-! ## SET-CAP and SET-TIME (R76, R77, R57) -/

/-- The external cap replaced. -/
def State.setCap (s : State) (c : Option Nat) : State :=
  { s with allocator := { s.allocator with settings := { s.allocator.settings with cap := c } } }

/-- SET-CAP (R77, R178): 0xFFFF removes the cap, and a value above 20000 is stored as 20000, CLAMPED. -/
def Ev.capRequest (r : Request) (ev : Ev) : Ev :=
  let v := field16 r.payload 1
  if v = 0xFFFF then ((ev.onState (·.setCap none)).wantRecompute).stored r false
  else ((ev.onState (·.setCap (some (min 20000 v)))).wantRecompute).stored r (20000 < v)

/-- SET_CAP (R77). -/
def execSetCap (s : State) : Result := s.takeControl 7 3 Ev.capRequest

/-- SET-TIME: the answer carries the run-seconds count and the new site time (R178). -/
def Ev.timeRequest (r : Request) (ev : Ev) : Ev :=
  let ev := ev.onState (fun s => { s with siteOffset := BitVec.ofNat 32 (field32 r.payload 1) })
  ev.mgmt r ([byteOf Status.ok.code] ++ be32w ev.st.now ++ be32w (ev.st.site ev.st.now))

/-- SET_TIME (R57). -/
def execSetTime (s : State) : Result := s.takeControl 8 5 Ev.timeRequest

/-! ## CLEAR-LOG and CLEAR-COUNTER (R164, R165) -/

/-- The logs of a severity cleared, and ALERT re-evaluated (R164). -/
def State.clearLog (s : State) (sev : Fin 3) : State :=
  { s with recorder := s.recorder.setLog sev SeverityLog.cleared }

/-- A counter cleared (R165). -/
def State.clearCounter (s : State) (c : Fin 2) : State :=
  { s with recorder := { s.recorder with counters := s.recorder.counters.set c ⟨0, false⟩ } }

/-- CLEAR_LOG (R164): a severity above 2 is refused BAD-INDEX. -/
def execClearLog (s : State) : Result :=
  s.takeControl 9 2 (fun r ev =>
    if h : byteAt r.payload 1 < 3 then (ev.onState (·.clearLog ⟨byteAt r.payload 1, h⟩)).status r .ok
    else ev.status r .badIndex)

/-- CLEAR_COUNTER (R165): a counter above 1 is refused BAD-INDEX. -/
def execClearCounter (s : State) : Result :=
  s.takeControl 10 2 (fun r ev =>
    if h : byteAt r.payload 1 < 2 then (ev.onState (·.clearCounter ⟨byteAt r.payload 1, h⟩)).status r .ok
    else ev.status r .badIndex)

/-! ## SCRUB (R169) -/

/-- The Ticket Index entries at a bay, the active slot's first (R169 step 1). Several entries at one slot, which only
storage faults leave, stand in the order of the index (DESIGN CHOICE, log 7). -/
def State.entriesAt (s : State) (b : BayIx) : List IndexEntry :=
  s.index.filter (fun e => e.location == .active b) ++ s.index.filter (fun e => e.location == .staged b)

/-- One ticket lost with its bay's record: HOLD-NOTICE LOST to the requester the index records. -/
def Ev.loseTicket (b : BayIx) (ev : Ev) (e : IndexEntry) : Ev :=
  (ev.onState (·.unindex e.ticket)).holdNoticeTo e.requester e.ticket .lost { bay := bayNo b }

/-- The dynamic part rebuilt (R169 step 3). -/
def BayDyn.rebuilt (d : BayDyn) : BayDyn :=
  { BayDyn.powerOn with state := d.state, closeMode := d.closeMode }

/-- A node's due time set to now, when there is a node (R169 step 4). -/
def State.dueNow (s : State) (n : Option (Addr × NodeEntry)) : State :=
  match n with
  | some (a, _) => s.modContact a (fun c => { c with due := s.now })
  | none => s

/-- The bay's state after the rebuild (R169 step 5, R9). A bay whose post is UNREACHABLE is FAULTED; where a storage
fault had left it in another state, that change has its notice, of cause FAULT-CLEARED as R169 says, with the fault cause
it enters FAULTED by (R25). -/
def Ev.scrubState (ev : Ev) (b : BayIx) : Ev :=
  if (ev.bay b).dyn.state = .closed then ev
  else if ev.st.postUnreachable b then
    let ev := if (ev.bay b).dyn.state = .faulted then ev else ev.noteFault b .postUnreachable
    (ev.setState b .faulted).note b .faultCleared
  else
    let ev := ev.note b .faultCleared
    (if (ev.bay b).dyn.closeMode = .closingAtEnd then ev.closeBay b else ev.derive b).wantScan

/-- Degraded mode ends when no bay is suspect (R168). -/
def Ev.endDegraded (ev : Ev) : Ev :=
  if allBays.any (fun b => (ev.bay b).dyn.suspect) then ev
  else (ev.onState (fun s => { s with scrubber := { s.scrubber with degraded := false } })).wantScan

/-- The rebuild of a suspect bay (R169). -/
def Ev.scrubBay (ev : Ev) (b : BayIx) : Ev :=
  let held := (ev.bay b).dyn.active.isSome || ev.st.index.any (·.location == .active b)
  let ev := (ev.st.entriesAt b).foldl (Ev.loseTicket b) (ev.touch b)
  let ev := ev.modTimer b (fun t => { t.clearActive with displacement := none })
  let ev := (ev.modDyn b BayDyn.rebuilt).reportCharging b false
  let ev := ev.reportSuspect b false
  let ev := (ev.onState (fun s => s.dueNow (s.post b))).onState (fun s => s.dueNow (s.sensor b))
  let ev := if held then ev.noteEnd b .lost else ev
  (ev.scrubState b).endDegraded

/-- SCRUB (R169): a bay whose suspect flag is clear is refused BAD-INDEX. -/
def execScrub (s : State) : Result :=
  s.takeBayControl 11 2 (fun b r ev =>
    if (ev.bay b).dyn.suspect then (ev.scrubBay b).status r .ok else ev.status r .badIndex)

/-! ## RESET (R179) -/

/-- RESET (R179): the warm reset first, then its answer in the emptied FIFO. -/
def execReset (s : State) : Result := s.takeControl 12 1 (fun r ev => ev.warmReset.status r .ok)

/-! ## CONTROL that names no operation (R178) -/

/-- A CONTROL whose code names no operation, or whose LEN is 0. -/
def namesNoOperation (r : Request) : Bool :=
  r.kind == Kind.control && (r.payload.isEmpty || byteAt r.payload 0 == 0 || 12 < byteAt r.payload 0)

/-- CONTROL (R178, R180): refused BAD-TABLE. -/
def execControl (s : State) : Result :=
  s.takeManagement namesNoOperation (fun r ev => ev.status r .badTable)

end Sys2Proof.Machine
end

