-- ==== Sys2Proof/Machine/Dispatch.lean ====
section
/-!
DEFINITION. One arm per command, each a direct call of its meaning.
-/
namespace Sys2Proof.Machine

def exec (i : Instr) (s : State) : Host.Outcome State Fault Refusal :=
  match i with
  | .powerOnReset emergency => Sys2Proof.Machine.execPowerOnReset emergency s
  | .warmReset => Sys2Proof.Machine.execWarmReset s
  | .emergencyActive => Sys2Proof.Machine.execEmergencyActive s
  | .emergencyInactive => Sys2Proof.Machine.execEmergencyInactive s
  | .tick => Sys2Proof.Machine.execTick s
  | .noShowExpiry bay ticket value => Sys2Proof.Machine.execNoShowExpiry bay ticket value s
  | .overstayExpiry bay ticket value => Sys2Proof.Machine.execOverstayExpiry bay ticket value s
  | .displacementCheck bay ticket value => Sys2Proof.Machine.execDisplacementCheck bay ticket value s
  | .waitlistExpiry ticket value => Sys2Proof.Machine.execWaitlistExpiry ticket value s
  | .earlyArrivalExpiry ticket value => Sys2Proof.Machine.execEarlyArrivalExpiry ticket value s
  | .rotationExpiry bay => Sys2Proof.Machine.execRotationExpiry bay s
  | .linkLossExpiry bay => Sys2Proof.Machine.execLinkLossExpiry bay s
  | .pollDue node => Sys2Proof.Machine.execPollDue node s
  | .replyWindowClose => Sys2Proof.Machine.execReplyWindowClose s
  | .endOfSending => Sys2Proof.Machine.execEndOfSending s
  | .downlinkFrameStart => Sys2Proof.Machine.execDownlinkFrameStart s
  | .uplinkSendStart => Sys2Proof.Machine.execUplinkSendStart s
  | .uplinkSendEnd => Sys2Proof.Machine.execUplinkSendEnd s
  | .frameReception port chars => Sys2Proof.Machine.execFrameReception port chars s
  | .hold => Sys2Proof.Machine.execHold s
  | .amend => Sys2Proof.Machine.execAmend s
  | .free => Sys2Proof.Machine.execFree s
  | .query => Sys2Proof.Machine.execQuery s
  | .arrive => Sys2Proof.Machine.execArrive s
  | .nodeMap => Sys2Proof.Machine.execNodeMap s
  | .kindFilter => Sys2Proof.Machine.execKindFilter s
  | .classTable => Sys2Proof.Machine.execClassTable s
  | .bayConfiguration => Sys2Proof.Machine.execBayConfiguration s
  | .allocatorSettings => Sys2Proof.Machine.execAllocatorSettings s
  | .timingSettings => Sys2Proof.Machine.execTimingSettings s
  | .faultSettings => Sys2Proof.Machine.execFaultSettings s
  | .controllerSettings => Sys2Proof.Machine.execControllerSettings s
  | .setTable => Sys2Proof.Machine.execSetTable s
  | .getTable => Sys2Proof.Machine.execGetTable s
  | .openBay => Sys2Proof.Machine.execOpen s
  | .closeNow => Sys2Proof.Machine.execCloseNow s
  | .closeAtEnd => Sys2Proof.Machine.execCloseAtEnd s
  | .forceEnd => Sys2Proof.Machine.execForceEnd s
  | .setEnable => Sys2Proof.Machine.execSetEnable s
  | .restart => Sys2Proof.Machine.execRestart s
  | .setCap => Sys2Proof.Machine.execSetCap s
  | .setTime => Sys2Proof.Machine.execSetTime s
  | .clearLog => Sys2Proof.Machine.execClearLog s
  | .clearCounter => Sys2Proof.Machine.execClearCounter s
  | .scrub => Sys2Proof.Machine.execScrub s
  | .reset => Sys2Proof.Machine.execReset s
  | .storageFault bay contents check => Sys2Proof.Machine.execStorageFault bay contents check s
  | .frameBegin port => Sys2Proof.Machine.execFrameBegin port s
  | .supplyLoss => Sys2Proof.Machine.execSupplyLoss s
  | .resetPinRelease => Sys2Proof.Machine.execResetPinRelease s
  | .control => Sys2Proof.Machine.execControl s

end Sys2Proof.Machine
end

