-- ==== Sys2Proof/Safety.lean ====
section
/-!
DEFINITION. The terms in which statements about the part are made: the part of the state that the shared end of
an event leaves alone, the frames an event sends with their bytes, what it is for a downlink frame to answer the
outstanding transaction, and the invariants of a safe state.
-/
namespace Sys2Proof.Machine

/-! ## What the end of an event leaves alone -/

/-- The configuration part of a bay record with the saved mask entry: written only by management. -/
structure BayConfig where
  cls : BayClass
  postMax : Nat
  allotEnable : Bool
  savedMask : Bool
  deriving DecidableEq, Repr

def Bay.config (y : Bay) : BayConfig := ⟨y.cls, y.postMax, y.allotEnable, y.savedMask⟩

/-- The items of state that no notice, scan, recompute, expiry delivery or arbitration changes: clock, tables,
request queues, lines, flags and configuration. -/
structure Still where
  pending : List Instr
  heldInReset : Bool
  resetPinTaken : Bool
  now : Time
  siteOffset : Time
  bays : Table BayConfig 128
  /-- The Early Arrival List less its deadlines. -/
  early : List (Ticket × Time)
  classes : Table ClassEntry 4
  requests : List Request
  settings : AllocatorSettings
  suspendedCopy : Bool
  timing : TimingSettings
  nodes : Table NodeEntry 256
  kinds : Table KindEntry 256
  uplinkSending : Option Frame
  uplinkRx : Receiver
  downlinkSending : Option Frame
  downlinkRx : Receiver
  suspension : Suspension
  faultSettings : FaultSettings
  scrubCursor : BayIx
  management : List Request
  controller : ControllerSettings
  deriving DecidableEq, Repr

def State.still (s : State) : Still where
  pending := s.pending
  heldInReset := s.heldInReset
  resetPinTaken := s.resetPinTaken
  now := s.now
  siteOffset := s.siteOffset
  bays := s.bays.map Bay.config
  early := s.early.map (fun e => (e.ticket, e.recorded))
  classes := s.classes
  requests := s.requests
  settings := s.allocator.settings
  suspendedCopy := s.allocator.suspendedCopy
  timing := s.timing
  nodes := s.nodes
  kinds := s.kinds
  uplinkSending := s.uplink.sending
  uplinkRx := s.uplink.rx
  downlinkSending := s.downlink.sending
  downlinkRx := s.downlink.rx
  suspension := s.suspension
  faultSettings := s.recorder.settings
  scrubCursor := s.scrubber.cursor
  management := s.management
  controller := s.controller

/-- Every bay's record dynamic part. -/
def State.dyns (s : State) : List BayDyn := s.bays.items.map (·.dyn)

/-- The holds on the Waitlist, in order. -/
def State.waitHolds (s : State) : List Hold := s.waitlist.map (·.hold)

/-- The commands that serve the bookings: the requests of Chapter 2, the expiries of holds and list entries, and the
operations that open, close and end. -/
def servesHolds : Instr → Bool
  | .hold | .amend | .free | .query | .arrive | .noShowExpiry _ _ _ | .overstayExpiry _ _ _
  | .displacementCheck _ _ _ | .waitlistExpiry _ _ | .earlyArrivalExpiry _ _ | .openBay | .closeNow | .closeAtEnd
  | .forceEnd => true
  | _ => false

/-! ## The frames an event sends -/

/-- The answer to a request is placed in the uplink transmit FIFO; none is built for the null address (R100). -/
def State.sendAnswer (s : State) (r : Request) (kind : Byte) (payload : List Byte) : State :=
  match s.buildAnswer r.src r.tag kind payload with
  | some f => s.placeUplink f
  | none => s

/-- The answer of a management request: its KIND, a status and what follows (R172). -/
def State.sendStatus (s : State) (r : Request) (st : Status) (more : List Byte) : State :=
  s.sendAnswer r Kind.mgmtAnswer (r.kind :: byteOf st.code :: more)

/-- An error is logged and counted, and its FAULT-NOTICE placed (R161, R162, R165). -/
def State.logError (s : State) (e : ErrorReport) : State :=
  match (s.recordError e).2 with
  | some f => (s.recordError e).1.placeUplink f
  | none => (s.recordError e).1

/-- A frame as a port receives it: its bytes, no character faulty. -/
def Frame.received (f : Frame) : List RxChar := f.bytes.map (⟨·, false⟩)

/-- What the requester of `r` is promised: when it is not the null address and the FIFO has room, the answer is the
first frame that the event places (R28, R104, R172). -/
def State.Answers (s t : State) (r : Request) (kind : Byte) (payload : List Byte) : Prop :=
  r.src ≠ Config.nullAddr → s.uplink.fifo.length < Config.uplinkFifo →
    s.uplink.fifo ++ [⟨r.src, s.controller.own, kind, r.tag, payload⟩] <+: t.uplink.fifo

/-- The frames `fs` are the first that the event places, in this order, when the FIFO has room for them (R104). -/
def State.Sends (s t : State) (fs : List Frame) : Prop :=
  s.uplink.fifo.length + fs.length ≤ 32 → s.uplink.fifo ++ fs <+: t.uplink.fifo

/-- An answer to a request: its SRC as DEST, the own address as SRC, its TAG (R106). -/
def State.answerTo (s : State) (r : Request) (kind : Byte) (payload : List Byte) : Frame :=
  ⟨r.src, s.controller.own, kind, r.tag, payload⟩

/-- The notice an event builds after `k` others: own address as SRC, the notice tag risen by `k` (R106). -/
def State.noticeAt (s : State) (k : Nat) (dest : Addr) (kind : Byte) (payload : List Byte) : Frame :=
  ⟨dest, s.controller.own, kind, s.noticeTag + byteOf k, payload⟩

/-- The BAY-NOTICE an event builds after `k` other notices, to the notice destination: bay, state before and after,
cause, end reason, fault cause (Table 11-2). -/
def State.bayNoticeAt (s : State) (k : Nat) (b : BayIx) (before after : BayState) (cause reason fault : Nat) : Frame :=
  s.noticeAt k s.controller.noticeDest Kind.bayNotice
    [byteOf (b.val + 1), byteOf before.code, byteOf after.code, byteOf cause, byteOf reason, byteOf fault]

/-- Three site times: window start, window end and grace end of a hold. -/
def State.windowBytes (s : State) (h : Hold) : List Byte :=
  be32w (h.windowStart + s.siteOffset) ++ be32w (h.windowEnd + s.siteOffset) ++ be32w (h.graceEnd + s.siteOffset)

/-- The ANSWER payload of a request that is not refused, with the stored window (R28, Table 11-2). -/
def State.answerBytes (s : State) (r : Request) (t : Ticket) (outcome bay slot position : Nat) (h : Hold) : List Byte :=
  [r.kind] ++ be32w t ++ [byteOf outcome, 0, byteOf bay, byteOf slot, byteOf position] ++ s.windowBytes h

/-- The HOLD-NOTICE payload with a summary (R24, Table 11-2): event, ticket, bay, no slot and no position, end reason,
the flag of an arrival time, window start and end, no grace end (log 13), arrival time, and the three counts. -/
def State.summaryBytes (s : State) (event : Nat) (t : Ticket) (bay reason : Nat) (h : Hold) : List Byte :=
  [byteOf event] ++ be32w t ++ [byteOf bay, 0, 0, byteOf reason, if h.arrival = none then 0 else 1]
    ++ be32w (h.windowStart + s.siteOffset) ++ be32w (h.windowEnd + s.siteOffset) ++ [0, 0, 0, 0]
    ++ (match h.arrival with | some a => be32w (a + s.siteOffset) | none => [0, 0, 0, 0])
    ++ be32 h.occupiedSeconds ++ be32 h.chargedSeconds ++ be32 h.energyDelivered

/-- A hold as the summary of a staged hold or a waitlist entry shows it: no arrival time and zero counters (R24). -/
def Hold.bare (h : Hold) : Hold :=
  { h with arrival := none, occupiedSeconds := 0, chargedSeconds := 0, energyDelivered := 0 }

/-- The HOLD-NOTICE payload without a summary (Table 1-7): event, ticket, bay, slot and position; every other field is 0
by inference (log 13). -/
def movedBytes (event : Nat) (t : Ticket) (bay slot position : Nat) : List Byte :=
  [byteOf event] ++ be32w t ++ [byteOf bay, byteOf slot, byteOf position] ++ List.replicate 30 0

/-- HOLD-STATE by ticket of a hold (Table 11-2): location 1 active, 2 staged, 3 Waitlist. -/
def State.holdStateBytes (s : State) (t : Ticket) (location bay bayState position : Nat) (h : Hold) : List Byte :=
  [0] ++ be32w t ++ [byteOf location, byteOf bay, byteOf bayState, byteOf position, byteOf h.priority.val,
      byteOf ((if h.entrySeen then 1 else 0) + (if h.arrival = none then 0 else 2))]
    ++ s.windowBytes h ++ (match h.arrival with | some a => be32w (a + s.siteOffset) | none => [0, 0, 0, 0])
    ++ be32 h.occupiedSeconds ++ be32 h.chargedSeconds ++ be32 h.energyDelivered

/-- What ends the active hold `h` of bay `b` at a request (R49, R156): the command `c` is a FREE of its ticket by who may
free it, or a FORCE-END of the active slot that names ticket 0 or this ticket. `reason` is the end reason, `answer` the
answer, and `after` what the request leaves of the items that no end of a hold changes. -/
def State.EndsActive (s : State) (b : BayIx) (h : Hold) (t : Ticket) (a : Addr) (c : Instr) (reason : Nat)
    (answer : Frame) (after : Still) : Prop :=
  (∃ r q, s.requests = r :: q ∧ r.kind = Kind.free ∧ ticketField r.payload 0 = t ∧ t ≠ 0
      ∧ s.lookup t = some ⟨t, a, .active b⟩ ∧ (a = r.src ∨ (s.node r.src).permissions.freeAny = true) ∧ r.src ≠ 0
      ∧ c = .free ∧ reason = 2 ∧ answer = s.answerTo r Kind.answer (s.answerBytes r t 0 (b.val + 1) 1 0 h)
      ∧ after = { s.still with requests := q })
  ∨ (∃ r q w x y z, s.management = r :: q ∧ r.kind = Kind.control
      ∧ r.payload = [4, byteOf (b.val + 1), 1, w, x, y, z] ∧ (w ++ x ++ y ++ z = (0 : Ticket) ∨ w ++ x ++ y ++ z = t)
      ∧ r.src ≠ 0 ∧ c = .forceEnd ∧ reason = 4 ∧ answer = s.answerTo r Kind.mgmtAnswer [r.kind, 0]
      ∧ after = { s.still with management := q })

/-! ## Deadlines -/

/-- The overstay deadline of a hold, at its window end plus O × 60 (R62). -/
def State.overstayAt (s : State) (h : Hold) : Deadline :=
  ⟨h.ticket, h.windowEnd + BitVec.ofNat 32 (s.timing.overstay * 60)⟩

/-- The displacement check of a hold, at its window start less the relocation lead × 60 (R63). -/
def State.checkAt (s : State) (h : Hold) : Deadline :=
  ⟨h.ticket, h.windowStart - BitVec.ofNat 32 (s.timing.lead * 60)⟩

/-- The hold deadlines of bay `b` when the event that leaves it with these three has ended (R59): one that is not due
stands, and one that is due is CLEAR with its expiry delivered. -/
def State.Awaits (x : State) (b : BayIx) (noShow overstay check : Option Deadline) : Prop :=
  let stands := fun (o : Option Deadline) => o.filter (fun d => !atOrAfter x.now d.due)
  (x.bay b).timer.noShow = stands noShow ∧ (x.bay b).timer.overstay = stands overstay
    ∧ (x.bay b).timer.displacement = stands check
    ∧ (∀ d ∈ noShow, atOrAfter x.now d.due = true → Expiry.noShow b d.owner d.due ∈ x.expiries)
    ∧ (∀ d ∈ overstay, atOrAfter x.now d.due = true → Expiry.overstay b d.owner d.due ∈ x.expiries)
    ∧ (∀ d ∈ check, atOrAfter x.now d.due = true → Expiry.displacement b d.owner d.due ∈ x.expiries)

/-- An event from `s` to `x` has set, moved and withdrawn no hold deadline of bay `b`; those that are due are delivered. -/
def State.AwaitsAs (s x : State) (b : BayIx) : Prop :=
  x.Awaits b (s.bay b).timer.noShow (s.bay b).timer.overstay (s.bay b).timer.displacement

/-- The Waitlist when the event that leaves it as `l` has ended (R59, R64): its entries in their order, each with its
hold, the class wanted and the preferred bay; a deadline that is due is CLEAR with its expiry delivered. -/
def State.WaitsWith (x : State) (l : List WaitEntry) : Prop :=
  x.waitlist = l.map (fun e => { e with deadline := e.deadline.filter (fun v => !atOrAfter x.now v) })
    ∧ ∀ e ∈ l, ∀ t ∈ e.hold.ticket, ∀ v ∈ e.deadline, atOrAfter x.now v = true → Expiry.waitlist t v ∈ x.expiries

/-! ## Placement -/

/-- The classes acceptable for a class: itself, then its substitution list, empty places left out (R32). A repeat changes
nothing below, where the first place of a class counts. -/
def State.acceptable (s : State) (c : BayClass) : List BayClass :=
  c :: (s.classOf c).substitution.items.filterMap id

/-- Bay `b` fits a hold that starts at `ws` in slot `sl` (R33): neither CLOSED nor FAULTED, close mode NONE, not suspect;
the active slot of a FREE bay; the empty staged slot of another whose active hold ends, turnover later, no later than the
start, with the displacement check still ahead, outside degraded mode. -/
def State.Fits (s : State) (b : BayIx) (ws : Time) (sl : Slot) : Prop :=
  let d := (s.bay b).dyn
  d.state ≠ .closed ∧ d.state ≠ .faulted ∧ d.closeMode = .none ∧ d.suspect = false
    ∧ (sl = .active ∧ d.state = .free
      ∨ sl = .staged ∧ d.state ≠ .free ∧ d.staged = none ∧ s.scrubber.degraded = false
        ∧ laterThan (ws - BitVec.ofNat 32 (s.timing.lead * 60)) s.now = true
        ∧ ∃ a ∈ d.active, atOrAfter ws (a.windowEnd + BitVec.ofNat 32 (s.timing.turnover * 60)) = true)

/-- Bay `b` fits in one of its slots. -/
def State.FitsSome (s : State) (b : BayIx) (ws : Time) : Prop := s.Fits b ws .active ∨ s.Fits b ws .staged

/-- The search for class `c` without a preferred bay finds slot `sl` of bay `b` (R34 step 2): it fits; no other bay that
fits is of a class that stands earlier in the search list; and of its own class none stands before it from the placement
cursor upward, with the wrap after bay 128. `excluded` is the bay that a relocation leaves out (R41). -/
def State.Finds (s : State) (c : BayClass) (excluded : Option BayIx) (ws : Time) (b : BayIx) (sl : Slot) : Prop :=
  let classes := s.acceptable c
  let place := fun (e : BayIx) => classes.idxOf (s.bay e).cls
  let cursor := s.cursors.get (s.bay b).cls.ix
  (s.bay b).cls ∈ classes ∧ some b ≠ excluded ∧ s.Fits b ws sl
    ∧ ∀ e, some e ≠ excluded → (s.bay e).cls ∈ classes → s.FitsSome e ws →
        place b < place e ∨ (place b = place e ∧ (b - cursor).val ≤ (e - cursor).val)

/-- The search for class `c` finds no bay (R33, R34): none of an acceptable class fits. The records that it compares agree
with their check words. -/
def State.FindsNone (s : State) (c : BayClass) (excluded : Option BayIx) (ws : Time) : Prop :=
  ∀ e, some e ≠ excluded → (s.bay e).cls ∈ s.acceptable c → (s.bay e).searchable = true →
    (s.bay e).checkOk = true ∧ ¬ s.FitsSome e ws

/-! ## Answers on the downlink -/

/-- The frame `f` is a POST-STATUS that answers the outstanding transaction `x`: its reply window is open, source and
TAG match, the source is the post node of bay `b` with contact record `c`, and the payload is the report `r` laid out
as Table 11-2 says, within the ranges of R181; an ALLOT is answered by its own sequence (R138). -/
structure State.PostAnswers (s : State) (f : Frame) (x : Transaction) (b : BayIx) (c : Contact) (r : PostReport) :
    Prop where
  running : s.heldInReset = false
  receiving : s.downlink.rx.state = .assembling
  outstanding : s.scheduler.transaction = some x
  window : x.phase = .window
  source : f.src = x.frame.dest
  tag : f.tag = x.frame.tag
  post : s.post b = some (f.src, s.node f.src)
  contact : (s.node f.src).contact = some c
  kind : f.kind = Kind.postStatus
  layout : ∃ last, f.payload = [byteOf r.connector.code] ++ be16 r.drawn ++ be16 r.inForce ++ [byteOf r.ack]
    ++ be32 r.energy ++ [last]
  connector : r.connector ≠ .none
  drawn : r.drawn < 65536
  inForce : r.inForce ≤ 800
  ack : r.ack < 256
  energy : r.energy < 4294967296
  answers : x.kind = .poll ∨ ∃ d, x.kind = .allot d r.ack

/-- The report `r` brings nothing new to bay `b`: the connector it has, an occupancy that agrees with it (R12, R13), no
debounce run at a bay without a sensor, and the energy figure it had (R73); and the bay is not FAULTED. -/
structure State.NothingNew (s : State) (b : BayIx) (r : PostReport) : Prop where
  connector : (s.bay b).dyn.connector = r.connector
  inService : (s.bay b).dyn.state ≠ .faulted
  plugged : r.connector = .plugged ∨ r.connector = .charging → (s.bay b).dyn.occupancy = .occupied
  alone : s.sensor b = none → (s.bay b).dyn.candidate = none ∧ (s.bay b).dyn.debounce = 0
    ∧ (r.connector = .idle → (s.bay b).dyn.occupancy = .vacant)
    ∧ (r.connector = .finished → (s.bay b).dyn.occupancy = .occupied)
  energy : ∀ h, (s.bay b).dyn.active = some h →
    h.arrival = none ∨ h.lastPostEnergy = some r.energy ∧ h.energyDelivered ≤ 4294967295

/-- The state once an answer has ended the transaction (R140 step 1): the line free, the contact record of the node
brought up to date. -/
def State.answeredBy (s : State) (f : Frame) : State :=
  ((s.setRx .downlink ⟨.idle, []⟩).setTransaction none).modContact f.src
    (fun _ => ⟨true, 0, s.now, s.now + BitVec.ofNat 32 s.timing.pollInterval⟩)

/-- The copy of an answer is placed for the notice destination where its kind has copy-up on (R108). -/
def State.carryUp (s : State) (f : Frame) : State :=
  if (s.kinds.get f.kind.toFin).copyUp = true ∧ s.controller.noticeDest ≠ 0 then
    s.placeUplink { f with dest := s.controller.noticeDest }
  else s

/-! ## Invariants -/

/-- The capacities of the queues and lists and the tops of the counts (R27, R36, R47, R104, R107, R126, R161,
R165). -/
structure State.Bounded (s : State) : Prop where
  fifo : s.uplink.fifo.length ≤ Config.uplinkFifo
  forward : s.downlink.forward.length ≤ Config.forwardQueue
  requests : s.requests.length ≤ Config.holdQueue
  management : s.management.length ≤ Config.managementQueue
  waitlist : s.waitlist.length ≤ Config.waitlist
  early : s.early.length ≤ Config.earlyList
  lost : ∀ sev, (s.recorder.logs.get sev).lost ≤ 15
  counts : ∀ c, (s.recorder.counters.get c).count ≤ 255

/-- The priorities of the Waitlist never increase from head to tail (R36). -/
def State.WaitOrdered (s : State) : Prop := s.waitlist.Pairwise (fun a b => b.hold.priority ≤ a.hold.priority)

/-- ALERT is active exactly while a severity whose action is NOTICE-AND-LINE has its pending flag set (R163). -/
def State.AlertRight (s : State) : Prop :=
  s.recorder.alert = true ↔
    ∃ sev, s.recorder.settings.actions.get sev = .noticeAndLine ∧ (s.recorder.logs.get sev).pending = true

/-- The sum of the targets of all bays. -/
def State.targetSum (s : State) : Nat := (allBays.map (fun b => (s.bay b).alloc.target)).sum

/-- The targets fit the budget in force (R90). -/
def State.WithinBudget (s : State) : Prop := s.targetSum ≤ budgetOf s.allocator.settings

/-- While the part is suspended, the Charge Queue is empty and every target is 0; the allocator's copy of the
flag is true to it (R78, R149). -/
def State.SuspensionHolds (s : State) : Prop :=
  s.allocator.suspendedCopy = s.suspension.suspended
    ∧ (s.suspension.suspended = true → s.allocator.queue = [] ∧ ∀ b, (s.bay b).alloc.target = 0)

end Sys2Proof.Machine
end

