-- ==== Sys2Proof/Certificates/Slice0/Obligations.lean ====
section
/-!
DEFINITION. The statements for the provers. Every statement speaks of every state that meets its hypotheses, reached
or not. `s.deliverDue.arbitrate` is what ends an event that owes no notice, no scan and no recompute: due
deadlines are delivered (R59) and the arbiter chooses (R136); what that end leaves alone is
`Obligations.EventEnd`.
-/

open Sys2Proof Sys2Proof.Machine

/-! ## The machine -/

/-- A step runs the command at the front of the queue on the state with the queue's rest. -/
def Obligations.StepRunsFrontCommand : Prop :=
  ∀ (c : Instr) (q : List Instr) (s : State), step (s.withPending (c :: q)) = exec c (s.withPending q)

/-- Every command completes, in any state: none faults and none is refused; and none changes the queue of waiting
commands, which are the sender's. -/
def Obligations.EveryCommandCompletes : Prop := ∀ (c : Instr) (s : State), ∃ t, exec c s = .next t ∧ t.pending = s.pending

/-! ## Reset -/

/-- Power-on reset brings every item to its power-on value whatever the state (R97, R113, R120, R145, R152): the
command queue stays; a part that starts suspended has every allot enable off and logs EMERGENCY-ENTERED, whose
default action drives ALERT and sends the FAULT-NOTICE. That the reset command itself takes the first event after the
reset, in which R152 logs, is the model's choice (log 5), and so is the RESET pin counting as not yet taken (log 4). -/
def Obligations.PowerOnReset : Prop :=
  ∀ s : State,
    exec (.powerOnReset false) s = .next { State.powerOn false with pending := s.pending } ∧
    ∃ t, exec (.powerOnReset true) s = .next t ∧ t.pending = s.pending ∧ t.suspension = ⟨true, true⟩
      ∧ (∀ b, (t.bay b).allotEnable = false ∧ (t.bay b).savedMask = false)
      ∧ (t.recorder.logs.get 2).first = some ⟨.emergencyEntered, 0, none, none⟩ ∧ t.recorder.alert = true
      ∧ t.uplink.fifo =
          [⟨0xF1, 0xF0, Kind.faultNotice, 0, [2, 16, 0, 0, 0, 0, 0, 0, 0, 0, 0, 0, 0]⟩]

/-- What power-on reset leaves, item by item, with the EMERGENCY input inactive: clock, bay records, bay configuration,
allocator, delivery records, Ticket Index, lists and queues, placement cursors, ports, tags, Node Map, Kind Filter, the
tables of 11.4, the logs and counters of the recorder, and the scrubber. The RESET pin counts as not yet taken (log 4). -/
def Obligations.ResetValues : Prop :=
  State.reset.pending = [] ∧ State.reset.now = 0 ∧ State.reset.siteOffset = 0 ∧ State.reset.heldInReset = false
    ∧ State.reset.resetPinTaken = false
    ∧ (∀ b, (State.reset.bay b).dyn = ⟨.closed, .unknown, none, 0, .none, none, none, .none, false⟩
        ∧ (State.reset.bay b).config = ⟨.standard, 60, true, false⟩
        ∧ (State.reset.bay b).alloc = ⟨60, 0, 0, none, false, true, false⟩
        ∧ (State.reset.bay b).timer = ⟨none, none, none, .clear⟩
        ∧ (State.reset.bay b).delivery = ⟨0, some 0, none, 0, 0, false, 0, false, .none⟩
        ∧ (State.reset.bay b).checkOk = true)
    ∧ State.reset.index = [] ∧ State.reset.waitlist = [] ∧ State.reset.early = [] ∧ State.reset.expiries = []
    ∧ (∀ c, State.reset.cursors.get c = 0)
    ∧ (∀ c, State.reset.classes.get c = ⟨2, .rotate, false, false, 120, 10, ⟨[none, none, none], rfl⟩⟩)
    ∧ State.reset.allocator = ⟨⟨0, 0, none, 60, 5, 30, 20, 20, 20⟩, [], false⟩
    ∧ budgetOf State.reset.allocator.settings = 0
    ∧ State.reset.timing = ⟨10, 5, 3, 60, 2, 15, 5, 10⟩
    ∧ (∀ a, State.reset.node a =
        if a = 0xF0 then ⟨.self, ⟨false, false, false, false, false⟩, none, none⟩
        else if a = 0xF1 then ⟨.server, ⟨true, true, true, true, true⟩, none, none⟩
        else ⟨.unused, ⟨false, false, false, false, false⟩, none, none⟩)
    ∧ (∀ k : Fin 256, State.reset.kinds.get k =
        if k.val ∈ [0x10, 0x11, 0x12, 0x13, 0x14, 0x40, 0x41, 0x42, 0x4F] then ⟨.claim, false, false⟩
        else if k.val = 0x31 then ⟨.drop, true, false⟩
        else if 0x50 ≤ k.val ∧ k.val ≤ 0x5F then ⟨.forward, false, true⟩
        else ⟨.drop, false, false⟩)
    ∧ State.reset.committedSum = 0 ∧ State.reset.scheduler = ⟨0, .raise, 0, 0, none⟩
    ∧ State.reset.uplink = ⟨[], none, ⟨.awaitGap, []⟩⟩ ∧ State.reset.downlink = ⟨[], none, ⟨.awaitGap, []⟩⟩
    ∧ State.reset.noticeTag = 0 ∧ State.reset.requests = [] ∧ State.reset.management = []
    ∧ State.reset.suspension = ⟨false, false⟩
    ∧ (∀ k : Fin 16, State.reset.recorder.settings.kinds.get k =
        ⟨true, if k.val ∈ [3, 5, 8, 9, 13] then 1 else if k.val ∈ [10, 14, 15] then 2 else 0⟩)
    ∧ (∀ v : Fin 3, State.reset.recorder.settings.actions.get v =
        if v = 0 then .none else if v = 1 then .notice else .noticeAndLine)
    ∧ (∀ c : Fin 2, State.reset.recorder.settings.selections.get c = if c = 0 then 0x0003 else 0x00C0)
    ∧ (∀ v, State.reset.recorder.logs.get v = ⟨none, none, 0, false⟩)
    ∧ (∀ c, State.reset.recorder.counters.get c = ⟨0, false⟩) ∧ State.reset.recorder.alert = false
    ∧ State.reset.scrubber = ⟨0, false⟩ ∧ State.reset.controller = ⟨0xF0, 0xF1, .boundary⟩

/-- Both power-on states meet every invariant of the part. -/
def Obligations.ResetIsSafe : Prop :=
  ∀ e, (State.powerOn e).Bounded ∧ (State.powerOn e).WaitOrdered ∧ (State.powerOn e).AlertRight
    ∧ (State.powerOn e).WithinBudget ∧ (State.powerOn e).SuspensionHolds

/-- A supply loss holds the part in reset at its power-on values, and a part held in reset takes no command but
power-on reset and a further supply loss (R114). What the held part keeps is the model's choice (log 3). The RESET pin's
return to high lets it be taken again (R114); the EMERGENCY input becoming inactive is recorded and ends no suspension
(R150). Nothing else changes but by the end of the event. -/
def Obligations.ResetPinAndSupply : Prop :=
  (∀ s : State,
      exec .supplyLoss s = .next { State.powerOn false with pending := s.pending, heldInReset := true })
    ∧ (∀ (c : Instr) (s : State), s.heldInReset = true → (∀ e, c ≠ .powerOnReset e) → c ≠ .supplyLoss →
        exec c s = .next s)
    ∧ (∀ s : State, s.heldInReset = false →
         exec .resetPinRelease s = .next { s with resetPinTaken := false }.deliverDue.arbitrate)
    ∧ (∀ s : State, s.heldInReset = false → s.suspension.emergency = true →
         exec .emergencyInactive s
           = .next { s with suspension := ⟨s.suspension.suspended, false⟩ }.deliverDue.arbitrate)

/-- A warm reset (R179), by the RESET pin when its low level has not already given one (R114), and by the RESET
operation, whose answer is the first frame of the emptied FIFO unless its SRC is the null address (R100); in a part whose
records all agree with their check words and whose EMERGENCY input starts no suspension. Below, `u` is the part before
the arbiter's choice that ends the event. The request queues, the FIFO and the forward queue are emptied, a frame being
received is discarded (R111), a frame on a line is kept under BOUNDARY and cut under IMMEDIATE (R112); clock, tables,
bookings, suspension, logs and counters are kept. The outstanding transaction is abandoned, the rotor at RAISE; the
delivery record of a bay with a post is UNKNOWN with nothing unacknowledged, its post maximum committed, or, for a
link-lost post, is brought to rest (R142); failure counts are 0 and every post is due now (R143, R146). Delivered
expiries are lost; every deadline is set afresh from holds and lists, those that are due being delivered (R75). The
Charge Queue holds the bays in CHARGING that are eligible and no other; where it held just these and all can be admitted,
its order and stamps, the ceilings and the admitted-since stand, with fresh rotation deadlines; under-draw counts are 0,
and the targets, handed over, fit the budget (R98). -/
def Obligations.WarmResets : Prop :=
  let kept := fun (s t : State) =>
    t.requests = [] ∧ t.management = [] ∧ t.downlink.forward = []
      ∧ t.uplink.rx = ⟨.awaitGap, []⟩ ∧ t.downlink.rx = ⟨.awaitGap, []⟩
      ∧ t.uplink.sending = (if s.controller.resetMode = .boundary then s.uplink.sending else none)
      ∧ t.downlink.sending = (if s.controller.resetMode = .boundary then s.downlink.sending else none)
      ∧ t.noticeTag = s.noticeTag ∧ t.dyns = s.dyns ∧ t.waitHolds = s.waitHolds ∧ t.index = s.index
      ∧ t.now = s.now ∧ t.siteOffset = s.siteOffset ∧ t.classes = s.classes ∧ t.kinds = s.kinds
      ∧ t.timing = s.timing ∧ t.controller = s.controller ∧ t.suspension = s.suspension
      ∧ t.allocator.settings = s.allocator.settings ∧ t.recorder = s.recorder ∧ t.scrubber = s.scrubber
      ∧ t.bays.map Bay.config = s.bays.map Bay.config
      ∧ (∀ a, (t.node a).role = (s.node a).role ∧ (t.node a).permissions = (s.node a).permissions
          ∧ (t.node a).bay = (s.node a).bay
          ∧ (t.node a).contact = (s.node a).contact.map (fun c =>
              ⟨c.reachable, 0, c.last, if (s.node a).role = .post then s.now else c.due⟩))
  let delivered := fun (s u : State) =>
    (∀ b a e, s.post b = some (a, e) →
      let d := (s.bay b).delivery
      let target := (u.bay b).alloc.target
      (s.linkLostNow b = false →
        (u.bay b).delivery = ⟨target, none, none, d.drawn, d.sequence, false, 0, false, .unknown⟩
          ∧ u.committed b = (s.bay b).postMax)
      ∧ (s.linkLostNow b = true →
        (u.bay b).delivery = ⟨target, some 0, none, 0, d.sequence, false, 0, true,
          if target = 0 then .settled else .pending⟩))
    ∧ (∀ b, (u.bay b).delivery.target = (u.bay b).alloc.target) ∧ u.WithinBudget
    ∧ u.scheduler = ⟨budgetOf s.allocator.settings, .raise, s.scheduler.cursor, s.scheduler.tag, none⟩
  let timed := fun (s u : State) =>
    let due := fun (v : Time) => atOrAfter s.now v = true
    let awaited := fun (o : Option Ticket) (v : Time) =>
      if atOrAfter s.now v = true then none else some (⟨o, v⟩ : Deadline)
    let overstay := fun (h : Hold) => h.windowEnd + BitVec.ofNat 32 (s.timing.overstay * 60)
    let check := fun (h : Hold) => h.windowStart - BitVec.ofNat 32 (s.timing.lead * 60)
    (∀ b, let d := (s.bay b).dyn
      let x := (u.bay b).timer
      (d.active = none → x.noShow = none ∧ x.overstay = none)
      ∧ (∀ h, d.active = some h → h.arrival = none → x.noShow = awaited h.ticket h.graceEnd ∧ x.overstay = none)
      ∧ (∀ h, d.active = some h → h.arrival ≠ none → x.noShow = none ∧ x.overstay = awaited h.ticket (overstay h))
      ∧ (d.staged = none → x.displacement = none)
      ∧ (∀ h, d.staged = some h → x.displacement = awaited h.ticket (check h)))
    ∧ u.waitlist = s.waitlist.map (fun e =>
        { e with deadline := if atOrAfter s.now e.hold.graceEnd = true then none else some e.hold.graceEnd })
    ∧ u.early = s.early.map (fun e =>
        { e with deadline := if atOrAfter s.now (e.recorded + 600) = true then none else some (e.recorded + 600) })
    ∧ (∀ x, (∀ b, x ≠ .rotation b) → (x ∈ u.expiries ↔
        (∃ b h, (s.bay b).dyn.active = some h ∧ h.arrival = none ∧ due h.graceEnd ∧ x = .noShow b h.ticket h.graceEnd)
        ∨ (∃ b h, (s.bay b).dyn.active = some h ∧ h.arrival ≠ none ∧ due (overstay h)
            ∧ x = .overstay b h.ticket (overstay h))
        ∨ (∃ b h, (s.bay b).dyn.staged = some h ∧ due (check h) ∧ x = .displacement b h.ticket (check h))
        ∨ (∃ e t, e ∈ s.waitlist ∧ e.hold.ticket = some t ∧ due e.hold.graceEnd ∧ x = .waitlist t e.hold.graceEnd)
        ∨ (∃ e, e ∈ s.early ∧ due (e.recorded + 600) ∧ x = .early e.ticket (e.recorded + 600))))
  let allotted := fun (s u : State) =>
    let a := s.allocator.settings
    let eligible := fun (b : BayIx) => (s.bay b).dyn.state = .charging ∧ (s.bay b).alloc.enableCopy = true
      ∧ (s.bay b).alloc.suspectCopy = false ∧ s.allocator.suspendedCopy = false ∧ a.minimum ≤ (s.bay b).postMax
    (∀ b, (u.bay b).alloc.underDraw = 0) ∧ (∀ b, b ∈ u.allocator.queue.map (·.bay) ↔ eligible b)
    ∧ ((∀ b, b ∈ s.allocator.queue.map (·.bay) ↔ eligible b) →
        s.allocator.queue.length ≤ budgetOf a / a.minimum →
        u.allocator.queue = s.allocator.queue
        ∧ ∀ e ∈ s.allocator.queue, (u.bay e.bay).alloc.ceiling = (s.bay e.bay).alloc.ceiling
          ∧ (∀ since, (s.bay e.bay).alloc.admittedSince = some since →
              let v := since + BitVec.ofNat 32 (a.rotation * 60)
              (u.bay e.bay).alloc.admittedSince = some since
              ∧ (u.bay e.bay).timer.rotation =
                  (if (s.classOf (s.bay e.bay).cls).mode ≠ .rotate then .clear
                   else if atOrAfter s.now v = true then .due v else .set v)))
  let warm := fun (s u : State) (answers : List Frame) =>
    kept s u.arbitrate ∧ u.arbitrate.uplink.fifo = answers ∧ delivered s u ∧ timed s u ∧ allotted s u
  (∀ s : State, s.heldInReset = false → s.resetPinTaken = false → (∀ b, (s.bay b).checkOk = true) →
       (s.suspension.emergency = true → s.suspension.suspended = true) →
       ∃ u : State, exec .warmReset s = .next u.arbitrate ∧ u.arbitrate.resetPinTaken = true ∧ warm s u [])
    ∧ (∀ (s : State) (r : Request) (q : List Request), s.heldInReset = false → s.management = r :: q →
         r.kind = Kind.control → byteAt r.payload 0 = 12 → r.payload ≠ [] → (∀ b, (s.bay b).checkOk = true) →
         (s.suspension.emergency = true → s.suspension.suspended = true) →
         ∃ u : State, exec .reset s = .next u.arbitrate ∧ u.arbitrate.resetPinTaken = s.resetPinTaken
           ∧ warm s u (if r.src = 0 then [] else
               [⟨r.src, s.controller.own, Kind.mgmtAnswer, r.tag, [r.kind, 0]⟩]))

/-! ## The link -/

/-- CRC-16: over a whole well-formed frame, CHECK included, the computation gives 0; over "123456789" it gives
0x29B1; CHECK is sent more significant byte first; and a received frame passes exactly when the CRC over all but its
last two bytes equals those two taken as a 16-bit value (R101). -/
def Obligations.FrameCheck : Prop :=
  (∀ f : Frame, crc16 f.bytes = 0)
    ∧ crc16 [0x31, 0x32, 0x33, 0x34, 0x35, 0x36, 0x37, 0x38, 0x39] = 0x29B1
    ∧ (∀ f : Frame, f.bytes = f.body ++ [(crc16 f.body).extractLsb' 8 8, (crc16 f.body).extractLsb' 0 8])
    ∧ (∀ (bs : List Byte) (hi lo : Byte), checkPasses (bs ++ [hi, lo]) = true ↔ crc16 bs = hi ++ lo)

/-- Sending and receiving agree: a frame of up to 48 payload bytes, received without a character fault, passes the
four tests of R103 and is the frame that was sent (R99, R101, R103). -/
def Obligations.FrameRoundTrip : Prop :=
  ∀ f : Frame, f.payload.length ≤ 48 → receive f.received = .ok f

/-- A frame in which exactly one byte is altered on the line, wherever it stands, CHECK included, is dropped
FRAME-CHECK (R101, R103). -/
def Obligations.AlteredByteIsCaught : Prop :=
  ∀ (f : Frame) (i : Nat) (x : Byte), f.payload.length ≤ 48 → i < f.bytes.length → f.bytes[i]? ≠ some x →
    receive ((f.bytes.set i x).map (⟨·, false⟩)) = .error .frameCheck

/-- The end of a frame at a port that assembles one: the four tests of R103 in their order, each failure logged with
the header when five bytes were received and nothing else done; a frame that passes them all is handed to the
classifier in the same event. The port is idle again with its buffer free. -/
def Obligations.FrameReception : Prop :=
  ∀ (s : State) (p : Port) (cs : List RxChar), s.heldInReset = false → (s.rx p).state = .assembling →
    let x := s.setRx p ⟨.idle, []⟩
    let bytes := cs.map (·.data)
    let n := cs.length
    let dropped := fun k => (.next (x.logError
      { kind := k, header := if 5 ≤ n then
          some ⟨bytes.getD 0 0, bytes.getD 1 0, bytes.getD 2 0, bytes.getD 3 0, bytes.getD 4 0⟩
        else none }).deliverDue.arbitrate : Result)
    let fault := ∃ c ∈ cs, c.faulty = true
    let checks := crc16 (bytes.take (n - 2)) = bytes.getD (n - 2) 0 ++ bytes.getD (n - 1) 0
    let len := (bytes.getD 4 0).toNat
    (n < 7 ∨ 55 < n → exec (.frameReception p cs) s = dropped .frameShape)
      ∧ (7 ≤ n → n ≤ 55 → fault → exec (.frameReception p cs) s = dropped .frameCheck)
      ∧ (7 ≤ n → n ≤ 55 → ¬ fault → ¬ checks → exec (.frameReception p cs) s = dropped .frameCheck)
      ∧ (7 ≤ n → n ≤ 55 → ¬ fault → checks → ¬ (len ≤ 48 ∧ len + 7 = n) →
          exec (.frameReception p cs) s = dropped .frameShape)
      ∧ (7 ≤ n → n ≤ 55 → ¬ fault → checks → len ≤ 48 ∧ len + 7 = n →
          exec (.frameReception p cs) s = .next ((Ev.start x).classify p
            ⟨bytes.getD 0 0, bytes.getD 1 0, bytes.getD 2 0, bytes.getD 3 0, (bytes.drop 5).take len⟩).finish)

/-- The ports. A start bit begins a frame at a port that assembles none, the downlink only while it is not
transmitting (R102, R109). The uplink port takes the head of the FIFO and sends it whole: the removal makes room at
once, and after the last stop bit the line is free (R105). The downlink port starts the waiting transaction's frame
when it neither sends nor assembles one; at the end of sending the transaction opens its reply window, or ends as
sent when it is a forwarded frame that expects no answer or goes to every node (R109, R110, R137). -/
def Obligations.PortEvents : Prop :=
  (∀ (s : State) (p : Port), s.heldInReset = false → (s.rx p).state ≠ .assembling →
       (p = .downlink → s.downlink.sending = none) →
       exec (.frameBegin p) s = .next (s.setRx p ⟨.assembling, []⟩).deliverDue.arbitrate)
    ∧ (∀ s : State, s.heldInReset = false →
         (∀ f rest, s.uplink.sending = none → s.uplink.fifo = f :: rest →
           exec .uplinkSendStart s
             = .next { s with uplink := ⟨rest, some f, s.uplink.rx⟩ }.deliverDue.arbitrate)
         ∧ (∀ f, s.uplink.sending = some f →
           exec .uplinkSendEnd s
             = .next { s with uplink := ⟨s.uplink.fifo, none, s.uplink.rx⟩ }.deliverDue.arbitrate))
    ∧ (∀ (s : State) (x : Transaction), s.heldInReset = false → s.scheduler.transaction = some x →
         let noWindow : Bool := x.kind == .forward false || (x.kind == .forward true && x.frame.dest == 0xFF)
         (x.phase = .waiting → s.downlink.sending = none → s.downlink.rx.state ≠ .assembling →
           exec .downlinkFrameStart s
             = .next ((s.setDownlinkSending (some x.frame)).setTransaction
                 (some { x with phase := .sending })).deliverDue.arbitrate)
         ∧ (∀ f, x.phase = .sending → s.downlink.sending = some f →
           exec .endOfSending s
             = .next ((s.setDownlinkSending none).setTransaction
                 (if noWindow then none else some { x with phase := .window })).deliverDue.arbitrate))

/-- The close of a reply window without an answer (R139). In its first attempt an ALLOT or POLL is sent once more, the
same frame waiting for the line again; where the DEST node has lost its contact record the transaction ends and nothing
is logged, whatever its kind (log 25); a forwarded frame is not retried: NO-ANSWER is logged with its header, and no
contact record changes. After the second window NO-ANSWER is logged with the node's bay and the header, and the failure
is counted up to 7 (R141): a POLL gives the node the due time now + P; an ALLOT leaves its bay WAIT-CONTACT, and a post
that is link-lost is then brought to rest (R142). At the limit K a REACHABLE node becomes UNREACHABLE and
NODE-UNREACHABLE is logged with its bay: the bay of a post, unless CLOSED or FAULTED, becomes FAULTED, and BAY-NOTICE
FAULTED with the cause POST-UNREACHABLE follows. Its occupancy becomes UNKNOWN where it has no sensor; where it has one
and plug evidence was in force, it becomes VACANT by a debounce run of VACANT that has reached D, UNKNOWN where the
sensor is UNREACHABLE, and stays otherwise (R12, R13). A post that is link-lost is brought to rest at once, and after an
ALLOT its bay is otherwise WAIT-CONTACT with its unacknowledged allotment kept. The bay of a sensor becomes UNKNOWN, but
for plug evidence, and its debounce run ends (R11). That the bay of a post is FAULTED before its occupancy lapses is read
by inference (log 10), and that the BAY-NOTICE stands behind the FAULT-NOTICEs is the model's choice (log 38). -/
def Obligations.WindowCloses : Prop :=
  (∀ (s : State) (x : Transaction), s.heldInReset = false → s.scheduler.transaction = some x → x.phase = .window →
       (x.destLost = false → x.retried = false → (∀ v, x.kind ≠ .forward v) →
         exec .replyWindowClose s
           = .next (s.setTransaction (some { x with retried := true, phase := .waiting })).deliverDue.arbitrate)
       ∧ (x.destLost = true → exec .replyWindowClose s = .next (s.setTransaction none).deliverDue.arbitrate))
    ∧ (∀ (s : State) (x : Transaction) (v : Bool), s.heldInReset = false → s.scheduler.transaction = some x →
         x.phase = .window → x.destLost = false → x.kind = .forward v →
         exec .replyWindowClose s
           = .next ((s.setTransaction none).logError { kind := .noAnswer, header := some x.frame.header }).deliverDue.arbitrate)
    ∧ (∀ (s : State) (x : Transaction) (c : Contact), s.heldInReset = false → s.scheduler.transaction = some x →
         x.phase = .window → x.destLost = false → x.retried = true → (s.node x.frame.dest).contact = some c →
         let n := min 7 (c.failures + 1)
         let unanswered := (s.setTransaction none).logError
           { kind := .noAnswer, bay := (s.node x.frame.dest).bay, header := some x.frame.header }
         let due := s.now + BitVec.ofNat 32 s.timing.pollInterval
         (x.kind = .poll → c.reachable = false ∨ n < s.timing.failLimit →
           exec .replyWindowClose s = .next (unanswered.modContact x.frame.dest
             (fun _ => ⟨c.reachable, n, c.last, due⟩)).deliverDue.arbitrate)
         ∧ (∀ b q, x.kind = .allot b q → c.reachable = false ∨ n < s.timing.failLimit →
             let waits := (unanswered.modDelivery b (fun d => { d with state := .waitContact })).modContact
               x.frame.dest (fun _ => ⟨c.reachable, n, c.last, c.due⟩)
             let d := (s.bay b).delivery
             (s.linkLostNow b = false ∨ d.linkLost = true → exec .replyWindowClose s = .next waits.deliverDue.arbitrate)
             ∧ (s.linkLostNow b = true → d.linkLost = false →
                 exec .replyWindowClose s = .next (waits.modDelivery b (fun _ =>
                   ⟨d.target, some 0, none, 0, d.sequence, false, 0, true,
                     if d.target = 0 then .settled else .pending⟩)).deliverDue.arbitrate))
         ∧ (∀ b, (x.kind = .poll ∨ ((s.node x.frame.dest).role = .post ∧ ∃ q, x.kind = .allot b q)) →
             c.reachable = true → s.timing.failLimit ≤ n → (s.node x.frame.dest).bay = some b →
             (∀ e, (s.bay e).checkOk = true) → s.waitlist = [] → s.uplink.fifo.length + 3 ≤ 32 →
             let d := (s.bay b).dyn
             let r := (s.bay b).delivery
             let lost := unanswered.logError { kind := .nodeUnreachable, bay := some b }
             let becomes := fun (d' : BayDyn) (more : State → Prop) =>
               ∃ t, exec .replyWindowClose s = .next t
                 ∧ (t.node x.frame.dest).contact = some ⟨false, n, c.last, if x.kind = .poll then due else c.due⟩
                 ∧ (t.bay b).dyn = d' ∧ (∀ e, e ≠ b → (t.bay e).dyn = (s.bay e).dyn)
                 ∧ t.recorder = lost.recorder ∧ t.index = s.index
                 ∧ (s.controller.noticeDest ≠ 0 → d.state ≠ d'.state →
                     lost.uplink.fifo ++ [lost.bayNoticeAt 0 b d.state d'.state
                       (if d'.state = .faulted then 6 else 1) 0 (if d'.state = .faulted then 2 else 0)]
                       <+: t.uplink.fifo) ∧ more t
             ((s.node x.frame.dest).role = .post →
               let out : BayDyn := { d with state := if d.state = .closed then .closed else .faulted }
               let record := fun (t : State) => s.post b = some (x.frame.dest, s.node x.frame.dest) →
                 let expired := atOrAfter s.now (c.last + BitVec.ofNat 32 s.timing.linkLoss)
                 let r' := (t.bay b).delivery
                 (expired = true → r.linkLost = false → (x.kind = .poll → r.state ≠ .inFlight) →
                   r'.inForce = some 0 ∧ r'.drawn = 0 ∧ r'.linkLost = true ∧ r'.repeatMark = false
                     ∧ r'.overdrawCount = 0)
                 ∧ (x.kind ≠ .poll → expired = false ∨ r.linkLost = true →
                   r' = { r with target := r'.target, state := .waitContact })
               (s.sensor b = none → becomes { out with occupancy := .unknown } record)
               ∧ (∀ a e, s.sensor b = some (a, e) →
                   (s.plugEvidence b = false → becomes out record)
                   ∧ (s.plugEvidence b = true → e.isReachable = false →
                       becomes { out with occupancy := .unknown } record)
                   ∧ (s.plugEvidence b = true → e.isReachable = true → d.candidate = some .vacant →
                       s.timing.debounce ≤ d.debounce →
                       becomes { out with occupancy := .vacant, candidate := none, debounce := 0 } record)
                   ∧ (s.plugEvidence b = true → e.isReachable = true →
                       d.candidate ≠ some .vacant ∨ d.debounce < s.timing.debounce → becomes out record)))
             ∧ ((s.node x.frame.dest).role = .sensor →
                 (s.plugEvidence b = false → d.occupancy ≠ .unknown →
                   becomes { d with occupancy := .unknown, candidate := none, debounce := 0,
                                    state := if d.state = .unbooked then .free
                                      else if d.state = .contested then .held else d.state } (fun _ => True))
                 ∧ (s.plugEvidence b = true ∨ d.occupancy = .unknown →
                   becomes { d with candidate := none, debounce := 0 } (fun _ => True)))))

/-- Frames that are not taken, each logged with its header and nothing else done: one heard on the wrong segment, or
from an address without a role there, NOT-PERMITTED (R122); a downlink frame while no reply window is open, or that does
not match the transaction, UNEXPECTED-ANSWER (R110, R138). The forward half of an uplink frame (R123): of a FORWARD or
CLAIM-FORWARD kind for a node of the downlink, and of a FORWARD kind to broadcast, it joins the forward queue unchanged,
with the answer-expected setting of its kind, while the queue holds fewer than 16; at a full queue it is dropped and
FORWARD-DROP is logged with its header (R107). FORWARD to the part itself, and FORWARD or CLAIM-FORWARD to an address that
is no node of the downlink, is dropped with FORWARD-DROP too. A frame of a DROP kind, and one of a CLAIM kind to neither
the part itself nor broadcast, is dropped without a trace. -/
def Obligations.FramesForwardedOrNotTaken : Prop :=
  (∀ (s : State) (p : Port) (f : Frame), s.heldInReset = false → (s.rx p).state = .assembling →
       f.payload.length ≤ 48 →
       (p = .uplink → (s.node f.src).role ≠ .requester ∧ (s.node f.src).role ≠ .server) →
       (p = .downlink → (s.node f.src).role ≠ .post ∧ (s.node f.src).role ≠ .sensor) →
       exec (.frameReception p f.received) s
         = .next ((s.setRx p ⟨.idle, []⟩).logError
             { kind := .notPermitted, header := some f.header }).deliverDue.arbitrate)
    ∧ (∀ (s : State) (f : Frame), s.heldInReset = false → s.downlink.rx.state = .assembling → f.payload.length ≤ 48 →
         ((s.node f.src).role = .post ∨ (s.node f.src).role = .sensor) →
         (∀ x, s.scheduler.transaction = some x → x.phase ≠ .window ∨ f.src ≠ x.frame.dest ∨ f.tag ≠ x.frame.tag) →
         exec (.frameReception .downlink f.received) s
           = .next ((s.setRx .downlink ⟨.idle, []⟩).logError
               { kind := .unexpectedAnswer, header := some f.header }).deliverDue.arbitrate)
    ∧ (∀ (s : State) (f : Frame), s.heldInReset = false → s.uplink.rx.state = .assembling → f.payload.length ≤ 48 →
         ((s.node f.src).role = .requester ∨ (s.node f.src).role = .server) →
         let k := s.kinds.get f.kind.toFin
         let x := s.setRx .uplink ⟨.idle, []⟩
         let ends := fun (t : State) => exec (.frameReception .uplink f.received) s = .next t.deliverDue.arbitrate
         let own := f.dest = s.controller.own
         let downNode := (s.node f.dest).role = .post ∨ (s.node f.dest).role = .sensor
         (¬ own → k.action = .forward ∧ (f.dest = 0xFF ∨ downNode) ∨ k.action = .claimForward ∧ f.dest ≠ 0xFF ∧ downNode →
           (s.downlink.forward.length < 16 →
             ends { x with downlink := { s.downlink with
               forward := s.downlink.forward ++ [(⟨f, k.answerExpected⟩ : ForwardEntry)] } })
           ∧ (16 ≤ s.downlink.forward.length → ends (x.logError { kind := .forwardDrop, header := some f.header })))
         ∧ (k.action = .forward ∧ own
             ∨ (k.action = .forward ∨ k.action = .claimForward) ∧ ¬ own ∧ f.dest ≠ 0xFF ∧ ¬ downNode →
           ends (x.logError { kind := .forwardDrop, header := some f.header }))
         ∧ (k.action = .drop ∨ k.action = .claim ∧ ¬ own ∧ f.dest ≠ 0xFF → ends x))

/-- Claimed requests (R123): of a CLAIM kind to the part's own address or to broadcast, or of a CLAIM-FORWARD kind to the
own address. A booking request joins the hold request queue while it holds fewer than 8; a full queue refuses it BUSY and
no queue changes (R27, R124, R125). A management frame without the MANAGE permission is answered NOT-PERMITTED and not
queued; with it, it joins the management queue while that holds fewer than 4, and is otherwise dropped with REQUEST-BUSY
(R126). A request of a CLAIM-FORWARD kind to broadcast joins its queue and then the forward queue, or is dropped there
with FORWARD-DROP at 16 entries. That the BUSY and NOT-PERMITTED answers stand before the
FAULT-NOTICE of their error is read by inference (log 22), and so is the ticket in the BUSY refusal of a QUERY (log 29).
-/
def Obligations.RequestsQueued : Prop :=
  (∀ (s : State) (f : Frame), s.heldInReset = false → s.uplink.rx.state = .assembling → f.payload.length ≤ 48 →
       ((s.node f.src).role = .requester ∨ (s.node f.src).role = .server) →
       f.kind ∈ [Kind.hold, Kind.amend, Kind.free, Kind.query, Kind.arrive] →
       let claimed := (s.kinds.get f.kind.toFin).action
       (claimed = .claim ∧ (f.dest = s.controller.own ∨ f.dest = 0xFF)
         ∨ claimed = .claimForward ∧ f.dest = s.controller.own) →
       (s.requests.length < 8 →
         exec (.frameReception .uplink f.received) s
           = .next { s with uplink := { s.uplink with rx := ⟨.idle, []⟩ },
                            requests := s.requests ++ [(⟨f.src, f.kind, f.tag, f.payload⟩ : Request)] }.deliverDue.arbitrate)
       ∧ (8 ≤ s.requests.length →
         ∃ t, exec (.frameReception .uplink f.received) s = .next t ∧ t.requests = s.requests
           ∧ t.management = s.management ∧ t.dyns = s.dyns ∧ t.index = s.index
           ∧ (f.src ≠ 0 → s.uplink.fifo.length < 32 →
               s.uplink.fifo ++ [⟨f.src, s.controller.own, Kind.answer, f.tag,
                 answerPayload f.kind (busyTicket f) (refusal .busy)⟩] <+: t.uplink.fifo)))
    ∧ (∀ (s : State) (f : Frame), s.heldInReset = false → s.uplink.rx.state = .assembling → f.payload.length ≤ 48 →
         ((s.node f.src).role = .requester ∨ (s.node f.src).role = .server) →
         f.kind ∈ [Kind.setTable, Kind.getTable, Kind.control] →
         let claimed := (s.kinds.get f.kind.toFin).action
         (claimed = .claim ∧ (f.dest = s.controller.own ∨ f.dest = 0xFF)
           ∨ claimed = .claimForward ∧ f.dest = s.controller.own) →
         let x := s.setRx .uplink ⟨.idle, []⟩
         ((s.node f.src).permissions.manage = true → s.management.length < 4 →
           exec (.frameReception .uplink f.received) s
             = .next { x with management := s.management ++ [(⟨f.src, f.kind, f.tag, f.payload⟩ : Request)] }.deliverDue.arbitrate)
         ∧ ((s.node f.src).permissions.manage = true → 4 ≤ s.management.length →
           exec (.frameReception .uplink f.received) s
             = .next (x.logError { kind := .requestBusy, header := some f.header }).deliverDue.arbitrate)
         ∧ ((s.node f.src).permissions.manage = false →
           ∃ t, exec (.frameReception .uplink f.received) s = .next t ∧ t.management = s.management
             ∧ s.Answers t ⟨f.src, f.kind, f.tag, f.payload⟩ Kind.mgmtAnswer [f.kind, 6]))
    ∧ (∀ (s : State) (f : Frame), s.heldInReset = false → s.uplink.rx.state = .assembling → f.payload.length ≤ 48 →
         ((s.node f.src).role = .requester ∨ (s.node f.src).role = .server) →
         (s.kinds.get f.kind.toFin).action = .claimForward → f.dest = 0xFF → f.dest ≠ s.controller.own →
         let r : Request := ⟨f.src, f.kind, f.tag, f.payload⟩
         let x := s.setRx .uplink ⟨.idle, []⟩
         let forwards := fun (u : State) =>
           (s.downlink.forward.length < 16 →
             exec (.frameReception .uplink f.received) s = .next { u with downlink := { s.downlink with
               forward := s.downlink.forward ++ [(⟨f, (s.kinds.get f.kind.toFin).answerExpected⟩ : ForwardEntry)] }
             }.deliverDue.arbitrate)
           ∧ (16 ≤ s.downlink.forward.length →
             exec (.frameReception .uplink f.received) s
               = .next (u.logError { kind := .forwardDrop, header := some f.header }).deliverDue.arbitrate)
         (f.kind ∈ [Kind.hold, Kind.amend, Kind.free, Kind.query, Kind.arrive] → s.requests.length < 8 →
           forwards { x with requests := s.requests ++ [r] })
         ∧ (f.kind ∈ [Kind.setTable, Kind.getTable, Kind.control] → (s.node f.src).permissions.manage = true →
             s.management.length < 4 → forwards { x with management := s.management ++ [r] }))

/-- Reports that answer the part's own ALLOT or POLL (R138, R140): the transaction ends, the contact record of the node
is brought up to date, and where the kind has copy-up on a copy goes to the notice destination (R108). An OCCUPANCY of
health DEGRADED is no evidence (R11). One of health GOOD without plug evidence that agrees with the accepted occupancy
ends the debounce run; one that differs from it opens or advances a run below D; one that brings the run to D, or meets
UNKNOWN, is accepted, and a bay without a hold, closed or faulted changes as Table 1-5 says (R10, R14). A POST-STATUS
that brings nothing new to a bay outside the Charge Queue is taken into the delivery record (R131): in-force and drawn
as reported, nothing unacknowledged, link lost cleared, SETTLED where target equals in-force and the repeat mark is
clear and PENDING otherwise. As the answer to a POLL it is then tested for overdraw (R135): at the second report above
in-force + V OVERDRAW is logged, the repeat mark is set and the bay is PENDING. While plug evidence is in force an
OCCUPIED report ends the run, a VACANT one advances it and changes no occupancy, and the one that brings the count to D
logs SENSOR-DISAGREE (R12). The answer to a forwarded frame, of any kind, is carried up whole, and no evidence is taken
from it; that it restores the contact of an UNREACHABLE post is read by inference to end its bay's cause (log 11), the
bay's notice before the frame. A frame that matches the transaction and does not answer it closes the attempt as if the
reply window had closed: of another kind, of another ack sequence, too short, or with a connector or allotment that no
report has (R138, R180, R181). -/
def Obligations.AnsweredReports : Prop :=
  (∀ (s : State) (f : Frame) (x : Transaction), s.heldInReset = false → s.downlink.rx.state = .assembling →
    f.payload.length ≤ 48 → s.scheduler.transaction = some x → x.phase = .window → x.kind = .poll →
    f.src = x.frame.dest → f.tag = x.frame.tag → (s.node f.src).role = .sensor → f.kind = Kind.occupancy →
    (2 ≤ f.payload.length → byteAt f.payload 1 = 1 → (s.kinds.get f.kind.toFin).copyUp = false →
      let record : Contact → Contact := fun _ =>
        ⟨true, 0, s.now, s.now + BitVec.ofNat 32 s.timing.pollInterval⟩
      exec (.frameReception .downlink f.received) s
        = .next (((s.setRx .downlink ⟨.idle, []⟩).setTransaction none).modContact f.src record).deliverDue.arbitrate)
    ∧ (∀ (b : BayIx) (v : Bool), f.payload = [if v then 1 else 0, 0] → (s.node f.src).bay = some b →
        s.plugEvidence b = false →
        let d := (s.bay b).dyn
        let sensed : Sensed := if v then .occupied else .vacant
        let reported : Occupancy := if v then .occupied else .vacant
        let count := if d.candidate = some sensed then min 7 (d.debounce + 1) else 1
        (d.occupancy = reported →
          exec (.frameReception .downlink f.received) s
            = .next (((s.answeredBy f).modDyn b (fun e => { e with candidate := none, debounce := 0 })).carryUp
                f).deliverDue.arbitrate)
        ∧ (d.occupancy ≠ reported → d.occupancy ≠ .unknown → count < s.timing.debounce →
            exec (.frameReception .downlink f.received) s
              = .next (((s.answeredBy f).modDyn b (fun e => { e with candidate := some sensed, debounce := count })).carryUp
                  f).deliverDue.arbitrate)
        ∧ (d.occupancy ≠ reported → d.occupancy = .unknown ∨ s.timing.debounce ≤ count →
            d.state ∈ [BayState.free, .unbooked, .closed, .faulted] → (∀ e, (s.bay e).checkOk = true) →
            let after : BayState := if v = true ∧ d.state = .free then .unbooked
              else if v = false ∧ d.state = .unbooked then .free else d.state
            ∃ t, exec (.frameReception .downlink f.received) s = .next t
              ∧ (t.bay b).dyn = { d with occupancy := reported, candidate := none, debounce := 0, state := after }
              ∧ (∀ e, e ≠ b → (t.bay e).dyn = (s.bay e).dyn) ∧ t.index = s.index ∧ t.waitHolds = s.waitHolds
              ∧ (after ≠ d.state → s.controller.noticeDest ≠ 0 →
                  s.Sends t [s.bayNoticeAt 0 b d.state after 1 0 0])))
    ∧ (∀ (b : BayIx) (v : Bool), f.payload = [if v then 1 else 0, 0] → (s.node f.src).bay = some b →
        s.plugEvidence b = true →
        let d := (s.bay b).dyn
        let before := if d.candidate = some .vacant then d.debounce else 0
        let count := min 7 (before + 1)
        let run := fun (c : Option Sensed) (n : Nat) =>
          (s.answeredBy f).modDyn b (fun e => { e with candidate := c, debounce := n })
        let ends := fun (t : State) =>
          exec (.frameReception .downlink f.received) s = .next (t.carryUp f).deliverDue.arbitrate
        (v = true → ends (run none 0))
        ∧ (v = false → before < s.timing.debounce → s.timing.debounce ≤ count →
            ends ((run (some .vacant) count).logError { kind := .sensorDisagree, bay := some b }))
        ∧ (v = false → s.timing.debounce ≤ before ∨ count < s.timing.debounce → ends (run (some .vacant) count))))
  ∧ (∀ (s : State) (f : Frame) (x : Transaction) (b : BayIx) (c : Contact) (r : PostReport),
      s.PostAnswers f x b c r → s.NothingNew b r → s.inQueue b = false →
      let d := (s.bay b).delivery
      let after := (s.answeredBy f).modAlloc b (fun a => { a with underDraw := 0 })
      let record : Delivery := ⟨d.target, some r.inForce, none, r.drawn, d.sequence, d.repeatMark, d.overdrawCount,
        false, if r.inForce = d.target ∧ d.repeatMark = false then .settled else .pending⟩
      let tolerated := r.inForce + s.allocator.settings.overdraw
      (∀ e q, x.kind = .allot e q →
        exec (.frameReception .downlink f.received) s
          = .next ((after.modDelivery b (fun _ => record)).carryUp f).deliverDue.arbitrate)
      ∧ (x.kind = .poll → r.drawn ≤ tolerated →
          exec (.frameReception .downlink f.received) s
            = .next ((after.modDelivery b (fun _ => { record with overdrawCount := 0 })).carryUp
                f).deliverDue.arbitrate)
      ∧ (x.kind = .poll → tolerated < r.drawn → d.overdrawCount = 0 →
          exec (.frameReception .downlink f.received) s
            = .next ((after.modDelivery b (fun _ => { record with overdrawCount := 1 })).carryUp
                f).deliverDue.arbitrate)
      ∧ (x.kind = .poll → tolerated < r.drawn → 1 ≤ d.overdrawCount →
          exec (.frameReception .downlink f.received) s
            = .next (((after.logError { kind := .overdraw, bay := some b }).modDelivery b (fun _ =>
                { record with overdrawCount := 0, repeatMark := true, state := .pending })).carryUp
                f).deliverDue.arbitrate))
  ∧ (∀ (s : State) (f : Frame) (x : Transaction) (c : Contact), s.heldInReset = false →
      s.downlink.rx.state = .assembling → f.payload.length ≤ 48 → s.scheduler.transaction = some x →
      x.phase = .window → f.src = x.frame.dest → f.tag = x.frame.tag → (s.node f.src).contact = some c →
      let post := (s.node f.src).role = .post
      let sensor := (s.node f.src).role = .sensor
      let report := fun (p : List Byte) => 11 ≤ p.length ∧ 1 ≤ byteAt p 0 ∧ byteAt p 0 ≤ 5 ∧ field16 p 3 ≤ 800
      let carried := ((s.answeredBy f).placeUplink f).deliverDue.arbitrate
      (∀ v, x.kind = .forward v → sensor ∨ post ∧ c.reachable = true →
        exec (.frameReception .downlink f.received) s = .next carried)
      ∧ (∀ v b, x.kind = .forward v → c.reachable = false → s.post b = some (f.src, s.node f.src) →
          (s.bay b).dyn.state = .faulted → (s.bay b).dyn.suspect = false → (s.bay b).dyn.connector ≠ .fault →
          (s.bay b).dyn.active = none → (s.bay b).dyn.closeMode = .none → s.waitlist = [] →
          (∀ e, (s.bay e).checkOk = true) →
          let d := (s.bay b).dyn
          let o := if d.connector = .plugged ∨ d.connector = .charging then Occupancy.occupied else d.occupancy
          let st := if o = .occupied then BayState.unbooked else .free
          ∃ t, exec (.frameReception .downlink f.received) s = .next t
            ∧ (t.bay b).dyn = { d with occupancy := o, state := st }
            ∧ (∀ e, e ≠ b → (t.bay e).dyn = (s.bay e).dyn) ∧ t.index = s.index
            ∧ (t.node f.src).contact = some ⟨true, 0, s.now, s.now + BitVec.ofNat 32 s.timing.pollInterval⟩
            ∧ (s.controller.noticeDest ≠ 0 → s.Sends t [s.bayNoticeAt 0 b .faulted st 7 0 0, f]))
      ∧ ((x.kind = .poll ∧ (post ∧ (f.kind ≠ Kind.postStatus ∨ ¬ report f.payload)
            ∨ sensor ∧ (f.kind ≠ Kind.occupancy ∨ f.payload.length < 2))
          ∨ (post ∨ sensor) ∧ ∃ e q, x.kind = .allot e q
              ∧ (f.kind ≠ Kind.postStatus ∨ ¬ report f.payload ∨ byteAt f.payload 5 ≠ q)) →
          exec (.frameReception .downlink f.received) s
            = exec .replyWindowClose (s.setRx .downlink ⟨.idle, []⟩)))

/-- The drawn current of a bay in the Charge Queue (R83, R84): a POST-STATUS that answers a POLL, brings nothing else
new and reports in force a target of at least M. Drawing more than T below the target, it raises the under-draw count,
and at the second such report the ceiling becomes drawn + G, no less than M and no more than the post maximum; drawing
within 10 of the target, it brings a lowered ceiling back to the post maximum; a change of ceiling ends in a recompute,
so that the targets fit the budget; otherwise the under-draw count is 0 and the ceiling stands. The delivery record
follows (R131, R135). -/
def Obligations.DrawnCurrentReports : Prop :=
  ∀ (s : State) (f : Frame) (x : Transaction) (b : BayIx) (c : Contact) (r : PostReport),
    s.PostAnswers f x b c r → s.NothingNew b r → s.inQueue b = true → x.kind = .poll →
    r.drawn ≤ r.inForce + s.allocator.settings.overdraw →
    let a := s.allocator.settings
    let y := s.bay b
    let d := y.delivery
    let record : Delivery := ⟨d.target, some r.inForce, none, r.drawn, d.sequence, d.repeatMark, 0, false,
      if r.inForce = d.target ∧ d.repeatMark = false then .settled else .pending⟩
    let stays := fun (count : Nat) => exec (.frameReception .downlink f.received) s
      = .next ((((s.answeredBy f).modAlloc b (fun v => { v with underDraw := count })).modDelivery b
          (fun _ => record)).carryUp f).deliverDue.arbitrate
    let ceiling := fun (n : Nat) => (∀ e, (s.bay e).checkOk = true) →
      ∃ t, exec (.frameReception .downlink f.received) s = .next t ∧ (t.bay b).alloc.ceiling = n
        ∧ (t.bay b).alloc.underDraw = 0 ∧ t.WithinBudget ∧ t.dyns = s.dyns
        ∧ (t.bay b).delivery.inForce = some r.inForce ∧ (t.bay b).delivery.drawn = r.drawn
    let lowered := max a.minimum (min y.postMax (r.drawn + a.margin))
    let under := r.drawn + a.reclaim < y.alloc.target
    let near := y.alloc.target ≤ r.drawn + 10 ∧ y.alloc.ceiling < y.postMax
    (a.minimum ≤ y.alloc.target → r.inForce = y.alloc.target →
      (under → y.alloc.underDraw = 0 → stays 1)
      ∧ (under → 1 ≤ y.alloc.underDraw → lowered ≠ y.alloc.ceiling → ceiling lowered)
      ∧ (¬ under → near → ceiling y.postMax)
      ∧ (¬ under → ¬ near → stays 0))
    ∧ (y.alloc.target < a.minimum ∨ r.inForce ≠ y.alloc.target → stays 0)

/-- What the connector of an answered POST-STATUS does at a bay (R12, R13, R15): it is the bay's connector. Without a
sensor node it gives the occupancy and ends any debounce run (log 24). A plug-in at a FREE or UNBOOKED bay of a class with
walk-in permitted makes a walk-in hold with the walk-in stay and grace of its class, the session energy as its base and
its overstay deadline: CHARGING, BAY-NOTICE WALK-IN (R17, R62); without the permission the bay is UNBOOKED. At a HELD bay
the arrival is captured, its no-show deadline gives way to the overstay deadline, unless its class verifies arrival and the
hold has not been seen: CONTESTED (R14, R18). IDLE at an arrived hold ends it DEPARTED with its summary and its deadlines
(R22, R24). A change to PLUGGED, CHARGING or FINISHED at an arrived hold re-runs step 3 of the derivation (R7, R16). FAULT
logs POST-FAULT and makes the bay FAULTED (R8). With a sensor, plug evidence makes the bay OCCUPIED where it begins; where
it ends, the bay is VACANT by a run of VACANT that has reached D, UNKNOWN where the sensor is UNREACHABLE, and stays
OCCUPIED otherwise, and is UNBOOKED or FREE, departs or is derived by it. A FAULTED bay without a hold that has no other
cause comes back at IDLE with BAY-NOTICE FAULT-CLEARED (R9). The first answer of an UNREACHABLE post ends its cause before
its evidence is taken (R140), so that a plug-in in it gives a walk-in hold too, and a report of FAULT keeps the bay FAULTED.
A bay that enters CHARGING with a post maximum below M logs CONFIG-MISMATCH and stays out of the Charge Queue (R79). The
order of fault cause and occupancy (log 10), of contact and evidence (log 11), a summary's grace end 0 (log 13) and the
order of the notices (log 12) are read by inference; that the BAY-NOTICE stands behind the FAULT-NOTICE of its event is the
model's choice (log 38), and so is the return of a bay stored FAULTED without a cause (log 36). -/
def Obligations.PostStatusMovesBay : Prop :=
  ∀ (s : State) (f : Frame) (x : Transaction) (b : BayIx) (c : Contact) (r : PostReport),
    s.PostAnswers f x b c r → (∀ e, (s.bay e).checkOk = true) → s.waitlist = [] → r.drawn ≤ r.inForce →
    let d := (s.bay b).dyn
    let cls := s.classOf (s.bay b).cls
    let alone := s.sensor b = none
    let heard : BayDyn :=
      if alone then { d with connector := r.connector, candidate := none, debounce := 0 }
      else { d with connector := r.connector }
    let third := fun (h : Hold) =>
      if atOrAfter s.now (h.windowEnd + BitVec.ofNat 32 (s.timing.overstay * 60)) then BayState.overstay
      else if r.connector = .finished ∨ (∃ w, h.energyWanted = some w ∧ w ≤ h.energyDelivered) then .done
      else if r.connector = .plugged ∨ r.connector = .charging then .charging
      else .arrived
    let same := fun (t : State) => s.AwaitsAs t b
    let check := (s.bay b).timer.displacement
    let moves := fun (d' : BayDyn) (index : List IndexEntry) (late : State → Prop) (fs : List Frame) =>
      ∃ t, exec (.frameReception .downlink f.received) s = .next t ∧ (t.bay b).dyn = d'
        ∧ (∀ e, e ≠ b → (t.bay e).dyn = (s.bay e).dyn ∧ s.AwaitsAs t e) ∧ late t ∧ t.index = index ∧ t.waitHolds = []
        ∧ (t.node f.src).contact = some ⟨true, 0, s.now, s.now + BitVec.ofNat 32 s.timing.pollInterval⟩
        ∧ (s.controller.noticeDest ≠ 0 → s.Sends t fs)
    let plugs := r.connector = .plugged ∨ r.connector = .charging
    let pluggedIn := d.connector = .plugged ∨ d.connector = .charging
    let walksIn := fun (before : BayState) =>
      let h : Hold := ⟨none, none, 0, s.now, s.now + BitVec.ofNat 32 (cls.stay * 60),
        s.now + BitVec.ofNat 32 (cls.grace * 60), none, true, some s.now, 0, 0, 0, some r.energy⟩
      0 < cls.stay → cls.stay ≤ 480 → s.timing.overstay ≤ 60 →
        moves { heard with occupancy := .occupied, state := .charging, active := some h } s.index
          (fun t => t.Awaits b none (some (s.overstayAt h)) check) [s.bayNoticeAt 0 b before .charging 2 0 0]
    let departs := fun (d' : BayDyn) (h : Hold) => ∀ t a, h.ticket = some t → h.requester = some a → a ≠ 0 →
        d.staged = none → d.closeMode = .none →
        moves { d' with active := none, state := .free } (s.index.filter (fun i => i.ticket ≠ t))
          (fun t => t.Awaits b none none check)
          [s.noticeAt 0 a Kind.holdNotice (s.summaryBytes 6 t (b.val + 1) 1 h), s.bayNoticeAt 1 b d.state .free 4 1 0]
    (s.allocator.settings.minimum ≤ (s.bay b).postMax →
      (plugs → ¬ pluggedIn → d.active = none → d.state = .unbooked ∨ d.state = .free ∧ d.occupancy ≠ .occupied →
        (cls.walkIn = true → walksIn d.state)
        ∧ (cls.walkIn = false →
          moves { heard with occupancy := .occupied, state := .unbooked } s.index same
            (if d.state = .free then [s.bayNoticeAt 0 b .free .unbooked 1 0 0] else [])))
      ∧ (∀ h, plugs → d.state = .held → d.active = some h → h.arrival = none → d.occupancy ≠ .occupied →
          (cls.verify = true → h.entrySeen = false →
            moves { heard with occupancy := .occupied, state := .contested } s.index same
              [s.bayNoticeAt 0 b .held .contested 1 0 0])
          ∧ (cls.verify = false ∨ h.entrySeen = true →
            moves { heard with
                occupancy := .occupied, state := third h,
                active := some { h with arrival := some s.now, lastPostEnergy := some r.energy } } s.index
              (fun t => t.Awaits b none (some (s.overstayAt h)) check) [s.bayNoticeAt 0 b .held (third h) 1 0 0]))
      ∧ (∀ h, alone → r.connector = .idle → d.state ∈ [BayState.arrived, .charging, .done, .overstay] →
          d.active = some h → h.arrival ≠ none → d.occupancy ≠ .vacant → departs { heard with occupancy := .vacant } h)
      ∧ (∀ h, plugs ∨ alone ∧ r.connector = .finished → d.connector ≠ r.connector →
          d.state ∈ [BayState.arrived, .charging, .done] → d.active = some h → h.arrival ≠ none →
          d.occupancy ≠ .vacant → h.lastPostEnergy = some r.energy → h.energyDelivered ≤ 4294967295 →
          moves { heard with occupancy := .occupied, state := third h } s.index same
            (if d.state = third h then [] else [s.bayNoticeAt 0 b d.state (third h) 1 0 0]))
      ∧ (r.connector = .fault → alone ∨ s.plugEvidence b = false →
          (d.state = .faulted → moves heard s.index same [])
          ∧ (d.connector ≠ .fault → d.state ≠ .closed → d.state ≠ .faulted →
            moves { heard with state := .faulted } s.index same []
            ∧ (s.uplink.fifo.length + 3 ≤ 32 → ∃ t, exec (.frameReception .downlink f.received) s = .next t
              ∧ t.recorder = (s.logError { kind := .postFault, bay := some b }).recorder
              ∧ (s.controller.noticeDest ≠ 0 →
                  (s.logError { kind := .postFault, bay := some b }).uplink.fifo
                    ++ [(s.logError { kind := .postFault, bay := some b }).bayNoticeAt 0 b d.state .faulted 6 0 1]
                    <+: t.uplink.fifo))))
      ∧ (∀ a e, s.sensor b = some (a, e) → s.plugEvidence b = true → d.occupancy = .occupied → ¬ plugs →
          let lapsed : BayDyn :=
            if e.isReachable = false then { heard with occupancy := .unknown }
            else if d.candidate = some .vacant ∧ s.timing.debounce ≤ d.debounce then
              { heard with occupancy := .vacant, candidate := none, debounce := 0 }
            else heard
          (d.state = .unbooked → d.active = none → r.connector ≠ .fault →
            if lapsed.occupancy = .occupied then moves lapsed s.index same []
            else moves { lapsed with state := .free } s.index same [s.bayNoticeAt 0 b .unbooked .free 1 0 0])
          ∧ (∀ h, r.connector = .idle → d.state ∈ [BayState.arrived, .charging, .done] → d.active = some h →
              h.arrival ≠ none →
              (lapsed.occupancy = .vacant → departs lapsed h)
              ∧ (lapsed.occupancy ≠ .vacant → moves { lapsed with state := third h } s.index same
                  (if d.state = third h then [] else [s.bayNoticeAt 0 b d.state (third h) 1 0 0])))
          ∧ (r.connector = .fault → d.state ≠ .closed → d.state ≠ .faulted →
              moves { lapsed with state := .faulted } s.index same []))
      ∧ (r.connector = .idle → d.state = .faulted → d.suspect = false → d.active = none → d.closeMode = .none →
          (alone → moves { heard with occupancy := .vacant, state := .free } s.index same
            [s.bayNoticeAt 0 b .faulted .free 7 0 0])
          ∧ (¬ alone → s.plugEvidence b = false →
            let st : BayState := if d.occupancy = .occupied then .unbooked else .free
            moves { heard with state := st } s.index same [s.bayNoticeAt 0 b .faulted st 7 0 0]))
      ∧ (c.reachable = false → plugs → d.connector ≠ .fault → d.state = .faulted → d.suspect = false →
          d.closeMode = .none →
          (d.active = none →
            (¬ pluggedIn → cls.walkIn = true → walksIn .faulted)
            ∧ (pluggedIn ∨ cls.walkIn = false →
              moves { heard with occupancy := .occupied, state := .unbooked } s.index same
                [s.bayNoticeAt 0 b .faulted .unbooked 7 0 0]))
          ∧ (∀ h, d.active = some h → h.arrival ≠ none → d.occupancy ≠ .vacant → h.lastPostEnergy = some r.energy →
              h.energyDelivered ≤ 4294967295 →
              moves { heard with occupancy := .occupied, state := third h } s.index same
                [s.bayNoticeAt 0 b .faulted (third h) 7 0 0])))
    ∧ (∀ h, (s.bay b).postMax < s.allocator.settings.minimum → plugs → ¬ pluggedIn → d.state = .arrived →
        d.active = some h → h.arrival ≠ none → d.occupancy ≠ .vacant → h.lastPostEnergy = some r.energy →
        h.energyDelivered ≤ 4294967295 → third h = .charging → (s.bay b).alloc.chargingCopy = false →
        s.uplink.fifo.length + 3 ≤ 32 →
        let failed := s.logError { kind := .configMismatch, bay := some b }
        ∃ t, exec (.frameReception .downlink f.received) s = .next t
          ∧ (t.bay b).dyn = { heard with occupancy := .occupied, state := .charging }
          ∧ t.recorder = failed.recorder ∧ b ∉ t.allocator.queue.map (·.bay)
          ∧ (s.controller.noticeDest ≠ 0 →
              failed.uplink.fifo ++ [failed.bayNoticeAt 0 b .arrived .charging 1 0 0] <+: t.uplink.fifo))

/-! ## Allotment and scheduling -/

/-- The targets of a recompute (R86 to R91). With n = min(E, floor(B / M)) admitted, each of the first n bays of the queue
stands between M and its demand, every other bay at 0, and the sum never exceeds the budget in force; a target is at most
the post maximum. An admitted bay keeps its admitted-since or takes now; a bay not admitted has none and no rotation
deadline. The target of an admitted bay is M and its share: the tiers are filled in the order of priority 3, 2, 1, 0, the
first from B − n × M and each from what the one before left; each bay takes its headroom where these fit in A. Otherwise
the tier is water-filled: a round gives floor(At × w / W), caps the bays that reach their headroom, all at once, and goes
on with the rest; where it caps none the shares stand. They are rounded down to a multiple of S, and the leftover goes out
in passes of steps of S, each within headroom and leftover, until a pass in which none is taken. Every target is handed
over: the delivery record takes it, SETTLED or PENDING by it where it was one of these, and nothing else of it changes
(R132); the scheduler takes the budget in force. The premises: ceilings and post maxima of the queue at or above M (R82), and each
bay in it once (R78). -/
def Obligations.TargetsOfRecompute : Prop :=
  (∀ s : State, (s.allocator.queue.map (·.bay)).Nodup →
    (∀ e ∈ s.allocator.queue, s.allocator.settings.minimum ≤ (s.bay e.bay).demand) →
    let a := s.allocator.settings
    let n := min s.allocator.queue.length (budgetOf a / a.minimum)
    let admitted := (s.allocator.queue.take n).map (·.bay)
    let tier := fun (p : Fin 4) => ((s.allocator.queue.take n).filter (fun e => e.priority = p)).map (fun e =>
      (⟨e.bay, (s.bay e.bay).demand - a.minimum, (s.classOf (s.bay e.bay).cls).weight, 0⟩ : Share))
    let fill3 := fillTier a.step (tier 3) (budgetOf a - n * a.minimum)
    let fill2 := fillTier a.step (tier 2) fill3.2
    let fill1 := fillTier a.step (tier 1) fill2.2
    let fill0 := fillTier a.step (tier 0) fill1.2
    let target := fun (b : BayIx) => (s.retarget.bay b).alloc.target
    (∀ b ∈ admitted, a.minimum ≤ target b ∧ target b ≤ (s.bay b).demand)
      ∧ (∀ b, b ∉ admitted → target b = 0)
      ∧ s.retarget.targetSum ≤ budgetOf a
      ∧ (∀ b, target b ≤ (s.bay b).postMax)
      ∧ (∀ p : Fin 4, ∀ x ∈ (if p = 3 then fill3 else if p = 2 then fill2 else if p = 1 then fill1 else fill0).1,
          target x.bay = a.minimum + x.share)
      ∧ (∀ b, (s.retarget.bay b).alloc.admittedSince =
            (if b ∈ admitted then some ((s.bay b).alloc.admittedSince.getD s.now) else none)
          ∧ (b ∉ admitted → (s.retarget.bay b).timer.rotation = .clear))
      ∧ (∀ b, let d := (s.bay b).delivery
          (s.retarget.bay b).delivery = { d with
            target := target b,
            state := if d.state ≠ .settled ∧ d.state ≠ .pending then d.state
              else if d.inForce = some (target b) ∧ d.repeatMark = false then .settled else .pending })
      ∧ s.retarget.scheduler = { s.scheduler with budget := budgetOf a })
  ∧ (∀ (step : Nat) (u : List Share) (left : Nat),
      let fill := fun (u : List Share) (left : Nat) => waterFill (u.length + 1) u left
      let passes := fun (u : List Share) (l : Nat) => stepPasses step (l + 1) u l
      let round := u.map (fun x => { x with share := left * x.weight / (u.map (·.weight)).sum })
      let capped := (round.filter (fun x => x.headroom ≤ x.share)).map (fun x => { x with share := x.headroom })
      let rest := round.filter (fun x => x.share < x.headroom)
      let after := fill rest (left - (capped.map (·.headroom)).sum)
      let rounded := (fill u left).2.1.map (fun x => { x with share := x.share - x.share % step })
      let out := passes rounded ((fill u left).2.2 - (rounded.map (·.share)).sum)
      ((fillTier step u left).1.map (·.bay)).Perm (u.map (·.bay))
      ∧ ((u.map (·.headroom)).sum ≤ left →
          fillTier step u left
            = (u.map (fun x => { x with share := x.headroom }), left - (u.map (·.headroom)).sum))
      ∧ (left < (u.map (·.headroom)).sum → fillTier step u left = ((fill u left).1 ++ out.1, out.2))
      ∧ (capped = [] → fill u left = ([], round, left))
      ∧ (capped ≠ [] → fill u left = (capped ++ after.1, after.2.1, after.2.2))
      ∧ stepPass step [] left = ([], left)
      ∧ (∀ x, stepPass step (x :: u) left =
          if x.share + step ≤ x.headroom ∧ step ≤ left then
            ({ x with share := x.share + step } :: (stepPass step u (left - step)).1, (stepPass step u (left - step)).2)
          else (x :: (stepPass step u left).1, (stepPass step u left).2))
      ∧ ((stepPass step u left).2 = left → passes u left = (u, left))
      ∧ ((stepPass step u left).2 ≠ left → passes u left = passes (stepPass step u left).1 (stepPass step u left).2))

/-- The place of a joining entry (R80): behind every entry that stands ahead of it (higher priority, or the same
priority and a stamp not later) up to the first that does not, all other entries keeping their order; and a queue
ordered by priority descending stays so. The pending sheds (R133) are the bays PENDING with a target below their committed
value, each bay of the queue standing there once: those outside the queue come first, in ascending number, then those in
the queue by priority from 0 to 3, and within one priority from the back of the queue. Control of the committed sum: a shed cannot raise it: whichever pending shed is
sent, the bay is IN-FLIGHT with its target unacknowledged and the committed sum is no higher than before (R133). A raise
is offered only to a part that is not suspended, and is the first bay of the queue that is PENDING with a target not
below its committed value, where the committed sum with that value replaced by the target fits the budget in force; the
committed sum after it is sent then fits it too (R134). -/
def Obligations.QueueOrderAndCommittedSum : Prop :=
  (∀ (x : ChargeEntry) (q : List ChargeEntry),
    (∃ l r, q = l ++ r ∧ insertEntry x q = l ++ x :: r
      ∧ (∀ e ∈ l, x.priority < e.priority ∨ (e.priority = x.priority ∧ laterThan e.stamp x.stamp = false))
      ∧ (∀ e ∈ r.head?, ¬ (x.priority < e.priority ∨ (e.priority = x.priority ∧ laterThan e.stamp x.stamp = false))))
    ∧ (q.Pairwise (fun d e => e.priority ≤ d.priority) →
        (insertEntry x q).Pairwise (fun d e => e.priority ≤ d.priority)))
    ∧ (∀ s : State,
       let q := s.allocator.queue
       (∀ b, b ∈ s.sheds ↔ (s.bay b).delivery.state = .pending ∧ (s.bay b).delivery.target < s.committed b)
       ∧ ((q.map (·.bay)).Nodup → s.sheds.Pairwise (fun b c =>
           (∀ e ∈ q, e.bay ≠ b) ∧ (∀ e ∈ q, e.bay ≠ c) ∧ b.val < c.val
           ∨ (∀ e ∈ q, e.bay ≠ b) ∧ (∃ e ∈ q, e.bay = c)
           ∨ ∃ (i j : Nat) (e f : ChargeEntry), q[i]? = some e ∧ q[j]? = some f ∧ e.bay = b ∧ f.bay = c
               ∧ (e.priority < f.priority ∨ e.priority = f.priority ∧ j < i))))
    ∧ (∀ (s : State) (b : BayIx), b ∈ s.sheds →
       (s.chooseAllot b).committedSum ≤ s.committedSum
         ∧ ((s.chooseAllot b).bay b).delivery.state = .inFlight
         ∧ ((s.chooseAllot b).bay b).delivery.unacknowledged = some (s.bay b).delivery.target)
    ∧ (∀ (s : State) (b : BayIx), s.raiseOffer = some b →
         s.suspension.suspended = false ∧ (s.chooseAllot b).committedSum ≤ s.scheduler.budget)
    ∧ (∀ (s : State) (b : BayIx),
         let raise := fun (c : BayIx) => (s.bay c).delivery.state = .pending ∧ s.committed c ≤ (s.bay c).delivery.target
         s.raiseOffer = some b ↔
           s.suspension.suspended = false
             ∧ (∃ l r, s.allocator.queue.map (·.bay) = l ++ b :: r ∧ ∀ c ∈ l, ¬ raise c) ∧ raise b
             ∧ s.committedSum - s.committed b + (s.bay b).delivery.target ≤ s.scheduler.budget)

/-- The arbiter (R136, R137). While a transaction is outstanding it chooses nothing. Otherwise the first pending shed is
chosen, whatever the rotor, and leaves the rotor. With no shed the sources are asked in turn from the rotor, and the
first that has work is served: RAISE with the raise offered, FORWARD with the head of the forward queue, unchanged, POLL
with the node the ring offers; the rotor then stands at the source after the one served. With no work nothing changes.
An ALLOT goes to the bay's post node with the target and the next allot sequence, 255 and 0 each followed by 1, and the
bay is IN-FLIGHT with that target unacknowledged; a POLL goes to the due node with an empty payload, and the ring cursor
passes on; both have the own address as SRC and take the downlink tag, which rises by 1. The ring (R143) has the post of
bay k at position 2 k and its sensor at 2 k + 1, k from 0: the node offered is due, and no due node stands at a position
nearer to the cursor, going up and around; nothing is offered exactly when no node is due. -/
def Obligations.ArbiterChoice : Prop :=
  ∀ s : State,
    let t := s.arbitrate
    let begun := fun (k : TransactionKind) (f : Frame) (rotor : Source) =>
      t.scheduler.transaction = some ⟨k, f, false, s.timing.window, .waiting, false⟩ ∧ t.scheduler.rotor = rotor
    let allots := fun (b : BayIx) (a : Addr) (rotor : Source) =>
      let d := (s.bay b).delivery
      let q := if d.sequence < 255 then d.sequence + 1 else 1
      begun (.allot b q)
        ⟨a, s.controller.own, 0x38, s.scheduler.tag, [byteOf (d.target / 256), byteOf d.target, byteOf q]⟩ rotor
      ∧ (t.bay b).delivery
          = ⟨d.target, d.inForce, some d.target, d.drawn, q, false, d.overdrawCount, d.linkLost, .inFlight⟩
      ∧ t.scheduler.tag = s.scheduler.tag + 1 ∧ t.scheduler.cursor = s.scheduler.cursor
      ∧ t.downlink.forward = s.downlink.forward
    let stands := fun (a : Addr) (p : Fin 256) =>
      (∃ c, (s.node a).contact = some c ∧ atOrAfter s.now c.due = true)
      ∧ (s.node a).role = (if p.val % 2 = 0 then .post else .sensor)
      ∧ ∃ b : BayIx, (s.node a).bay = some b ∧ b.val = p.val / 2
    let works : Source → Prop := fun c => match c with
      | .raise => s.raiseOffer ≠ none
      | .forward => s.downlink.forward ≠ []
      | .poll => s.pollOffer ≠ none
    let after : Source → Source := fun c => match c with
      | .raise => .forward | .forward => .poll | .poll => .raise
    let turn := fun (c : Source) => s.scheduler.transaction = none ∧ s.sheds = [] ∧
      (c = s.scheduler.rotor
        ∨ c = after s.scheduler.rotor ∧ ¬ works s.scheduler.rotor
        ∨ c = after (after s.scheduler.rotor) ∧ ¬ works s.scheduler.rotor ∧ ¬ works (after s.scheduler.rotor))
    (∀ x, s.scheduler.transaction = some x → t = s)
    ∧ (∀ b rest, s.scheduler.transaction = none → s.sheds = b :: rest →
        ∃ a e, s.post b = some (a, e) ∧ allots b a s.scheduler.rotor)
    ∧ (∀ b a e, turn .raise → s.raiseOffer = some b → s.post b = some (a, e) → allots b a .forward)
    ∧ (∀ e q, turn .forward → s.downlink.forward = e :: q →
        begun (.forward e.answerExpected) e.frame .poll ∧ t.downlink.forward = q
          ∧ t.scheduler.tag = s.scheduler.tag ∧ t.scheduler.cursor = s.scheduler.cursor)
    ∧ (∀ p a, turn .poll → s.pollOffer = some (p, a) →
        begun .poll ⟨a, s.controller.own, 0x39, s.scheduler.tag, []⟩ .raise ∧ t.scheduler.tag = s.scheduler.tag + 1
          ∧ t.scheduler.cursor = p + 1 ∧ t.downlink.forward = s.downlink.forward
          ∧ stands a p)
    ∧ (∀ p a, s.pollOffer = some (p, a) →
        stands a p ∧ ∀ p' a', stands a' p' → (p - s.scheduler.cursor).val ≤ (p' - s.scheduler.cursor).val)
    ∧ (s.pollOffer = none ↔ ∀ a p, ¬ stands a p)
    ∧ (s.scheduler.transaction = none → s.sheds = [] → (∀ c, ¬ works c) → t = s)

/-! ## Bay states -/

/-- Derivation, step by step (R7): what the record of a bay becomes. Where the active hold is arrived the bay counts
as occupied unless its occupancy is VACANT, which ends the hold instead. -/
def Obligations.DerivedState : Prop :=
  ∀ (ev : Ev) (b : BayIx),
    let d := (ev.bay b).dyn
    let d' := ((ev.derive b).bay b).dyn
    let verify := (ev.st.classOf (ev.bay b).cls).verify
    let third := fun (h : Hold) =>
      if atOrAfter ev.st.now (h.windowEnd + BitVec.ofNat 32 (ev.st.timing.overstay * 60)) then BayState.overstay
      else if d.connector = .finished ∨ (∃ w, h.energyWanted = some w ∧ w ≤ h.energyDelivered) then .done
      else if d.connector = .plugged ∨ d.connector = .charging then .charging
      else .arrived
    (d.active = none → d' = { d with state := if d.occupancy = .occupied then .unbooked else .free })
    ∧ (∀ h, d.active = some h → h.arrival = none → d.occupancy ≠ .occupied → d' = { d with state := .held })
    ∧ (∀ h, d.active = some h → h.arrival = none → d.occupancy = .occupied → verify = true → h.entrySeen = false →
        d' = { d with state := .contested })
    ∧ (∀ h, d.active = some h → h.arrival = none → d.occupancy = .occupied → verify = false ∨ h.entrySeen = true →
        d' = { d with active := some { h with arrival := some ev.st.now }, state := third h })
    ∧ (∀ h, d.active = some h → h.arrival ≠ none → d.occupancy ≠ .vacant → d' = { d with state := third h })

/-- A sensor's report of health GOOD without plug evidence (R10): occupancy, candidate and count after it; and a
write of D ends every run. Under plug evidence (R12) an OCCUPIED report ends the run; a VACANT one advances it, the
occupancy as it was, and logs SENSOR-DISAGREE with the bay exactly when it brings the count to D from below. -/
def Obligations.SensorDebounce : Prop :=
  (∀ (ev : Ev) (b : BayIx) (x : Sensed), ev.st.plugEvidence b = false →
    let d := (ev.bay b).dyn
    let d' := ((ev.sensorReport b x).bay b).dyn
    let count := if d.candidate = some x then min 7 (d.debounce + 1) else 1
    (d.occupancy = .unknown → d'.occupancy = x.occupancy ∧ d'.candidate = none ∧ d'.debounce = 0)
      ∧ (d.occupancy = x.occupancy → d'.occupancy = d.occupancy ∧ d'.candidate = none ∧ d'.debounce = 0)
      ∧ (d.occupancy ≠ .unknown → d.occupancy ≠ x.occupancy → ev.st.timing.debounce ≤ count →
          d'.occupancy = x.occupancy ∧ d'.candidate = none ∧ d'.debounce = 0)
      ∧ (d.occupancy ≠ .unknown → d.occupancy ≠ x.occupancy → count < ev.st.timing.debounce →
          d' = { d with candidate := some x, debounce := count }))
    ∧ (∀ (ev : Ev) (b : BayIx), ev.st.plugEvidence b = true →
        let d := (ev.bay b).dyn
        let occupied := ev.sensorReport b .occupied
        let vacant := ev.sensorReport b .vacant
        let before := if d.candidate = some .vacant then d.debounce else 0
        (occupied.bay b).dyn = { d with candidate := none, debounce := 0 } ∧ occupied.st.recorder = ev.st.recorder
        ∧ (vacant.bay b).dyn = { d with candidate := some .vacant, debounce := min 7 (before + 1) }
        ∧ vacant.st.recorder =
            if before < ev.st.timing.debounce ∧ ev.st.timing.debounce ≤ min 7 (before + 1) then
              (ev.st.logError { kind := .sensorDisagree, bay := some b }).recorder
            else ev.st.recorder)
    ∧ (∀ (s : State) (t : TimingSettings) (b : BayIx),
        ((s.writeTiming t).bay b).dyn = { (s.bay b).dyn with candidate := none, debounce := 0 })

/-- A session energy figure at an arrived hold of a connected bay (R72 to R74): a base sets the last post energy alone;
a figure at or above the last adds the difference, up to 4294967295, and where this brings the energy to what is wanted a
bay in ARRIVED, CHARGING or DONE takes the state step 3 of the derivation gives, OVERSTAY or DONE; a lower one only
replaces the last and logs ENERGY-REGRESS with the bay. No other figure is logged, and no other changes the state. -/
def Obligations.EnergyFigure : Prop :=
  ∀ (ev : Ev) (b : BayIx) (h : Hold) (e : Nat) (plugIn : Bool),
    (ev.bay b).dyn.active = some h → h.arrival ≠ none → (ev.bay b).dyn.occupancy ≠ .vacant →
    (ev.bay b).dyn.connector ∈ [Connector.plugged, .charging, .finished] →
    let ev' := ev.energyFigure b e plugIn
    let d := (ev.bay b).dyn
    let d' := (ev'.bay b).dyn
    let based := { h with lastPostEnergy := some e }
    let third : BayState :=
      if atOrAfter ev.st.now (h.windowEnd + BitVec.ofNat 32 (ev.st.timing.overstay * 60)) then .overstay else .done
    (plugIn = true ∨ ev.captured = true ∨ h.lastPostEnergy = none →
        d' = { d with active := some based } ∧ ev'.st.recorder = ev.st.recorder)
    ∧ (∀ p, plugIn = false → ev.captured = false → h.lastPostEnergy = some p → p ≤ e →
        let n := min 4294967295 (h.energyDelivered + (e - p))
        let reached := ∃ w, h.energyWanted = some w ∧ h.energyDelivered < w ∧ w ≤ n
        let serves := d.state ∈ [BayState.arrived, .charging, .done]
        ev'.st.recorder = ev.st.recorder
        ∧ (reached → serves → d' = { d with active := some { based with energyDelivered := n }, state := third })
        ∧ (¬ reached ∨ ¬ serves → d' = { d with active := some { based with energyDelivered := n } }))
    ∧ (∀ p, plugIn = false → ev.captured = false → h.lastPostEnergy = some p → e < p →
        d' = { d with active := some based }
        ∧ ev'.st.recorder = (ev.st.logError { kind := .energyRegress, bay := some b }).recorder)

/-! ## Errors and the FIFO -/

/-- An error reaches the recorder (R161, R165): each counter that selects its kind rises, staying at 255 with its
overflow flag set; with log enable on it fills the first log of its severity, or the next log of a locked one with
the lost count rising to 15, and sets the pending flag; the other severities' logs do not change. A FAULT-NOTICE is
built exactly when the error fills a first log, the action of its severity is not NONE and the notice destination is not
0x00 (R162): it carries the severity, the kind, the second as site time, the bay or 0 and the header, takes the notice
tag, and joins the FIFO or is dropped at a full one. A frame for the gateway (R104) joins the tail of the FIFO while that holds fewer than 32; at a full FIFO it is dropped, the waiting
frames stay, and NOTICE-DROP is logged with its header unless it is a FAULT-NOTICE. That the exception goes by the KIND
of the frame alone, a frame carried up from the downlink included, is the model's choice (log 35). -/
def Obligations.ErrorsAndFrames : Prop :=
  (∀ (s : State) (e : ErrorReport),
       let r := s.recorder
       let r' := (s.logError e).recorder
       let k := r.settings.kinds.get e.kind.ix
       let entry : LogEntry := ⟨e.kind, s.now, e.bay, e.header⟩
       let l := r.logs.get k.severity
       (∀ c, r'.counters.get c =
           if (r.settings.selections.get c).getLsbD e.kind.ix.val then
             if (r.counters.get c).count < 255 then ⟨(r.counters.get c).count + 1, (r.counters.get c).overflow⟩
             else ⟨(r.counters.get c).count, true⟩
           else r.counters.get c)
       ∧ (k.enabled = false → r'.logs = r.logs)
       ∧ (k.enabled = true → l.first = none → r'.logs = r.logs.set k.severity ⟨some entry, l.next, l.lost, true⟩)
       ∧ (k.enabled = true → l.first ≠ none →
           r'.logs = r.logs.set k.severity ⟨l.first, some entry, min 15 (l.lost + 1), true⟩)
       ∧ (let built := k.enabled = true ∧ l.first = none ∧ r.settings.actions.get k.severity ≠ .none
            ∧ s.controller.noticeDest ≠ 0
          let told : Frame := ⟨s.controller.noticeDest, s.controller.own, 0x29, s.noticeTag,
            [byteOf k.severity.val, byteOf e.kind.code] ++ be32w (s.now + s.siteOffset)
              ++ [byteOf (match e.bay with | some b => b.val + 1 | none => 0), if e.header = none then 0 else 1]
              ++ (match e.header with | some h => [h.dest, h.src, h.kind, h.tag, h.len] | none => [0, 0, 0, 0, 0])⟩
          (built → (s.logError e).noticeTag = s.noticeTag + 1
            ∧ (s.logError e).uplink.fifo =
                if s.uplink.fifo.length < 32 then s.uplink.fifo ++ [told] else s.uplink.fifo)
          ∧ (¬ built → (s.logError e).noticeTag = s.noticeTag ∧ (s.logError e).uplink = s.uplink)))
    ∧ (∀ (s : State) (f : Frame),
         (s.uplink.fifo.length < 32 →
           s.placeUplink f = { s with uplink := { s.uplink with fifo := s.uplink.fifo ++ [f] } })
         ∧ (32 ≤ s.uplink.fifo.length → f.kind = Kind.faultNotice → s.placeUplink f = s)
         ∧ (32 ≤ s.uplink.fifo.length → f.kind ≠ Kind.faultNotice →
             s.placeUplink f = s.logError { kind := .noticeDrop, header := some f.header }))

/-! ## The tick, the expiries and what every event leaves alone -/

/-- The end of every event (R59, R136). It leaves alone clock, tables, request queues, ports but for the forward
queue's head, bay records, bookings, targets, recorder and flags. A deadline that is due becomes CLEAR, a rotation
deadline DUE (R66), and its expiry waits at its owner behind those delivered before; a deadline that is not due
stands. So it is for the deadlines of bays, of waitlist entries (R64) and of Early Arrival List entries (R65), and nothing
else is delivered. -/
def Obligations.EventEnd : Prop :=
  (∀ s : State,
       let t := s.deliverDue.arbitrate
       t.still = s.still ∧ t.dyns = s.dyns ∧ t.waitHolds = s.waitHolds ∧ t.index = s.index ∧ t.cursors = s.cursors
         ∧ t.allocator = s.allocator ∧ t.uplink = s.uplink ∧ t.noticeTag = s.noticeTag ∧ t.recorder = s.recorder
         ∧ t.scrubber = s.scrubber ∧ t.requests = s.requests ∧ t.management = s.management
         ∧ (∀ b, (t.bay b).alloc = (s.bay b).alloc ∧ (t.bay b).check = (s.bay b).check
             ∧ (t.bay b).delivery.target = (s.bay b).delivery.target
             ∧ (t.bay b).delivery.inForce = (s.bay b).delivery.inForce))
    ∧ (∀ (s : State) (b : BayIx),
         let t := s.deliverDue.arbitrate
         let y := s.bay b
         let y' := t.bay b
         let due := fun (v : Time) => (s.now - v).toNat < 2 ^ 31
         (∀ d, y.timer.noShow = some d → due d.due →
             y'.timer.noShow = none ∧ .noShow b d.owner d.due ∈ t.expiries)
         ∧ (∀ d, y.timer.overstay = some d → due d.due →
             y'.timer.overstay = none ∧ .overstay b d.owner d.due ∈ t.expiries)
         ∧ (∀ d, y.timer.displacement = some d → due d.due →
             y'.timer.displacement = none ∧ .displacement b d.owner d.due ∈ t.expiries)
         ∧ (∀ v, y.timer.rotation = .set v → due v →
             y'.timer.rotation = .due v ∧ .rotation b ∈ t.expiries)
         ∧ (∀ d, y.timer.noShow = some d → ¬ due d.due → y'.timer.noShow = some d)
         ∧ (∀ d, y.timer.overstay = some d → ¬ due d.due → y'.timer.overstay = some d)
         ∧ (∀ d, y.timer.displacement = some d → ¬ due d.due → y'.timer.displacement = some d)
         ∧ (∀ v, y.timer.rotation = .set v → ¬ due v → y'.timer.rotation = .set v)
         ∧ (∀ v, y.timer.rotation = .due v → y'.timer.rotation = .due v))
    ∧ (∀ s : State,
         let t := s.deliverDue.arbitrate
         let due := fun (v : Time) => (s.now - v).toNat < 2 ^ 31
         t.waitlist = s.waitlist.map (fun e =>
             { e with deadline := e.deadline.filter (fun v => decide (2 ^ 31 ≤ (s.now - v).toNat)) })
         ∧ t.early = s.early.map (fun e =>
             { e with deadline := e.deadline.filter (fun v => decide (2 ^ 31 ≤ (s.now - v).toNat)) })
         ∧ (∀ e ∈ s.waitlist, ∀ u v, e.hold.ticket = some u → e.deadline = some v → due v → .waitlist u v ∈ t.expiries)
         ∧ (∀ e ∈ s.early, ∀ v, e.deadline = some v → due v → .early e.ticket v ∈ t.expiries)
         ∧ s.expiries <+: t.expiries
         ∧ (∀ x ∈ t.expiries, x ∈ s.expiries ∨ match x with
             | .noShow b o v => (s.bay b).timer.noShow = some ⟨o, v⟩ ∧ due v
             | .overstay b o v => (s.bay b).timer.overstay = some ⟨o, v⟩ ∧ due v
             | .displacement b o v => (s.bay b).timer.displacement = some ⟨o, v⟩ ∧ due v
             | .rotation b => ∃ v, (s.bay b).timer.rotation = .set v ∧ due v
             | .waitlist u v => (∃ e ∈ s.waitlist, e.hold.ticket = some u ∧ e.deadline = some v) ∧ due v
             | .early u v => (∃ e ∈ s.early, e.ticket = u ∧ e.deadline = some v) ∧ due v))

/-- What serves the bookings leaves the rest alone, in every state and every form: a booking request, an expiry of a
hold, and the operations OPEN, CLOSE-NOW, CLOSE-AT-END and FORCE-END change no table, setting, clock, line, flag or bay
configuration, no Node Map entry, and of the request queues only the one that gave the request: a booking request takes
at most the head of the hold request queue and leaves the management queue, an operation the other way round, and an
expiry leaves both. -/
def Obligations.BookingCommandsFrame : Prop :=
  ∀ (c : Instr) (s t : State), servesHolds c = true → exec c s = .next t →
    t.still = { s.still with requests := t.requests, management := t.management, early := t.still.early }
      ∧ (if c ∈ [Instr.hold, .amend, .free, .query, .arrive] then
          t.management = s.management ∧ (t.requests = s.requests ∨ t.requests = s.requests.tail)
        else if c ∈ [Instr.openBay, .closeNow, .closeAtEnd, .forceEnd] then
          t.requests = s.requests ∧ (t.management = s.management ∨ t.management = s.management.tail)
        else t.requests = s.requests ∧ t.management = s.management)

/-- The tick (R55, R69 to R71, R167): run seconds rise by 1, the scrub cursor moves to the next bay, and at each bay
the arrived active hold's occupied seconds rise while the occupancy is not VACANT and its charged seconds while the
connector is CHARGING and the post REACHABLE, each up to 4294967295. The link-loss test is made at every bay (R142):
where the post is link-lost by the new second, its bay not IN-FLIGHT and not lost already, the delivery record is brought
to rest before the arbiter chooses, and no other record changes. The record at the cursor agrees with its check word, or
is suspect already. -/
def Obligations.Tick : Prop :=
  ∀ s : State, s.heldInReset = false →
    ((s.bay s.scrubber.cursor).checkOk = true ∨ (s.bay s.scrubber.cursor).dyn.suspect = true) →
    let lost := fun (b : BayIx) => State.linkLostNow { s with now := s.now + 1 } b = true
      ∧ (s.bay b).delivery.linkLost = false ∧ (s.bay b).delivery.state ≠ .inFlight
    ∃ u : State, exec .tick s = .next u.arbitrate
      ∧ (∀ b, let d := (s.bay b).delivery
          (lost b → (u.bay b).delivery = ⟨d.target, some 0, none, 0, d.sequence, false, 0, true,
            if d.target = 0 then .settled else .pending⟩)
          ∧ (¬ lost b → (u.bay b).delivery = d))
      ∧ (∀ b, s.AwaitsAs u b)
      ∧ let t := u.arbitrate
      t.still = { s.still with now := s.now + 1, scrubCursor := s.scrubber.cursor + 1 }
      ∧ (∀ b, (t.bay b).dyn = { (s.bay b).dyn with active := (s.bay b).dyn.active.map (fun h =>
          if h.arrival = none then h else
          { h with
            occupiedSeconds :=
              if (s.bay b).dyn.occupancy = .vacant then h.occupiedSeconds
              else min 4294967295 (h.occupiedSeconds + 1),
            chargedSeconds :=
              if (s.bay b).dyn.connector = .charging ∧ s.postReachable b = true then
                min 4294967295 (h.chargedSeconds + 1)
              else h.chargedSeconds }) })
      ∧ t.waitHolds = s.waitHolds ∧ t.index = s.index ∧ t.recorder = s.recorder ∧ t.uplink = s.uplink
      ∧ t.allocator = s.allocator

/-- Records that fail the comparison (R3, R166 to R168). The tick examines the record at the scrub cursor: one that does
not agree with its check word, its suspect flag clear, is suspect from then on. RECORD-CHECK is logged with the bay and
the new second; the bay, unless CLOSED or FAULTED, becomes FAULTED and BAY-NOTICE FAULTED with the cause SUSPECT
follows, behind the FAULT-NOTICE by the model's choice (log 38); it leaves the Charge Queue, the allocator's and the scheduler's copy of the flag are set, and the part is in
degraded mode. The cursor and the counters move on as in any tick, the order of examination and counters being the
model's choice (log 8). A placement search compares the record of a bay that it may read (R33): one that fails is suspect
from then on and takes no hold, so that the HOLD that finds no other bay is QUEUED, its answer before the FAULT-NOTICE. A
recompute compares the records of the bays in the Charge Queue (R85): one that fails leaves the queue with target 0, the
bays left share the budget, and the two notices follow the answer. In degraded mode no bay fits a hold in its staged slot, and no suspect bay can be searched. -/
def Obligations.RecordComparison : Prop :=
  (∀ s : State, s.heldInReset = false →
    let b := s.scrubber.cursor
    let d := (s.bay b).dyn
    let failed := (State.logError { s with now := s.now + 1 } { kind := .recordCheck, bay := some b })
    let counted := fun (c : BayIx) => (s.bay c).dyn.active.map (fun h =>
      if h.arrival = none then h else
      { h with
        occupiedSeconds :=
          if (s.bay c).dyn.occupancy = .vacant then h.occupiedSeconds else min 4294967295 (h.occupiedSeconds + 1),
        chargedSeconds :=
          if (s.bay c).dyn.connector = .charging ∧ s.postReachable c = true then min 4294967295 (h.chargedSeconds + 1)
          else h.chargedSeconds })
    (s.bay b).checkOk = false → d.suspect = false → (∀ c, c ≠ b → (s.bay c).checkOk = true) →
    s.uplink.fifo.length + 2 ≤ 32 →
    ∃ t, exec .tick s = .next t
      ∧ t.still = { s.still with now := s.now + 1, scrubCursor := b + 1 }
      ∧ (t.bay b).dyn = { d with
          suspect := true, state := if d.state = .closed then .closed else .faulted, active := counted b }
      ∧ (∀ c, c ≠ b → (t.bay c).dyn = { (s.bay c).dyn with active := counted c })
      ∧ (t.bay b).alloc.suspectCopy = true ∧ b ∉ t.allocator.queue.map (·.bay)
      ∧ t.scrubber.degraded = true ∧ t.recorder = failed.recorder ∧ t.waitHolds = s.waitHolds ∧ t.index = s.index
      ∧ failed.uplink.fifo <+: t.uplink.fifo
      ∧ (s.controller.noticeDest ≠ 0 → d.state ≠ .closed → d.state ≠ .faulted →
          failed.uplink.fifo ++ [failed.bayNoticeAt 0 b d.state .faulted 6 0 3] <+: t.uplink.fifo))
  ∧ (∀ (s : State) (r : Request) (q : List Request) (b : BayIx), s.heldInReset = false →
    (s.bay b).checkOk = false → (s.bay b).dyn.suspect = false → (∀ c, c ≠ b → (s.bay c).checkOk = true) →
    s.uplink.fifo.length + 3 ≤ 32 → r.src ≠ 0 →
    let d := (s.bay b).dyn
    let fails := fun (t answered : State) =>
      let failed := answered.logError { kind := .recordCheck, bay := some b }
      (t.bay b).dyn = { d with suspect := true, state := if d.state = .closed then .closed else .faulted }
        ∧ (∀ c, c ≠ b → (t.bay c).dyn = (s.bay c).dyn) ∧ (t.bay b).alloc.suspectCopy = true
        ∧ b ∉ t.allocator.queue.map (·.bay) ∧ t.scrubber.degraded = true ∧ t.recorder = failed.recorder
        ∧ failed.uplink.fifo <+: t.uplink.fifo
        ∧ (s.controller.noticeDest ≠ 0 → d.state ≠ .closed → d.state ≠ .faulted →
            failed.uplink.fifo ++ [failed.bayNoticeAt 0 b d.state .faulted 6 0 3] <+: t.uplink.fifo)
    (∀ cls, s.requests = r :: q → r.kind = Kind.hold → s.checkHold r = .ok cls → (s.bay b).searchable = true →
      (s.bay b).cls ∈ s.acceptable cls → (∀ c, c ≠ b → (s.bay c).searchable = false) → s.waitlist = [] →
      ∃ t h, exec .hold s = .next t ∧ h.ticket = some (ticketField r.payload 0) ∧ t.waitHolds = [h]
        ∧ fails t (s.placeUplink (s.answerTo r Kind.answer
            (s.answerBytes r (ticketField r.payload 0) 1 0 0 1 h))))
    ∧ (s.management = r :: q → r.kind = Kind.control → ∀ v w, r.payload = [7, v, w] → v.toNat * 256 + w.toNat ≤ 20000 →
      b ∈ s.allocator.queue.map (·.bay) →
      ∃ t, exec .setCap s = .next t ∧ t.WithinBudget ∧ (t.bay b).alloc.target = 0
        ∧ fails t (s.placeUplink (s.answerTo r Kind.mgmtAnswer [r.kind, 0]))))
  ∧ (∀ (s : State) (b : BayIx) (ws : Time), s.scrubber.degraded = true → s.fit b ws ≠ some .staged)
  ∧ (∀ (s : State) (b : BayIx), (s.bay b).dyn.suspect = true → (s.bay b).searchable = false)

/-- The no-show expiry taken (R20, R22): at a HELD, vacant bay without a staged hold the hold ends EXPIRED, its index
entry and its deadlines go (R61, R62), the bay is FREE, HOLD-NOTICE EXPIRED goes to its requester with the end reason EXPIRED, the window and the
counters of the hold (R24), and BAY-NOTICE HELD to FREE, HOLD-ENDED with that reason, follows (R25). Unnamed fields of
the notice, the grace end among them, are 0 by inference (log 13), and the order of the two notices is log 12's. The
Waitlist is empty, so the scan that follows places nothing. An expiry that finds its hold changed is discarded (R60): it
changes no bay, raises no notice and logs no error. -/
def Obligations.NoShowExpiry : Prop :=
  (∀ (s : State) (b : BayIx) (h : Hold) (t : Ticket) (r : Addr), s.heldInReset = false →
       .noShow b (some t) h.graceEnd ∈ s.expiries → (s.bay b).dyn.active = some h → h.ticket = some t →
       h.requester = some r → h.arrival = none → (s.bay b).dyn.staged = none → (s.bay b).dyn.state = .held →
       (s.bay b).dyn.occupancy ≠ .occupied → (s.bay b).dyn.closeMode = .none → (s.bay b).alloc.chargingCopy = false →
       s.waitlist = [] →
       let told := s.noticeAt 0 r Kind.holdNotice (s.summaryBytes 3 t (b.val + 1) 3 h)
       ∃ x, exec (.noShowExpiry (byteOf (b.val + 1)) (some t) h.graceEnd) s = .next x
         ∧ x.still = s.still ∧ x.index = s.index.filter (fun e => e.ticket ≠ t)
         ∧ (x.bay b).dyn = { (s.bay b).dyn with active := none, state := .free }
         ∧ x.Awaits b none none (s.bay b).timer.displacement
         ∧ (∀ c, c ≠ b → (x.bay c).dyn = (s.bay c).dyn ∧ s.AwaitsAs x c) ∧ x.waitlist = []
         ∧ (r ≠ 0 → s.Sends x [told]
             ∧ (s.controller.noticeDest ≠ 0 → s.Sends x [told, s.bayNoticeAt 1 b .held .free 4 3 0])))
    ∧ (∀ (s : State) (b : BayIx) (t : Option Ticket) (v : Time), s.heldInReset = false → .noShow b t v ∈ s.expiries →
         (∀ h, (s.bay b).dyn.active = some h → h.ticket ≠ t ∨ h.graceEnd ≠ v ∨ h.arrival ≠ none) →
         exec (.noShowExpiry (byteOf (b.val + 1)) t v) s
           = .next { s with expiries := s.expiries.erase (.noShow b t v) }.deliverDue.arbitrate)

/-- The overstay expiry taken at a bay in ARRIVED, CHARGING or DONE makes it OVERSTAY, and BAY-NOTICE OVERSTAY is the
first frame placed (R21, R25, R62); at a bay in any other state, FAULTED among them, it changes no bay. -/
def Obligations.OverstayExpiry : Prop :=
  ∀ (s : State) (b : BayIx) (h : Hold), s.heldInReset = false →
    let v := h.windowEnd + BitVec.ofNat 32 (s.timing.overstay * 60)
    .overstay b h.ticket v ∈ s.expiries → (s.bay b).dyn.active = some h → h.arrival ≠ none →
    ((s.bay b).dyn.state ∈ [BayState.arrived, .charging, .done] → (∀ c, (s.bay c).checkOk = true) →
      ∃ x, exec (.overstayExpiry (byteOf (b.val + 1)) h.ticket v) s = .next x ∧ x.still = s.still
        ∧ (x.bay b).dyn = { (s.bay b).dyn with state := .overstay }
        ∧ (∀ c, c ≠ b → (x.bay c).dyn = (s.bay c).dyn) ∧ x.index = s.index ∧ x.waitHolds = s.waitHolds
        ∧ (s.controller.noticeDest ≠ 0 → s.Sends x [s.bayNoticeAt 0 b (s.bay b).dyn.state .overstay 5 0 0]))
    ∧ ((s.bay b).dyn.state ∉ [BayState.arrived, .charging, .done] →
      exec (.overstayExpiry (byteOf (b.val + 1)) h.ticket v) s
        = .next { s with expiries := s.expiries.erase (.overstay b h.ticket v) }.deliverDue.arbitrate)

/-- Relocation and displacement (R38, R41 to R44). The displacement check of a staged hold: the bay that the search in
class order finds, the present one left out (R34), takes it in the slot where it fits, the cursor of its class passes on,
HOLD-NOTICE RELOCATED names bay and slot, and for an active slot BAY-NOTICE PLACED follows. With none, the hold goes to the head
of its priority group on the Waitlist, its index entry follows it, the active hold and the bay's state are not touched,
and HOLD-NOTICE DISPLACED names the bay and the position. At a full Waitlist whose last entry has a higher priority the
hold is LOST with its index entry, and no scan follows; where the last entry's priority is not higher, that entry is
EVICTED first. The displacement check is withdrawn with the slot; a hold placed again has its no-show deadline (its
overstay deadline where a storage fault has left it arrived) or its check, and an entry its deadline at its grace end (R61, R63, R64). CLOSE-NOW displaces an active hold that has not arrived
in the same way, and the bay closes: the answer, the HOLD-NOTICE and the BAY-NOTICE with the end reason RELOCATED stand in
this order (log 12). Which bay, slot and position a notice carries, its other fields being 0 (log 13), and that LOST
brings no scan (log 28) are read by inference. -/
def Obligations.Relocation : Prop :=
  (∀ (s : State) (b : BayIx) (a h : Hold) (t : Ticket) (r : Addr), s.heldInReset = false →
    let v := h.windowStart - BitVec.ofNat 32 (s.timing.lead * 60)
    .displacement b (some t) v ∈ s.expiries → (s.bay b).dyn.staged = some h → h.ticket = some t →
    h.requester = some r →
    let run := exec (.displacementCheck (byteOf (b.val + 1)) t v) s
    let timer := (s.bay b).timer
    let emptied := fun (x : State) => (x.bay b).dyn = { (s.bay b).dyn with staged := none }
      ∧ x.Awaits b timer.noShow timer.overstay none
    let same := fun (x : State) (c : BayIx) => (x.bay c).dyn = (s.bay c).dyn ∧ s.AwaitsAs x c
    let entry : WaitEntry := ⟨h, (s.bay b).cls, none, some h.graceEnd⟩
    let told := fun (event bay slot position : Nat) =>
      s.noticeAt 0 r Kind.holdNotice (movedBytes event t bay slot position)
    (atOrAfter s.now v = true → (s.bay b).dyn.active = some a → (s.bay b).dyn.state ≠ .free →
      (s.bay b).checkOk = true → s.FindsNone (s.bay b).cls (some b) h.windowStart → s.waitlist = [] →
      s.lookup t = some ⟨t, r, .staged b⟩ →
      ∃ x, run = .next x ∧ x.still = s.still ∧ emptied x ∧ (∀ c, c ≠ b → same x c)
        ∧ x.WaitsWith [entry] ∧ x.cursors = s.cursors ∧ x.lookup t = some ⟨t, r, .waitlist⟩ ∧ (r ≠ 0 → s.Sends x [told 2 (b.val + 1) 0 1]))
    ∧ (∀ (d : BayIx) (sl : Slot), s.Finds (s.bay b).cls (some b) h.windowStart d sl →
        (∀ c, c ≠ b → (s.bay c).searchable = true → (s.bay c).checkOk = true) →
        (sl = .active → (s.bay d).alloc.chargingCopy = false) →
        s.waitlist = [] → s.lookup t = some ⟨t, r, .staged b⟩ →
        let moved := told 1 (d.val + 1) sl.code 0
        ∃ x, run = .next x ∧ x.still = s.still ∧ emptied x
          ∧ (x.bay d).dyn = (match sl with
              | .active => { (s.bay d).dyn with state := .held, active := some h }
              | .staged => { (s.bay d).dyn with staged := some h })
          ∧ (match sl with
              | .active => x.Awaits d (if h.arrival = none then some ⟨some t, h.graceEnd⟩ else none)
                  (if h.arrival = none then none else some (s.overstayAt h)) (s.bay d).timer.displacement
              | .staged => x.Awaits d (s.bay d).timer.noShow (s.bay d).timer.overstay (some (s.checkAt h)))
          ∧ (∀ c, c ≠ b → c ≠ d → same x c) ∧ x.waitlist = []
          ∧ x.lookup t = some ⟨t, r, match sl with | .active => .active d | .staged => .staged d⟩
          ∧ x.cursors = s.cursors.set (s.bay d).cls.ix (d + 1)
          ∧ (r ≠ 0 → s.Sends x [moved]
              ∧ (sl = .active → s.controller.noticeDest ≠ 0 →
                  s.Sends x [moved, s.bayNoticeAt 1 d .free .held 3 0 0])))
    ∧ (∀ w, s.FindsNone (s.bay b).cls (some b) h.windowStart → 32 ≤ s.waitlist.length →
        s.waitlist.getLast? = some w → h.priority < w.hold.priority →
        ∃ x, run = .next x ∧ x.still = s.still ∧ emptied x ∧ (∀ c, c ≠ b → same x c)
          ∧ x.WaitsWith s.waitlist ∧ x.index = s.index.filter (fun i => i.ticket ≠ t)
          ∧ (r ≠ 0 → s.Sends x [told 5 (b.val + 1) 0 0]))
    ∧ (∀ w u e, (∀ c, (s.bay c).searchable = false) → 32 ≤ s.waitlist.length → s.waitlist.getLast? = some w →
        w.hold.priority ≤ h.priority → w.hold.ticket = some u → w.hold.requester = some e → u ≠ t →
        s.lookup t = some ⟨t, r, .staged b⟩ →
        let joined := insertHead entry s.waitlist.dropLast
        (∃ front back, s.waitlist.dropLast = front ++ back ∧ joined = front ++ entry :: back
          ∧ (∀ f ∈ front, h.priority < f.hold.priority) ∧ (∀ f ∈ back.head?, f.hold.priority ≤ h.priority)) ∧
        ∃ x, run = .next x ∧ x.still = s.still ∧ emptied x ∧ (∀ c, c ≠ b → same x c)
          ∧ x.WaitsWith joined ∧ x.lookup t = some ⟨t, r, .waitlist⟩ ∧ x.lookup u = none
          ∧ (r ≠ 0 → e ≠ 0 → s.Sends x [s.noticeAt 0 e Kind.holdNotice (movedBytes 4 u 0 0 0),
              s.noticeAt 1 r Kind.holdNotice (movedBytes 2 t (b.val + 1) 0 (waitPosition joined (some t)))])))
  ∧ (∀ (s : State) (r : Request) (q : List Request) (b : BayIx) (h : Hold) (t : Ticket) (a : Addr),
      s.heldInReset = false → s.management = r :: q → r.kind = Kind.control → r.payload = [2, byteOf (b.val + 1)] →
      (s.bay b).dyn.state = .held ∨ (s.bay b).dyn.state = .contested → (s.bay b).dyn.active = some h →
      h.arrival = none → (s.bay b).dyn.staged = none → h.ticket = some t → h.requester = some a →
      s.lookup t = some ⟨t, a, .active b⟩ → (s.bay b).alloc.chargingCopy = false →
      s.FindsNone (s.bay b).cls (some b) h.windowStart → s.waitlist = [] →
      ∃ x, exec .closeNow s = .next x ∧ x.still = { s.still with management := q }
        ∧ (x.bay b).dyn = { (s.bay b).dyn with state := .closed, active := none, closeMode := .none }
        ∧ x.Awaits b none none (s.bay b).timer.displacement
        ∧ (∀ c, c ≠ b → (x.bay c).dyn = (s.bay c).dyn ∧ s.AwaitsAs x c)
        ∧ x.WaitsWith [⟨h, (s.bay b).cls, none, some h.graceEnd⟩]
        ∧ x.lookup t = some ⟨t, a, .waitlist⟩ ∧ s.Answers x r Kind.mgmtAnswer [r.kind, 0]
        ∧ (r.src ≠ 0 → a ≠ 0 → s.controller.noticeDest ≠ 0 →
            s.Sends x [s.answerTo r Kind.mgmtAnswer [r.kind, 0],
              s.noticeAt 0 a Kind.holdNotice (movedBytes 2 t (b.val + 1) 0 1),
              s.bayNoticeAt 1 b (s.bay b).dyn.state .closed 4 5 0]))

/-- The waitlist expiry (R40): the entry goes with its index entry, HOLD-NOTICE EXPIRED is placed with the end reason
EXPIRED, bay 0, the window, no arrival time and zero counters (R24), its grace end 0 by inference (log 13), and no scan
follows. The early-arrival expiry (R47): the entry goes when its recorded time is the one the expiry was set for, and is
kept when a later ARRIVE has refreshed it. -/
def Obligations.ListExpiries : Prop :=
  (∀ (s : State) (t : Ticket) (e : WaitEntry) (r : Addr), s.heldInReset = false →
       .waitlist t e.hold.graceEnd ∈ s.expiries → s.waiting t = some e → e.hold.requester = some r →
       ∃ x, exec (.waitlistExpiry t e.hold.graceEnd) s = .next x ∧ x.still = s.still
         ∧ x.waitHolds = (s.waitlist.erase e).map (·.hold) ∧ x.index = s.index.filter (fun i => i.ticket ≠ t)
         ∧ x.dyns = s.dyns
         ∧ (r ≠ 0 → s.Sends x [s.noticeAt 0 r Kind.holdNotice (s.summaryBytes 3 t 0 3 e.hold.bare)]))
    ∧ (∀ (s : State) (t : Ticket) (v : Time) (e : EarlyEntry), s.heldInReset = false → .early t v ∈ s.expiries →
         s.early.find? (fun i => i.ticket == t) = some e →
         exec (.earlyArrivalExpiry t v) s
           = .next { s with
               expiries := s.expiries.erase (.early t v),
               early := if e.recorded + 600 = v then s.early.filter (fun i => i.ticket ≠ t) else s.early
             }.deliverDue.arbitrate)

/-- The rotation expiry (R66, R93): with no bay paused the check rotates nothing and the deadline stays DUE; with a
paused bay of the same priority first among the paused and one candidate only, that candidate is rotated: its stamp
is now, it stands behind the paused bay, and it is paused in its turn by the recompute that follows. -/
def Obligations.RotationExpiry : Prop :=
  ∀ (s : State) (b : BayIx), s.heldInReset = false → .rotation b ∈ s.expiries →
    ((∀ e ∈ s.allocator.queue, (s.bay e.bay).alloc.admittedSince ≠ none) →
      exec (.rotationExpiry (byteOf (b.val + 1))) s
        = .next { s with expiries := s.expiries.erase (.rotation b) }.deliverDue.arbitrate)
    ∧ (∀ (c : BayIx) (p : Fin 4) (u v w : Time), s.allocator.queue = [⟨b, p, u⟩, ⟨c, p, v⟩] → b ≠ c →
        (s.bay b).timer.rotation = .due w → (s.bay b).alloc.admittedSince ≠ none →
        (s.bay c).alloc.admittedSince = none → laterThan v s.now = false →
        (∀ d, (s.bay d).checkOk = true) →
        5 ≤ s.allocator.settings.rotation → s.allocator.settings.rotation ≤ 60 →
        budgetOf s.allocator.settings / s.allocator.settings.minimum = 1 →
        ∃ t, exec (.rotationExpiry (byteOf (b.val + 1))) s = .next t ∧ t.still = s.still
          ∧ t.allocator.queue = [⟨c, p, v⟩, ⟨b, p, s.now⟩]
          ∧ (t.bay b).alloc.target = 0 ∧ (t.bay b).alloc.admittedSince = none
          ∧ (t.bay b).timer.rotation = .clear ∧ (t.bay c).alloc.admittedSince = some s.now
          ∧ s.allocator.settings.minimum ≤ (t.bay c).alloc.target ∧ t.dyns = s.dyns)

/-- The link-loss expiry (R142): for a link-lost post, one that is UNREACHABLE with now at or after its last contact + L, whose bay does not have link lost set and is not IN-FLIGHT, the
delivery record is brought to rest; for any other link-lost post it is not taken; that it is an event of its own beside
the tick is read by inference (log 9), and so is a node's falling due. A node falls due (R136, R137, R143): with no
transaction outstanding, no shed and the rotor at POLL, the node the ring offers is polled; the tag and the cursor pass
on, and the rotor goes to RAISE. -/
def Obligations.LinkLossAndPollDue : Prop :=
  (∀ (s : State) (b : BayIx), s.linkLostNow b = true ↔ ∃ a e c, s.post b = some (a, e) ∧ e.contact = some c
    ∧ c.reachable = false ∧ atOrAfter s.now (c.last + BitVec.ofNat 32 s.timing.linkLoss) = true)
  ∧ (∀ (s : State) (b : BayIx), s.heldInReset = false → s.linkLostNow b = true →
    let d := (s.bay b).delivery
    (d.linkLost = false → d.state ≠ .inFlight →
      exec (.linkLossExpiry (byteOf (b.val + 1))) s
        = .next (s.modDelivery b (fun _ => ⟨d.target, some 0, none, 0, d.sequence, false, 0, true,
            if d.target = 0 then .settled else .pending⟩)).deliverDue.arbitrate)
    ∧ (d.linkLost = true ∨ d.state = .inFlight →
      exec (.linkLossExpiry (byteOf (b.val + 1))) s = .next s.deliverDue.arbitrate))
  ∧ (∀ (s : State) (a : Addr) (p : Fin 256), s.heldInReset = false → (s.node a).isDue s.now = true →
    s.scheduler.transaction = none → s.sheds = [] → s.scheduler.rotor = .poll → s.pollOffer = some (p, a) →
    ∃ t, exec (.pollDue a) s = .next t ∧ t.still = s.still ∧ t.dyns = s.dyns ∧ t.uplink = s.uplink
      ∧ t.scheduler = ⟨s.scheduler.budget, .raise, p + 1, s.scheduler.tag + 1,
          some ⟨.poll, ⟨a, s.controller.own, Kind.poll, s.scheduler.tag, []⟩, false, s.timing.window, .waiting, false⟩⟩)

/-! ## Suspension -/

/-- Emergency demands (R127, R149, R150). The EMERGENCY input becoming active, or a claimed EMERGENCY frame from a
source with the permission, saves every allot enable and clears it, empties the Charge Queue, brings every target
to 0, hands these to the delivery records, which become SETTLED or PENDING by them where they were one of these (R132,
R149), and logs EMERGENCY-ENTERED, with the header of the frame where a frame caused it; a part already suspended only logs EMERGENCY-ENTERED; a frame from a source without the permission is dropped
and logged NOT-PERMITTED with its header. -/
def Obligations.EmergencyDemand : Prop :=
  let handed := fun (s u : State) =>
    (∀ b, let d := (s.bay b).delivery
      (u.bay b).delivery = { d with
        target := 0,
        state := if d.state ≠ .settled ∧ d.state ≠ .pending then d.state
          else if d.inForce = some 0 ∧ d.repeatMark = false then .settled else .pending })
    ∧ u.scheduler = { s.scheduler with budget := budgetOf s.allocator.settings }
  (∀ s : State, s.heldInReset = false → s.suspension.emergency = false →
       (s.suspension.suspended = false →
         ∃ u : State, exec .emergencyActive s = .next u.arbitrate ∧ handed s u ∧ let t := u.arbitrate
           t.still = { s.still with
               suspension := ⟨true, true⟩, suspendedCopy := true,
               bays := s.bays.map (fun y => ⟨y.cls, y.postMax, false, y.allotEnable⟩) }
           ∧ t.allocator.queue = [] ∧ (∀ b, (t.bay b).alloc.target = 0) ∧ t.dyns = s.dyns ∧ t.index = s.index
           ∧ t.recorder = (s.logError { kind := .emergencyEntered }).recorder
           ∧ t.uplink = (s.logError { kind := .emergencyEntered }).uplink)
       ∧ (s.suspension.suspended = true →
         exec .emergencyActive s
           = .next ({ s with suspension := ⟨true, true⟩ }.logError { kind := .emergencyEntered }).deliverDue.arbitrate))
    ∧ (∀ (s : State) (f : Frame), s.heldInReset = false → s.uplink.rx.state = .assembling → f.payload.length ≤ 48 →
         (s.node f.src).role = .server → f.kind = Kind.emergency →
         ((s.kinds.get f.kind.toFin).action = .claim ∧ (f.dest = s.controller.own ∨ f.dest = 0xFF)
           ∨ (s.kinds.get f.kind.toFin).action = .claimForward ∧ f.dest = s.controller.own) →
         ((s.node f.src).permissions.emergency = true → s.suspension.suspended = false →
           ∃ u : State, exec (.frameReception .uplink f.received) s = .next u.arbitrate ∧ handed s u
             ∧ let t := u.arbitrate
             t.suspension = ⟨true, s.suspension.emergency⟩ ∧ t.allocator.queue = []
             ∧ (∀ b, (t.bay b).alloc.target = 0 ∧ (t.bay b).allotEnable = false
                 ∧ (t.bay b).savedMask = (s.bay b).allotEnable) ∧ t.dyns = s.dyns
             ∧ t.recorder = (s.logError { kind := .emergencyEntered, header := some f.header }).recorder
             ∧ t.uplink.fifo = (s.logError { kind := .emergencyEntered, header := some f.header }).uplink.fifo)
         ∧ ((s.node f.src).permissions.emergency = true → s.suspension.suspended = true →
           exec (.frameReception .uplink f.received) s
             = .next ((s.setRx .uplink ⟨.idle, []⟩).logError
                 { kind := .emergencyEntered, header := some f.header }).deliverDue.arbitrate)
         ∧ ((s.node f.src).permissions.emergency = false →
           exec (.frameReception .uplink f.received) s
             = .next ((s.setRx .uplink ⟨.idle, []⟩).logError
                 { kind := .notPermitted, header := some f.header }).deliverDue.arbitrate))

/-- RESTART (R151): refused EMERGENCY-ACTIVE while the input is active; otherwise a suspended part ends its
suspension with the saved mask restored, every bay that is now eligible in the Charge Queue and none other, and the
targets within the budget; it is answered first. -/
def Obligations.Restart : Prop :=
  ∀ (s : State) (r : Request) (q : List Request), s.heldInReset = false → s.management = r :: q →
    r.kind = Kind.control → byteAt r.payload 0 = 6 → r.payload ≠ [] →
    (s.suspension.emergency = true →
      exec .restart s = .next ({ s with management := q }.sendStatus r .emergencyActive []).deliverDue.arbitrate)
    ∧ (s.suspension.emergency = false → s.suspension.suspended = true → s.SuspensionHolds →
        (∀ b, (s.bay b).checkOk = true) →
      ∃ t, exec .restart s = .next t
        ∧ t.still = { s.still with
            management := q, suspension := ⟨false, false⟩, suspendedCopy := false,
            bays := s.bays.map (fun y => ⟨y.cls, y.postMax, y.savedMask, y.savedMask⟩) }
        ∧ (∀ b, b ∈ t.allocator.queue.map (·.bay) ↔
            (s.bay b).alloc.chargingCopy = true ∧ (s.bay b).savedMask = true ∧ (s.bay b).alloc.suspectCopy = false
              ∧ s.allocator.settings.minimum ≤ (s.bay b).postMax)
        ∧ t.WithinBudget ∧ t.dyns = s.dyns ∧ s.Answers t r Kind.mgmtAnswer [r.kind, 0])

/-! ## Booking requests -/

/-- The checks of a HOLD (R30): the first that fails gives the refusal, in this order, and nothing else changes: the
request leaves the queue and its ANSWER is placed. -/
def Obligations.HoldChecks : Prop :=
  ∀ (s : State) (r : Request) (q : List Request), s.heldInReset = false → s.requests = r :: q →
    r.kind = Kind.hold →
    let t := ticketField r.payload 0
    let permitted := (s.node r.src).permissions.hold
    let cls := byteAt r.payload 4
    let offset := byteAt r.payload 6
    let refused := fun (reason bay slot : Nat) =>
      (.next ({ s with requests := q }.sendAnswer r Kind.answer
        ([r.kind] ++ be32w t ++ [2, byteOf reason, byteOf bay, byteOf slot, 0]
          ++ List.replicate 12 0)).deliverDue.arbitrate : Result)
    (permitted = false → exec .hold s = refused 1 0 0)
      ∧ (permitted = true → t = 0 → exec .hold s = refused 2 0 0)
      ∧ (∀ e, permitted = true → t ≠ 0 → s.index.find? (fun e => e.ticket == t) = some e →
          exec .hold s = match e.location with
            | .active b => refused 3 (b.val + 1) 1
            | .staged b => refused 3 (b.val + 1) 2
            | .waitlist => refused 3 0 3)
      ∧ (permitted = true → t ≠ 0 → s.index.find? (fun e => e.ticket == t) = none → 3 < cls →
          exec .hold s = refused 5 0 0)
      ∧ (permitted = true → t ≠ 0 → s.index.find? (fun e => e.ticket == t) = none → cls ≤ 3 → 120 < offset →
          exec .hold s = refused 4 0 0)

/-- A HOLD that is granted (R31 to R35). The record is formed from the request: window start now plus the offset, its
length clamped into 15 to 480 minutes, grace 0 as the class default and otherwise clamped into 1 to 60, energy 0 absent
and above 200000 stored as 200000, a priority above 3 as 3 (R181), the requester its SRC, entry seen from the Early
Arrival List, nothing arrived or counted. The bay is the preferred one where it is of an acceptable class and fits, and
the cursors stand; otherwise the bay that the search in class order finds, first in its class from the cursor, which moves
on to the bay after it. A FREE bay takes the hold in its active slot, becomes HELD, and BAY-NOTICE PLACED follows the
answer, the no-show deadline at the grace end (R61); another bay takes it staged, its state as it was, with the
displacement check ahead of the window (R63). That a bay stored FREE fits whatever its slots hold is the model's choice
(log 36). The index entry is made, the ANSWER GRANTED comes first, and no other bay, deadline or Waitlist entry changes. -/
def Obligations.HoldGranted : Prop :=
  ∀ (s : State) (r : Request) (q : List Request) (c : BayClass) (b : BayIx) (sl : Slot), s.heldInReset = false →
    s.requests = r :: q → r.kind = Kind.hold → s.checkHold r = .ok c → (s.bay b).checkOk = true →
    let p := r.payload
    let t := ticketField p 0
    let start := s.now + BitVec.ofNat 32 (byteAt p 6 * 60)
    let h : Hold :=
      { ticket := some t, requester := some r.src,
        priority := if byteAt p 10 = 0 then 0 else if byteAt p 10 = 1 then 1 else if byteAt p 10 = 2 then 2 else 3,
        windowStart := start,
        windowEnd := start + BitVec.ofNat 32 (max 15 (min 480 (field16 p 7)) * 60),
        graceEnd := start + BitVec.ofNat 32
          ((if byteAt p 9 = 0 then (s.classOf c).grace else max 1 (min 60 (byteAt p 9))) * 60),
        energyWanted := if field32 p 11 = 0 then none else some (min 200000 (field32 p 11)),
        entrySeen := s.early.any (fun e => e.ticket == t), arrival := none, occupiedSeconds := 0,
        chargedSeconds := 0, energyDelivered := 0, lastPostEnergy := none }
    let d := (s.bay b).dyn
    let timer := (s.bay b).timer
    let named := fun (e : BayIx) => byteAt p 5 = e.val + 1 ∧ (s.bay e).cls ∈ s.acceptable c
    let granted := s.answerTo r Kind.answer (s.answerBytes r t 0 (b.val + 1) sl.code 0 h)
    let placed := fun (cursors : Table BayIx 4) =>
      ∃ x, exec .hold s = .next x
        ∧ x.still = { s.still with
            requests := q, early := s.still.early.filter (fun e => e.1 ≠ t) }
        ∧ (x.bay b).dyn = (match sl with
            | .active => { d with state := .held, active := some h }
            | .staged => { d with staged := some h })
        ∧ (match sl with
            | .active => x.Awaits b (some ⟨some t, h.graceEnd⟩) none timer.displacement
            | .staged => x.Awaits b timer.noShow timer.overstay (some (s.checkAt h)))
        ∧ (∀ e, e ≠ b → (x.bay e).dyn = (s.bay e).dyn ∧ s.AwaitsAs x e) ∧ x.WaitsWith s.waitlist
        ∧ x.cursors = cursors
        ∧ x.lookup t = some ⟨t, r.src, match sl with | .active => .active b | .staged => .staged b⟩
        ∧ (∀ u, u ≠ t → x.lookup u = s.lookup u)
        ∧ s.Answers x r Kind.answer (s.answerBytes r t 0 (b.val + 1) sl.code 0 h)
        ∧ (r.src ≠ 0 → s.controller.noticeDest ≠ 0 → s.Sends x (match sl with
            | .active => [granted, s.bayNoticeAt 0 b .free .held 3 0 0]
            | .staged => [granted]))
    (sl = .active → (s.bay b).alloc.chargingCopy = false) →
    (named b → s.Fits b start sl → placed s.cursors)
    ∧ ((∀ e, named e → ¬ s.FitsSome e start) → s.Finds c none start b sl →
        (∀ e, (s.bay e).cls ∈ s.acceptable c → (s.bay e).searchable = true → (s.bay e).checkOk = true) →
        placed (s.cursors.set (s.bay b).cls.ix (b + 1)))

/-- A HOLD for which no bay of an acceptable class fits, the preferred one included (R33 to R35, R37). While the Waitlist
holds fewer than 32 entries it joins at the tail of its priority group, with the class wanted, the preferred bay and its
deadline at its grace end (R64), and with its index entry, and is answered QUEUED with its position; no bay, cursor or
other deadline changes. At a full Waitlist it is refused WAITLIST-FULL, and nothing but the queue changes, when the last
entry's priority is not lower than its own; otherwise that entry is EVICTED with its index entry, and its HOLD-NOTICE,
which carries the ticket alone by inference (log 13), follows the answer. The record is formed from the request and the
tables (R31). -/
def Obligations.HoldQueued : Prop :=
  ∀ (s : State) (r : Request) (q : List Request) (c : BayClass), s.heldInReset = false →
    s.requests = r :: q → r.kind = Kind.hold → s.checkHold r = .ok c →
    let p := r.payload
    let t := ticketField p 0
    let start := s.now + BitVec.ofNat 32 (byteAt p 6 * 60)
    s.FindsNone c none start →
    let h : Hold :=
      { ticket := some t, requester := some r.src,
        priority := if byteAt p 10 = 0 then 0 else if byteAt p 10 = 1 then 1 else if byteAt p 10 = 2 then 2 else 3,
        windowStart := start,
        windowEnd := start + BitVec.ofNat 32 (max 15 (min 480 (field16 p 7)) * 60),
        graceEnd := start + BitVec.ofNat 32
          ((if byteAt p 9 = 0 then (s.classOf c).grace else max 1 (min 60 (byteAt p 9))) * 60),
        energyWanted := if field32 p 11 = 0 then none else some (min 200000 (field32 p 11)),
        entrySeen := s.early.any (fun e => e.ticket == t), arrival := none, occupiedSeconds := 0,
        chargedSeconds := 0, energyDelivered := 0, lastPostEnergy := none }
    let e : WaitEntry := ⟨h, c, bayOfNo (byteAt p 5), some h.graceEnd⟩
    let queued := fun (l : List WaitEntry) => s.answerBytes r t 1 0 0 (waitPosition l (some t)) h
    let joins := fun (x : State) (l : List WaitEntry) =>
      exec .hold s = .next x ∧ x.WaitsWith l ∧ x.dyns = s.dyns ∧ (∀ b, s.AwaitsAs x b) ∧ x.cursors = s.cursors
        ∧ x.lookup t = some ⟨t, r.src, .waitlist⟩
        ∧ x.still = { s.still with requests := q, early := s.still.early.filter (fun e => e.1 ≠ t) }
        ∧ s.Answers x r Kind.answer (queued l)
    (∀ w : List WaitEntry, ∃ front back, w = front ++ back ∧ insertTail e w = front ++ e :: back
      ∧ (∀ f ∈ front, h.priority ≤ f.hold.priority) ∧ (∀ f ∈ back.head?, f.hold.priority < h.priority))
    ∧ (s.waitlist.length < 32 → ∃ x, joins x (insertTail e s.waitlist))
    ∧ (∀ w, 32 ≤ s.waitlist.length → s.waitlist.getLast? = some w → h.priority ≤ w.hold.priority →
        exec .hold s = .next ({ s with requests := q }.sendAnswer r Kind.answer
          ([r.kind] ++ be32w t ++ [2, 6, 0, 0, 0] ++ List.replicate 12 0)).deliverDue.arbitrate)
    ∧ (∀ w u a, 32 ≤ s.waitlist.length → s.waitlist.getLast? = some w → w.hold.priority < h.priority →
        w.hold.ticket = some u → w.hold.requester = some a → u ≠ t →
        ∃ x, joins x (insertTail e s.waitlist.dropLast) ∧ x.lookup u = none
          ∧ (r.src ≠ 0 → a ≠ 0 →
              s.Sends x [s.answerTo r Kind.answer (queued (insertTail e s.waitlist.dropLast)),
                s.noticeAt 0 a Kind.holdNotice (movedBytes 4 u 0 0 0)]))

/-- A successful AMEND stores the new window end, now plus the new end clamped into 1 to 480 minutes, its distance from
the window start clamped into 15 to 480 minutes, and is answered with the stored window (R48): that the clamp is taken in seconds, an end before the start counting as a negative length, is read
by inference (log 17). A staged hold is answered GRANTED with its slot. An active hold that has not arrived changes
nothing else, by inference too (log 20); at one that has arrived the overstay deadline moves with the window end (R62),
step 3 of the derivation runs again (R7), and a bay neither CLOSED nor FAULTED takes the state it gives, BAY-NOTICE AMENDED following where that is another. A Waitlist
entry is answered QUEUED with its position. An AMEND of an active hold that would run into the staged one is refused
CONFLICT and changes nothing. -/
def Obligations.Amend : Prop :=
  ∀ (s : State) (r : Request) (q : List Request) (t : Ticket) (b : BayIx) (l : Location), s.heldInReset = false →
    s.requests = r :: q → r.kind = Kind.amend → ticketField r.payload 0 = t → t ≠ 0 →
    s.lookup t = some ⟨t, r.src, l⟩ →
    let asked := s.now + BitVec.ofNat 32 (max 1 (min 480 (field16 r.payload 4)) * 60)
    let newEnd := fun (h : Hold) =>
      h.windowStart + BitVec.ofNat 32 (max 900 (min 28800 (asked - h.windowStart).toInt)).toNat
    let amended := fun (h : Hold) => { h with windowEnd := newEnd h }
    let clear := fun (h : Hold) => ∀ n, (s.bay b).dyn.staged = some n →
      laterThan (newEnd h + BitVec.ofNat 32 (s.timing.turnover * 60)) n.windowStart = false
    let kept := fun (x : State) (h : Hold) (outcome bay slot position : Nat) =>
      exec .amend s = .next x ∧ x.still = { s.still with requests := q }
        ∧ (∀ c, c ≠ b → (x.bay c).dyn = (s.bay c).dyn ∧ s.AwaitsAs x c) ∧ x.index = s.index
        ∧ 900 ≤ (newEnd h - h.windowStart).toNat ∧ (newEnd h - h.windowStart).toNat ≤ 28800
        ∧ s.Answers x r Kind.answer (s.answerBytes r t outcome bay slot position (amended h))
    (∀ h, l = .staged b → (s.bay b).dyn.staged = some h →
      ∃ x, kept x h 0 (b.val + 1) 2 0 ∧ x.WaitsWith s.waitlist ∧ s.AwaitsAs x b
        ∧ (x.bay b).dyn = { (s.bay b).dyn with staged := some (amended h) })
    ∧ (∀ h, l = .active b → (s.bay b).dyn.active = some h → h.arrival = none → clear h →
      ∃ x, kept x h 0 (b.val + 1) 1 0 ∧ x.WaitsWith s.waitlist ∧ s.AwaitsAs x b
        ∧ (x.bay b).dyn = { (s.bay b).dyn with active := some (amended h) })
    ∧ (∀ h, l = .active b → (s.bay b).dyn.active = some h → h.arrival ≠ none → clear h →
        (s.bay b).dyn.state ≠ .closed → (s.bay b).dyn.state ≠ .faulted → (s.bay b).dyn.occupancy ≠ .vacant →
        (∀ c, (s.bay c).checkOk = true) →
      let third := if atOrAfter s.now (newEnd h + BitVec.ofNat 32 (s.timing.overstay * 60)) then BayState.overstay
        else if (s.bay b).dyn.connector = .finished ∨ (∃ w, h.energyWanted = some w ∧ w ≤ h.energyDelivered) then .done
        else if (s.bay b).dyn.connector = .plugged ∨ (s.bay b).dyn.connector = .charging then .charging
        else .arrived
      ∃ x, kept x h 0 (b.val + 1) 1 0 ∧ x.WaitsWith s.waitlist
        ∧ x.Awaits b (s.bay b).timer.noShow (some (s.overstayAt (amended h))) (s.bay b).timer.displacement
        ∧ (x.bay b).dyn = { (s.bay b).dyn with active := some (amended h), state := third }
        ∧ (r.src ≠ 0 → s.controller.noticeDest ≠ 0 → third ≠ (s.bay b).dyn.state →
            s.allocator.settings.minimum ≤ (s.bay b).postMax →
            s.Sends x [s.answerTo r Kind.answer (s.answerBytes r t 0 (b.val + 1) 1 0 (amended h)),
              s.bayNoticeAt 0 b (s.bay b).dyn.state third 11 0 0]))
    ∧ (∀ e, l = .waitlist → s.waiting t = some e →
      ∃ x, kept x e.hold 1 0 0 (waitPosition s.waitlist (some t)) ∧ x.dyns = s.dyns ∧ s.AwaitsAs x b
        ∧ x.WaitsWith (s.waitlist.map (fun w =>
            if w.hold.ticket = some t then { w with hold := { w.hold with windowEnd := newEnd e.hold } } else w)))
    ∧ (∀ h n, l = .active b → (s.bay b).dyn.active = some h → (s.bay b).dyn.staged = some n →
      laterThan (newEnd h + BitVec.ofNat 32 (s.timing.turnover * 60)) n.windowStart = true →
      exec .amend s = .next ({ s with requests := q }.sendAnswer r Kind.answer
        ([r.kind] ++ be32w t ++ [2, 10, 0, 0, 0] ++ List.replicate 12 0)).deliverDue.arbitrate)

/-- Who may AMEND or FREE (R48, R49): ticket 0 is refused BAD-TICKET, a ticket in no hold UNKNOWN-TICKET, and a source
that neither placed the hold nor has FREE-ANY NOT-OWNER; nothing else changes. A FREE of a waitlist entry: the entry and
its index entry go, and the ANSWER GRANTED, with bay 0 and slot WAITLIST, stands before the HOLD-NOTICE ENDED to the
recorded requester, which carries the end reason FREED, the window, no arrival time and zero counters (R24), its grace
end 0 by inference (log 13). A FREE of a staged hold empties its slot with its displacement check and its index entry,
the active hold and the bay's state untouched and no BAY-NOTICE raised (R23): ANSWER GRANTED with bay and slot STAGED,
then HOLD-NOTICE ENDED, FREED, with such a summary; the Waitlist is empty, so the scan that follows places nothing. -/
def Obligations.Free : Prop :=
  (∀ (s : State) (r : Request) (q : List Request) (c : Instr), s.heldInReset = false → s.requests = r :: q →
       (r.kind = Kind.amend ∧ c = .amend ∨ r.kind = Kind.free ∧ c = .free) →
       let t := ticketField r.payload 0
       let refused := fun (reason : Nat) =>
         (.next ({ s with requests := q }.sendAnswer r Kind.answer
           ([r.kind] ++ be32w t ++ [2, byteOf reason, 0, 0, 0] ++ List.replicate 12 0)).deliverDue.arbitrate : Result)
       (t = 0 → exec c s = refused 2)
         ∧ (t ≠ 0 → s.lookup t = none → exec c s = refused 8)
         ∧ (∀ e, t ≠ 0 → s.lookup t = some e → e.requester ≠ r.src →
             (s.node r.src).permissions.freeAny = false → exec c s = refused 9))
    ∧ (∀ (s : State) (r : Request) (q : List Request) (t : Ticket) (e : WaitEntry) (a : Addr), s.heldInReset = false →
         s.requests = r :: q → r.kind = Kind.free → ticketField r.payload 0 = t → t ≠ 0 →
         s.lookup t = some ⟨t, a, .waitlist⟩ → (a = r.src ∨ (s.node r.src).permissions.freeAny = true) →
         s.waiting t = some e → e.hold.requester = some a →
         ∃ x, exec .free s = .next x ∧ x.still = { s.still with requests := q } ∧ x.dyns = s.dyns
           ∧ x.waitHolds = (s.waitlist.erase e).map (·.hold) ∧ x.index = s.index.filter (fun i => i.ticket ≠ t)
           ∧ (r.src ≠ 0 → a ≠ 0 →
               s.Sends x [s.answerTo r Kind.answer (s.answerBytes r t 0 0 3 0 e.hold),
                 s.noticeAt 0 a Kind.holdNotice (s.summaryBytes 6 t 0 2 e.hold.bare)]))
    ∧ (∀ (s : State) (r : Request) (q : List Request) (t : Ticket) (b : BayIx) (h : Hold) (a : Addr),
         s.heldInReset = false → s.requests = r :: q → r.kind = Kind.free → ticketField r.payload 0 = t → t ≠ 0 →
         s.lookup t = some ⟨t, a, .staged b⟩ → (a = r.src ∨ (s.node r.src).permissions.freeAny = true) →
         (s.bay b).dyn.staged = some h → h.ticket = some t → h.requester = some a → s.waitlist = [] →
         ∃ x, exec .free s = .next x ∧ x.still = { s.still with requests := q }
           ∧ (x.bay b).dyn = { (s.bay b).dyn with staged := none } ∧ (x.bay b).timer.displacement = none
           ∧ (∀ c, c ≠ b → (x.bay c).dyn = (s.bay c).dyn) ∧ x.waitHolds = []
           ∧ x.index = s.index.filter (fun i => i.ticket ≠ t)
           ∧ s.Answers x r Kind.answer (s.answerBytes r t 0 (b.val + 1) 2 0 h)
           ∧ (r.src ≠ 0 → a ≠ 0 → s.uplink.fifo.length + 2 ≤ 32 →
               x.recorder = s.recorder
               ∧ x.uplink.fifo = s.uplink.fifo ++
                   [s.answerTo r Kind.answer (s.answerBytes r t 0 (b.val + 1) 2 0 h),
                    s.noticeAt 0 a Kind.holdNotice (s.summaryBytes 6 t (b.val + 1) 2 h.bare)]))

/-- The end of an active hold at a FREE of its ticket or a FORCE-END (R22, R24, R25, R49, R156): the answer first, then
HOLD-NOTICE ENDED to its requester with the end reason, window, arrival time and counters, then BAY-NOTICE HOLD-ENDED
with that reason; its index entry and its deadlines go. Without a staged hold the bay is derived: UNBOOKED where it is
occupied and FREE otherwise; a closing one is CLOSED; a FAULTED one stays FAULTED, and nothing is scanned; one stored
CLOSED, which only a storage fault leaves with a hold, stays CLOSED by inference (log 28). A staged hold is promoted with
its index entry, takes the deadline of an active hold (R61, R62), and the bay is derived with it: HELD while not occupied, CONTESTED where the class
verifies and it has not been seen, and otherwise its arrival is captured and step 3 of the derivation gives the state
(R7). A bay left FREE serves the scan (R39): a waiting entry of its class takes it, GRANTED with the stored window, and
BAY-NOTICE PLACED follows. A walk-in hold ends FORCED without a HOLD-NOTICE. A FORCE-END of an empty active slot, or
that names another ticket, is refused BAD-INDEX. A summary's grace end 0 (log 13) and the order of the notices (log 12)
are read by inference. -/
def Obligations.ActiveHoldEnds : Prop :=
  (∀ (s : State) (b : BayIx) (h : Hold) (t : Ticket) (a : Addr) (c : Instr) (reason : Nat) (answer : Frame)
      (after : Still),
    s.heldInReset = false → s.EndsActive b h t a c reason answer after → (s.bay b).dyn.active = some h →
    h.ticket = some t → h.requester = some a → a ≠ 0 → (∀ e, (s.bay e).checkOk = true) →
    let d := (s.bay b).dyn
    let ended := s.noticeAt 0 a Kind.holdNotice (s.summaryBytes 6 t (b.val + 1) reason h)
    let check := (s.bay b).timer.displacement
    let becomes := fun (d' : BayDyn) (waits : List WaitEntry) (fs : List Frame) (more : State → Prop) =>
      ∃ x, exec c s = .next x ∧ x.still = after ∧ (x.bay b).dyn = d'
        ∧ (∀ e, e ≠ b → (x.bay e).dyn = (s.bay e).dyn ∧ s.AwaitsAs x e) ∧ x.WaitsWith waits ∧ x.lookup t = none
        ∧ s.Sends x [answer, ended]
        ∧ (s.controller.noticeDest ≠ 0 → s.Sends x (answer :: ended :: fs)) ∧ more x
    let told := fun (st : BayState) => s.bayNoticeAt 1 b d.state st 4 reason 0
    let gone := fun (x : State) => x.index = s.index.filter (fun i => i.ticket ≠ t) ∧ x.Awaits b none none check
    let vacated : BayState := if d.occupancy = .occupied then .unbooked else .free
    (d.state ≠ .closed → d.state ≠ .faulted → d.staged = none → d.closeMode = .none → s.waitlist = [] →
      becomes { d with active := none, state := vacated } [] [told vacated] gone)
    ∧ (d.state ≠ .closed → d.state ≠ .faulted → d.staged = none → d.closeMode = .closingAtEnd →
        becomes { d with active := none, state := .closed, closeMode := .none } s.waitlist [told .closed] gone)
    ∧ (d.state = .faulted → d.staged = none →
        becomes { d with active := none } s.waitlist [told .faulted] gone)
    ∧ (d.state = .closed → d.staged = none → d.closeMode = .none → s.waitlist = [] →
        becomes { d with active := none } [] [told .closed] gone)
    ∧ (∀ n u e, d.state = .faulted → d.staged = some n → n.ticket = some u → n.requester = some e → n.arrival = none →
        u ≠ t → s.lookup u = some ⟨u, e, .staged b⟩ →
        becomes { d with active := some n, staged := none } s.waitlist [told .faulted] (fun x =>
          x.lookup u = some ⟨u, e, .active b⟩ ∧ x.Awaits b (some ⟨some u, n.graceEnd⟩) none none))
    ∧ (∀ n u e, d.state ≠ .closed → d.state ≠ .faulted → d.staged = some n → n.ticket = some u →
        n.requester = some e → n.arrival = none → u ≠ t → s.lookup u = some ⟨u, e, .staged b⟩ → s.waitlist = [] →
        s.allocator.settings.minimum ≤ (s.bay b).postMax →
        let verify := (s.classOf (s.bay b).cls).verify
        let third :=
          if atOrAfter s.now (n.windowEnd + BitVec.ofNat 32 (s.timing.overstay * 60)) then BayState.overstay
          else if d.connector = .finished ∨ (∃ w, n.energyWanted = some w ∧ w ≤ n.energyDelivered) then .done
          else if d.connector = .plugged ∨ d.connector = .charging then .charging
          else .arrived
        let promoted := fun (n' : Hold) (st : BayState) =>
          becomes { d with active := some n', staged := none, state := st } [] [told st] (fun x =>
            x.lookup u = some ⟨u, e, .active b⟩
              ∧ x.Awaits b (if n'.arrival = none then some ⟨some u, n.graceEnd⟩ else none)
                  (if n'.arrival = none then none else some (s.overstayAt n)) none)
        (d.occupancy ≠ .occupied → promoted n .held)
        ∧ (d.occupancy = .occupied → verify = true → n.entrySeen = false → promoted n .contested)
        ∧ (d.occupancy = .occupied → verify = false ∨ n.entrySeen = true →
            promoted { n with arrival := some s.now } third))
    ∧ (∀ w u e, d.state ≠ .closed → d.state ≠ .faulted → d.staged = none → d.closeMode = .none → d.suspect = false →
        d.occupancy ≠ .occupied → (∀ f, f ≠ b → (s.bay f).searchable = false) → s.waitlist = [w] →
        w.classWanted = (s.bay b).cls → w.hold.ticket = some u → w.hold.requester = some e → e ≠ 0 →
        w.hold.arrival = none → u ≠ t → s.lookup u = some ⟨u, e, .waitlist⟩ → s.controller.noticeDest ≠ 0 →
        becomes { d with active := some w.hold, state := .held } []
          [told .free,
           s.noticeAt 2 e Kind.holdNotice ([0] ++ be32w u ++ [byteOf (b.val + 1), 1, 0, 0, 0] ++ s.windowBytes w.hold
             ++ List.replicate 16 0),
           s.bayNoticeAt 3 b .free .held 3 0 0]
          (fun x => x.lookup u = some ⟨u, e, .active b⟩ ∧ x.Awaits b (some ⟨some u, w.hold.graceEnd⟩) none check)))
  ∧ (∀ (s : State) (r : Request) (q : List Request) (b : BayIx) (w x y z : Byte), s.heldInReset = false →
      s.management = r :: q → r.kind = Kind.control → r.payload = [4, byteOf (b.val + 1), 1, w, x, y, z] →
      let d := (s.bay b).dyn
      let named : Ticket := w ++ x ++ y ++ z
      (d.active = none ∨ named ≠ 0 ∧ (∃ h, d.active = some h ∧ h.ticket ≠ some named) →
        exec .forceEnd s = .next ({ s with management := q }.sendStatus r .badIndex []).deliverDue.arbitrate)
      ∧ (∀ h, d.active = some h → h.ticket = none → named = 0 → d.state ≠ .closed → d.state ≠ .faulted →
          d.staged = none → d.closeMode = .none → s.waitlist = [] → (∀ e, (s.bay e).checkOk = true) →
          let vacated : BayState := if d.occupancy = .occupied then .unbooked else .free
          ∃ t, exec .forceEnd s = .next t ∧ t.still = { s.still with management := q }
            ∧ (t.bay b).dyn = { d with active := none, state := vacated }
            ∧ (∀ e, e ≠ b → (t.bay e).dyn = (s.bay e).dyn ∧ s.AwaitsAs t e) ∧ t.index = s.index
            ∧ t.Awaits b none none (s.bay b).timer.displacement
            ∧ s.Answers t r Kind.mgmtAnswer [r.kind, 0]
            ∧ (r.src ≠ 0 → s.controller.noticeDest ≠ 0 →
                s.Sends t [s.answerTo r Kind.mgmtAnswer [r.kind, 0], s.bayNoticeAt 0 b d.state vacated 4 4 0])))

/-- A QUERY is answered with HOLD-STATE from the state as it stands, and nothing else changes (R50). By bay: the bay's
state, occupancy and connector, for the active hold its ticket or the walk-in marker, its window and whether it is
arrived, for the staged hold its ticket and window, an empty slot shown as absent; for a bay of 0 or above 128 two bytes,
whose bay byte, the number asked for, is the model's choice (log 33). By ticket: of an active or staged hold its
location, bay and state and its record; of a waitlist entry its position, counted from 1 at the head, and its record; of
an EARLY ticket its recorded time; of any other, ticket 0 included, location NONE. -/
def Obligations.Query : Prop :=
  ∀ (s : State) (r : Request) (q : List Request), s.heldInReset = false → s.requests = r :: q →
    r.kind = Kind.query →
    let answered := fun (p : List Byte) =>
      (.next ({ s with requests := q }.sendAnswer r Kind.holdState p).deliverDue.arbitrate : Result)
    let site := fun (v : Time) => be32w (v + s.siteOffset)
    let slot := fun (x : Option Hold) => match x with
      | none => List.replicate 12 (0 : Byte)
      | some h => be32w (match h.ticket with | some t => t | none => 0) ++ site h.windowStart ++ site h.windowEnd
    let record := fun (t : Ticket) (location bay state position : Nat) (h : Hold) =>
      [0] ++ be32w t ++ [byteOf location, byteOf bay, byteOf state, byteOf position, byteOf h.priority.val,
          byteOf ((if h.entrySeen then 1 else 0) + (if h.arrival = none then 0 else 2))]
        ++ site h.windowStart ++ site h.windowEnd ++ site h.graceEnd
        ++ (match h.arrival with | some a => site a | none => [0, 0, 0, 0])
        ++ be32 h.occupiedSeconds ++ be32 h.chargedSeconds ++ be32 h.energyDelivered
    (∀ (b : BayIx), byteAt r.payload 0 = 1 → byteAt r.payload 5 = b.val + 1 →
        let d := (s.bay b).dyn
        exec .query s = answered ([1, byteOf (b.val + 1), byteOf d.state.code, byteOf d.occupancy.code,
            byteOf d.connector.code,
            byteOf (match d.active with
              | none => 0
              | some h => 1 + (if h.ticket = none then 2 else 0) + (if h.arrival = none then 0 else 4))]
          ++ slot d.active ++ slot d.staged))
    ∧ (byteAt r.payload 0 = 1 → byteAt r.payload 5 = 0 ∨ 128 < byteAt r.payload 5 →
        exec .query s = answered [1, byteOf (byteAt r.payload 5)])
    ∧ (∀ t, byteAt r.payload 0 = 0 → ticketField r.payload 1 = t →
        (t = 0 → exec .query s = answered [0, 0, 0, 0, 0, 0])
        ∧ (t ≠ 0 →
          (∀ a b h, s.lookup t = some ⟨t, a, .active b⟩ → (s.bay b).dyn.active = some h →
            exec .query s = answered (record t 1 (b.val + 1) (s.bay b).dyn.state.code 0 h))
          ∧ (∀ a b h, s.lookup t = some ⟨t, a, .staged b⟩ → (s.bay b).dyn.staged = some h →
            exec .query s = answered (record t 2 (b.val + 1) (s.bay b).dyn.state.code 0 h))
          ∧ (∀ a l e l', s.lookup t = some ⟨t, a, .waitlist⟩ → s.waitlist = l ++ e :: l' →
              (∀ f ∈ l, f.hold.ticket ≠ some t) → e.hold.ticket = some t →
            exec .query s = answered (record t 3 0 0 (l.length + 1) e.hold))
          ∧ (s.lookup t = none →
            (∀ e, s.early.find? (fun e => e.ticket == t) = some e →
              exec .query s = answered ([0] ++ be32w t ++ [4, 0, 0, 0, 0, 0] ++ site e.recorded ++ List.replicate 24 0))
            ∧ (s.early.find? (fun e => e.ticket == t) = none → exec .query s = answered ([0] ++ be32w t ++ [0])))))

/-- An ARRIVE is refused without the ARRIVE permission, and BAD-TICKET for ticket 0 (R46). For a ticket in no hold (R46,
R47) it stands at the newest end of the Early Arrival List with the time now and its deadline 600 seconds later (R65), once
only, the oldest of 8 leaving to make room. For the ticket of an active, staged or waiting hold entry seen is set, nothing else changes, and HOLD-STATE shows
the hold (R46). At a CONTESTED bay the seen hold is relocated (R45): to the bay that the search in class order finds
(R34), in the active slot of a FREE bay, which becomes HELD with it, or staged, the bay it leaves UNBOOKED or FREE, told
by HOLD-NOTICE RELOCATED and a BAY-NOTICE of each bay that changes, its deadlines moving with it (R61, R63); where none
fits it stays, and BAY-NOTICE HOLDER-WAITING follows the answer. The order of the notices (log 12) and the fields of
RELOCATED (log 13) are read by inference. -/
def Obligations.Arrive : Prop :=
  ∀ (s : State) (r : Request) (q : List Request), s.heldInReset = false → s.requests = r :: q →
    r.kind = Kind.arrive →
    let t := ticketField r.payload 0
    let refused := fun (reason : Nat) =>
      (.next ({ s with requests := q }.sendAnswer r Kind.answer
        ([r.kind] ++ be32w t ++ [2, byteOf reason, 0, 0, 0] ++ List.replicate 12 0)).deliverDue.arbitrate : Result)
    let seen := fun (h : Hold) => { h with entrySeen := true }
    let left := { s.still with requests := q }
    ((s.node r.src).permissions.arrive = false → exec .arrive s = refused 1)
    ∧ ((s.node r.src).permissions.arrive = true → t = 0 → exec .arrive s = refused 2)
    ∧ ((s.node r.src).permissions.arrive = true → t ≠ 0 →
      (s.lookup t = none → s.early.length ≤ 8 →
        ∃ x, exec .arrive s = .next x
          ∧ x.still = { s.still with
              requests := q,
              early := (if s.early.any (fun e => e.ticket == t) ∨ s.early.length < 8 then
                  s.still.early.filter (fun e => e.1 ≠ t)
                else s.still.early.tail) ++ [(t, s.now)] }
          ∧ x.early = ((if s.early.any (fun e => e.ticket == t) ∨ s.early.length < 8 then
                s.early.filter (fun e => e.ticket ≠ t) else s.early.tail)
              ++ [(⟨t, s.now, some (s.now + 600)⟩ : EarlyEntry)]).map (fun e =>
                { e with deadline := e.deadline.filter (fun v => !atOrAfter s.now v) })
          ∧ x.dyns = s.dyns ∧ x.index = s.index ∧ x.waitHolds = s.waitHolds
          ∧ s.Answers x r Kind.holdState
              ([0] ++ be32w t ++ [4, 0, 0, 0, 0, 0] ++ be32w (s.now + s.siteOffset) ++ List.replicate 24 0))
      ∧ (∀ a b h, s.lookup t = some ⟨t, a, .active b⟩ → (s.bay b).dyn.active = some h →
          (s.bay b).dyn.state ≠ .contested →
          ∃ x, exec .arrive s = .next x ∧ x.still = left
            ∧ (x.bay b).dyn = { (s.bay b).dyn with active := some (seen h) }
            ∧ (∀ e, e ≠ b → (x.bay e).dyn = (s.bay e).dyn) ∧ x.index = s.index ∧ x.waitHolds = s.waitHolds
            ∧ s.Answers x r Kind.holdState
                (s.holdStateBytes t 1 (b.val + 1) (s.bay b).dyn.state.code 0 (seen h)))
      ∧ (∀ a b h, s.lookup t = some ⟨t, a, .staged b⟩ → (s.bay b).dyn.staged = some h →
          ∃ x, exec .arrive s = .next x ∧ x.still = left
            ∧ (x.bay b).dyn = { (s.bay b).dyn with staged := some (seen h) }
            ∧ (∀ e, e ≠ b → (x.bay e).dyn = (s.bay e).dyn) ∧ x.index = s.index ∧ x.waitHolds = s.waitHolds
            ∧ s.Answers x r Kind.holdState
                (s.holdStateBytes t 2 (b.val + 1) (s.bay b).dyn.state.code 0 (seen h)))
      ∧ (∀ a e, s.lookup t = some ⟨t, a, .waitlist⟩ → s.waiting t = some e →
          ∃ x, exec .arrive s = .next x ∧ x.still = left ∧ x.dyns = s.dyns ∧ x.index = s.index
            ∧ x.waitHolds = s.waitHolds.map (fun h => if h.ticket = some t then seen h else h)
            ∧ s.Answers x r Kind.holdState
                (s.holdStateBytes t 3 0 0 (waitPosition s.waitlist (some t)) (seen e.hold)))
      ∧ (∀ a b h, s.lookup t = some ⟨t, a, .active b⟩ → (s.bay b).dyn.active = some h →
          (s.bay b).dyn.state = .contested →
          (s.FindsNone (s.bay b).cls (some b) h.windowStart →
            ∃ x, exec .arrive s = .next x ∧ x.still = left
              ∧ (x.bay b).dyn = { (s.bay b).dyn with active := some (seen h) }
              ∧ (∀ e, e ≠ b → (x.bay e).dyn = (s.bay e).dyn) ∧ x.index = s.index ∧ x.waitHolds = s.waitHolds
              ∧ s.Answers x r Kind.holdState (s.holdStateBytes t 1 (b.val + 1) 4 0 (seen h))
              ∧ (r.src ≠ 0 → s.controller.noticeDest ≠ 0 →
                  s.Sends x [s.answerTo r Kind.holdState (s.holdStateBytes t 1 (b.val + 1) 4 0 (seen h)),
                    s.bayNoticeAt 0 b .contested .contested 8 0 0]))
          ∧ (∀ (d : BayIx) (sl : Slot), s.Finds (s.bay b).cls (some b) h.windowStart d sl →
              (s.bay b).dyn.closeMode = .none → (s.bay b).dyn.staged = none → (∀ e, (s.bay e).checkOk = true) → s.waitlist = [] →
              h.ticket = some t → h.requester = some a →
              let vacated : BayState := if (s.bay b).dyn.occupancy = .occupied then .unbooked else .free
              let after : BayState := match sl with | .active => .held | .staged => (s.bay d).dyn.state
              let told := [s.answerTo r Kind.holdState
                  (s.holdStateBytes t sl.code (d.val + 1) after.code 0 (seen h)),
                s.noticeAt 0 a Kind.holdNotice (movedBytes 1 t (d.val + 1) sl.code 0),
                s.bayNoticeAt 1 b .contested vacated 4 5 0]
              ∃ x, exec .arrive s = .next x ∧ x.still = left
                ∧ (x.bay b).dyn = { (s.bay b).dyn with active := none, state := vacated }
                ∧ x.Awaits b none none (s.bay b).timer.displacement
                ∧ (x.bay d).dyn = (match sl with
                    | .active => { (s.bay d).dyn with active := some (seen h), state := .held }
                    | .staged => { (s.bay d).dyn with staged := some (seen h) })
                ∧ (match sl with
                    | .active => x.Awaits d (if h.arrival = none then some ⟨some t, h.graceEnd⟩ else none)
                        (if h.arrival = none then none else some (s.overstayAt h)) (s.bay d).timer.displacement
                    | .staged => x.Awaits d (s.bay d).timer.noShow (s.bay d).timer.overstay (some (s.checkAt h)))
                ∧ (∀ e, e ≠ b → e ≠ d → (x.bay e).dyn = (s.bay e).dyn ∧ s.AwaitsAs x e) ∧ x.waitHolds = []
                ∧ x.lookup t = some ⟨t, a, match sl with | .active => .active d | .staged => .staged d⟩
                ∧ x.cursors = s.cursors.set (s.bay d).cls.ix (d + 1)
                ∧ s.Answers x r Kind.holdState (s.holdStateBytes t sl.code (d.val + 1) after.code 0 (seen h))
                ∧ (r.src ≠ 0 → a ≠ 0 → s.controller.noticeDest ≠ 0 →
                    s.Sends x (match sl with
                      | .active => told ++ [s.bayNoticeAt 2 d .free .held 3 0 0]
                      | .staged => told)))))

/-! ## Management: tables -/

/-- Management requests refused with nothing changed. A SET-TABLE that names no writable table and a CONTROL that
names no operation, BAD-TABLE, a SET-TABLE of one byte BAD-INDEX (R173, R178; log 16); a SET-TABLE whose entry run is
empty or not a whole number of entries, whose start is outside the table's indexes or whose last entry lies beyond
the last index, BAD-INDEX (R173); an operation that names a bay outside 1 to 128, BAD-INDEX (R148, R153 to R157,
R169). -/
def Obligations.ManagementRefusals : Prop :=
  (∀ (s : State) (r : Request) (q : List Request), s.heldInReset = false → s.management = r :: q →
       let refused := fun (st : Status) =>
         (.next ({ s with management := q }.sendStatus r st []).deliverDue.arbitrate : Result)
       (r.kind = Kind.setTable → r.payload = [] ∨ byteAt r.payload 0 = 0 ∨ 8 < byteAt r.payload 0 →
           exec .setTable s = refused (if r.payload.length = 1 then .badIndex else .badTable))
       ∧ (r.kind = Kind.control → r.payload = [] ∨ byteAt r.payload 0 = 0 ∨ 12 < byteAt r.payload 0 →
           exec .control s = refused .badTable))
    ∧ (∀ (s : State) (r : Request) (q : List Request) (c : Instr) (id size first last : Nat), s.heldInReset = false →
         s.management = r :: q → r.kind = Kind.setTable →
         (c, id, size, first, last) ∈ [(Instr.nodeMap, 1, 3, 0, 255), (.kindFilter, 2, 2, 0, 255), (.classTable, 3, 9, 0, 3),
           (.bayConfiguration, 4, 4, 1, 128), (.allocatorSettings, 5, 14, 0, 0), (.timingSettings, 6, 9, 0, 0),
           (.faultSettings, 7, 23, 0, 0), (.controllerSettings, 8, 3, 0, 0)] →
         r.payload ≠ [] → byteAt r.payload 0 = id →
         let start := byteAt r.payload 1
         let bytes := r.payload.length - 2
         (bytes = 0 ∨ bytes % size ≠ 0 ∨ start < first ∨ last < start ∨ last < start + bytes / size - 1) →
         exec c s = .next ({ s with management := q }.sendStatus r .badIndex []).deliverDue.arbitrate)
    ∧ (∀ (s : State) (r : Request) (q : List Request) (c : Instr) (code : Nat), s.heldInReset = false →
         s.management = r :: q → r.kind = Kind.control → r.payload ≠ [] → byteAt r.payload 0 = code →
         (c, code) ∈ [(Instr.openBay, 1), (.closeNow, 2), (.closeAtEnd, 3), (.forceEnd, 4), (.setEnable, 5), (.scrub, 11)] →
         byteAt r.payload 1 = 0 ∨ 128 < byteAt r.payload 1 →
         exec c s = .next ({ s with management := q }.sendStatus r .badIndex []).deliverDue.arbitrate)

/-- A Node Map write that makes an UNUSED address the post of a CLOSED bay stores the entry with a fresh contact record
and begins the bay's delivery record again, and one that makes it the sensor stores the entry alone; that the bay keeps
connector, occupancy and debounce fields of an earlier node is read by inference (log 24). At a bay that is not CLOSED
the post is refused BAY-IN-USE. A post removed leaves the delivery record NONE, and a transaction to it has lost its
DEST (R116 to R118, R129). A REQUESTER stores HOLD, FREE-ANY and ARRIVE, a SERVER all five permissions, CLAMPED where
another was asked for (R116). In a frame of several entries each is checked against what the earlier ones leave: a post
removed frees its bay for the next entry, and the other order is refused BAD-INDEX with nothing written (R117, R173). A
Kind Filter write (R121) is stored as written, but that ALLOT and POLL store DROP whatever is written and an action that
names none stores DROP; CLAMPED exactly when the action stored is not the one written; two entries of one frame are both
stored. A change of the own address to an UNUSED entry moves the SELF entry, and the answer carries the new address as
its SRC; to 0x00, 0xFF or an entry in use it is refused BAD-INDEX and nothing changes (R119, R176). -/
def Obligations.MapAndFilterWrites : Prop :=
  (∀ (s : State) (r : Request) (q : List Request) (a : Addr) (b : BayIx), s.heldInReset = false →
       s.management = r :: q → r.kind = Kind.setTable →
       let s' := { s with management := q }
       let refused := fun (st : Status) => (.next (s'.sendStatus r st []).deliverDue.arbitrate : Result)
       let node := fun (role : Role) => (⟨role, Permissions.none, some b, some ⟨true, 0, s.now, s.now⟩⟩ : NodeEntry)
       let fresh := fun (d : Delivery) => (⟨d.target, none, none, 0, d.sequence, false, 0, false, .unknown⟩ : Delivery)
       let absent := fun (d : Delivery) => (⟨0, some 0, none, 0, d.sequence, false, 0, false, .none⟩ : Delivery)
       let lost := s.scheduler.transaction.map (fun x => if x.frame.dest = a then { x with destLost := true } else x)
       (r.payload = [1, a, 2, 0, byteOf (b.val + 1)] → a ≠ 0 → a ≠ 0xFF →
         s.node a = NodeEntry.unused → s.post b = none →
         ((s.bay b).dyn.state = .closed →
           exec .nodeMap s = .next ((State.modDelivery { s' with nodes := s.nodes.set a.toFin (node .post) } b
             fresh).sendStatus r .ok []).deliverDue.arbitrate)
         ∧ ((s.bay b).dyn.state ≠ .closed → exec .nodeMap s = refused .bayInUse))
       ∧ (r.payload = [1, a, 3, 0, byteOf (b.val + 1)] → a ≠ 0 → a ≠ 0xFF →
           s.node a = NodeEntry.unused → s.sensor b = none → (s.bay b).dyn.state = .closed →
           exec .nodeMap s = .next (State.sendStatus { s' with nodes := s.nodes.set a.toFin (node .sensor) } r .ok
             []).deliverDue.arbitrate)
       ∧ (∀ role p c, r.payload = [1, a, 0, 0, 0] → s.node a = ⟨role, p, some b, some c⟩ →
           role = .post ∨ role = .sensor → (s.bay b).dyn.state = .closed →
           exec .nodeMap s = .next ((State.modDelivery
             (State.setTransaction { s' with nodes := s.nodes.set a.toFin NodeEntry.unused } lost) b
             (fun d => if role = .post then absent d else d)).sendStatus r .ok []).deliverDue.arbitrate)
       ∧ (∀ p c, r.payload = [1, a, 0, 0, 0, 2, 0, byteOf (b.val + 1)] → a.toNat < 254 →
           s.node a = ⟨.post, p, some b, some c⟩ → s.node (a + 1) = NodeEntry.unused →
           (∀ e, (s.node e).role = .post → (s.node e).bay = some b → e = a) → (s.bay b).dyn.state = .closed →
           exec .nodeMap s = .next ((State.modDelivery
             (State.setTransaction
               { s' with nodes := (s.nodes.set a.toFin NodeEntry.unused).set (a + 1).toFin (node .post) } lost) b
             (fun d => ⟨0, none, none, 0, d.sequence, false, 0, false, .unknown⟩)).sendStatus r .ok
               []).deliverDue.arbitrate)
       ∧ (∀ p c, r.payload = [1, a, 2, 0, byteOf (b.val + 1), 0, 0, 0] → a.toNat < 255 → s.node a = NodeEntry.unused →
           s.node (a + 1) = ⟨.post, p, some b, some c⟩ → exec .nodeMap s = refused .badIndex)
       ∧ (∀ role p x, r.payload = [1, a, byteOf (Role.code role), p, x] → role = .requester ∨ role = .server →
           (s.node a).role = .unused ∨ (s.node a).role = .requester ∨ (s.node a).role = .server →
           let all := decide (role = .server)
           let entry : NodeEntry :=
             ⟨role, ⟨p.getLsbD 0, p.getLsbD 1, p.getLsbD 2, all && p.getLsbD 3, all && p.getLsbD 4⟩, none,
               (s.node a).contact⟩
           exec .nodeMap s = .next (State.sendStatus { s' with nodes := s.nodes.set a.toFin entry }
             r (if (p.getLsbD 3 ∨ p.getLsbD 4) ∧ role ≠ .server then .clamped else .ok) []).deliverDue.arbitrate))
    ∧ (∀ (s : State) (r : Request) (q : List Request) (k act flags : Byte), s.heldInReset = false →
         s.management = r :: q → r.kind = Kind.setTable →
         let stored := fun (k act : Byte) => (
           if k = 0x38 ∨ k = 0x39 then .drop
           else if act = 0 then .forward else if act = 1 then .claim else if act = 2 then .claimForward else .drop
           : UplinkAction)
         let entry := fun (k act flags : Byte) => (⟨stored k act, flags.getLsbD 0, flags.getLsbD 1⟩ : KindEntry)
         (r.payload = [2, k, act, flags] →
           exec .kindFilter s
             = .next ({ s with management := q, kinds := s.kinds.set k.toFin (entry k act flags) }.sendStatus r
                   (if act.toNat = (stored k act).code then .ok else .clamped) []).deliverDue.arbitrate)
         ∧ (∀ act' flags', r.payload = [2, k, act, flags, act', flags'] → k.toNat < 255 →
             exec .kindFilter s
               = .next ({ s with
                   management := q,
                   kinds := (s.kinds.set k.toFin (entry k act flags)).set (k + 1).toFin (entry (k + 1) act' flags')
                     }.sendStatus r
                     (if act.toNat = (stored k act).code ∧ act'.toNat = (stored (k + 1) act').code then .ok
                       else .clamped) []).deliverDue.arbitrate))
    ∧ (∀ (s : State) (r : Request) (q : List Request) (own dest : Addr), s.heldInReset = false →
         s.management = r :: q → r.kind = Kind.setTable → r.payload = [8, 0, own, dest, 0] → own ≠ s.controller.own →
         let self : NodeEntry := ⟨.self, Permissions.none, none, none⟩
         let moved := (s.nodes.set s.controller.own.toFin NodeEntry.unused).set own.toFin self
         (own ≠ 0 → own ≠ 0xFF → (s.node own).role = .unused →
           exec .controllerSettings s = .next (State.sendStatus
             { s with management := q, controller := ⟨own, dest, .boundary⟩, nodes := moved } r .ok []).deliverDue.arbitrate)
         ∧ (own = 0 ∨ own = 0xFF ∨ (s.node own).role ≠ .unused →
           exec .controllerSettings s
             = .next ({ s with management := q }.sendStatus r .badIndex []).deliverDue.arbitrate))

/-- Writes that are stored and act without a recompute (R57, R67, R142, R143, R160, R163, R165, R176). The Timing
Settings, each value clamped into its range, are stored: the overstay deadline of every arrived active hold and the
displacement check of every staged hold are formed again from the new values, set afresh also where they had passed (log
20), every downlink node is due after the new poll interval, and a post that is link-lost by the new limit, its bay not
IN-FLIGHT and not lost already, has its delivery record brought to rest. The Fault Settings are stored, with ALERT
re-evaluated and logs and counts kept, behind the answer, so that an error of this event goes by the old ones (R160); the Controller Settings with the own address as it stands; SET-TIME is answered with the
count and the new site time; CLEAR-COUNTER. CLAMPED where a value was stored other than as written, OK otherwise. -/
def Obligations.SettingsWrites : Prop :=
  ∀ (s : State) (r : Request) (q : List Request) (e : List Byte), s.heldInReset = false →
    s.management = r :: q →
    let s' := { s with management := q }
    (r.kind = Kind.setTable → e.length = 9 → r.payload = 6 :: 0 :: e →
      let t : TimingSettings := ⟨clamp 2 50 (byteAt e 0), clamp 1 60 (byteAt e 1), clamp 1 7 (byteAt e 2),
        clamp 10 300 (field16 e 3), clamp 1 7 (byteAt e 5), clamp 0 60 (byteAt e 6), clamp 0 30 (byteAt e 7),
        clamp 0 30 (byteAt e 8)⟩
      let w := s'.writeTiming t
      let lost := fun (b : BayIx) => State.linkLostNow { s with timing := t } b = true
        ∧ (s.bay b).delivery.linkLost = false ∧ (s.bay b).delivery.state ≠ .inFlight
      exec .timingSettings s = .next (w.sendStatus r (if timingRow t = e then .ok else .clamped) []).deliverDue.arbitrate
        ∧ w.timing = t ∧ w.still = { s.still with management := q, timing := t, nodes := w.nodes }
        ∧ (∀ a, w.node a = { s.node a with contact := (s.node a).contact.map (fun c =>
            { c with due := s.now + BitVec.ofNat 32 t.pollInterval }) })
        ∧ (∀ b h, (s.bay b).dyn.active = some h → h.arrival ≠ none →
            (w.bay b).timer.overstay = some ⟨h.ticket, h.windowEnd + BitVec.ofNat 32 (t.overstay * 60)⟩)
        ∧ (∀ b h, (s.bay b).dyn.staged = some h →
            (w.bay b).timer.displacement = some ⟨h.ticket, h.windowStart - BitVec.ofNat 32 (t.lead * 60)⟩)
        ∧ (∀ b, let d := (s.bay b).delivery
            (lost b → (w.bay b).delivery = ⟨d.target, some 0, none, 0, d.sequence, false, 0, true,
              if d.target = 0 then .settled else .pending⟩)
            ∧ (¬ lost b → (w.bay b).delivery = d)))
    ∧ (r.kind = Kind.setTable → e.length = 23 → r.payload = 7 :: 0 :: e →
      let clamped : Bool := (List.range 16).any (fun k => byteAt e k % 4 = 3)
        || [16, 17, 18].any (fun k => 2 < byteAt e k)
      ∃ f : FaultSettings,
        (∀ k : Fin 16, f.kinds.get k = ⟨(e.getD k.val 0).getLsbD 2,
            if byteAt e k.val % 4 = 0 then 0 else if byteAt e k.val % 4 = 1 then 1 else 2⟩)
        ∧ (∀ v : Fin 3, f.actions.get v =
            if byteAt e (16 + v.val) = 0 then .none
            else if byteAt e (16 + v.val) = 1 then .notice else .noticeAndLine)
        ∧ (∀ c : Fin 2, (f.selections.get c).toNat = field16 e (19 + 2 * c.val))
        ∧ (let answered := s'.sendStatus r (if clamped then .clamped else .ok) []
           let w := answered.writeFaultSettings f
           exec .faultSettings s = .next w.deliverDue.arbitrate ∧ w.recorder.settings = f ∧ w.AlertRight
             ∧ w.recorder.counters = answered.recorder.counters ∧ w.recorder.logs = answered.recorder.logs
             ∧ w.uplink = answered.uplink ∧ w.noticeTag = answered.noticeTag))
    ∧ (∀ dest mode, r.kind = Kind.setTable → r.payload = [8, 0, s.controller.own, dest, mode] →
      exec .controllerSettings s = .next (State.sendStatus { s' with
          controller := ⟨s.controller.own, dest, if mode = 1 then .immediate else .boundary⟩ } r
          (if 1 < mode.toNat then .clamped else .ok) []).deliverDue.arbitrate)
    ∧ (∀ a b c d, r.kind = Kind.control → r.payload = [8, a, b, c, d] →
      let v : Time := a ++ b ++ c ++ d
      exec .setTime s = .next (State.sendStatus { s' with siteOffset := v } r .ok
        (be32w s.now ++ be32w (s.now + v))).deliverDue.arbitrate)
    ∧ (∀ (c : Fin 2), r.kind = Kind.control → r.payload = [10, byteOf c.val] →
      let cleared : Recorder := { s.recorder with counters := s.recorder.counters.set c ⟨0, false⟩ }
      exec .clearCounter s
        = .next (State.sendStatus { s' with recorder := cleared } r .ok []).deliverDue.arbitrate)
    ∧ (∀ x : Byte, r.kind = Kind.control → r.payload = [10, x] → 1 < x.toNat →
      exec .clearCounter s = .next (s'.sendStatus r .badIndex []).deliverDue.arbitrate)

/-- Writes that end their event with a recompute (R76, R77, R85, R95, R174): a Class Table entry, the Allocator
Settings and SET-CAP are stored with each value clamped into its range, and whatever the state the targets then fit
the budget now in force; each is answered first, CLAMPED exactly where a value was stored other than as written. A write
that raises M above the post maximum of one CHARGING bay logs CONFIG-MISMATCH with that bay, which leaves the Charge
Queue; one that raises it above none logs nothing (R79). -/
def Obligations.RecomputingWrites : Prop :=
  ∀ (s : State) (r : Request) (q : List Request) (e : List Byte), s.heldInReset = false → s.management = r :: q →
    (∀ c : BayClass, r.kind = Kind.setTable → e.length = 9 → r.payload = 3 :: byteOf c.ix.val :: e →
      let given := [byteAt e 0, field16 e 3, byteAt e 5]
      let kept := [clamp 1 15 (byteAt e 0), clamp 30 480 (field16 e 3), clamp 1 60 (byteAt e 5)]
      let asWritten : Bool := kept == given && byteAt e 1 ≤ 1
        && [6, 7, 8].all (fun k => byteAt e k ≤ 3 || byteAt e k == 255)
      let entry : ClassEntry :=
        ⟨clamp 1 15 (byteAt e 0), if byteAt e 1 = 1 then .holdToEnd else .rotate, (e.getD 2 0).getLsbD 0,
          (e.getD 2 0).getLsbD 1, clamp 30 480 (field16 e 3), clamp 1 60 (byteAt e 5),
          ⟨[BayClass.ofNat? (byteAt e 6), BayClass.ofNat? (byteAt e 7), BayClass.ofNat? (byteAt e 8)], rfl⟩⟩
      ∃ t, exec .classTable s = .next t ∧ t.WithinBudget
        ∧ t.still = { s.still with management := q, classes := s.classes.set c.ix entry }
        ∧ s.Answers t r Kind.mgmtAnswer [r.kind, if asWritten then 0 else 1])
    ∧ (r.kind = Kind.setTable → e.length = 14 → r.payload = 5 :: 0 :: e →
      let given := [field16 e 0, field16 e 2, byteAt e 4, byteAt e 5, byteAt e 6, byteAt e 7, byteAt e 8, byteAt e 9]
      let a : AllocatorSettings :=
        ⟨clamp 0 20000 (field16 e 0), clamp 0 2000 (field16 e 2), s.allocator.settings.cap,
          clamp 60 160 (byteAt e 4), clamp 1 10 (byteAt e 5), clamp 10 100 (byteAt e 6), clamp 10 100 (byteAt e 7),
          clamp 10 50 (byteAt e 8), clamp 5 60 (byteAt e 9)⟩
      let kept := [a.feeder, a.reserve, a.minimum, a.step, a.reclaim, a.margin, a.overdraw, a.rotation]
      ∃ t, exec .allocatorSettings s = .next t ∧ t.WithinBudget
        ∧ t.still = { s.still with management := q, settings := a }
        ∧ s.Answers t r Kind.mgmtAnswer [r.kind, if kept = given then 0 else 1]
        ∧ (let raised := fun (b : BayIx) => (s.bay b).alloc.chargingCopy = true
              ∧ s.allocator.settings.minimum ≤ (s.bay b).postMax ∧ (s.bay b).postMax < a.minimum
           (∀ b, (s.bay b).checkOk = true) → s.uplink.fifo.length + 2 ≤ 32 →
            ((∀ b, ¬ raised b) → t.recorder = s.recorder)
            ∧ (∀ b, raised b → (∀ b', b' ≠ b → ¬ raised b') →
                t.recorder = (s.logError { kind := .configMismatch, bay := some b }).recorder
                ∧ b ∉ t.allocator.queue.map (·.bay) ∧ (t.bay b).alloc.target = 0)))
    ∧ (r.kind = Kind.control → e.length = 2 → r.payload = 7 :: e →
      ∃ t, exec .setCap s = .next t ∧ t.WithinBudget
        ∧ t.still = { s.still with management := q, settings := { s.allocator.settings with
            cap := if field16 e 0 = 65535 then none else some (min 20000 (field16 e 0)) } }
        ∧ s.Answers t r Kind.mgmtAnswer
            [r.kind, if 20000 < field16 e 0 ∧ field16 e 0 ≠ 65535 then 1 else 0])

/-- A Bay Configuration write (R147, R148, R173, R175). At a CLOSED bay class and post maximum are stored, the post
maximum clamped, and the ceiling follows; the enable goes to the saved mask while the part is suspended and to the allot
enable otherwise. At any other bay an entry that keeps class and post maximum writes the enable alone, and a change of
either is refused BAY-IN-USE with nothing changed; an enable above 1 is refused BAD-INDEX, before that by inference (log
31). A frame of two entries whose second is refused is refused whole, its first not written. -/
def Obligations.BayConfigurationWrite : Prop :=
  ∀ (s : State) (r : Request) (q : List Request) (b : BayIx) (c : BayClass) (hi lo v : Byte), s.heldInReset = false →
    s.management = r :: q → r.kind = Kind.setTable →
    let m := clamp 60 800 (hi.toNat * 256 + lo.toNat)
    let status := if m = hi.toNat * 256 + lo.toNat then 0 else 1
    let refused := fun (st : Status) =>
      (.next ({ s with management := q }.sendStatus r st []).deliverDue.arbitrate : Result)
    (r.payload = [4, byteOf (b.val + 1), byteOf c.ix.val, hi, lo, v] →
      (1 < v.toNat → exec .bayConfiguration s = refused .badIndex)
      ∧ (v.toNat ≤ 1 → s.suspension.suspended = true → s.SuspensionHolds →
          (s.bay b).dyn.state = .closed ∨ (s.bay b).cls = c ∧ (s.bay b).postMax = m →
        ∃ t, exec .bayConfiguration s = .next t
          ∧ (t.bay b).config = ⟨c, m, (s.bay b).allotEnable, v == 1⟩
          ∧ ((s.bay b).cls ≠ c ∨ (s.bay b).postMax ≠ m → (t.bay b).alloc.ceiling = m)
          ∧ (∀ d, d ≠ b → (t.bay d).config = (s.bay d).config) ∧ t.dyns = s.dyns
          ∧ t.still = { s.still with management := q, bays := t.bays.map Bay.config }
          ∧ s.Answers t r Kind.mgmtAnswer [r.kind, byteOf status])
      ∧ (v.toNat ≤ 1 → s.suspension.suspended = false → (∀ d, (s.bay d).checkOk = true) →
          (s.bay b).dyn.state = .closed ∨ (s.bay b).cls = c ∧ (s.bay b).postMax = m →
        ∃ t, exec .bayConfiguration s = .next t
          ∧ (t.bay b).config = ⟨c, m, v == 1, (s.bay b).savedMask⟩
          ∧ ((s.bay b).cls ≠ c ∨ (s.bay b).postMax ≠ m → (t.bay b).alloc.ceiling = m)
          ∧ (∀ d, d ≠ b → (t.bay d).config = (s.bay d).config) ∧ t.dyns = s.dyns
          ∧ t.still = { s.still with management := q, bays := t.bays.map Bay.config }
          ∧ s.Answers t r Kind.mgmtAnswer [r.kind, byteOf status])
      ∧ (v.toNat ≤ 1 → (s.bay b).dyn.state ≠ .closed → (s.bay b).cls ≠ c ∨ (s.bay b).postMax ≠ m →
        exec .bayConfiguration s = refused .bayInUse))
    ∧ (∀ (b' : BayIx) (c' : BayClass) (hi' lo' v' : Byte), b'.val = b.val + 1 →
        r.payload = [4, byteOf (b.val + 1), byteOf c.ix.val, hi, lo, v, byteOf c'.ix.val, hi', lo', v'] →
        v.toNat ≤ 1 → v'.toNat ≤ 1 → (s.bay b).dyn.state = .closed → (s.bay b').dyn.state ≠ .closed →
        (s.bay b').cls ≠ c' ∨ (s.bay b').postMax ≠ clamp 60 800 (hi'.toNat * 256 + lo'.toNat) →
        exec .bayConfiguration s = refused .bayInUse)

/-- GET-TABLE (R177): it changes nothing; an id that names neither table nor view is refused BAD-TABLE; a start outside
the indexes of its table or view BAD-INDEX; otherwise the count returned is the least of the count asked for, the entries to the last index
that is filled and the whole entries that fit in 43 bytes: in full for the Kind Filter, and one entry each, laid out as
Chapter 11 gives it, of the other tables and of every view: Bay Status, whose saved-mask flag shows only while the part
is suspended (log 15), active and staged holds, Waitlist, Charge Queue, fault logs, counters and Node Contact. A start
behind the last filled entry of Waitlist or Charge Queue answers no entry. -/
def Obligations.GetTable : Prop :=
  ∀ (s : State) (r : Request) (q : List Request) (id start asked : Byte), s.heldInReset = false →
    s.management = r :: q → r.kind = Kind.getTable → r.payload = [id, start, asked] →
    let answered := fun (p : List Byte) =>
      (.next ({ s with management := q }.sendAnswer r Kind.mgmtAnswer (r.kind :: p)).deliverDue.arbitrate : Result)
    let reads := fun (n : Nat) (at_ : Nat) (row : List Byte) =>
      id.toNat = n → start.toNat = at_ → asked = 1 → exec .getTable s = answered ([0, id, start, 1] ++ row)
    let bit := fun (k : Nat) (f : Bool) => if f then 2 ^ k else 0
    let flags := fun (fs : List Bool) => byteOf ((fs.zipIdx.map (fun f => bit f.2 f.1)).sum)
    let site := fun (t : Time) => be32w (t + s.siteOffset)
    let siteOr := fun (t : Option Time) => match t with | some t => site t | none => [0, 0, 0, 0]
    let bayNumber := fun (b : Option BayIx) => match b with | some b => byteOf (b.val + 1) | none => 0
    let current := fun (n : Option Nat) => match n with | some n => be16 n | none => [0xFF, 0xFF]
    let slot := fun (h : Option Hold) => match h with
      | none => List.replicate 43 0
      | some h => be32w (h.ticket.getD 0)
          ++ [h.requester.getD 0, byteOf h.priority.val,
              flags [true, h.ticket == none, h.entrySeen, h.arrival != none, h.energyWanted != none,
                h.lastPostEnergy != none]]
          ++ s.windowBytes h ++ be32 (h.energyWanted.getD 0) ++ siteOr h.arrival ++ be32 h.occupiedSeconds
          ++ be32 h.chargedSeconds ++ be32 h.energyDelivered ++ be32 (h.lastPostEnergy.getD 0)
    let log := fun (l : Option LogEntry) => match l with
      | none => List.replicate 12 0
      | some l => [flags [true, l.bay != none, l.header != none], byteOf l.kind.code] ++ site l.second
          ++ [bayNumber l.bay]
          ++ match l.header with | some h => [h.dest, h.src, h.kind, h.tag, h.len] | none => [0, 0, 0, 0, 0]
    (id.toNat ∉ [1, 2, 3, 4, 5, 6, 7, 8, 16, 17, 18, 19, 20, 21, 22, 23] → exec .getTable s = answered [2])
    ∧ (∀ v ∈ [(3, 0, 3), (4, 1, 128), (5, 0, 0), (6, 0, 0), (7, 0, 0), (8, 0, 0), (16, 1, 128), (17, 1, 128), (18, 1, 128),
          (19, 1, 32), (20, 1, 128), (21, 0, 2), (22, 0, 1)],
        id.toNat = v.1 → start.toNat < v.2.1 ∨ v.2.2 < start.toNat → exec .getTable s = answered [3])
    ∧ (id = 2 →
      let n := min asked.toNat (min (256 - start.toNat) 21)
      exec .getTable s = answered ([0, 2, start, byteOf n] ++ (List.range n).flatMap (fun i =>
        [byteOf (s.kinds.get (BitVec.ofNat 8 (start.toNat + i)).toFin).action.code,
         (s.kinds.get (BitVec.ofNat 8 (start.toNat + i)).toFin).flags])))
    ∧ (let e := s.node start
      reads 1 start.toNat [byteOf e.role.code,
          flags [e.permissions.hold, e.permissions.freeAny, e.permissions.arrive, e.permissions.manage,
            e.permissions.emergency], bayNumber e.bay]
      ∧ reads 23 start.toNat ([byteOf e.role.code, bayNumber e.bay] ++ match e.contact with
          | some c => [if c.reachable then 0 else 1, byteOf c.failures] ++ site c.last ++ site c.due
          | none => [0xFF, 0, 0, 0, 0, 0, 0, 0, 0, 0]))
    ∧ (∀ k : BayClass, let c := s.classOf k
      reads 3 k.ix.val ([byteOf c.weight, byteOf c.mode.code, flags [c.walkIn, c.verify]] ++ be16 c.stay
        ++ [byteOf c.grace] ++ c.substitution.items.map (fun x => match x with
          | some x => byteOf x.ix.val | none => 0xFF)))
    ∧ (∀ b : BayIx, let y := s.bay b
      reads 4 (b.val + 1) ([byteOf y.cls.ix.val] ++ be16 y.postMax ++ [if y.allotEnable then 1 else 0])
      ∧ reads 16 (b.val + 1) ([byteOf y.dyn.state.code, byteOf y.dyn.occupancy.code, byteOf y.dyn.connector.code]
          ++ be16 y.delivery.target ++ be16 (s.committed b) ++ current y.delivery.inForce
          ++ [byteOf y.delivery.state.code,
              flags [y.allotEnable, s.suspension.suspended && y.savedMask, y.dyn.suspect,
                y.dyn.closeMode == .closingAtEnd, s.suspension.suspended, s.scrubber.degraded]])
      ∧ reads 17 (b.val + 1) (slot y.dyn.active) ∧ reads 18 (b.val + 1) (slot y.dyn.staged))
    ∧ (let a := s.allocator.settings
      reads 5 0 (be16 a.feeder ++ be16 a.reserve ++ [byteOf a.minimum, byteOf a.step, byteOf a.reclaim,
        byteOf a.margin, byteOf a.overdraw, byteOf a.rotation] ++ current a.cap ++ be16 (budgetOf a)))
    ∧ (let t := s.timing
      reads 6 0 ([byteOf t.window, byteOf t.pollInterval, byteOf t.failLimit] ++ be16 t.linkLoss
        ++ [byteOf t.debounce, byteOf t.overstay, byteOf t.turnover, byteOf t.lead]))
    ∧ (let f := s.recorder.settings
      reads 7 0 (f.kinds.items.map (fun k => byteOf (k.severity.val + bit 2 k.enabled))
        ++ f.actions.items.map (fun a => byteOf a.code) ++ f.selections.items.flatMap (fun w => be16 w.toNat)))
    ∧ (let c := s.controller
      reads 8 0 [c.own, c.noticeDest, byteOf c.resetMode.code])
    ∧ (∀ i e, s.waitlist[i]? = some e → i < 32 →
      reads 19 (i + 1) (be32w (e.hold.ticket.getD 0) ++ [e.hold.requester.getD 0, byteOf e.hold.priority.val,
        byteOf e.classWanted.ix.val, bayNumber e.preferred] ++ s.windowBytes e.hold
        ++ [if e.hold.entrySeen then 1 else 0]))
    ∧ (∀ i e, s.allocator.queue[i]? = some e → i < 128 →
      let a := (s.bay e.bay).alloc
      reads 20 (i + 1) ([byteOf (e.bay.val + 1), byteOf e.priority.val] ++ site e.stamp ++ be16 a.ceiling
        ++ be16 a.target ++ [if a.admittedSince = none then 0 else 1] ++ siteOr a.admittedSince))
    ∧ (id = 19 ∧ s.waitlist.length < start.toNat ∧ start.toNat ≤ 32
        ∨ id = 20 ∧ s.allocator.queue.length < start.toNat ∧ start.toNat ≤ 128 →
      exec .getTable s = answered [0, id, start, 0])
    ∧ (∀ v : Fin 3, let l := s.recorder.logs.get v
      reads 21 v.val ([byteOf (s.recorder.settings.actions.get v).code] ++ log l.first ++ log l.next
        ++ [byteOf l.lost, if l.pending then 1 else 0]))
    ∧ (∀ c : Fin 2, let n := s.recorder.counters.get c
      reads 22 c.val (be16 (s.recorder.settings.selections.get c).toNat
        ++ [byteOf n.count, if n.overflow then 1 else 0]))

/-! ## Management: operations -/

/-- CLEAR-LOG (R164): of a severity 0 to 2 it empties that severity's first and next log, brings its lost count to 0,
clears its pending flag, re-evaluates ALERT and is answered OK, the logs of the other severities and the counters not
changed; a severity outside that range is refused BAD-INDEX and changes nothing. -/
def Obligations.ClearLog : Prop :=
  ∀ (s : State) (r : Request) (q : List Request), s.heldInReset = false → s.management = r :: q →
    r.kind = Kind.control →
    let s' := { s with management := q }
    (∀ v : Fin 3, r.payload = [9, byteOf v.val] →
      exec .clearLog s = .next ((s'.clearLog v).sendStatus r .ok []).deliverDue.arbitrate
        ∧ (s'.clearLog v).recorder.logs = s.recorder.logs.set v ⟨none, none, 0, false⟩
        ∧ (s'.clearLog v).recorder.counters = s.recorder.counters ∧ (s'.clearLog v).AlertRight
        ∧ (s'.clearLog v).still = { s.still with management := q })
    ∧ (∀ x : Byte, r.payload = [9, x] → 2 < x.toNat →
      exec .clearLog s = .next (s'.sendStatus r .badIndex []).deliverDue.arbitrate)

/-- OPEN (R155): a CLOSED bay with a post node and no hold becomes FREE, or UNBOOKED where a vehicle stands in it, and
FAULTED where it has a fault cause, and BAY-NOTICE OPENED follows the answer, of several causes with the lowest code by
inference (log 14) (the Waitlist is empty, so the scan that follows places nothing); a CLOSED bay without a post node is
refused BAD-INDEX; at a bay that is closing, OPEN withdraws CLOSING-AT-END, and at any other it changes nothing.
CLOSE-AT-END and CLOSE-NOW (R153, R154): a bay without an active hold that is not CLOSED becomes CLOSED at once, and
BAY-NOTICE CLOSED follows; at a bay whose active hold has arrived and that has no staged hold, close mode becomes
CLOSING-AT-END and the hold stays, also while it is CHARGING; a CLOSED bay does not change. -/
def Obligations.OpenAndClose : Prop :=
  (∀ (s : State) (r : Request) (q : List Request) (b : BayIx), s.heldInReset = false →
       s.management = r :: q → r.kind = Kind.control → r.payload = [1, byteOf (b.val + 1)] →
       let d := (s.bay b).dyn
       let uncharged := (s.bay b).alloc.chargingCopy = false ∨ ∀ e, (s.bay e).checkOk = true
       let becomes := fun (d' : BayDyn) (fs : List Frame) =>
         ∃ t, exec .openBay s = .next t ∧ t.still = { s.still with management := q }
           ∧ (t.bay b).dyn = d' ∧ (∀ e, e ≠ b → (t.bay e).dyn = (s.bay e).dyn)
           ∧ t.index = s.index ∧ t.waitHolds = s.waitHolds ∧ s.Answers t r Kind.mgmtAnswer [r.kind, 0]
           ∧ (r.src ≠ 0 → s.controller.noticeDest ≠ 0 →
               s.Sends t (s.answerTo r Kind.mgmtAnswer [r.kind, 0] :: fs))
       (d.state = .closed → s.post b = none →
         exec .openBay s = .next ({ s with management := q }.sendStatus r .badIndex []).deliverDue.arbitrate)
       ∧ (d.state = .closed → s.post b ≠ none → s.faultCauses b = [] → d.active = none → uncharged → s.waitlist = [] →
         let st : BayState := if d.occupancy = .occupied then .unbooked else .free
         becomes { d with state := st } [s.bayNoticeAt 0 b .closed st 10 0 0])
       ∧ (∀ c cs, d.state = .closed → s.post b ≠ none → s.faultCauses b = c :: cs → uncharged →
         becomes { d with state := .faulted } [s.bayNoticeAt 0 b .closed .faulted 10 0 c.code])
       ∧ (d.state ≠ .closed → d.closeMode = .closingAtEnd → s.waitlist = [] → becomes { d with closeMode := .none } [])
       ∧ (d.state ≠ .closed → d.closeMode = .none →
         exec .openBay s = .next ({ s with management := q }.sendStatus r .ok []).deliverDue.arbitrate))
    ∧ (∀ (s : State) (r : Request) (q : List Request) (b : BayIx) (c : Instr) (code : Byte), s.heldInReset = false →
         s.management = r :: q → r.kind = Kind.control → r.payload = [code, byteOf (b.val + 1)] →
         (c = .closeNow ∧ code = 2 ∨ c = .closeAtEnd ∧ code = 3) →
         let d := (s.bay b).dyn
         let becomes := fun (d' : BayDyn) (fs : List Frame) =>
           ∃ t, exec c s = .next t ∧ t.still = { s.still with management := q } ∧ (t.bay b).dyn = d'
             ∧ (∀ e, e ≠ b → (t.bay e).dyn = (s.bay e).dyn) ∧ t.index = s.index ∧ t.waitHolds = s.waitHolds
             ∧ s.Answers t r Kind.mgmtAnswer [r.kind, 0]
             ∧ (r.src ≠ 0 → s.controller.noticeDest ≠ 0 →
                 s.Sends t (s.answerTo r Kind.mgmtAnswer [r.kind, 0] :: fs))
         (d.state = .closed → becomes d [])
           ∧ (d.state ≠ .closed → d.active = none →
               (s.bay b).alloc.chargingCopy = false ∨ (∀ e, (s.bay e).checkOk = true) →
               becomes { d with state := .closed, closeMode := .none } [s.bayNoticeAt 0 b d.state .closed 9 0 0])
           ∧ (∀ h, d.state ≠ .closed → d.active = some h → h.arrival ≠ none → d.staged = none →
               becomes { d with closeMode := .closingAtEnd } []))

/-- FORCE-END of a staged slot (R157): the staged hold ends FORCED, its index entry goes, the active hold and the bay's
state do not change, and the answer precedes HOLD-NOTICE ENDED, which carries the end reason FORCED, the window, no
arrival time and zero counters (R24), its grace end 0 by inference (log 13); an empty slot or another ticket is refused
BAD-INDEX. The Waitlist is empty, so the scan that follows places nothing. -/
def Obligations.ForceEndStaged : Prop :=
  ∀ (s : State) (r : Request) (q : List Request) (b : BayIx) (w x y z : Byte), s.heldInReset = false →
    s.management = r :: q → r.kind = Kind.control → r.payload = [4, byteOf (b.val + 1), 2, w, x, y, z] →
    let named : Ticket := w ++ x ++ y ++ z
    let refused : Result := .next ({ s with management := q }.sendStatus r .badIndex []).deliverDue.arbitrate
    ((s.bay b).dyn.staged = none → exec .forceEnd s = refused)
    ∧ (∀ h, (s.bay b).dyn.staged = some h → named ≠ 0 → h.ticket ≠ some named → exec .forceEnd s = refused)
    ∧ (∀ h t a, (s.bay b).dyn.staged = some h → named = 0 ∨ named = t → h.ticket = some t → h.requester = some a →
        s.waitlist = [] →
      ∃ u, exec .forceEnd s = .next u ∧ u.still = { s.still with management := q }
        ∧ (u.bay b).dyn = { (s.bay b).dyn with staged := none } ∧ (∀ c, c ≠ b → (u.bay c).dyn = (s.bay c).dyn)
        ∧ u.index = s.index.filter (fun i => i.ticket ≠ t)
        ∧ (r.src ≠ 0 → a ≠ 0 → s.Sends u [s.answerTo r Kind.mgmtAnswer [r.kind, 0],
            s.noticeAt 0 a Kind.holdNotice (s.summaryBytes 6 t (b.val + 1) 4 h.bare)]))

/-- SET-ENABLE (R148): while the part is suspended it writes the saved mask alone; otherwise it writes the allot
enable, and a CHARGING bay whose other conditions hold joins or leaves the Charge Queue. -/
def Obligations.SetEnable : Prop :=
  ∀ (s : State) (r : Request) (q : List Request) (b : BayIx) (v : Byte), s.heldInReset = false →
    s.management = r :: q → r.kind = Kind.control → r.payload = [5, byteOf (b.val + 1), v] →
    (1 < v.toNat → exec .setEnable s = .next ({ s with management := q }.sendStatus r .badIndex []).deliverDue.arbitrate)
    ∧ (v.toNat ≤ 1 → s.suspension.suspended = true →
      exec .setEnable s = .next ((State.modBay { s with management := q } b
        (fun y => { y with savedMask := v == 1 })).sendStatus r .ok []).deliverDue.arbitrate)
    ∧ (v = 1 → s.suspension.suspended = false → s.allocator.suspendedCopy = false → (s.bay b).allotEnable = false →
        (s.bay b).alloc.chargingCopy = true → (s.bay b).alloc.suspectCopy = false → s.inQueue b = false →
        s.allocator.settings.minimum ≤ (s.bay b).postMax → (∀ c, (s.bay c).checkOk = true) →
      ∃ t, exec .setEnable s = .next t ∧ t.WithinBudget ∧ t.dyns = s.dyns
        ∧ (t.bay b).config = ⟨(s.bay b).cls, (s.bay b).postMax, true, (s.bay b).savedMask⟩
        ∧ (∀ c, c ≠ b → (t.bay c).config = (s.bay c).config)
        ∧ b ∈ t.allocator.queue.map (·.bay) ∧ s.Answers t r Kind.mgmtAnswer [r.kind, 0])
    ∧ (v = 0 → s.suspension.suspended = false → (s.bay b).allotEnable = true → s.inQueue b = true →
        (∀ c, (s.bay c).checkOk = true) →
      ∃ t, exec .setEnable s = .next t ∧ t.WithinBudget ∧ t.dyns = s.dyns ∧ (t.bay b).allotEnable = false
        ∧ b ∉ t.allocator.queue.map (·.bay) ∧ (t.bay b).alloc.target = 0
        ∧ s.Answers t r Kind.mgmtAnswer [r.kind, 0])

/-- SCRUB (R168, R169). Of a bay that is not suspect it is refused BAD-INDEX. Of a CLOSED suspect bay at which the index
has no ticket and whose slots are empty the dynamic part is rebuilt with state and close mode kept and its check word
agreeing, and the bay is no longer suspect anywhere. Of one in service at most one ticket of which stands in the index
at its active slot: the ticket is LOST with its index entry, HOLD-NOTICE LOST naming the bay, the record is rebuilt, and
the bay becomes FREE, or CLOSED where it was closing, and stays FAULTED while its post is UNREACHABLE (R9); BAY-NOTICE
carries HOLD-ENDED with the reason LOST where a ticket was lost and FAULT-CLEARED otherwise; post and sensor are due
now. Degraded mode ends when no other bay is suspect, and lasts while one is (the Waitlist is empty, so the scan places
nothing). That the bay of an index entry counts as having held a hold is the model's choice (log 7); the fields of LOST
(log 13) and the order of the notices (log 12) are read by inference. -/
def Obligations.Scrub : Prop :=
  ∀ (s : State) (r : Request) (q : List Request) (b : BayIx), s.heldInReset = false →
    s.management = r :: q → r.kind = Kind.control → r.payload = [11, byteOf (b.val + 1)] →
    let d := (s.bay b).dyn
    ((s.bay b).dyn.suspect = false →
      exec .scrub s = .next ({ s with management := q }.sendStatus r .badIndex []).deliverDue.arbitrate)
    ∧ ((s.bay b).dyn.suspect = true → (s.bay b).dyn.state = .closed → (s.bay b).dyn.active = none →
        (s.bay b).alloc.chargingCopy = false → s.inQueue b = false → s.waitlist = [] →
        (∀ e ∈ s.index, e.location ≠ .active b ∧ e.location ≠ .staged b) →
      ∃ t, exec .scrub s = .next t
        ∧ (t.bay b).dyn = ⟨.closed, .unknown, none, 0, .none, none, none, (s.bay b).dyn.closeMode, false⟩
        ∧ (t.bay b).checkOk = true ∧ (t.bay b).alloc.suspectCopy = false
        ∧ ((∀ c, c ≠ b → (s.bay c).dyn.suspect = false) → t.scrubber.degraded = false)
        ∧ ((∃ c, c ≠ b ∧ (s.bay c).dyn.suspect = true) → t.scrubber = s.scrubber)
        ∧ (∀ c, c ≠ b → (t.bay c).dyn = (s.bay c).dyn) ∧ t.index = s.index
        ∧ t.suspension = s.suspension ∧ t.classes = s.classes ∧ t.controller = s.controller
        ∧ s.Answers t r Kind.mgmtAnswer [r.kind, 0])
    ∧ (∀ (lost : List IndexEntry), d.suspect = true → d.state = .faulted → s.waitlist = [] →
        (∀ c, c ≠ b → (s.bay c).checkOk = true) → r.src ≠ 0 → s.controller.noticeDest ≠ 0 →
        s.index.filter (fun e => e.location = .active b ∨ e.location = .staged b) = lost →
        (lost = [] ∧ d.active = none ∨ ∃ t a, lost = [⟨t, a, .active b⟩] ∧ a ≠ 0) →
        let st : BayState := if s.postUnreachable b = true then .faulted
          else if d.closeMode = .closingAtEnd then .closed else .free
        let told := lost.map (fun e => s.noticeAt 0 e.requester Kind.holdNotice (movedBytes 5 e.ticket (b.val + 1) 0 0))
        let notice := if lost = [] then s.bayNoticeAt 0 b .faulted st 7 0 0 else s.bayNoticeAt 1 b .faulted st 4 6 0
        ∃ t, exec .scrub s = .next t
          ∧ (t.bay b).dyn = ⟨st, .unknown, none, 0, .none, none, none,
              if st = .closed then .none else d.closeMode, false⟩
          ∧ (t.bay b).checkOk = true ∧ (t.bay b).alloc.suspectCopy = false ∧ (t.bay b).alloc.chargingCopy = false
          ∧ (∀ c, c ≠ b → (t.bay c).dyn = (s.bay c).dyn)
          ∧ t.index = s.index.filter (fun i => lost.all (fun e => i.ticket ≠ e.ticket)) ∧ t.waitHolds = []
          ∧ ((∀ c, c ≠ b → (s.bay c).dyn.suspect = false) → t.scrubber = ⟨s.scrubber.cursor, false⟩)
          ∧ ((∃ c, c ≠ b ∧ (s.bay c).dyn.suspect = true) → t.scrubber = s.scrubber)
          ∧ (∀ n e, s.post b = some (n, e) ∨ s.sensor b = some (n, e) →
              (t.node n).contact = e.contact.map (fun c => { c with due := s.now }))
          ∧ s.Answers t r Kind.mgmtAnswer [r.kind, 0]
          ∧ (s.postUnreachable b = true → lost = [] → s.Sends t [s.answerTo r Kind.mgmtAnswer [r.kind, 0]])
          ∧ (s.postUnreachable b = false ∨ lost ≠ [] →
              s.Sends t (s.answerTo r Kind.mgmtAnswer [r.kind, 0] :: told ++ [notice])))

/-- A storage fault (R3): the stored contents and check word of one record become those given and nothing else changes.
That the contents may be any values, that no block is told and that no deadline is delivered and nothing is arbitrated
is the model's choice (log 7); that a bay number outside 1 to 128 names no record, and then nothing changes, is its
choice too (log 2). -/
def Obligations.StorageFault : Prop :=
  ∀ (s : State) (d : BayDyn) (w : BitVec 16), s.heldInReset = false →
    (∀ b : BayIx, exec (.storageFault (byteOf (b.val + 1)) d w) s
      = .next { s with bays := s.bays.set b { s.bay b with dyn := d, check := w } })
    ∧ (∀ n : Byte, n.toNat = 0 ∨ 128 < n.toNat → exec (.storageFault n d w) s = .next s)

/-! ## Invariants that every step keeps -/

/-- Every step keeps the queues, lists and counts within their capacities and the priorities of the Waitlist from
increasing (R27, R36, R47, R104, R107, R126, R161, R165); and it keeps ALERT active exactly while a severity whose
action is NOTICE-AND-LINE has its pending flag set (R163). -/
def Obligations.StepKeepsCapacitiesAndAlert : Prop :=
  (∀ s t : State, s.Bounded ∧ s.WaitOrdered → step s = .next t → t.Bounded ∧ t.WaitOrdered)
    ∧ (∀ s t : State, s.AlertRight → step s = .next t → t.AlertRight)

/-- The sum of all targets stays within the budget in force through every step, writes of the settings included (R77,
R90). -/
def Obligations.StepKeepsTargetsWithinBudget : Prop :=
  ∀ s t : State, s.WithinBudget → step s = .next t → t.WithinBudget

/-- While the part is suspended the Charge Queue stays empty and every target 0, whatever is commanded (R78, R149 to
R152). -/
def Obligations.StepKeepsSuspension : Prop :=
  ∀ s t : State, s.SuspensionHolds → step s = .next t → t.SuspensionHolds
end

