-- ==== Sys2Proof/Laws/Table.lean ====
section
/-!
SUPPORT. Laws of the sized tables: what `get` reads after `set`, `modify` and `map`.
-/
namespace Sys2Proof.Machine

theorem Table.ext_items {t u : Table α n} (h : t.items = u.items) : t = u := by
  cases t; cases u; cases h; rfl

/-- Tables agree when every entry does. -/
theorem Table.ext_get {t u : Table α n} (h : ∀ i, t.get i = u.get i) : t = u :=
  Table.ext_items (List.ext_getElem (t.size.trans u.size.symm)
    fun i h₁ _ => h ⟨i, t.size ▸ h₁⟩)

@[simp] theorem Table.get_replicate (a : α) (i : Fin n) : (Table.replicate n a).get i = a := by
  simp [Table.get, Table.replicate]

@[simp] theorem Table.get_set_same (t : Table α n) (i : Fin n) (a : α) : (t.set i a).get i = a := by
  simp [Table.get, Table.set]

theorem Table.get_set_other (t : Table α n) {i j : Fin n} (a : α) (h : j ≠ i) :
    (t.set i a).get j = t.get j := by
  have : i.val ≠ j.val := fun e => h (Fin.ext e.symm)
  simp [Table.get, Table.set, this]

theorem Table.get_set (t : Table α n) (i j : Fin n) (a : α) :
    (t.set i a).get j = if j = i then a else t.get j := by
  split
  · next h => subst h; simp
  · next h => exact t.get_set_other a h

@[simp] theorem Table.get_map (t : Table α n) (f : α → β) (i : Fin n) : (t.map f).get i = f (t.get i) := by
  simp [Table.get, Table.map]

@[simp] theorem Table.get_modify_same (t : Table α n) (i : Fin n) (f : α → α) :
    (t.modify i f).get i = f (t.get i) := by simp [Table.modify]

theorem Table.get_modify_other (t : Table α n) {i j : Fin n} (f : α → α) (h : j ≠ i) :
    (t.modify i f).get j = t.get j := t.get_set_other _ h

/-- A change that `g` does not see leaves the image of the table under `g`. -/
theorem Table.map_modify_of_eq (t : Table α n) (i : Fin n) (f : α → α) (g : α → β)
    (h : g (f (t.get i)) = g (t.get i)) : (t.modify i f).map g = t.map g := by
  refine Table.ext_get fun j => ?_
  by_cases e : j = i
  · subst e; simpa using h
  · simp [Table.get_modify_other _ _ e]

theorem Table.map_map (t : Table α n) (f : α → β) (g : β → γ) : (t.map f).map g = t.map (g ∘ f) :=
  Table.ext_items (by simp [Table.map])

/-- The entries in order are what `get` reads in order. -/
theorem Table.items_eq_get (t : Table α n) : t.items = (List.finRange n).map t.get := by
  apply List.ext_getElem
  · simp [t.size]
  · intro i h₁ h₂; simp [Table.get]

end Sys2Proof.Machine
end

