-- ==== Sys2Proof/Laws/State.lean ====
section
/-!
SUPPORT. The field laws of State: for each named update, the field it writes (`_writes`) and every field it leaves
(`_leaves`), all true by definition and in the simp set, so that no proof unfolds an update; and what the
reader of one bay sees after an update of a bay.
-/
namespace Sys2Proof.Machine

variable (s : State)

@[simp] theorem State.modBay_writes (b : BayIx) (f : Bay → Bay) :
    (s.modBay b f).bays = s.bays.modify b f := rfl

@[simp] theorem State.modBay_leaves (b : BayIx) (f : Bay → Bay) :
    (s.modBay b f).pending = s.pending ∧ (s.modBay b f).heldInReset = s.heldInReset
    ∧ (s.modBay b f).resetPinTaken = s.resetPinTaken ∧ (s.modBay b f).now = s.now
    ∧ (s.modBay b f).siteOffset = s.siteOffset ∧ (s.modBay b f).index = s.index
    ∧ (s.modBay b f).waitlist = s.waitlist ∧ (s.modBay b f).early = s.early ∧ (s.modBay b f).classes = s.classes
    ∧ (s.modBay b f).cursors = s.cursors ∧ (s.modBay b f).requests = s.requests
    ∧ (s.modBay b f).expiries = s.expiries ∧ (s.modBay b f).allocator = s.allocator
    ∧ (s.modBay b f).timing = s.timing ∧ (s.modBay b f).nodes = s.nodes ∧ (s.modBay b f).kinds = s.kinds
    ∧ (s.modBay b f).uplink = s.uplink ∧ (s.modBay b f).downlink = s.downlink
    ∧ (s.modBay b f).noticeTag = s.noticeTag ∧ (s.modBay b f).scheduler = s.scheduler
    ∧ (s.modBay b f).suspension = s.suspension ∧ (s.modBay b f).recorder = s.recorder
    ∧ (s.modBay b f).scrubber = s.scrubber ∧ (s.modBay b f).management = s.management
    ∧ (s.modBay b f).controller = s.controller := by
  refine ⟨rfl, rfl, rfl, rfl, rfl, rfl, rfl, rfl, rfl, rfl, rfl, rfl, rfl, rfl, rfl, rfl, rfl, rfl, rfl, rfl, rfl, rfl, rfl, rfl, rfl⟩

@[simp] theorem State.modDyn_writes (b : BayIx) (f : BayDyn → BayDyn) :
    (s.modDyn b f).bays = s.bays.modify b (·.modDyn f) := rfl

@[simp] theorem State.modDyn_leaves (b : BayIx) (f : BayDyn → BayDyn) :
    (s.modDyn b f).pending = s.pending ∧ (s.modDyn b f).heldInReset = s.heldInReset
    ∧ (s.modDyn b f).resetPinTaken = s.resetPinTaken ∧ (s.modDyn b f).now = s.now
    ∧ (s.modDyn b f).siteOffset = s.siteOffset ∧ (s.modDyn b f).index = s.index
    ∧ (s.modDyn b f).waitlist = s.waitlist ∧ (s.modDyn b f).early = s.early ∧ (s.modDyn b f).classes = s.classes
    ∧ (s.modDyn b f).cursors = s.cursors ∧ (s.modDyn b f).requests = s.requests
    ∧ (s.modDyn b f).expiries = s.expiries ∧ (s.modDyn b f).allocator = s.allocator
    ∧ (s.modDyn b f).timing = s.timing ∧ (s.modDyn b f).nodes = s.nodes ∧ (s.modDyn b f).kinds = s.kinds
    ∧ (s.modDyn b f).uplink = s.uplink ∧ (s.modDyn b f).downlink = s.downlink
    ∧ (s.modDyn b f).noticeTag = s.noticeTag ∧ (s.modDyn b f).scheduler = s.scheduler
    ∧ (s.modDyn b f).suspension = s.suspension ∧ (s.modDyn b f).recorder = s.recorder
    ∧ (s.modDyn b f).scrubber = s.scrubber ∧ (s.modDyn b f).management = s.management
    ∧ (s.modDyn b f).controller = s.controller := by
  refine ⟨rfl, rfl, rfl, rfl, rfl, rfl, rfl, rfl, rfl, rfl, rfl, rfl, rfl, rfl, rfl, rfl, rfl, rfl, rfl, rfl, rfl, rfl, rfl, rfl, rfl⟩

@[simp] theorem State.modAlloc_writes (b : BayIx) (f : BayAlloc → BayAlloc) :
    (s.modAlloc b f).bays = s.bays.modify b (fun y => { y with alloc := f y.alloc }) := rfl

@[simp] theorem State.modAlloc_leaves (b : BayIx) (f : BayAlloc → BayAlloc) :
    (s.modAlloc b f).pending = s.pending ∧ (s.modAlloc b f).heldInReset = s.heldInReset
    ∧ (s.modAlloc b f).resetPinTaken = s.resetPinTaken ∧ (s.modAlloc b f).now = s.now
    ∧ (s.modAlloc b f).siteOffset = s.siteOffset ∧ (s.modAlloc b f).index = s.index
    ∧ (s.modAlloc b f).waitlist = s.waitlist ∧ (s.modAlloc b f).early = s.early
    ∧ (s.modAlloc b f).classes = s.classes ∧ (s.modAlloc b f).cursors = s.cursors
    ∧ (s.modAlloc b f).requests = s.requests ∧ (s.modAlloc b f).expiries = s.expiries
    ∧ (s.modAlloc b f).allocator = s.allocator ∧ (s.modAlloc b f).timing = s.timing
    ∧ (s.modAlloc b f).nodes = s.nodes ∧ (s.modAlloc b f).kinds = s.kinds ∧ (s.modAlloc b f).uplink = s.uplink
    ∧ (s.modAlloc b f).downlink = s.downlink ∧ (s.modAlloc b f).noticeTag = s.noticeTag
    ∧ (s.modAlloc b f).scheduler = s.scheduler ∧ (s.modAlloc b f).suspension = s.suspension
    ∧ (s.modAlloc b f).recorder = s.recorder ∧ (s.modAlloc b f).scrubber = s.scrubber
    ∧ (s.modAlloc b f).management = s.management ∧ (s.modAlloc b f).controller = s.controller := by
  refine ⟨rfl, rfl, rfl, rfl, rfl, rfl, rfl, rfl, rfl, rfl, rfl, rfl, rfl, rfl, rfl, rfl, rfl, rfl, rfl, rfl, rfl, rfl, rfl, rfl, rfl⟩

@[simp] theorem State.modDelivery_writes (b : BayIx) (f : Delivery → Delivery) :
    (s.modDelivery b f).bays = s.bays.modify b (fun y => { y with delivery := f y.delivery }) := rfl

@[simp] theorem State.modDelivery_leaves (b : BayIx) (f : Delivery → Delivery) :
    (s.modDelivery b f).pending = s.pending ∧ (s.modDelivery b f).heldInReset = s.heldInReset
    ∧ (s.modDelivery b f).resetPinTaken = s.resetPinTaken ∧ (s.modDelivery b f).now = s.now
    ∧ (s.modDelivery b f).siteOffset = s.siteOffset ∧ (s.modDelivery b f).index = s.index
    ∧ (s.modDelivery b f).waitlist = s.waitlist ∧ (s.modDelivery b f).early = s.early
    ∧ (s.modDelivery b f).classes = s.classes ∧ (s.modDelivery b f).cursors = s.cursors
    ∧ (s.modDelivery b f).requests = s.requests ∧ (s.modDelivery b f).expiries = s.expiries
    ∧ (s.modDelivery b f).allocator = s.allocator ∧ (s.modDelivery b f).timing = s.timing
    ∧ (s.modDelivery b f).nodes = s.nodes ∧ (s.modDelivery b f).kinds = s.kinds
    ∧ (s.modDelivery b f).uplink = s.uplink ∧ (s.modDelivery b f).downlink = s.downlink
    ∧ (s.modDelivery b f).noticeTag = s.noticeTag ∧ (s.modDelivery b f).scheduler = s.scheduler
    ∧ (s.modDelivery b f).suspension = s.suspension ∧ (s.modDelivery b f).recorder = s.recorder
    ∧ (s.modDelivery b f).scrubber = s.scrubber ∧ (s.modDelivery b f).management = s.management
    ∧ (s.modDelivery b f).controller = s.controller := by
  refine ⟨rfl, rfl, rfl, rfl, rfl, rfl, rfl, rfl, rfl, rfl, rfl, rfl, rfl, rfl, rfl, rfl, rfl, rfl, rfl, rfl, rfl, rfl, rfl, rfl, rfl⟩

@[simp] theorem State.modTimer_writes (b : BayIx) (f : BayTimer → BayTimer) :
    (s.modTimer b f).bays = s.bays.modify b (fun y => { y with timer := f y.timer }) := rfl

@[simp] theorem State.modTimer_leaves (b : BayIx) (f : BayTimer → BayTimer) :
    (s.modTimer b f).pending = s.pending ∧ (s.modTimer b f).heldInReset = s.heldInReset
    ∧ (s.modTimer b f).resetPinTaken = s.resetPinTaken ∧ (s.modTimer b f).now = s.now
    ∧ (s.modTimer b f).siteOffset = s.siteOffset ∧ (s.modTimer b f).index = s.index
    ∧ (s.modTimer b f).waitlist = s.waitlist ∧ (s.modTimer b f).early = s.early
    ∧ (s.modTimer b f).classes = s.classes ∧ (s.modTimer b f).cursors = s.cursors
    ∧ (s.modTimer b f).requests = s.requests ∧ (s.modTimer b f).expiries = s.expiries
    ∧ (s.modTimer b f).allocator = s.allocator ∧ (s.modTimer b f).timing = s.timing
    ∧ (s.modTimer b f).nodes = s.nodes ∧ (s.modTimer b f).kinds = s.kinds ∧ (s.modTimer b f).uplink = s.uplink
    ∧ (s.modTimer b f).downlink = s.downlink ∧ (s.modTimer b f).noticeTag = s.noticeTag
    ∧ (s.modTimer b f).scheduler = s.scheduler ∧ (s.modTimer b f).suspension = s.suspension
    ∧ (s.modTimer b f).recorder = s.recorder ∧ (s.modTimer b f).scrubber = s.scrubber
    ∧ (s.modTimer b f).management = s.management ∧ (s.modTimer b f).controller = s.controller := by
  refine ⟨rfl, rfl, rfl, rfl, rfl, rfl, rfl, rfl, rfl, rfl, rfl, rfl, rfl, rfl, rfl, rfl, rfl, rfl, rfl, rfl, rfl, rfl, rfl, rfl, rfl⟩

@[simp] theorem State.clearRotation_writes (b : BayIx) :
    (s.clearRotation b).bays = s.bays.modify b (fun y => { y with timer := { y.timer with rotation := .clear } }) := rfl

@[simp] theorem State.clearRotation_leaves (b : BayIx) :
    (s.clearRotation b).pending = s.pending ∧ (s.clearRotation b).heldInReset = s.heldInReset
    ∧ (s.clearRotation b).resetPinTaken = s.resetPinTaken ∧ (s.clearRotation b).now = s.now
    ∧ (s.clearRotation b).siteOffset = s.siteOffset ∧ (s.clearRotation b).index = s.index
    ∧ (s.clearRotation b).waitlist = s.waitlist ∧ (s.clearRotation b).early = s.early
    ∧ (s.clearRotation b).classes = s.classes ∧ (s.clearRotation b).cursors = s.cursors
    ∧ (s.clearRotation b).requests = s.requests ∧ (s.clearRotation b).expiries = s.expiries
    ∧ (s.clearRotation b).allocator = s.allocator ∧ (s.clearRotation b).timing = s.timing
    ∧ (s.clearRotation b).nodes = s.nodes ∧ (s.clearRotation b).kinds = s.kinds
    ∧ (s.clearRotation b).uplink = s.uplink ∧ (s.clearRotation b).downlink = s.downlink
    ∧ (s.clearRotation b).noticeTag = s.noticeTag ∧ (s.clearRotation b).scheduler = s.scheduler
    ∧ (s.clearRotation b).suspension = s.suspension ∧ (s.clearRotation b).recorder = s.recorder
    ∧ (s.clearRotation b).scrubber = s.scrubber ∧ (s.clearRotation b).management = s.management
    ∧ (s.clearRotation b).controller = s.controller := by
  refine ⟨rfl, rfl, rfl, rfl, rfl, rfl, rfl, rfl, rfl, rfl, rfl, rfl, rfl, rfl, rfl, rfl, rfl, rfl, rfl, rfl, rfl, rfl, rfl, rfl, rfl⟩

@[simp] theorem State.unindex_writes (t : Ticket) :
    (s.unindex t).index = s.index.filter (fun e => e.ticket != t) := rfl

@[simp] theorem State.unindex_leaves (t : Ticket) :
    (s.unindex t).pending = s.pending ∧ (s.unindex t).heldInReset = s.heldInReset
    ∧ (s.unindex t).resetPinTaken = s.resetPinTaken ∧ (s.unindex t).now = s.now
    ∧ (s.unindex t).siteOffset = s.siteOffset ∧ (s.unindex t).bays = s.bays
    ∧ (s.unindex t).waitlist = s.waitlist ∧ (s.unindex t).early = s.early ∧ (s.unindex t).classes = s.classes
    ∧ (s.unindex t).cursors = s.cursors ∧ (s.unindex t).requests = s.requests
    ∧ (s.unindex t).expiries = s.expiries ∧ (s.unindex t).allocator = s.allocator
    ∧ (s.unindex t).timing = s.timing ∧ (s.unindex t).nodes = s.nodes ∧ (s.unindex t).kinds = s.kinds
    ∧ (s.unindex t).uplink = s.uplink ∧ (s.unindex t).downlink = s.downlink
    ∧ (s.unindex t).noticeTag = s.noticeTag ∧ (s.unindex t).scheduler = s.scheduler
    ∧ (s.unindex t).suspension = s.suspension ∧ (s.unindex t).recorder = s.recorder
    ∧ (s.unindex t).scrubber = s.scrubber ∧ (s.unindex t).management = s.management
    ∧ (s.unindex t).controller = s.controller := by
  refine ⟨rfl, rfl, rfl, rfl, rfl, rfl, rfl, rfl, rfl, rfl, rfl, rfl, rfl, rfl, rfl, rfl, rfl, rfl, rfl, rfl, rfl, rfl, rfl, rfl, rfl⟩

@[simp] theorem State.setQueue_writes (q : List ChargeEntry) :
    (s.setQueue q).allocator = { s.allocator with queue := q } := rfl

@[simp] theorem State.setQueue_leaves (q : List ChargeEntry) :
    (s.setQueue q).pending = s.pending ∧ (s.setQueue q).heldInReset = s.heldInReset
    ∧ (s.setQueue q).resetPinTaken = s.resetPinTaken ∧ (s.setQueue q).now = s.now
    ∧ (s.setQueue q).siteOffset = s.siteOffset ∧ (s.setQueue q).bays = s.bays ∧ (s.setQueue q).index = s.index
    ∧ (s.setQueue q).waitlist = s.waitlist ∧ (s.setQueue q).early = s.early ∧ (s.setQueue q).classes = s.classes
    ∧ (s.setQueue q).cursors = s.cursors ∧ (s.setQueue q).requests = s.requests
    ∧ (s.setQueue q).expiries = s.expiries ∧ (s.setQueue q).timing = s.timing ∧ (s.setQueue q).nodes = s.nodes
    ∧ (s.setQueue q).kinds = s.kinds ∧ (s.setQueue q).uplink = s.uplink ∧ (s.setQueue q).downlink = s.downlink
    ∧ (s.setQueue q).noticeTag = s.noticeTag ∧ (s.setQueue q).scheduler = s.scheduler
    ∧ (s.setQueue q).suspension = s.suspension ∧ (s.setQueue q).recorder = s.recorder
    ∧ (s.setQueue q).scrubber = s.scrubber ∧ (s.setQueue q).management = s.management
    ∧ (s.setQueue q).controller = s.controller := by
  refine ⟨rfl, rfl, rfl, rfl, rfl, rfl, rfl, rfl, rfl, rfl, rfl, rfl, rfl, rfl, rfl, rfl, rfl, rfl, rfl, rfl, rfl, rfl, rfl, rfl, rfl⟩

@[simp] theorem State.setWaitlist_writes (l : List WaitEntry) :
    (s.setWaitlist l).waitlist = l := rfl

@[simp] theorem State.setWaitlist_leaves (l : List WaitEntry) :
    (s.setWaitlist l).pending = s.pending ∧ (s.setWaitlist l).heldInReset = s.heldInReset
    ∧ (s.setWaitlist l).resetPinTaken = s.resetPinTaken ∧ (s.setWaitlist l).now = s.now
    ∧ (s.setWaitlist l).siteOffset = s.siteOffset ∧ (s.setWaitlist l).bays = s.bays
    ∧ (s.setWaitlist l).index = s.index ∧ (s.setWaitlist l).early = s.early
    ∧ (s.setWaitlist l).classes = s.classes ∧ (s.setWaitlist l).cursors = s.cursors
    ∧ (s.setWaitlist l).requests = s.requests ∧ (s.setWaitlist l).expiries = s.expiries
    ∧ (s.setWaitlist l).allocator = s.allocator ∧ (s.setWaitlist l).timing = s.timing
    ∧ (s.setWaitlist l).nodes = s.nodes ∧ (s.setWaitlist l).kinds = s.kinds
    ∧ (s.setWaitlist l).uplink = s.uplink ∧ (s.setWaitlist l).downlink = s.downlink
    ∧ (s.setWaitlist l).noticeTag = s.noticeTag ∧ (s.setWaitlist l).scheduler = s.scheduler
    ∧ (s.setWaitlist l).suspension = s.suspension ∧ (s.setWaitlist l).recorder = s.recorder
    ∧ (s.setWaitlist l).scrubber = s.scrubber ∧ (s.setWaitlist l).management = s.management
    ∧ (s.setWaitlist l).controller = s.controller := by
  refine ⟨rfl, rfl, rfl, rfl, rfl, rfl, rfl, rfl, rfl, rfl, rfl, rfl, rfl, rfl, rfl, rfl, rfl, rfl, rfl, rfl, rfl, rfl, rfl, rfl, rfl⟩

@[simp] theorem State.modContact_writes (a : Addr) (f : Contact → Contact) :
    (s.modContact a f).nodes = s.nodes.modify (addrIx a) (fun e => { e with contact := e.contact.map f }) := rfl

@[simp] theorem State.modContact_leaves (a : Addr) (f : Contact → Contact) :
    (s.modContact a f).pending = s.pending ∧ (s.modContact a f).heldInReset = s.heldInReset
    ∧ (s.modContact a f).resetPinTaken = s.resetPinTaken ∧ (s.modContact a f).now = s.now
    ∧ (s.modContact a f).siteOffset = s.siteOffset ∧ (s.modContact a f).bays = s.bays
    ∧ (s.modContact a f).index = s.index ∧ (s.modContact a f).waitlist = s.waitlist
    ∧ (s.modContact a f).early = s.early ∧ (s.modContact a f).classes = s.classes
    ∧ (s.modContact a f).cursors = s.cursors ∧ (s.modContact a f).requests = s.requests
    ∧ (s.modContact a f).expiries = s.expiries ∧ (s.modContact a f).allocator = s.allocator
    ∧ (s.modContact a f).timing = s.timing ∧ (s.modContact a f).kinds = s.kinds
    ∧ (s.modContact a f).uplink = s.uplink ∧ (s.modContact a f).downlink = s.downlink
    ∧ (s.modContact a f).noticeTag = s.noticeTag ∧ (s.modContact a f).scheduler = s.scheduler
    ∧ (s.modContact a f).suspension = s.suspension ∧ (s.modContact a f).recorder = s.recorder
    ∧ (s.modContact a f).scrubber = s.scrubber ∧ (s.modContact a f).management = s.management
    ∧ (s.modContact a f).controller = s.controller := by
  refine ⟨rfl, rfl, rfl, rfl, rfl, rfl, rfl, rfl, rfl, rfl, rfl, rfl, rfl, rfl, rfl, rfl, rfl, rfl, rfl, rfl, rfl, rfl, rfl, rfl, rfl⟩

@[simp] theorem State.modScheduler_writes (f : Scheduler → Scheduler) :
    (s.modScheduler f).scheduler = f s.scheduler := rfl

@[simp] theorem State.modScheduler_leaves (f : Scheduler → Scheduler) :
    (s.modScheduler f).pending = s.pending ∧ (s.modScheduler f).heldInReset = s.heldInReset
    ∧ (s.modScheduler f).resetPinTaken = s.resetPinTaken ∧ (s.modScheduler f).now = s.now
    ∧ (s.modScheduler f).siteOffset = s.siteOffset ∧ (s.modScheduler f).bays = s.bays
    ∧ (s.modScheduler f).index = s.index ∧ (s.modScheduler f).waitlist = s.waitlist
    ∧ (s.modScheduler f).early = s.early ∧ (s.modScheduler f).classes = s.classes
    ∧ (s.modScheduler f).cursors = s.cursors ∧ (s.modScheduler f).requests = s.requests
    ∧ (s.modScheduler f).expiries = s.expiries ∧ (s.modScheduler f).allocator = s.allocator
    ∧ (s.modScheduler f).timing = s.timing ∧ (s.modScheduler f).nodes = s.nodes
    ∧ (s.modScheduler f).kinds = s.kinds ∧ (s.modScheduler f).uplink = s.uplink
    ∧ (s.modScheduler f).downlink = s.downlink ∧ (s.modScheduler f).noticeTag = s.noticeTag
    ∧ (s.modScheduler f).suspension = s.suspension ∧ (s.modScheduler f).recorder = s.recorder
    ∧ (s.modScheduler f).scrubber = s.scrubber ∧ (s.modScheduler f).management = s.management
    ∧ (s.modScheduler f).controller = s.controller := by
  refine ⟨rfl, rfl, rfl, rfl, rfl, rfl, rfl, rfl, rfl, rfl, rfl, rfl, rfl, rfl, rfl, rfl, rfl, rfl, rfl, rfl, rfl, rfl, rfl, rfl, rfl⟩

@[simp] theorem State.setTransaction_writes (t : Option Transaction) :
    (s.setTransaction t).scheduler = { s.scheduler with transaction := t } := rfl

@[simp] theorem State.setTransaction_leaves (t : Option Transaction) :
    (s.setTransaction t).pending = s.pending ∧ (s.setTransaction t).heldInReset = s.heldInReset
    ∧ (s.setTransaction t).resetPinTaken = s.resetPinTaken ∧ (s.setTransaction t).now = s.now
    ∧ (s.setTransaction t).siteOffset = s.siteOffset ∧ (s.setTransaction t).bays = s.bays
    ∧ (s.setTransaction t).index = s.index ∧ (s.setTransaction t).waitlist = s.waitlist
    ∧ (s.setTransaction t).early = s.early ∧ (s.setTransaction t).classes = s.classes
    ∧ (s.setTransaction t).cursors = s.cursors ∧ (s.setTransaction t).requests = s.requests
    ∧ (s.setTransaction t).expiries = s.expiries ∧ (s.setTransaction t).allocator = s.allocator
    ∧ (s.setTransaction t).timing = s.timing ∧ (s.setTransaction t).nodes = s.nodes
    ∧ (s.setTransaction t).kinds = s.kinds ∧ (s.setTransaction t).uplink = s.uplink
    ∧ (s.setTransaction t).downlink = s.downlink ∧ (s.setTransaction t).noticeTag = s.noticeTag
    ∧ (s.setTransaction t).suspension = s.suspension ∧ (s.setTransaction t).recorder = s.recorder
    ∧ (s.setTransaction t).scrubber = s.scrubber ∧ (s.setTransaction t).management = s.management
    ∧ (s.setTransaction t).controller = s.controller := by
  refine ⟨rfl, rfl, rfl, rfl, rfl, rfl, rfl, rfl, rfl, rfl, rfl, rfl, rfl, rfl, rfl, rfl, rfl, rfl, rfl, rfl, rfl, rfl, rfl, rfl, rfl⟩

@[simp] theorem State.takeTag_writes :
    (s.takeTag).scheduler = { s.scheduler with tag := s.scheduler.tag + 1 } := rfl

@[simp] theorem State.takeTag_leaves :
    (s.takeTag).pending = s.pending ∧ (s.takeTag).heldInReset = s.heldInReset
    ∧ (s.takeTag).resetPinTaken = s.resetPinTaken ∧ (s.takeTag).now = s.now
    ∧ (s.takeTag).siteOffset = s.siteOffset ∧ (s.takeTag).bays = s.bays ∧ (s.takeTag).index = s.index
    ∧ (s.takeTag).waitlist = s.waitlist ∧ (s.takeTag).early = s.early ∧ (s.takeTag).classes = s.classes
    ∧ (s.takeTag).cursors = s.cursors ∧ (s.takeTag).requests = s.requests ∧ (s.takeTag).expiries = s.expiries
    ∧ (s.takeTag).allocator = s.allocator ∧ (s.takeTag).timing = s.timing ∧ (s.takeTag).nodes = s.nodes
    ∧ (s.takeTag).kinds = s.kinds ∧ (s.takeTag).uplink = s.uplink ∧ (s.takeTag).downlink = s.downlink
    ∧ (s.takeTag).noticeTag = s.noticeTag ∧ (s.takeTag).suspension = s.suspension
    ∧ (s.takeTag).recorder = s.recorder ∧ (s.takeTag).scrubber = s.scrubber
    ∧ (s.takeTag).management = s.management ∧ (s.takeTag).controller = s.controller := by
  refine ⟨rfl, rfl, rfl, rfl, rfl, rfl, rfl, rfl, rfl, rfl, rfl, rfl, rfl, rfl, rfl, rfl, rfl, rfl, rfl, rfl, rfl, rfl, rfl, rfl, rfl⟩

@[simp] theorem State.begin_writes (k : TransactionKind) (g : Frame) :
    (s.begin k g).scheduler = { s.scheduler with transaction := some ⟨k, g, false, s.timing.window, .waiting, false⟩ } := rfl

@[simp] theorem State.begin_leaves (k : TransactionKind) (g : Frame) :
    (s.begin k g).pending = s.pending ∧ (s.begin k g).heldInReset = s.heldInReset
    ∧ (s.begin k g).resetPinTaken = s.resetPinTaken ∧ (s.begin k g).now = s.now
    ∧ (s.begin k g).siteOffset = s.siteOffset ∧ (s.begin k g).bays = s.bays ∧ (s.begin k g).index = s.index
    ∧ (s.begin k g).waitlist = s.waitlist ∧ (s.begin k g).early = s.early ∧ (s.begin k g).classes = s.classes
    ∧ (s.begin k g).cursors = s.cursors ∧ (s.begin k g).requests = s.requests
    ∧ (s.begin k g).expiries = s.expiries ∧ (s.begin k g).allocator = s.allocator
    ∧ (s.begin k g).timing = s.timing ∧ (s.begin k g).nodes = s.nodes ∧ (s.begin k g).kinds = s.kinds
    ∧ (s.begin k g).uplink = s.uplink ∧ (s.begin k g).downlink = s.downlink
    ∧ (s.begin k g).noticeTag = s.noticeTag ∧ (s.begin k g).suspension = s.suspension
    ∧ (s.begin k g).recorder = s.recorder ∧ (s.begin k g).scrubber = s.scrubber
    ∧ (s.begin k g).management = s.management ∧ (s.begin k g).controller = s.controller := by
  refine ⟨rfl, rfl, rfl, rfl, rfl, rfl, rfl, rfl, rfl, rfl, rfl, rfl, rfl, rfl, rfl, rfl, rfl, rfl, rfl, rfl, rfl, rfl, rfl, rfl, rfl⟩

@[simp] theorem State.setSuspended_writes_suspension (v : Bool) :
    (s.setSuspended v).suspension = { s.suspension with suspended := v } := rfl

@[simp] theorem State.setSuspended_writes_allocator (v : Bool) :
    (s.setSuspended v).allocator = { s.allocator with suspendedCopy := v } := rfl

@[simp] theorem State.setSuspended_leaves (v : Bool) :
    (s.setSuspended v).pending = s.pending ∧ (s.setSuspended v).heldInReset = s.heldInReset
    ∧ (s.setSuspended v).resetPinTaken = s.resetPinTaken ∧ (s.setSuspended v).now = s.now
    ∧ (s.setSuspended v).siteOffset = s.siteOffset ∧ (s.setSuspended v).bays = s.bays
    ∧ (s.setSuspended v).index = s.index ∧ (s.setSuspended v).waitlist = s.waitlist
    ∧ (s.setSuspended v).early = s.early ∧ (s.setSuspended v).classes = s.classes
    ∧ (s.setSuspended v).cursors = s.cursors ∧ (s.setSuspended v).requests = s.requests
    ∧ (s.setSuspended v).expiries = s.expiries ∧ (s.setSuspended v).timing = s.timing
    ∧ (s.setSuspended v).nodes = s.nodes ∧ (s.setSuspended v).kinds = s.kinds
    ∧ (s.setSuspended v).uplink = s.uplink ∧ (s.setSuspended v).downlink = s.downlink
    ∧ (s.setSuspended v).noticeTag = s.noticeTag ∧ (s.setSuspended v).scheduler = s.scheduler
    ∧ (s.setSuspended v).recorder = s.recorder ∧ (s.setSuspended v).scrubber = s.scrubber
    ∧ (s.setSuspended v).management = s.management ∧ (s.setSuspended v).controller = s.controller := by
  refine ⟨rfl, rfl, rfl, rfl, rfl, rfl, rfl, rfl, rfl, rfl, rfl, rfl, rfl, rfl, rfl, rfl, rfl, rfl, rfl, rfl, rfl, rfl, rfl, rfl⟩

@[simp] theorem State.pushUplink_writes (g : Frame) :
    (s.pushUplink g).uplink = { s.uplink with fifo := s.uplink.fifo ++ [g] } := rfl

@[simp] theorem State.pushUplink_leaves (g : Frame) :
    (s.pushUplink g).pending = s.pending ∧ (s.pushUplink g).heldInReset = s.heldInReset
    ∧ (s.pushUplink g).resetPinTaken = s.resetPinTaken ∧ (s.pushUplink g).now = s.now
    ∧ (s.pushUplink g).siteOffset = s.siteOffset ∧ (s.pushUplink g).bays = s.bays
    ∧ (s.pushUplink g).index = s.index ∧ (s.pushUplink g).waitlist = s.waitlist
    ∧ (s.pushUplink g).early = s.early ∧ (s.pushUplink g).classes = s.classes
    ∧ (s.pushUplink g).cursors = s.cursors ∧ (s.pushUplink g).requests = s.requests
    ∧ (s.pushUplink g).expiries = s.expiries ∧ (s.pushUplink g).allocator = s.allocator
    ∧ (s.pushUplink g).timing = s.timing ∧ (s.pushUplink g).nodes = s.nodes ∧ (s.pushUplink g).kinds = s.kinds
    ∧ (s.pushUplink g).downlink = s.downlink ∧ (s.pushUplink g).noticeTag = s.noticeTag
    ∧ (s.pushUplink g).scheduler = s.scheduler ∧ (s.pushUplink g).suspension = s.suspension
    ∧ (s.pushUplink g).recorder = s.recorder ∧ (s.pushUplink g).scrubber = s.scrubber
    ∧ (s.pushUplink g).management = s.management ∧ (s.pushUplink g).controller = s.controller := by
  refine ⟨rfl, rfl, rfl, rfl, rfl, rfl, rfl, rfl, rfl, rfl, rfl, rfl, rfl, rfl, rfl, rfl, rfl, rfl, rfl, rfl, rfl, rfl, rfl, rfl, rfl⟩

@[simp] theorem State.setUplinkSending_writes (g : Option Frame) :
    (s.setUplinkSending g).uplink = { s.uplink with sending := g } := rfl

@[simp] theorem State.setUplinkSending_leaves (g : Option Frame) :
    (s.setUplinkSending g).pending = s.pending ∧ (s.setUplinkSending g).heldInReset = s.heldInReset
    ∧ (s.setUplinkSending g).resetPinTaken = s.resetPinTaken ∧ (s.setUplinkSending g).now = s.now
    ∧ (s.setUplinkSending g).siteOffset = s.siteOffset ∧ (s.setUplinkSending g).bays = s.bays
    ∧ (s.setUplinkSending g).index = s.index ∧ (s.setUplinkSending g).waitlist = s.waitlist
    ∧ (s.setUplinkSending g).early = s.early ∧ (s.setUplinkSending g).classes = s.classes
    ∧ (s.setUplinkSending g).cursors = s.cursors ∧ (s.setUplinkSending g).requests = s.requests
    ∧ (s.setUplinkSending g).expiries = s.expiries ∧ (s.setUplinkSending g).allocator = s.allocator
    ∧ (s.setUplinkSending g).timing = s.timing ∧ (s.setUplinkSending g).nodes = s.nodes
    ∧ (s.setUplinkSending g).kinds = s.kinds ∧ (s.setUplinkSending g).downlink = s.downlink
    ∧ (s.setUplinkSending g).noticeTag = s.noticeTag ∧ (s.setUplinkSending g).scheduler = s.scheduler
    ∧ (s.setUplinkSending g).suspension = s.suspension ∧ (s.setUplinkSending g).recorder = s.recorder
    ∧ (s.setUplinkSending g).scrubber = s.scrubber ∧ (s.setUplinkSending g).management = s.management
    ∧ (s.setUplinkSending g).controller = s.controller := by
  refine ⟨rfl, rfl, rfl, rfl, rfl, rfl, rfl, rfl, rfl, rfl, rfl, rfl, rfl, rfl, rfl, rfl, rfl, rfl, rfl, rfl, rfl, rfl, rfl, rfl, rfl⟩

@[simp] theorem State.setDownlinkSending_writes (g : Option Frame) :
    (s.setDownlinkSending g).downlink = { s.downlink with sending := g } := rfl

@[simp] theorem State.setDownlinkSending_leaves (g : Option Frame) :
    (s.setDownlinkSending g).pending = s.pending ∧ (s.setDownlinkSending g).heldInReset = s.heldInReset
    ∧ (s.setDownlinkSending g).resetPinTaken = s.resetPinTaken ∧ (s.setDownlinkSending g).now = s.now
    ∧ (s.setDownlinkSending g).siteOffset = s.siteOffset ∧ (s.setDownlinkSending g).bays = s.bays
    ∧ (s.setDownlinkSending g).index = s.index ∧ (s.setDownlinkSending g).waitlist = s.waitlist
    ∧ (s.setDownlinkSending g).early = s.early ∧ (s.setDownlinkSending g).classes = s.classes
    ∧ (s.setDownlinkSending g).cursors = s.cursors ∧ (s.setDownlinkSending g).requests = s.requests
    ∧ (s.setDownlinkSending g).expiries = s.expiries ∧ (s.setDownlinkSending g).allocator = s.allocator
    ∧ (s.setDownlinkSending g).timing = s.timing ∧ (s.setDownlinkSending g).nodes = s.nodes
    ∧ (s.setDownlinkSending g).kinds = s.kinds ∧ (s.setDownlinkSending g).uplink = s.uplink
    ∧ (s.setDownlinkSending g).noticeTag = s.noticeTag ∧ (s.setDownlinkSending g).scheduler = s.scheduler
    ∧ (s.setDownlinkSending g).suspension = s.suspension ∧ (s.setDownlinkSending g).recorder = s.recorder
    ∧ (s.setDownlinkSending g).scrubber = s.scrubber ∧ (s.setDownlinkSending g).management = s.management
    ∧ (s.setDownlinkSending g).controller = s.controller := by
  refine ⟨rfl, rfl, rfl, rfl, rfl, rfl, rfl, rfl, rfl, rfl, rfl, rfl, rfl, rfl, rfl, rfl, rfl, rfl, rfl, rfl, rfl, rfl, rfl, rfl, rfl⟩

@[simp] theorem State.uplinkStart_writes :
    (s.uplinkStart).uplink = { s.uplink with sending := s.uplink.fifo.head?, fifo := s.uplink.fifo.tail } := rfl

@[simp] theorem State.uplinkStart_leaves :
    (s.uplinkStart).pending = s.pending ∧ (s.uplinkStart).heldInReset = s.heldInReset
    ∧ (s.uplinkStart).resetPinTaken = s.resetPinTaken ∧ (s.uplinkStart).now = s.now
    ∧ (s.uplinkStart).siteOffset = s.siteOffset ∧ (s.uplinkStart).bays = s.bays
    ∧ (s.uplinkStart).index = s.index ∧ (s.uplinkStart).waitlist = s.waitlist ∧ (s.uplinkStart).early = s.early
    ∧ (s.uplinkStart).classes = s.classes ∧ (s.uplinkStart).cursors = s.cursors
    ∧ (s.uplinkStart).requests = s.requests ∧ (s.uplinkStart).expiries = s.expiries
    ∧ (s.uplinkStart).allocator = s.allocator ∧ (s.uplinkStart).timing = s.timing
    ∧ (s.uplinkStart).nodes = s.nodes ∧ (s.uplinkStart).kinds = s.kinds ∧ (s.uplinkStart).downlink = s.downlink
    ∧ (s.uplinkStart).noticeTag = s.noticeTag ∧ (s.uplinkStart).scheduler = s.scheduler
    ∧ (s.uplinkStart).suspension = s.suspension ∧ (s.uplinkStart).recorder = s.recorder
    ∧ (s.uplinkStart).scrubber = s.scrubber ∧ (s.uplinkStart).management = s.management
    ∧ (s.uplinkStart).controller = s.controller := by
  refine ⟨rfl, rfl, rfl, rfl, rfl, rfl, rfl, rfl, rfl, rfl, rfl, rfl, rfl, rfl, rfl, rfl, rfl, rfl, rfl, rfl, rfl, rfl, rfl, rfl, rfl⟩

@[simp] theorem State.dropExpiry_writes (x : Expiry) :
    (s.dropExpiry x).expiries = s.expiries.erase x := rfl

@[simp] theorem State.dropExpiry_leaves (x : Expiry) :
    (s.dropExpiry x).pending = s.pending ∧ (s.dropExpiry x).heldInReset = s.heldInReset
    ∧ (s.dropExpiry x).resetPinTaken = s.resetPinTaken ∧ (s.dropExpiry x).now = s.now
    ∧ (s.dropExpiry x).siteOffset = s.siteOffset ∧ (s.dropExpiry x).bays = s.bays
    ∧ (s.dropExpiry x).index = s.index ∧ (s.dropExpiry x).waitlist = s.waitlist
    ∧ (s.dropExpiry x).early = s.early ∧ (s.dropExpiry x).classes = s.classes
    ∧ (s.dropExpiry x).cursors = s.cursors ∧ (s.dropExpiry x).requests = s.requests
    ∧ (s.dropExpiry x).allocator = s.allocator ∧ (s.dropExpiry x).timing = s.timing
    ∧ (s.dropExpiry x).nodes = s.nodes ∧ (s.dropExpiry x).kinds = s.kinds ∧ (s.dropExpiry x).uplink = s.uplink
    ∧ (s.dropExpiry x).downlink = s.downlink ∧ (s.dropExpiry x).noticeTag = s.noticeTag
    ∧ (s.dropExpiry x).scheduler = s.scheduler ∧ (s.dropExpiry x).suspension = s.suspension
    ∧ (s.dropExpiry x).recorder = s.recorder ∧ (s.dropExpiry x).scrubber = s.scrubber
    ∧ (s.dropExpiry x).management = s.management ∧ (s.dropExpiry x).controller = s.controller := by
  refine ⟨rfl, rfl, rfl, rfl, rfl, rfl, rfl, rfl, rfl, rfl, rfl, rfl, rfl, rfl, rfl, rfl, rfl, rfl, rfl, rfl, rfl, rfl, rfl, rfl, rfl⟩

@[simp] theorem State.removeEarly_writes (t : Ticket) :
    (s.removeEarly t).early = s.early.filter (fun e => e.ticket != t) := rfl

@[simp] theorem State.removeEarly_leaves (t : Ticket) :
    (s.removeEarly t).pending = s.pending ∧ (s.removeEarly t).heldInReset = s.heldInReset
    ∧ (s.removeEarly t).resetPinTaken = s.resetPinTaken ∧ (s.removeEarly t).now = s.now
    ∧ (s.removeEarly t).siteOffset = s.siteOffset ∧ (s.removeEarly t).bays = s.bays
    ∧ (s.removeEarly t).index = s.index ∧ (s.removeEarly t).waitlist = s.waitlist
    ∧ (s.removeEarly t).classes = s.classes ∧ (s.removeEarly t).cursors = s.cursors
    ∧ (s.removeEarly t).requests = s.requests ∧ (s.removeEarly t).expiries = s.expiries
    ∧ (s.removeEarly t).allocator = s.allocator ∧ (s.removeEarly t).timing = s.timing
    ∧ (s.removeEarly t).nodes = s.nodes ∧ (s.removeEarly t).kinds = s.kinds
    ∧ (s.removeEarly t).uplink = s.uplink ∧ (s.removeEarly t).downlink = s.downlink
    ∧ (s.removeEarly t).noticeTag = s.noticeTag ∧ (s.removeEarly t).scheduler = s.scheduler
    ∧ (s.removeEarly t).suspension = s.suspension ∧ (s.removeEarly t).recorder = s.recorder
    ∧ (s.removeEarly t).scrubber = s.scrubber ∧ (s.removeEarly t).management = s.management
    ∧ (s.removeEarly t).controller = s.controller := by
  refine ⟨rfl, rfl, rfl, rfl, rfl, rfl, rfl, rfl, rfl, rfl, rfl, rfl, rfl, rfl, rfl, rfl, rfl, rfl, rfl, rfl, rfl, rfl, rfl, rfl, rfl⟩

@[simp] theorem State.setCap_writes (c : Option Nat) :
    (s.setCap c).allocator = { s.allocator with settings := { s.allocator.settings with cap := c } } := rfl

@[simp] theorem State.setCap_leaves (c : Option Nat) :
    (s.setCap c).pending = s.pending ∧ (s.setCap c).heldInReset = s.heldInReset
    ∧ (s.setCap c).resetPinTaken = s.resetPinTaken ∧ (s.setCap c).now = s.now
    ∧ (s.setCap c).siteOffset = s.siteOffset ∧ (s.setCap c).bays = s.bays ∧ (s.setCap c).index = s.index
    ∧ (s.setCap c).waitlist = s.waitlist ∧ (s.setCap c).early = s.early ∧ (s.setCap c).classes = s.classes
    ∧ (s.setCap c).cursors = s.cursors ∧ (s.setCap c).requests = s.requests ∧ (s.setCap c).expiries = s.expiries
    ∧ (s.setCap c).timing = s.timing ∧ (s.setCap c).nodes = s.nodes ∧ (s.setCap c).kinds = s.kinds
    ∧ (s.setCap c).uplink = s.uplink ∧ (s.setCap c).downlink = s.downlink ∧ (s.setCap c).noticeTag = s.noticeTag
    ∧ (s.setCap c).scheduler = s.scheduler ∧ (s.setCap c).suspension = s.suspension
    ∧ (s.setCap c).recorder = s.recorder ∧ (s.setCap c).scrubber = s.scrubber
    ∧ (s.setCap c).management = s.management ∧ (s.setCap c).controller = s.controller := by
  refine ⟨rfl, rfl, rfl, rfl, rfl, rfl, rfl, rfl, rfl, rfl, rfl, rfl, rfl, rfl, rfl, rfl, rfl, rfl, rfl, rfl, rfl, rfl, rfl, rfl, rfl⟩

@[simp] theorem State.writeFaultSettings_writes (g : FaultSettings) :
    (s.writeFaultSettings g).recorder = Recorder.evalAlert { s.recorder with settings := g } := rfl

@[simp] theorem State.writeFaultSettings_leaves (g : FaultSettings) :
    (s.writeFaultSettings g).pending = s.pending ∧ (s.writeFaultSettings g).heldInReset = s.heldInReset
    ∧ (s.writeFaultSettings g).resetPinTaken = s.resetPinTaken ∧ (s.writeFaultSettings g).now = s.now
    ∧ (s.writeFaultSettings g).siteOffset = s.siteOffset ∧ (s.writeFaultSettings g).bays = s.bays
    ∧ (s.writeFaultSettings g).index = s.index ∧ (s.writeFaultSettings g).waitlist = s.waitlist
    ∧ (s.writeFaultSettings g).early = s.early ∧ (s.writeFaultSettings g).classes = s.classes
    ∧ (s.writeFaultSettings g).cursors = s.cursors ∧ (s.writeFaultSettings g).requests = s.requests
    ∧ (s.writeFaultSettings g).expiries = s.expiries ∧ (s.writeFaultSettings g).allocator = s.allocator
    ∧ (s.writeFaultSettings g).timing = s.timing ∧ (s.writeFaultSettings g).nodes = s.nodes
    ∧ (s.writeFaultSettings g).kinds = s.kinds ∧ (s.writeFaultSettings g).uplink = s.uplink
    ∧ (s.writeFaultSettings g).downlink = s.downlink ∧ (s.writeFaultSettings g).noticeTag = s.noticeTag
    ∧ (s.writeFaultSettings g).scheduler = s.scheduler ∧ (s.writeFaultSettings g).suspension = s.suspension
    ∧ (s.writeFaultSettings g).scrubber = s.scrubber ∧ (s.writeFaultSettings g).management = s.management
    ∧ (s.writeFaultSettings g).controller = s.controller := by
  refine ⟨rfl, rfl, rfl, rfl, rfl, rfl, rfl, rfl, rfl, rfl, rfl, rfl, rfl, rfl, rfl, rfl, rfl, rfl, rfl, rfl, rfl, rfl, rfl, rfl, rfl⟩

@[simp] theorem State.clearLog_writes (sev : Fin 3) :
    (s.clearLog sev).recorder = s.recorder.setLog sev SeverityLog.cleared := rfl

@[simp] theorem State.clearLog_leaves (sev : Fin 3) :
    (s.clearLog sev).pending = s.pending ∧ (s.clearLog sev).heldInReset = s.heldInReset
    ∧ (s.clearLog sev).resetPinTaken = s.resetPinTaken ∧ (s.clearLog sev).now = s.now
    ∧ (s.clearLog sev).siteOffset = s.siteOffset ∧ (s.clearLog sev).bays = s.bays
    ∧ (s.clearLog sev).index = s.index ∧ (s.clearLog sev).waitlist = s.waitlist
    ∧ (s.clearLog sev).early = s.early ∧ (s.clearLog sev).classes = s.classes
    ∧ (s.clearLog sev).cursors = s.cursors ∧ (s.clearLog sev).requests = s.requests
    ∧ (s.clearLog sev).expiries = s.expiries ∧ (s.clearLog sev).allocator = s.allocator
    ∧ (s.clearLog sev).timing = s.timing ∧ (s.clearLog sev).nodes = s.nodes ∧ (s.clearLog sev).kinds = s.kinds
    ∧ (s.clearLog sev).uplink = s.uplink ∧ (s.clearLog sev).downlink = s.downlink
    ∧ (s.clearLog sev).noticeTag = s.noticeTag ∧ (s.clearLog sev).scheduler = s.scheduler
    ∧ (s.clearLog sev).suspension = s.suspension ∧ (s.clearLog sev).scrubber = s.scrubber
    ∧ (s.clearLog sev).management = s.management ∧ (s.clearLog sev).controller = s.controller := by
  refine ⟨rfl, rfl, rfl, rfl, rfl, rfl, rfl, rfl, rfl, rfl, rfl, rfl, rfl, rfl, rfl, rfl, rfl, rfl, rfl, rfl, rfl, rfl, rfl, rfl, rfl⟩

@[simp] theorem State.clearCounter_writes (c : Fin 2) :
    (s.clearCounter c).recorder = { s.recorder with counters := s.recorder.counters.set c ⟨0, false⟩ } := rfl

@[simp] theorem State.clearCounter_leaves (c : Fin 2) :
    (s.clearCounter c).pending = s.pending ∧ (s.clearCounter c).heldInReset = s.heldInReset
    ∧ (s.clearCounter c).resetPinTaken = s.resetPinTaken ∧ (s.clearCounter c).now = s.now
    ∧ (s.clearCounter c).siteOffset = s.siteOffset ∧ (s.clearCounter c).bays = s.bays
    ∧ (s.clearCounter c).index = s.index ∧ (s.clearCounter c).waitlist = s.waitlist
    ∧ (s.clearCounter c).early = s.early ∧ (s.clearCounter c).classes = s.classes
    ∧ (s.clearCounter c).cursors = s.cursors ∧ (s.clearCounter c).requests = s.requests
    ∧ (s.clearCounter c).expiries = s.expiries ∧ (s.clearCounter c).allocator = s.allocator
    ∧ (s.clearCounter c).timing = s.timing ∧ (s.clearCounter c).nodes = s.nodes
    ∧ (s.clearCounter c).kinds = s.kinds ∧ (s.clearCounter c).uplink = s.uplink
    ∧ (s.clearCounter c).downlink = s.downlink ∧ (s.clearCounter c).noticeTag = s.noticeTag
    ∧ (s.clearCounter c).scheduler = s.scheduler ∧ (s.clearCounter c).suspension = s.suspension
    ∧ (s.clearCounter c).scrubber = s.scrubber ∧ (s.clearCounter c).management = s.management
    ∧ (s.clearCounter c).controller = s.controller := by
  refine ⟨rfl, rfl, rfl, rfl, rfl, rfl, rfl, rfl, rfl, rfl, rfl, rfl, rfl, rfl, rfl, rfl, rfl, rfl, rfl, rfl, rfl, rfl, rfl, rfl, rfl⟩

@[simp] theorem State.withPending_writes (q : List Instr) :
    (s.withPending q).pending = q := rfl

@[simp] theorem State.withPending_leaves (q : List Instr) :
    (s.withPending q).heldInReset = s.heldInReset ∧ (s.withPending q).resetPinTaken = s.resetPinTaken
    ∧ (s.withPending q).now = s.now ∧ (s.withPending q).siteOffset = s.siteOffset
    ∧ (s.withPending q).bays = s.bays ∧ (s.withPending q).index = s.index
    ∧ (s.withPending q).waitlist = s.waitlist ∧ (s.withPending q).early = s.early
    ∧ (s.withPending q).classes = s.classes ∧ (s.withPending q).cursors = s.cursors
    ∧ (s.withPending q).requests = s.requests ∧ (s.withPending q).expiries = s.expiries
    ∧ (s.withPending q).allocator = s.allocator ∧ (s.withPending q).timing = s.timing
    ∧ (s.withPending q).nodes = s.nodes ∧ (s.withPending q).kinds = s.kinds
    ∧ (s.withPending q).uplink = s.uplink ∧ (s.withPending q).downlink = s.downlink
    ∧ (s.withPending q).noticeTag = s.noticeTag ∧ (s.withPending q).scheduler = s.scheduler
    ∧ (s.withPending q).suspension = s.suspension ∧ (s.withPending q).recorder = s.recorder
    ∧ (s.withPending q).scrubber = s.scrubber ∧ (s.withPending q).management = s.management
    ∧ (s.withPending q).controller = s.controller := by
  refine ⟨rfl, rfl, rfl, rfl, rfl, rfl, rfl, rfl, rfl, rfl, rfl, rfl, rfl, rfl, rfl, rfl, rfl, rfl, rfl, rfl, rfl, rfl, rfl, rfl, rfl⟩

/-! ## Reading one bay after an update -/

theorem State.bay_def (b : BayIx) : s.bay b = s.bays.get b := rfl

@[simp] theorem State.bay_modBay_same (b : BayIx) (f : Bay → Bay) : (s.modBay b f).bay b = f (s.bay b) := by
  simp [State.bay]

theorem State.bay_modBay_other {b c : BayIx} (f : Bay → Bay) (h : c ≠ b) : (s.modBay b f).bay c = s.bay c := by
  simp [State.bay, Table.get_modify_other _ _ h]

theorem State.bay_modBay (b c : BayIx) (f : Bay → Bay) :
    (s.modBay b f).bay c = if c = b then f (s.bay c) else s.bay c := by
  split
  · next h => subst h; simp
  · next h => exact s.bay_modBay_other f h

@[simp] theorem Bay.modDyn_dyn (y : Bay) (f : BayDyn → BayDyn) : (y.modDyn f).dyn = f y.dyn := by
  unfold Bay.modDyn; dsimp only; split <;> simp_all

/-- An update of the dynamic part leaves the rest of the bay. -/
@[simp] theorem Bay.modDyn_leaves (y : Bay) (f : BayDyn → BayDyn) :
    (y.modDyn f).cls = y.cls ∧ (y.modDyn f).postMax = y.postMax ∧ (y.modDyn f).allotEnable = y.allotEnable
    ∧ (y.modDyn f).savedMask = y.savedMask ∧ (y.modDyn f).timer = y.timer ∧ (y.modDyn f).alloc = y.alloc
    ∧ (y.modDyn f).delivery = y.delivery := by
  unfold Bay.modDyn; dsimp only; split <;> simp

@[simp] theorem Bay.modDyn_config (y : Bay) (f : BayDyn → BayDyn) : (y.modDyn f).config = y.config := by
  simp [Bay.config]

/-- A record whose check word agreed still agrees after an update (R3). -/
theorem Bay.modDyn_checkOk {y : Bay} (f : BayDyn → BayDyn) (h : y.checkOk = true) :
    (y.modDyn f).checkOk = true := by
  unfold Bay.modDyn; dsimp only; split
  · exact h
  · simp [Bay.checkOk]

@[simp] theorem State.dyn_modDyn_same (b : BayIx) (f : BayDyn → BayDyn) :
    ((s.modDyn b f).bay b).dyn = f (s.bay b).dyn := by simp [State.modDyn]

end Sys2Proof.Machine
end

