-- ==== Sys2Proof/Laws/Moves.lean ====
section
/-!
SUPPORT. What the shared operations of an event can do. `Prim` lists the changes of state they are made of,
`Moves` the runs of them on an event in progress; each property of a run is proved here once, from the list.
-/
namespace Sys2Proof.Machine

/-- One change of the state by a shared operation: every one leaves `still` alone and keeps the invariants. -/
inductive Prim : State → State → Prop
  /-- A bay changed outside its configuration; its target is kept or becomes 0. -/
  | bay (s : State) (b : BayIx) (f : Bay → Bay) (cfg : (f (s.bay b)).config = (s.bay b).config)
      (tgt : (f (s.bay b)).alloc.target = (s.bay b).alloc.target ∨ (f (s.bay b)).alloc.target = 0) :
      Prim s (s.modBay b f)
  /-- Every bay changed outside its configuration and its target. -/
  | bays (s : State) (f : Bay → Bay) (cfg : ∀ y, (f y).config = y.config)
      (tgt : ∀ y, (f y).alloc.target = y.alloc.target) : Prim s { s with bays := s.bays.map f }
  /-- Every target replaced by those of a recompute. -/
  | targets (s : State) (t : Table Bay 128) (cfg : t.map Bay.config = s.bays.map Bay.config)
      (sum : (allBays.map (fun b => (t.get b).alloc.target)).sum ≤ budgetOf s.allocator.settings)
      (none : s.allocator.queue = [] → ∀ b, (t.get b).alloc.target = 0) : Prim s { s with bays := t }
  | index (s : State) (l : List IndexEntry) : Prim s { s with index := l }
  | cursors (s : State) (c : Table BayIx 4) : Prim s { s with cursors := c }
  | expiries (s : State) (l : List Expiry) : Prim s { s with expiries := l }
  /-- The deadlines of the Early Arrival List. -/
  | early (s : State) (f : EarlyEntry → EarlyEntry)
      (h : ∀ e, (f e).ticket = e.ticket ∧ (f e).recorded = e.recorded) :
      Prim s { s with early := s.early.map f }
  /-- The Charge Queue; an empty one stays empty while the part is suspended. -/
  | queue (s : State) (q : List ChargeEntry)
      (h : s.allocator.suspendedCopy = true → s.allocator.queue = [] → q = []) : Prim s (s.setQueue q)
  | degraded (s : State) (v : Bool) : Prim s { s with scrubber := { s.scrubber with degraded := v } }
  | scheduler (s : State) (c : Scheduler) : Prim s { s with scheduler := c }
  /-- The forward queue gives up frames. -/
  | forward (s : State) (q : List ForwardEntry) (h : q.length ≤ s.downlink.forward.length) :
      Prim s { s with downlink := { s.downlink with forward := q } }
  | noticeTag (s : State) (t : Byte) : Prim s { s with noticeTag := t }
  /-- An error counted and logged. -/
  | record (s : State) (e : ErrorReport) : Prim s (s.recordError e).1

/-! ## What one change keeps -/

@[simp] theorem Recorder.countIn_leaves (k : ErrorKind) (r : Recorder) (i : Fin 2) :
    (r.countIn k i).settings = r.settings ∧ (r.countIn k i).logs = r.logs ∧ (r.countIn k i).alert = r.alert := by
  unfold Recorder.countIn; split <;> simp

@[simp] theorem Recorder.count_leaves (k : ErrorKind) (r : Recorder) :
    (r.count k).settings = r.settings ∧ (r.count k).logs = r.logs ∧ (r.count k).alert = r.alert := by
  simp [Recorder.count]

@[simp] theorem Recorder.setLog_writes (r : Recorder) (sev : Fin 3) (l : SeverityLog) :
    (r.setLog sev l).settings = r.settings ∧ (r.setLog sev l).counters = r.counters
    ∧ (r.setLog sev l).logs = r.logs.set sev l := ⟨rfl, rfl, rfl⟩

/-- What a notice changes: the notice tag alone (R106). -/
theorem State.buildNotice_fst (s : State) (dest : Addr) (kind : Byte) (p : List Byte) :
    (s.buildNotice dest kind p).1 = s ∨ (s.buildNotice dest kind p).1 = { s with noticeTag := s.noticeTag + 1 } := by
  unfold State.buildNotice; split <;> simp

/-- What an error report changes: the recorder and the notice tag, the recorder by its count and, when the kind
is enabled, by the log of its severity (R159, R161, R165). -/
theorem State.recordError_fst (s : State) (e : ErrorReport) :
    ∃ r tag, (s.recordError e).1 = { s with recorder := r, noticeTag := tag }
      ∧ (r = s.recorder.count e.kind
        ∨ ∃ sev entry, r = (s.recorder.count e.kind).setLog sev
            (((s.recorder.count e.kind).logs.get sev).take entry)) := by
  unfold State.recordError
  dsimp only
  split
  · exact ⟨_, s.noticeTag, rfl, .inl rfl⟩
  · split
    · exact (State.buildNotice_fst _ _ _ _).elim (fun h => ⟨_, s.noticeTag, h, .inr ⟨_, _, rfl⟩⟩)
        (fun h => ⟨_, s.noticeTag + 1, h, .inr ⟨_, _, rfl⟩⟩)
    · exact ⟨_, s.noticeTag, rfl, .inr ⟨_, _, rfl⟩⟩

theorem Recorder.alertLevel_iff (r : Recorder) :
    r.alertLevel = true ↔
      ∃ sev, r.settings.actions.get sev = .noticeAndLine ∧ (r.logs.get sev).pending = true := by
  simp only [Recorder.alertLevel, Recorder.driven, Bool.or_eq_true, Bool.and_eq_true, beq_iff_eq]
  constructor
  · rintro ((h | h) | h)
    · exact ⟨0, h⟩
    · exact ⟨1, h⟩
    · exact ⟨2, h⟩
  · rintro ⟨sev, h⟩
    match sev with
    | 0 => exact .inl (.inl h)
    | 1 => exact .inl (.inr h)
    | 2 => exact .inr h

theorem Counter.bump_le (c : Counter) (h : c.count ≤ 255) : c.bump.count ≤ 255 := by
  unfold Counter.bump; split
  · next h' => simp; omega
  · exact h

theorem Recorder.countIn_counts (k : ErrorKind) (r : Recorder) (i : Fin 2)
    (h : ∀ c, (r.counters.get c).count ≤ 255) : ∀ c, ((r.countIn k i).counters.get c).count ≤ 255 := by
  intro c
  unfold Recorder.countIn
  split
  · by_cases e : c = i
    · subst e; simpa using Counter.bump_le _ (h c)
    · simpa [Table.get_modify_other _ _ e] using h c
  · exact h c

theorem Recorder.count_counts (k : ErrorKind) (r : Recorder) (h : ∀ c, (r.counters.get c).count ≤ 255) :
    ∀ c, ((r.count k).counters.get c).count ≤ 255 :=
  Recorder.countIn_counts k _ 1 (Recorder.countIn_counts k _ 0 h)

theorem SeverityLog.take_lost (l : SeverityLog) (e : LogEntry) (h : l.lost ≤ 15) : (l.take e).lost ≤ 15 := by
  unfold SeverityLog.take; split <;> simp_all

/-- The kept part of the state. -/
theorem Prim.still (h : Prim s t) : t.still = s.still := by
  cases h with
  | bay b f cfg tgt =>
    simp only [State.still, State.modBay]
    rw [Table.map_modify_of_eq _ _ _ _ (by simpa [State.bay] using cfg)]
  | bays f cfg tgt =>
    simp only [State.still, Table.map_map]
    congr 1; congr 1; funext y; exact cfg y
  | targets t cfg sum none => simp only [State.still, cfg]
  | early f h => simp [State.still, h]
  | record e => obtain ⟨r, tag, h, h' | ⟨sev, en, h'⟩⟩ := s.recordError_fst e <;> rw [h] <;> simp [State.still, h']
  | _ => rfl

/-- The capacities but for that of the Waitlist. -/
theorem Prim.bounded (h : Prim s t) (hs : ({ s with waitlist := [] } : State).Bounded) :
    ({ t with waitlist := [] } : State).Bounded := by
  cases h with
  | early f h => exact { hs with early := by simpa using hs.early }
  | forward q h => exact { hs with forward := le_trans h hs.forward }
  | record e =>
    obtain ⟨r, tag, h, h'⟩ := s.recordError_fst e
    rw [h]
    have hc := Recorder.count_counts e.kind s.recorder hs.counts
    obtain rfl | ⟨sev, en, rfl⟩ := h'
    · exact { hs with lost := by simpa using hs.lost, counts := hc }
    · refine { hs with lost := fun i => ?_, counts := hc }
      by_cases hi : i = sev
      · subst hi; simpa using SeverityLog.take_lost _ en (hs.lost i)
      · simpa [Table.get_set_other _ _ hi] using hs.lost i
  | _ => exact ⟨hs.1, hs.2, hs.3, hs.4, hs.5, hs.6, hs.7, hs.8⟩

theorem Prim.alertRight (h : Prim s t) (hs : s.AlertRight) : t.AlertRight := by
  cases h with
  | record e =>
    obtain ⟨r, tag, h, rfl | ⟨sev, en, rfl⟩⟩ := s.recordError_fst e
    · rw [h]; simpa [State.AlertRight] using hs
    · rw [h]; exact Recorder.alertLevel_iff _
  | _ => exact hs

theorem sum_map_le {f g : α → Nat} (l : List α) (h : ∀ x ∈ l, f x ≤ g x) : (l.map f).sum ≤ (l.map g).sum := by
  induction l with
  | nil => simp
  | cons x l ih =>
    simp only [List.map_cons, List.sum_cons]
    have := h x (by simp)
    have := ih (fun y hy => h y (by simp [hy]))
    omega

theorem Prim.withinBudget (h : Prim s t) (hs : s.WithinBudget) : t.WithinBudget := by
  cases h with
  | bay b f cfg tgt =>
    refine le_trans (sum_map_le _ fun c _ => ?_) hs
    by_cases e : c = b
    · subst e; rw [State.bay_modBay_same]; rcases tgt with h | h <;> omega
    · rw [State.bay_modBay_other _ _ e]
  | bays f cfg tgt => simpa [State.WithinBudget, State.targetSum, State.bay, tgt] using hs
  | targets t cfg sum none => exact sum
  | record e => obtain ⟨r, tag, h, _⟩ := s.recordError_fst e; rw [h]; exact hs
  | _ => exact hs

theorem Prim.suspensionHolds (h : Prim s t) (hs : s.SuspensionHolds) : t.SuspensionHolds := by
  cases h with
  | bay b f cfg tgt =>
    refine ⟨hs.1, fun hv => ⟨(hs.2 hv).1, fun c => ?_⟩⟩
    by_cases e : c = b
    · subst e; rw [State.bay_modBay_same]; have := (hs.2 hv).2 c; rcases tgt with h | h <;> omega
    · rw [State.bay_modBay_other _ _ e]; exact (hs.2 hv).2 c
  | bays f cfg tgt =>
    exact ⟨hs.1, fun hv => ⟨(hs.2 hv).1, fun c => by simpa [State.bay, tgt] using (hs.2 hv).2 c⟩⟩
  | targets t cfg sum none => exact ⟨hs.1, fun hv => ⟨(hs.2 hv).1, none (hs.2 hv).1⟩⟩
  | queue q h => exact ⟨hs.1, fun hv => ⟨h (hs.1.trans hv) (hs.2 hv).1, (hs.2 hv).2⟩⟩
  | record e => obtain ⟨r, tag, h, _⟩ := s.recordError_fst e; rw [h]; exact hs
  | _ => exact hs

/-- No such change touches the uplink port. -/
theorem Prim.uplink (h : Prim s t) : t.uplink = s.uplink := by
  cases h with
  | record e => obtain ⟨r, tag, h, _⟩ := s.recordError_fst e; rw [h]
  | _ => rfl

/-- No such change touches the Waitlist, which changes only by a run. -/
theorem Prim.waitlist (h : Prim s t) : t.waitlist = s.waitlist := by
  cases h with
  | record e => obtain ⟨r, tag, h, _⟩ := s.recordError_fst e; rw [h]
  | _ => rfl

/-! ## Runs of changes on an event -/

/-- A run of shared operations on an event in progress, from `ev₀`: changes of state, a Waitlist that keeps its
order and its capacity, frames placed, and what the event still owes (a recompute, once owed, stays owed). -/
inductive Moves (ev₀ : Ev) : Ev → Prop
  | refl : Moves ev₀ ev₀
  | owed {ev : Ev} (h : Moves ev₀ ev) (notes : List BayNote) (scan recompute captured : Bool)
      (keep : ev.recompute = true → recompute = true) :
      Moves ev₀ { ev with notes := notes, scan := scan, recompute := recompute, captured := captured }
  | prim {ev : Ev} (h : Moves ev₀ ev) {s : State} (p : Prim ev.st s) : Moves ev₀ { ev with st := s }
  | waitlist {ev : Ev} (h : Moves ev₀ ev) (l : List WaitEntry)
      (len : ev₀.st.waitlist.length ≤ 32 → l.length ≤ 32)
      (ord : ev.st.WaitOrdered → l.Pairwise (fun a b => b.hold.priority ≤ a.hold.priority)) :
      Moves ev₀ (ev.onState (·.setWaitlist l))
  | place {ev : Ev} (h : Moves ev₀ ev) (f : Frame) : Moves ev₀ (ev.place f)

/-- Where a placed frame goes: behind the answer of the event, or into the FIFO, or, at a full FIFO, nowhere, with
NOTICE-DROP recorded unless it is a FAULT-NOTICE (R104). -/
theorem State.placeUplink_cases (s : State) (f : Frame) :
    (s.uplink.fifo.length < 32 ∧ s.placeUplink f = s.pushUplink f) ∨ s.placeUplink f = s
    ∨ s.placeUplink f = (s.recordError { kind := .noticeDrop, header := some f.header }).1 := by
  unfold State.placeUplink
  split
  · exact .inl ⟨‹_›, rfl⟩
  · split <;> simp

/-- What `Ev.place` leaves of the event. -/
@[simp] theorem Ev.place_leaves (ev : Ev) (f : Frame) :
    (ev.place f).buffering = ev.buffering ∧ (ev.place f).notes = ev.notes ∧ (ev.place f).scan = ev.scan
    ∧ (ev.place f).recompute = ev.recompute ∧ (ev.place f).captured = ev.captured := by
  unfold Ev.place; split <;> simp [Ev.onState]

/-- A property of states kept by every `Prim`, by an ordered change of the Waitlist and by a frame that joins the
FIFO is kept by every run. -/
theorem Moves.keeps {P : State → Prop} (hp : ∀ {s t}, Prim s t → P s → P t)
    (hw : ∀ {s : State} l, (s.WaitOrdered → l.Pairwise (fun a b => b.hold.priority ≤ a.hold.priority)) →
      P s → P (s.setWaitlist l))
    (hf : ∀ {s} f, s.uplink.fifo.length < 32 → P s → P (s.pushUplink f)) (h : Moves ev ev') (hs : P ev.st) :
    P ev'.st := by
  induction h with
  | refl => exact hs
  | owed _ _ _ _ _ _ ih => exact ih
  | prim _ p ih => exact hp p ih
  | waitlist _ l _ ord ih => exact hw l ord ih
  | @place ev₁ _ f ih =>
    unfold Ev.place
    split
    · exact ih
    · rcases ev₁.st.placeUplink_cases f with ⟨hl, h⟩ | h | h <;> simp only [Ev.onState, h]
      · exact hf f hl ih
      · exact ih
      · exact hp (.record _ _) ih

theorem Moves.still (h : Moves ev ev') : ev'.st.still = ev.st.still :=
  h.keeps (P := fun s => s.still = ev.st.still) (fun p hs => p.still.trans hs) (fun _ _ hs => hs)
    (fun _ _ hs => hs) rfl

theorem Moves.waitOrdered (h : Moves ev ev') (hs : ev.st.WaitOrdered) : ev'.st.WaitOrdered :=
  h.keeps (fun p hs => by unfold State.WaitOrdered; rw [p.waitlist]; exact hs) (fun _ ord hs => ord hs)
    (fun _ _ hs => hs) hs

theorem Moves.alertRight (h : Moves ev ev') (hs : ev.st.AlertRight) : ev'.st.AlertRight :=
  h.keeps (fun p => p.alertRight) (fun _ _ hs => hs) (fun _ _ hs => hs) hs

theorem Moves.withinBudget (h : Moves ev ev') (hs : ev.st.WithinBudget) : ev'.st.WithinBudget :=
  h.keeps (fun p => p.withinBudget) (fun _ _ hs => hs) (fun _ _ hs => hs) hs

theorem Moves.suspensionHolds (h : Moves ev ev') (hs : ev.st.SuspensionHolds) : ev'.st.SuspensionHolds :=
  h.keeps (fun p => p.suspensionHolds) (fun _ _ hs => hs) (fun _ _ hs => hs) hs

theorem Ev.place_waitlist (ev : Ev) (f : Frame) : (ev.place f).st.waitlist = ev.st.waitlist := by
  unfold Ev.place; split
  · rfl
  · rcases ev.st.placeUplink_cases f with ⟨_, h⟩ | h | h <;> simp only [Ev.onState, h]
    · rfl
    · exact (Prim.record _ _).waitlist

/-- The Waitlist keeps its capacity. -/
theorem Moves.waitLength (h : Moves ev ev') (hl : ev.st.waitlist.length ≤ 32) : ev'.st.waitlist.length ≤ 32 := by
  induction h with
  | refl => exact hl
  | owed _ _ _ _ _ _ ih => exact ih
  | prim _ p ih => exact p.waitlist.symm ▸ ih
  | waitlist _ l len _ _ => exact len hl
  | place _ f ih => rw [Ev.place_waitlist]; exact ih

theorem Moves.bounded (h : Moves ev ev') (hs : ev.st.Bounded) : ev'.st.Bounded := by
  have hb : ({ ev'.st with waitlist := [] } : State).Bounded :=
    h.keeps (P := fun s => ({ s with waitlist := [] } : State).Bounded)
      (fun p => p.bounded)
      (fun _ _ hs => hs)
      (fun f hl hs => { hs with fifo := by simp [Config.uplinkFifo]; omega })
      { hs with waitlist := Nat.zero_le _ }
  exact { hb with waitlist := h.waitLength hs.waitlist }

theorem Moves.buffering (h : Moves ev ev') : ev'.buffering = ev.buffering := by
  induction h with
  | refl => rfl
  | owed | prim | waitlist => assumption
  | place _ f ih => simpa using ih

theorem Moves.recompute (h : Moves ev ev') (hr : ev.recompute = true) : ev'.recompute = true := by
  induction h with
  | refl => exact hr
  | owed _ _ _ _ _ k ih => exact k ih
  | prim _ _ ih => exact ih
  | waitlist _ _ _ _ ih => exact ih
  | place _ f ih => simpa using ih

/-- While an event waits for its answer, the uplink port is untouched. -/
theorem Moves.uplink (h : Moves ev ev') (hb : ev.buffering = true) : ev'.st.uplink = ev.st.uplink := by
  induction h with
  | refl => rfl
  | owed _ _ _ _ _ _ ih => exact ih
  | prim _ p ih => exact p.uplink.trans ih
  | waitlist _ _ _ _ ih => exact ih
  | place h' f ih => rw [Ev.place, if_pos (h'.buffering.trans hb)]; exact ih

/-- The FIFO only grows at its tail. -/
theorem Moves.fifo (h : Moves ev ev') : ev.st.uplink.fifo <+: ev'.st.uplink.fifo :=
  h.keeps (P := fun s => ev.st.uplink.fifo <+: s.uplink.fifo) (fun p hs => p.uplink ▸ hs) (fun _ _ hs => hs)
    (fun f _ hs => hs.trans (List.prefix_append _ [f])) (List.prefix_refl _)

theorem Moves.trans (h : Moves a b) (h' : Moves b c) : Moves a c := by
  induction h' with
  | refl => exact h
  | owed _ n s r c k ih => exact ih.owed n s r c k
  | prim _ p ih => exact ih.prim p
  | waitlist _ l len ord ih => exact ih.waitlist l (fun ha => len (h.waitLength ha)) ord
  | place _ f ih => exact ih.place f

end Sys2Proof.Machine
end

