-- ==== Sys2Proof/Laws/Engine.lean ====
section
/-!
SUPPORT. Every shared operation of Ops, Queue, Engine, Allotment and Scheduler that works on an event is a run of
`Moves`: what it can do is said here once, and its properties follow from the laws of `Moves`.
-/
namespace Sys2Proof.Machine

variable {a ev : Ev}

/-! ## Ops -/

theorem Moves.scanFlag (h : Moves a ev) (v : Bool) : Moves a { ev with scan := v } :=
  h.owed ev.notes v ev.recompute ev.captured id

theorem Moves.notesOf (h : Moves a ev) (n : List BayNote) : Moves a { ev with notes := n } :=
  h.owed n ev.scan ev.recompute ev.captured id

theorem Moves.capturedFlag (h : Moves a ev) (v : Bool) : Moves a { ev with captured := v } :=
  h.owed ev.notes ev.scan ev.recompute v id

theorem Moves.wantScan (h : Moves a ev) : Moves a ev.wantScan := h.scanFlag true

theorem Moves.wantRecompute (h : Moves a ev) : Moves a ev.wantRecompute :=
  h.owed ev.notes ev.scan true ev.captured (fun _ => rfl)

theorem Moves.onState (h : Moves a ev) {f : State → State} (p : Prim ev.st (f ev.st)) : Moves a (ev.onState f) :=
  h.prim p

theorem Moves.placeOpt (h : Moves a ev) : (f : Option Frame) → Moves a (ev.placeOpt f)
  | none => h
  | some f => h.place f

theorem Moves.notice (h : Moves a ev) (d : Addr) (k : Byte) (p : List Byte) : Moves a (ev.notice d k p) := by
  unfold Ev.notice
  refine Moves.placeOpt (ev := { ev with st := (ev.st.buildNotice d k p).1 }) ?_ _
  rcases ev.st.buildNotice_fst d k p with e | e <;> rw [e]
  · exact h
  · exact h.prim (.noticeTag _ _)

theorem Moves.log (h : Moves a ev) (e : ErrorReport) : Moves a (ev.log e) := by
  unfold Ev.log
  exact Moves.placeOpt (ev := { ev with st := (ev.st.recordError e).1 }) (h.prim (.record _ _)) _

theorem Moves.modBay (h : Moves a ev) (b : BayIx) {f : Bay → Bay} (cfg : ∀ y, (f y).config = y.config)
    (tgt : ∀ y, (f y).alloc.target = y.alloc.target ∨ (f y).alloc.target = 0) :
    Moves a (ev.onState (·.modBay b f)) := h.prim (.bay _ _ _ (cfg _) (tgt _))

theorem Moves.modDyn (h : Moves a ev) (b : BayIx) (f : BayDyn → BayDyn) : Moves a (ev.modDyn b f) :=
  h.modBay b (fun y => y.modDyn_config f) (fun y => .inl (by simp))

theorem Moves.modAlloc (h : Moves a ev) (b : BayIx) {f : BayAlloc → BayAlloc}
    (tgt : ∀ x, (f x).target = x.target ∨ (f x).target = 0) : Moves a (ev.modAlloc b f) :=
  h.modBay b (fun _ => rfl) (fun y => tgt y.alloc)

theorem Moves.modDelivery (h : Moves a ev) (b : BayIx) (f : Delivery → Delivery) : Moves a (ev.modDelivery b f) :=
  h.modBay b (fun _ => rfl) (fun _ => .inl rfl)

theorem Moves.modTimer (h : Moves a ev) (b : BayIx) (f : BayTimer → BayTimer) : Moves a (ev.modTimer b f) :=
  h.modBay b (fun _ => rfl) (fun _ => .inl rfl)

theorem Moves.touch (h : Moves a ev) (b : BayIx) : Moves a (ev.touch b) := by
  unfold Ev.touch; split
  · exact h
  · exact h.notesOf _

theorem Moves.modNote (h : Moves a ev) (b : BayIx) (f : BayNote → BayNote) : Moves a (ev.modNote b f) := h.notesOf _

theorem Moves.note (h : Moves a ev) (b : BayIx) (c : BayCause) : Moves a (ev.note b c) := (h.touch b).modNote _ _

theorem Moves.noteEnd (h : Moves a ev) (b : BayIx) (r : EndReason) : Moves a (ev.noteEnd b r) :=
  (h.note b _).modNote _ _

theorem Moves.noteFault (h : Moves a ev) (b : BayIx) (c : FaultCause) : Moves a (ev.noteFault b c) :=
  (h.touch b).modNote _ _

theorem Moves.foldl {f : Ev → α → Ev} (hf : ∀ {ev} x, Moves a ev → Moves a (f ev x)) (l : List α)
    (h : Moves a ev) : Moves a (l.foldl f ev) := by
  induction l generalizing ev with
  | nil => exact h
  | cons x l ih => exact ih (hf x h)

theorem Moves.raiseNote (h : Moves a ev) (n : BayNote) : Moves a (ev.raiseNote n) := by
  unfold Ev.raiseNote; dsimp only; split
  · exact h.notice _ _ _
  · exact h

theorem Moves.flushNotes (h : Moves a ev) : Moves a ev.flushNotes :=
  Moves.foldl (fun n h => h.raiseNote n) _ (h.notesOf [])

theorem Moves.holdNoticeTo (h : Moves a ev) (d : Addr) (t : Ticket) (e : HoldEvent) (c : HoldNoticeBody) :
    Moves a (ev.holdNoticeTo d t e c) := h.notice _ _ _

theorem Moves.holdNotice (h : Moves a ev) (x : Hold) (e : HoldEvent) (c : HoldNoticeBody) :
    Moves a (ev.holdNotice x e c) := by
  unfold Ev.holdNotice; split
  · exact h.notice _ _ _
  · exact h

theorem Moves.unindex (h : Moves a ev) (t : Ticket) : Moves a (ev.onState (·.unindex t)) := h.prim (.index _ _)

theorem Moves.unindexHold (h : Moves a ev) (x : Hold) : Moves a (ev.onState (·.unindexHold x)) := by
  unfold State.unindexHold; split
  · exact h.unindex _
  · exact h

theorem Moves.indexHold (h : Moves a ev) (x : Hold) (l : Location) : Moves a (ev.onState (·.indexHold x l)) := by
  unfold State.indexHold; split
  · unfold State.setIndex Ev.onState; dsimp only; split
    · exact h.prim (.index _ _)
    · exact h.prim (.index _ _)
  · exact h

/-! ## Queue -/

theorem Moves.setQueue (h : Moves a ev) (q : List ChargeEntry)
    (hq : ev.st.allocator.suspendedCopy = true → ev.st.allocator.queue = [] → q = []) :
    Moves a { ev with st := ev.st.setQueue q } := h.prim (.queue _ _ hq)

theorem Moves.join (h : Moves a ev) (b : BayIx) (he : ev.st.allocator.suspendedCopy = false) :
    Moves a (ev.join b) :=
  Moves.wantRecompute (Moves.modAlloc (h.setQueue _ (by simp [he])) b (fun _ => .inl rfl))

theorem Moves.leave (h : Moves a ev) (b : BayIx) : Moves a (ev.leave b) :=
  Moves.wantRecompute (Moves.modTimer (Moves.modAlloc (h.setQueue _ (by simp +contextual)) b (fun _ => .inr rfl)) b _)

theorem State.eligible_not_suspended {s : State} {b : BayIx} (h : s.eligible b = true) :
    s.allocator.suspendedCopy = false := by
  simp [State.eligible] at h; exact h.1.2

theorem Moves.syncQueue (h : Moves a ev) (b : BayIx) : Moves a (ev.syncQueue b) := by
  unfold Ev.syncQueue
  split
  · next he => split
               · exact h
               · exact h.join b (State.eligible_not_suspended he)
  · split
    · exact h.leave b
    · exact h

theorem Moves.syncAll (h : Moves a ev) : Moves a ev.syncAll := Moves.foldl (fun b h => h.syncQueue b) _ h

theorem Moves.reportCharging (h : Moves a ev) (b : BayIx) (v : Bool) : Moves a (ev.reportCharging b v) := by
  unfold Ev.reportCharging; split
  · exact h
  · have h' : Moves a (ev.modAlloc b (fun x => { x with chargingCopy := v })) := h.modAlloc b (fun _ => .inl rfl)
    dsimp only
    split
    · exact (h'.log _).syncQueue b
    · exact h'.syncQueue b

theorem Moves.reportSuspect (h : Moves a ev) (b : BayIx) (v : Bool) : Moves a (ev.reportSuspect b v) :=
  Moves.syncQueue (h.modAlloc b (f := fun x => { x with suspectCopy := v }) (fun _ => .inl rfl)) b

/-! ## Engine -/

theorem Moves.setState (h : Moves a ev) (b : BayIx) (st : BayState) : Moves a (ev.setState b st) :=
  ((h.touch b).modDyn b _).reportCharging b _

theorem Moves.gainFault (h : Moves a ev) (b : BayIx) (c : FaultCause) : Moves a (ev.gainFault b c) := by
  unfold Ev.gainFault; dsimp only; split
  · exact h
  · exact ((h.noteFault b c).setState b _).note b _

theorem Moves.degraded (h : Moves a ev) (v : Bool) :
    Moves a (ev.onState (fun s => { s with scrubber := { s.scrubber with degraded := v } })) := h.prim (.degraded _ _)

theorem Moves.makeSuspect (h : Moves a ev) (b : BayIx) : Moves a (ev.makeSuspect b) :=
  (((((h.log _).touch b).modDyn b _).gainFault b _).reportSuspect b true).degraded true

theorem Moves.compareRecord (h : Moves a ev) (b : BayIx) : Moves a (ev.compareRecord b) := by
  unfold Ev.compareRecord; split
  · exact h
  · exact h.makeSuspect b

theorem Moves.closeBay (h : Moves a ev) (b : BayIx) : Moves a (ev.closeBay b) := (h.setState b _).modDyn b _

theorem Moves.capture (h : Moves a ev) (b : BayIx) (x : Hold) : Moves a (ev.capture b x) :=
  Moves.capturedFlag ((h.modDyn b _).modTimer b _) true

theorem Moves.leaveNotice (h : Moves a ev) (b : BayIx) (x : Hold) (l : Leave) (sum : EndReason → HoldNoticeBody) :
    Moves a (ev.leaveNotice b x l sum) := by
  cases l <;> exact h.holdNotice _ _ _

theorem Moves.leaveIndex (h : Moves a ev) (x : Hold) (l : Leave) : Moves a (ev.leaveIndex x l) := by
  cases l with
  | ended => exact h.unindexHold x
  | _ => exact h

theorem Moves.promote (h : Moves a ev) (b : BayIx) : Moves a (ev.promote b) := by
  unfold Ev.promote; split
  · exact h.modDyn b _
  · exact ((h.modDyn b _).indexHold _ _).modTimer b _

theorem Moves.settleEnd {derive : BayIx → Ev → Ev} (hd : ∀ {ev} b, Moves a ev → Moves a (derive b ev)) (v : Bool)
    (h : Moves a ev) (b : BayIx) : Moves a (ev.settleEnd derive v b) := by
  unfold Ev.settleEnd; dsimp only
  repeat' split
  · exact h
  · exact h.closeBay b
  · exact h.wantScan
  · exact hd b h
  · exact (hd b h).wantScan

theorem Moves.endActiveWith {derive : BayIx → Ev → Ev} (hd : ∀ {ev} b, Moves a ev → Moves a (derive b ev)) (v : Bool)
    (h : Moves a ev) (b : BayIx) (l : Leave) : Moves a (Ev.endActiveWith derive v ev b l) := by
  unfold Ev.endActiveWith; split
  · exact h
  · next x _ =>
    have h1 := ((h.touch b).modTimer b BayTimer.clearActive).reportCharging b false
    exact Moves.settleEnd hd v ((((h1.leaveIndex x l).leaveNotice b x l _).promote b).noteEnd b l.reason) b

theorem Moves.deriveArrivedWith {onVacant : Ev → Ev} (hv : ∀ {ev}, Moves a ev → Moves a (onVacant ev))
    (h : Moves a ev) (b : BayIx) (x : Hold) : Moves a (Ev.deriveArrivedWith onVacant ev b x) := by
  unfold Ev.deriveArrivedWith; dsimp only
  split
  · exact hv h
  · repeat' split
    all_goals exact h.setState b _

theorem Moves.deriveFuel (n : Nat) (b : BayIx) (h : Moves a ev) : Moves a (deriveFuel n b ev) := by
  induction n generalizing b ev with
  | zero => exact h
  | succ n ih =>
    have hv {ev : Ev} : Moves a ev → Moves a (Ev.endActiveWith (Machine.deriveFuel n) true ev b (.ended .departed)) :=
      fun h => h.endActiveWith (fun b h => ih b h) true b _
    unfold Machine.deriveFuel; dsimp only
    split
    · exact h.setState b _
    · split
      · exact h.deriveArrivedWith hv b _
      · split
        · split
          · exact h.setState b _
          · exact (h.capture b _).deriveArrivedWith hv b _
        · exact h.setState b _

theorem Moves.derive (h : Moves a ev) (b : BayIx) : Moves a (ev.derive b) := h.deriveFuel 3 b

theorem Moves.endActive (h : Moves a ev) (b : BayIx) (l : Leave) : Moves a (ev.endActive b l) :=
  h.endActiveWith (fun b h => h.derive b) false b l

theorem Moves.rederive (h : Moves a ev) (b : BayIx) : Moves a (ev.rederive b) := by
  unfold Ev.rederive; split
  · split
    · exact h.deriveArrivedWith (fun h => h.endActive b _) b _
    · exact h
  · exact h

theorem Moves.endStaged (h : Moves a ev) (b : BayIx) (l : Leave) : Moves a (ev.endStaged b l) := by
  unfold Ev.endStaged; split
  · exact h
  · next x _ =>
    have h1 := ((h.modDyn b (fun d => { d with staged := none })).modTimer b (fun t => { t with displacement := none }))
    have h2 := (h1.leaveIndex x l).leaveNotice b x l (bareSummary ((ev.modDyn b (fun d =>
      { d with staged := none })).modTimer b (fun t => { t with displacement := none })).st (bayNo b) x)
    dsimp only
    split
    · exact h2
    · exact h2.wantScan

theorem Moves.recover (h : Moves a ev) (b : BayIx) : Moves a (ev.recover b) := by
  unfold Ev.recover; dsimp only; split
  · split
    · exact ((h.note b _).closeBay b).wantScan
    · exact ((h.note b _).derive b).wantScan
  · exact h

theorem Moves.examine (h : Moves a ev) (b : BayIx) (ws : Time) : Moves a (ev.examine b ws).1 := by
  unfold Ev.examine; split
  · dsimp only; split <;> exact h.compareRecord b
  · exact h

theorem Moves.examineAll (h : Moves a ev) (ws : Time) (l : List BayIx) : Moves a (ev.examineAll ws l).1 := by
  induction l generalizing ev with
  | nil => exact h
  | cons b l ih =>
    unfold Ev.examineAll
    have hb := h.examine b ws
    split
    · next e => rw [e] at hb; exact hb
    · next e => rw [e] at hb; exact ih hb

theorem Moves.searchClasses (h : Moves a ev) (ex : Option BayIx) (ws : Time) (cs : List BayClass) :
    Moves a (ev.searchClasses ex ws cs).1 := by
  induction cs generalizing ev with
  | nil => exact h
  | cons c cs ih =>
    unfold Ev.searchClasses
    have hb := h.examineAll ws ((ev.st.classOrder c).filter (fun b => some b != ex))
    dsimp only
    split
    · exact hb.prim (.cursors _ _)
    · exact ih hb

theorem Moves.search (h : Moves a ev) (c : BayClass) (p ex : Option BayIx) (ws : Time) :
    Moves a (ev.search c p ex ws).1 := by
  unfold Ev.search; dsimp only
  split
  · split
    · split
      · exact h.examine _ ws
      · exact (h.examine _ ws).searchClasses ex ws _
    · exact h.searchClasses ex ws _
  · exact h.searchClasses ex ws _

theorem Moves.placeHold (h : Moves a ev) (b : BayIx) (sl : Slot) (x : Hold) : Moves a (ev.placeHold b sl x) := by
  cases sl with
  | active =>
    have h1 := (((h.touch b).modDyn b (fun d => { d with active := some x })).indexHold x (.active b)).modTimer b
      (fun t => t.setActive (noShowOf x) (ev.st.overstayOf x) x.arrived)
    unfold Ev.placeHold; dsimp only
    split
    · exact (h1.setState b _).note b _
    · exact h1
  | staged => exact ((h.modDyn b _).indexHold x _).modTimer b _

/-! ### The Waitlist -/

theorem WaitEntries.pairwise_insert {x : WaitEntry} {l : List WaitEntry} (p : List WaitEntry → List WaitEntry)
    (hp : p [] = [x]) (hc : ∀ e l, p (e :: l) = e :: p l ∧ x.hold.priority ≤ e.hold.priority
      ∨ p (e :: l) = x :: e :: l ∧ e.hold.priority ≤ x.hold.priority)
    (hm : ∀ l, ∀ y ∈ p l, y = x ∨ y ∈ l)
    (h : l.Pairwise (fun a b => b.hold.priority ≤ a.hold.priority)) :
    (p l).Pairwise (fun a b => b.hold.priority ≤ a.hold.priority) := by
  induction l with
  | nil => simp [hp]
  | cons e l ih =>
    obtain ⟨h1, h2⟩ := List.pairwise_cons.1 h
    rcases hc e l with ⟨hq, hle⟩ | ⟨hq, hle⟩ <;> rw [hq]
    · refine List.pairwise_cons.2 ⟨fun y hy => ?_, ih h2⟩
      rcases hm l y hy with rfl | hy
      · exact hle
      · exact h1 y hy
    · refine List.pairwise_cons.2 ⟨fun y hy => ?_, h⟩
      rcases List.mem_cons.1 hy with rfl | hy
      · exact hle
      · exact (h1 y hy).trans hle

theorem mem_insertTail {x : WaitEntry} : ∀ (l : List WaitEntry), ∀ y ∈ insertTail x l, y = x ∨ y ∈ l
  | [], y, h => by simpa [insertTail] using h
  | e :: l, y, h => by
    unfold insertTail at h
    split at h
    · rcases List.mem_cons.1 h with rfl | h
      · simp
      · rcases mem_insertTail l y h with rfl | h <;> simp_all
    · simpa using h

theorem mem_insertHead {x : WaitEntry} : ∀ (l : List WaitEntry), ∀ y ∈ insertHead x l, y = x ∨ y ∈ l
  | [], y, h => by simpa [insertHead] using h
  | e :: l, y, h => by
    unfold insertHead at h
    split at h
    · rcases List.mem_cons.1 h with rfl | h
      · simp
      · rcases mem_insertHead l y h with rfl | h <;> simp_all
    · simpa using h

/-- Joining at the tail of a priority group keeps the order of the list (R37). -/
theorem insertTail_ordered (x : WaitEntry) {l : List WaitEntry}
    (h : l.Pairwise (fun a b => b.hold.priority ≤ a.hold.priority)) :
    (insertTail x l).Pairwise (fun a b => b.hold.priority ≤ a.hold.priority) := by
  refine WaitEntries.pairwise_insert (insertTail x) rfl (fun e l => ?_) mem_insertTail h
  rw [insertTail]; split
  · exact .inl ⟨rfl, ‹_›⟩
  · exact .inr ⟨rfl, le_of_lt (not_le.1 ‹_›)⟩

/-- Joining at the head of a priority group keeps the order of the list (R38). -/
theorem insertHead_ordered (x : WaitEntry) {l : List WaitEntry}
    (h : l.Pairwise (fun a b => b.hold.priority ≤ a.hold.priority)) :
    (insertHead x l).Pairwise (fun a b => b.hold.priority ≤ a.hold.priority) := by
  refine WaitEntries.pairwise_insert (insertHead x) rfl (fun e l => ?_) mem_insertHead h
  rw [insertHead]; split
  · exact .inl ⟨rfl, le_of_lt ‹_›⟩
  · exact .inr ⟨rfl, not_lt.1 ‹_›⟩

theorem length_insertTail (x : WaitEntry) (l : List WaitEntry) : (insertTail x l).length = l.length + 1 := by
  induction l with
  | nil => rfl
  | cons e l ih => unfold insertTail; split <;> simp [ih]

theorem length_insertHead (x : WaitEntry) (l : List WaitEntry) : (insertHead x l).length = l.length + 1 := by
  induction l with
  | nil => rfl
  | cons e l ih => unfold insertHead; split <;> simp [ih]

theorem Moves.waitSub (h : Moves a ev) {l : List WaitEntry} (hl : List.Sublist l ev.st.waitlist) :
    Moves a (ev.onState (fun s => s.setWaitlist l)) :=
  h.waitlist l (fun hw => hl.length_le.trans (h.waitLength hw)) (fun o => List.Pairwise.sublist hl o)

theorem Moves.evictLast (h : Moves a ev) : Moves a ev.evictLast := by
  unfold Ev.evictLast; split
  · exact h
  · exact ((h.waitSub (List.dropLast_sublist _)).unindexHold _).holdNotice _ _ _

theorem Moves.makeRoom (h : Moves a ev) : Moves a ev.makeRoom := by
  unfold Ev.makeRoom; split
  · exact h
  · exact h.evictLast

/-- A run of frames and records changes no Waitlist. -/
theorem Ev.holdNotice_waitlist (ev : Ev) (x : Hold) (e : HoldEvent) (c : HoldNoticeBody) :
    (ev.holdNotice x e c).st.waitlist = ev.st.waitlist := by
  unfold Ev.holdNotice; split
  · unfold Ev.holdNoticeTo Ev.notice Ev.placeOpt; dsimp only
    split
    · rcases ev.st.buildNotice_fst _ Kind.holdNotice (holdNoticePayload ev.st e _ c) with h | h <;> rw [h]
    · rw [Ev.place_waitlist]; rcases ev.st.buildNotice_fst _ Kind.holdNotice (holdNoticePayload ev.st e _ c) with h | h <;> rw [h]
  · rfl

theorem Ev.makeRoom_length (ev : Ev) (h : ev.st.waitlist.length ≤ 32) : ev.makeRoom.st.waitlist.length < 32 := by
  unfold Ev.makeRoom; split
  · assumption
  · next hl =>
    have hl' : ¬ ev.st.waitlist.length < 32 := hl
    unfold Ev.evictLast; split
    · next e => rw [List.getLast?_eq_none_iff] at e; simp [e] at hl'
    · rw [Ev.holdNotice_waitlist]
      have : ∀ (s : State) (x : Hold), (s.unindexHold x).waitlist = s.waitlist := by
        intro s x; unfold State.unindexHold; split <;> rfl
      simp only [Ev.onState, this, State.setWaitlist, List.length_dropLast]
      omega

theorem Moves.joinWaitlist (h : Moves a ev) {ins : WaitEntry → List WaitEntry → List WaitEntry}
    (len : ∀ x l, (ins x l).length = l.length + 1)
    (ord : ∀ x {l : List WaitEntry}, l.Pairwise (fun a b => b.hold.priority ≤ a.hold.priority) →
      (ins x l).Pairwise (fun a b => b.hold.priority ≤ a.hold.priority))
    (x : Hold) (c : BayClass) (p : Option BayIx) : Moves a (ev.joinWaitlist ins x c p) :=
  Moves.indexHold (h.makeRoom.waitlist (ins ⟨x, c, p, some x.graceEnd⟩ ev.makeRoom.st.waitlist)
    (fun hw => by rw [len]; exact ev.makeRoom_length (h.waitLength hw)) (fun o => ord _ o)) _ _

theorem Moves.displace (h : Moves a ev) (x : Hold) (c : BayClass) : Moves a (ev.displace x c).1 := by
  unfold Ev.displace; split
  · exact h.joinWaitlist length_insertHead insertHead_ordered x c none
  · exact h.unindexHold x

theorem Moves.scanEntry (h : Moves a ev) (e : WaitEntry) : Moves a (ev.scanEntry e) := by
  unfold Ev.scanEntry; dsimp only
  have h1 := (h.search e.classWanted e.preferred none e.hold.windowStart).flushNotes
  split
  · exact h1
  · exact (((h1.waitSub List.erase_sublist).placeHold _ _ _).holdNotice _ _ _).flushNotes

theorem Moves.runScan (h : Moves a ev) : Moves a ev.runScan := by
  unfold Ev.runScan; split
  · exact Moves.foldl (fun e h => h.scanEntry e) _ (h.scanFlag false)
  · exact h

/-! ### Relocation, occupancy and connector -/

theorem Moves.leaveSlot (h : Moves a ev) (b : BayIx) (sl : Slot) (l : Leave) : Moves a (ev.leaveSlot b sl l) := by
  cases sl
  · exact h.endActive b l
  · exact h.endStaged b l

theorem Moves.relocateTo (h : Moves a ev) (b : BayIx) (sl : Slot) (x : Hold) (b' : BayIx) (sl' : Slot) :
    Moves a (ev.relocateTo b sl x b' sl') := ((h.touch b).leaveSlot b sl _).placeHold b' sl' x

theorem Moves.relocateOrDisplace (h : Moves a ev) (b : BayIx) (sl : Slot) :
    Moves a (ev.relocateOrDisplace b sl) := by
  unfold Ev.relocateOrDisplace; split
  · exact h
  · next x _ =>
    have h1 : Moves a (ev.relocationSearch b x).1 := h.search _ _ _ _
    dsimp only
    split
    · exact h1.relocateTo _ _ _ _ _
    · exact (h1.displace x _).leaveSlot b sl _

theorem Moves.occupancyResponse (h : Moves a ev) (b : BayIx) : Moves a (ev.occupancyResponse b) := by
  unfold Ev.occupancyResponse; dsimp only
  split
  · exact (h.setState b _).note b _
  · split
    · split
      · exact (h.setState b _).note b _
      · exact (((h.touch b).capture b _).rederive b).note b _
    · exact h
  all_goals first
    | exact (h.setState b _).note b _
    | exact (h.endActive b _).note b _
    | exact h

theorem Moves.setOccupancy (h : Moves a ev) (b : BayIx) (o : Occupancy) : Moves a (ev.setOccupancy b o) := by
  unfold Ev.setOccupancy; split
  · exact h
  · exact ((h.touch b).modDyn b _).occupancyResponse b

theorem Moves.sensorReport (h : Moves a ev) (b : BayIx) (s : Sensed) : Moves a (ev.sensorReport b s) := by
  unfold Ev.sensorReport; dsimp only
  split
  · split
    · exact h.modDyn b _
    · split <;> split
      all_goals first | exact (h.modDyn b _).log _ | exact h.modDyn b _
  · split
    · exact (h.modDyn b _).setOccupancy b _
    · split
      · exact h.modDyn b _
      · split
        · exact (h.modDyn b _).setOccupancy b _
        · exact h.modDyn b _

theorem Moves.sensorLost (h : Moves a ev) (b : BayIx) : Moves a (ev.sensorLost b) := by
  unfold Ev.sensorLost; dsimp only; split
  · exact h.modDyn b _
  · exact (h.modDyn b _).setOccupancy b _

theorem Moves.plugEnds (h : Moves a ev) (b : BayIx) (e : NodeEntry) : Moves a (ev.plugEnds b e) := by
  unfold Ev.plugEnds; dsimp only; split
  · split
    · exact (h.modDyn b _).setOccupancy b _
    · exact h
  · exact h.setOccupancy b _

theorem Moves.reportOccupancy (h : Moves a ev) (b : BayIx) (v : Bool) : Moves a (ev.reportOccupancy b v) := by
  unfold Ev.reportOccupancy
  split
  · dsimp only
    have h1 := h.modDyn b BayDyn.endRun
    split
    all_goals first | exact h1.setOccupancy b _ | exact h1
  · repeat' split
    all_goals first | exact h | exact h.setOccupancy b _ | exact h.plugEnds b _

theorem Moves.postLost (h : Moves a ev) (b : BayIx) (v : Bool) : Moves a (ev.postLost b v) := by
  unfold Ev.postLost; split
  · exact h.setOccupancy b _
  · split
    · exact h.plugEnds b _
    · exact h

theorem Moves.walkIn (h : Moves a ev) (b : BayIx) : Moves a (ev.walkIn b) :=
  ((((h.touch b).capture b _).capturedFlag true).rederive b).note b _

theorem Moves.connectorChange (h : Moves a ev) (b : BayIx) (old : Connector) :
    Moves a (ev.connectorChange b old) := by
  unfold Ev.connectorChange; dsimp only; split
  · exact h
  · split
    · split
      · exact h.walkIn b
      · exact h
    all_goals first | exact (h.rederive b).note b _ | exact h

theorem Moves.connectorReport (h : Moves a ev) (b : BayIx) (c : Connector) (v : Bool) :
    Moves a (ev.connectorReport b c v) := by
  have h1 : Moves a (if c = .fault ∧ (ev.bay b).dyn.connector ≠ .fault then
      ((((ev.touch b).modDyn b (fun d => { d with connector := c })).log
        { kind := .postFault, bay := some b }).gainFault b .connectorFault)
      else (ev.touch b).modDyn b (fun d => { d with connector := c })) := by
    split
    · exact (((h.touch b).modDyn b _).log _).gainFault b _
    · exact (h.touch b).modDyn b _
  unfold Ev.connectorReport; dsimp only
  split
  · exact (h1.reportOccupancy b v).recover b
  · exact (h1.reportOccupancy b v).connectorChange b _

end Sys2Proof.Machine
end

