-- ==== Sys2Proof/Laws/Allotment.lean ====
section
/-!
SUPPORT. The arithmetic of the allotment computation: every step of R86 to R89 gives out no more than it is given, so
that the targets of one computation fit the budget, on every list of claims.
-/
namespace Sys2Proof.Machine

theorem sum_div_le (l : List Nat) (w : Nat) : (l.map (· / w)).sum ≤ l.sum / w := by
  induction l with
  | nil => simp
  | cons a l ih =>
    simp only [List.map_cons, List.sum_cons]
    exact (Nat.add_le_add_left ih _).trans Nat.div_add_div_le_add_div

/-- The shares of one round never exceed what the round divides (R88). -/
theorem sum_roundShare_le (at_ : Nat) (u : List Share) :
    (u.map (fun x => roundShare at_ x.weight (weightSum u))).sum ≤ at_ := by
  have h := sum_div_le (u.map (fun x => at_ * x.weight)) (weightSum u)
  simp only [List.map_map, Function.comp_def] at h
  refine h.trans ?_
  rw [List.sum_map_mul_left]
  exact Nat.div_le_of_le_mul (by rw [weightSum, Nat.mul_comm])

theorem shareSum_append (u v : List Share) : shareSum (u ++ v) = shareSum u + shareSum v := by
  simp [shareSum]

theorem shareSum_full (u : List Share) : shareSum (u.map Share.full) = headroomSum u := by
  simp [shareSum, headroomSum, Share.full, Function.comp_def]

theorem shareSum_partition (p : Share → Bool) (u : List Share) :
    shareSum (u.filter p) + shareSum (u.filter (fun x => !p x)) = shareSum u := by
  induction u with
  | nil => rfl
  | cons x u ih => cases h : p x <;> simp_all [shareSum] <;> omega

theorem headroomSum_capped_le (u : List Share) :
    headroomSum (u.filter (fun x => x.headroom ≤ x.share)) ≤ shareSum (u.filter (fun x => x.headroom ≤ x.share)) :=
  sum_map_le _ fun x hx => by simpa using (List.mem_filter.1 hx).2

/-- A water-fill gives out no more than At: the capped bays' headrooms and what is left of At fit in it, and the
shares left in U fit in what is left (R88). -/
theorem waterFill_fits (n : Nat) (u : List Share) (at_ : Nat) (h : shareSum u ≤ at_) :
    shareSum (waterFill n u at_).1 + (waterFill n u at_).2.2 ≤ at_
      ∧ shareSum (waterFill n u at_).2.1 ≤ (waterFill n u at_).2.2 := by
  induction n generalizing u at_ with
  | zero => simpa [waterFill, shareSum] using h
  | succ n ih =>
    unfold waterFill; dsimp only
    generalize hv : u.map (fun x => { x with share := roundShare at_ x.weight (weightSum u) }) = v
    have hv' : shareSum v ≤ at_ := by
      rw [← hv]; simpa [shareSum, Function.comp_def] using sum_roundShare_le at_ u
    have hp := shareSum_partition (fun x => decide (x.headroom ≤ x.share)) v
    have hc := headroomSum_capped_le v
    split
    · exact ⟨by simp [shareSum], by dsimp only; omega⟩
    · have := ih (v.filter (fun x => !decide (x.headroom ≤ x.share)))
        (at_ - headroomSum (v.filter (fun x => x.headroom ≤ x.share))) (by omega)
      refine ⟨?_, this.2⟩
      dsimp only
      rw [shareSum_append, shareSum_full]
      omega

theorem waterFill_length (n : Nat) (u : List Share) (at_ : Nat) :
    (waterFill n u at_).1.length + (waterFill n u at_).2.1.length = u.length := by
  induction n generalizing u at_ with
  | zero => simp [waterFill]
  | succ n ih =>
    unfold waterFill; dsimp only
    generalize hv : u.map (fun x => { x with share := roundShare at_ x.weight (weightSum u) }) = v
    have hl : v.length = u.length := by rw [← hv]; simp
    have hp := List.length_eq_length_filter_add (l := v) (fun x => decide (x.headroom ≤ x.share))
    split
    · next hc =>
      have : (v.filter (fun x => decide (x.headroom ≤ x.share))).length = 0 := by
        simpa [List.isEmpty_iff] using hc
      simp only [List.length_nil]; omega
    · have := ih (v.filter (fun x => !decide (x.headroom ≤ x.share)))
        (at_ - headroomSum (v.filter (fun x => x.headroom ≤ x.share)))
      simp only [List.length_append, List.length_map]; omega

/-- One pass of steps moves the leftover into shares (R89). -/
theorem stepPass_sum (s : Nat) (u : List Share) (l : Nat) :
    shareSum (stepPass s u l).1 + (stepPass s u l).2 = shareSum u + l := by
  induction u generalizing l with
  | nil => rfl
  | cons x u ih =>
    unfold stepPass; split
    · have := ih (l - s); simp only [shareSum, List.map_cons, List.sum_cons] at this ⊢; omega
    · have := ih l; simp only [shareSum, List.map_cons, List.sum_cons] at this ⊢; omega

theorem stepPass_length (s : Nat) (u : List Share) (l : Nat) : (stepPass s u l).1.length = u.length := by
  induction u generalizing l with
  | nil => rfl
  | cons x u ih => unfold stepPass; split <;> simp [ih]

theorem stepPasses_sum (s n : Nat) (u : List Share) (l : Nat) :
    shareSum (stepPasses s n u l).1 + (stepPasses s n u l).2 = shareSum u + l := by
  induction n generalizing u l with
  | zero => rfl
  | succ n ih =>
    unfold stepPasses; dsimp only; split
    · rfl
    · rw [ih, stepPass_sum]

theorem stepPasses_length (s n : Nat) (u : List Share) (l : Nat) : (stepPasses s n u l).1.length = u.length := by
  induction n generalizing u l with
  | zero => rfl
  | succ n ih =>
    unfold stepPasses; dsimp only; split
    · rfl
    · rw [ih, stepPass_length]

theorem shareSum_roundDown_le (s : Nat) (u : List Share) :
    shareSum (u.map (fun x => { x with share := roundDown s x.share })) ≤ shareSum u := by
  simp only [shareSum, List.map_map, Function.comp_def, roundDown]
  exact sum_map_le _ fun x _ => Nat.sub_le _ _

/-- A tier gives out no more than A: its shares and what is left of A fit in A (R87 to R89). -/
theorem fillTier_fits (s : Nat) (tier : List Share) (a : Nat) (h : shareSum tier ≤ a) :
    shareSum (fillTier s tier a).1 + (fillTier s tier a).2 ≤ a := by
  unfold fillTier; split
  · rw [shareSum_full]; omega
  · dsimp only
    have hw := waterFill_fits (tier.length + 1) tier a h
    generalize waterFill (tier.length + 1) tier a = w at hw ⊢
    have hr := shareSum_roundDown_le s w.2.1
    generalize w.2.1.map (fun x => { x with share := roundDown s x.share }) = u at hr ⊢
    have := stepPasses_sum s (w.2.2 - shareSum u + 1) u (w.2.2 - shareSum u)
    rw [shareSum_append]; omega

theorem fillTier_length (s : Nat) (tier : List Share) (a : Nat) : (fillTier s tier a).1.length = tier.length := by
  unfold fillTier; split
  · simp
  · dsimp only
    have := waterFill_length (tier.length + 1) tier a
    simp only [List.length_append, stepPasses_length, List.length_map]; exact this

theorem fillTiers_fits (s : Nat) (l : List (Fin 4 × Share)) (h0 : ∀ e ∈ l, e.2.share = 0) (ps : List (Fin 4)) (a : Nat) :
    shareSum (fillTiers s l ps a) ≤ a := by
  induction ps generalizing a with
  | nil => simp [fillTiers, shareSum]
  | cons p ps ih =>
    unfold fillTiers; dsimp only
    have hz : shareSum ((l.filter (fun e => e.1 == p)).map (·.2)) = 0 := by
      rw [shareSum, List.map_map, List.sum_eq_zero]
      simp only [List.mem_map, Function.comp_apply]
      rintro x ⟨e, he, rfl⟩
      exact h0 e (List.mem_filter.1 he).1
    have := fillTier_fits s _ a (hz ▸ Nat.zero_le a)
    have := ih (fillTier s ((l.filter (fun e => e.1 == p)).map (·.2)) a).2
    rw [shareSum_append]; omega

theorem fillTiers_length (s : Nat) (l : List (Fin 4 × Share)) (a : Nat) :
    (fillTiers s l [3, 2, 1, 0] a).length = l.length := by
  have hf (l : List (Fin 4 × Share)) : (l.filter (fun e => e.1 == 3)).length + (l.filter (fun e => e.1 == 2)).length
      + (l.filter (fun e => e.1 == 1)).length + (l.filter (fun e => e.1 == 0)).length = l.length := by
    induction l with
    | nil => rfl
    | cons e l ih =>
      obtain ⟨p, x⟩ := e
      match p with
      | 0 | 1 | 2 | 3 => simp at ih ⊢; omega
  simp only [fillTiers, List.length_append, fillTier_length, List.length_map, List.length_nil]
  have := hf l; omega

/-- The targets of one computation fit the budget (R90). -/
theorem allotTargets_fits (budget m s : Nat) (claims : List Claim) :
    ((allotTargets budget m s claims).map (·.2)).sum ≤ budget := by
  unfold allotTargets; dsimp only
  generalize hl : (claims.take (admittedCount budget m claims.length)).map (fun c =>
    (c.priority, ({ bay := c.bay, headroom := c.demand - m, weight := c.weight, share := 0 } : Share))) = l
  have hn : l.length = admittedCount budget m claims.length := by
    rw [← hl]; simp [admittedCount]
  have h0 : ∀ e ∈ l, e.2.share = 0 := by
    rw [← hl]; simp only [List.mem_map]; rintro e ⟨c, _, rfl⟩; rfl
  have hs := fillTiers_fits s l h0 [3, 2, 1, 0] (budget - admittedCount budget m claims.length * m)
  have hlen := fillTiers_length s l (budget - admittedCount budget m claims.length * m)
  have hm : admittedCount budget m claims.length * m ≤ budget :=
    (Nat.mul_le_mul_right m (Nat.min_le_right _ _)).trans (Nat.div_mul_le_self budget m)
  generalize fillTiers s l [3, 2, 1, 0] (budget - admittedCount budget m claims.length * m) = u at hs hlen
  have hu : ∀ u : List Share, (u.map (fun x => m + x.share)).sum = u.length * m + shareSum u := by
    intro u; induction u with
    | nil => simp [shareSum]
    | cons x u ih => simp only [List.map_cons, List.sum_cons, ih, List.length_cons, shareSum, Nat.succ_mul]; omega
  simp only [List.map_map, Function.comp_def, hu, hlen, hn]
  omega

/-- Over distinct bays, the targets read from a list add up to no more than the list gives. -/
theorem sum_targetIn_le (ts : List (BayIx × Nat)) (l : List Nat) (hl : l.Nodup) :
    (l.map (targetIn ts)).sum ≤ (ts.map (·.2)).sum := by
  induction ts with
  | nil =>
    rw [List.sum_eq_zero]
    · exact Nat.zero_le _
    · simp only [List.mem_map]; rintro x ⟨i, _, rfl⟩; rfl
  | cons e ts ih =>
    have h1 : ∀ i ∈ l, targetIn (e :: ts) i ≤ (if i = e.1.val then e.2 else 0) + targetIn ts i := by
      intro i _
      unfold targetIn
      rw [List.find?_cons]
      by_cases he : e.1.val = i
      · simp [he]
      · rw [if_neg (Ne.symm he), beq_eq_false_iff_ne.2 he, Nat.zero_add]
    refine (sum_map_le l h1).trans ?_
    rw [List.sum_map_add, List.map_cons, List.sum_cons]
    refine Nat.add_le_add ?_ ih
    clear ih h1
    induction l with
    | nil => simp
    | cons i l ih =>
      obtain ⟨hn, hl⟩ := List.nodup_cons.1 hl
      simp only [List.map_cons, List.sum_cons]
      split
      · next hi =>
        have hz : (l.map (fun i => if i = e.1.val then e.2 else 0)).sum = 0 := by
          rw [List.sum_eq_zero]; simp only [List.mem_map]
          rintro x ⟨j, hj, rfl⟩
          rw [if_neg]; rintro rfl; exact hn (hi ▸ hj)
        omega
      · have := ih hl; omega

end Sys2Proof.Machine
end

