-- ==== Sys2Proof/Laws/Finish.lean ====
section
/-!
SUPPORT. The recompute, the scheduler's operations and the end of every event as runs of `Moves`, and what follows:
the end of an event leaves `still` alone and keeps every invariant.
-/
namespace Sys2Proof.Machine

variable {a ev : Ev}

/-- A run of changes of the state alone. -/
inductive Prims (s₀ : State) : State → Prop
  | refl : Prims s₀ s₀
  | step {s t : State} (h : Prims s₀ s) (p : Prim s t) : Prims s₀ t

theorem Moves.prims (h : Moves a ev) {s : State} (p : Prims ev.st s) : Moves a { ev with st := s } := by
  induction p with
  | refl => exact h
  | step _ p ih => exact ih.prim p

theorem Prims.foldl {f : State → α → State} (hf : ∀ {s₀ s} x, Prims s₀ s → Prims s₀ (f s x)) (l : List α)
    (h : Prims s₀ s) : Prims s₀ (l.foldl f s) := by
  induction l generalizing s with
  | nil => exact h
  | cons x l ih => exact ih (hf x h)

theorem Prims.modBay {s₀ s : State} (h : Prims s₀ s) (b : BayIx) {f : Bay → Bay}
    (cfg : ∀ y, (f y).config = y.config) (tgt : ∀ y, (f y).alloc.target = y.alloc.target ∨ (f y).alloc.target = 0) :
    Prims s₀ (s.modBay b f) := h.step (.bay _ _ _ (cfg _) (tgt _))

theorem Prims.modDyn (h : Prims s₀ s) (b : BayIx) (f : BayDyn → BayDyn) : Prims s₀ (s.modDyn b f) :=
  h.modBay b (fun y => y.modDyn_config f) (fun y => .inl (by simp))

theorem Prims.modDelivery (h : Prims s₀ s) (b : BayIx) (f : Delivery → Delivery) : Prims s₀ (s.modDelivery b f) :=
  h.modBay b (fun _ => rfl) (fun _ => .inl rfl)

theorem Prims.modTimer (h : Prims s₀ s) (b : BayIx) (f : BayTimer → BayTimer) : Prims s₀ (s.modTimer b f) :=
  h.modBay b (fun _ => rfl) (fun _ => .inl rfl)

theorem Prims.admittedSince (h : Prims s₀ s) (b : BayIx) (v : Option Time) :
    Prims s₀ (s.modAlloc b (fun x => { x with admittedSince := v })) := h.modBay b (fun _ => rfl) (fun _ => .inl rfl)

theorem Prims.clearRotation (h : Prims s₀ s) (b : BayIx) : Prims s₀ (s.clearRotation b) := h.modTimer b _

theorem Prims.setRotation (h : Prims s₀ s) (b : BayIx) (v : Time) : Prims s₀ (s.setRotation b v) := by
  unfold State.setRotation; split
  · exact (h.modTimer b _).step (.expiries _ _)
  · exact h.modTimer b _

/-! ## The recompute -/

theorem Prims.markAdmitted (h : Prims s₀ s) (b : BayIx) (v : Bool) : Prims s₀ (s.markAdmitted b v) := by
  unfold State.markAdmitted; dsimp only
  repeat' split
  all_goals first
    | exact h
    | exact (h.admittedSince b _).setRotation b _
    | exact (h.admittedSince b _).clearRotation b

/-- What admission at one bay leaves of the allocator, and of a bay's targets. -/
@[simp] theorem State.markAdmitted_allocator (s : State) (b : BayIx) (v : Bool) : (s.markAdmitted b v).allocator = s.allocator := by
  unfold State.markAdmitted State.setRotation; dsimp only
  repeat' split
  all_goals rfl

theorem foldl_markAdmitted_allocator (s : State) (l : List BayIx) (v : BayIx → Bool) :
    (l.foldl (fun s b => s.markAdmitted b (v b)) s).allocator = s.allocator := by
  induction l generalizing s with
  | nil => rfl
  | cons b l ih => simp [ih]

theorem BayAlloc.retarget_target (x : BayAlloc) (t : Nat) : (x.retarget t).target = t := by
  unfold BayAlloc.retarget; split
  · assumption
  · rfl

theorem Prims.handOver (h : Prims s₀ s) : Prims s₀ s.handOver :=
  (h.step (.bays _ (fun y => { y with delivery := y.delivery.handTarget y.alloc.target }) (fun _ => rfl)
    (fun _ => rfl))).step (.scheduler _ _)

/-- The bay table with the targets of a list written in. -/
def retargeted (t : Table Bay 128) (ts : List (BayIx × Nat)) : Table Bay 128 :=
  ⟨t.items.zipIdx.map (fun e => { e.1 with alloc := e.1.alloc.retarget (targetIn ts e.2) }),
    by rw [List.length_map, List.length_zipIdx]; exact t.size⟩

theorem retargeted_get (t : Table Bay 128) (ts : List (BayIx × Nat)) (b : BayIx) :
    (retargeted t ts).get b = { t.get b with alloc := (t.get b).alloc.retarget (targetIn ts b.val) } := by
  simp [retargeted, Table.get]

theorem retargeted_sum (t : Table Bay 128) (ts : List (BayIx × Nat)) :
    (allBays.map (fun b => ((retargeted t ts).get b).alloc.target)).sum ≤ (ts.map (·.2)).sum := by
  have h := sum_targetIn_le ts (allBays.map (·.val))
    ((List.nodup_finRange 128).map Fin.val_injective)
  simpa [retargeted_get, BayAlloc.retarget_target, Function.comp_def] using h

/-- The first half of a recompute: admission at every bay (R86, R92). -/
def State.readmit (s : State) (ts : List (BayIx × Nat)) : State :=
  allBays.foldl (fun s b => s.markAdmitted b (ts.any (fun e => e.1 == b))) s

theorem State.retarget_eq (s : State) :
    s.retarget = State.handOver
      { s.readmit s.targets with bays := retargeted (s.readmit s.targets).bays s.targets } := rfl

theorem State.readmit_allocator (s : State) (ts : List (BayIx × Nat)) : (s.readmit ts).allocator = s.allocator :=
  foldl_markAdmitted_allocator s allBays (fun b => ts.any (fun e => e.1 == b))

theorem Prims.readmit (h : Prims s₀ s) (ts : List (BayIx × Nat)) : Prims s₀ (s.readmit ts) :=
  Prims.foldl (fun b h => h.markAdmitted b _) _ h

theorem State.targets_fit (s : State) : (s.targets.map (·.2)).sum ≤ budgetOf s.allocator.settings :=
  allotTargets_fits _ _ _ _

theorem State.targets_of_empty {s : State} (h : s.allocator.queue = []) : s.targets = [] := by
  simp [State.targets, State.claims, h, allotTargets, admittedCount, fillTiers, fillTier, headroomSum]

theorem Prims.retarget (h : Prims s₀ s) : Prims s₀ s.retarget := by
  rw [State.retarget_eq]
  have hr : Prims s₀ (s.readmit s.targets) := h.readmit _
  have ha := s.readmit_allocator s.targets
  have hf := s.targets_fit
  have he := @State.targets_of_empty s
  generalize s.readmit s.targets = s₁ at hr ha
  generalize s.targets = ts at hf he
  rw [← ha] at hf he
  refine Prims.handOver (hr.step (.targets s₁ (retargeted s₁.bays ts) ?_ ?_ ?_))
  · exact Table.ext_get fun b => by simp [retargeted_get, Bay.config]
  · exact (retargeted_sum _ _).trans hf
  · intro hq b
    rw [retargeted_get, BayAlloc.retarget_target, he hq]; rfl

theorem Moves.compareQueue (h : Moves a ev) : Moves a ev.compareQueue :=
  Moves.flushNotes (Moves.foldl (fun b h => h.compareRecord b) _ h)

theorem State.rotationChoice_queue {s : State} {e : ChargeEntry} (h : s.rotationChoice = some e) :
    s.allocator.queue ≠ [] := by
  rintro hq; simp [State.rotationChoice, hq] at h

theorem Prims.rotate (h : Prims s₀ s) (e : ChargeEntry) (hq : s.allocator.queue ≠ []) : Prims s₀ (s.rotate e) :=
  ((h.step (.queue s (insertEntry { e with stamp := s.now } (s.allocator.queue.filter (·.bay != e.bay)))
    (fun _ h => absurd h hq))).admittedSince e.bay none).clearRotation e.bay

theorem Moves.recomputeFuel (n : Nat) (h : Moves a ev) : Moves a (Ev.recomputeFuel n ev) := by
  induction n generalizing ev with
  | zero => exact h
  | succ n ih =>
    unfold Ev.recomputeFuel; dsimp only
    have h1 : Moves a (ev.compareQueue.onState State.retarget) := h.compareQueue.prims (Prims.retarget .refl)
    split
    · exact h1
    · next e he => exact ih (h1.prims (Prims.rotate .refl e (State.rotationChoice_queue he)))

/-- The recompute an event owes is a run of moves, but that it is owed no longer. -/
theorem Ev.runRecompute_moves (ev : Ev) :
    ∃ r, Moves ev { ev.runRecompute with recompute := r } := by
  unfold Ev.runRecompute; split
  · generalize 130 = n
    exact ⟨(Ev.recomputeFuel n ev).recompute, Moves.recomputeFuel n .refl⟩
  · exact ⟨ev.recompute, .refl⟩

/-! ## The scheduler -/

theorem Prims.modScheduler (h : Prims s₀ s) (f : Scheduler → Scheduler) : Prims s₀ (s.modScheduler f) :=
  h.step (.scheduler _ _)

theorem Prims.begin (h : Prims s₀ s) (k : TransactionKind) (f : Frame) : Prims s₀ (s.begin k f) :=
  h.modScheduler (fun c => { c with transaction := some ⟨k, f, false, s.timing.window, .waiting, false⟩ })

theorem Prims.takeTag (h : Prims s₀ s) : Prims s₀ s.takeTag := h.modScheduler _

theorem Prims.chooseAllot (h : Prims s₀ s) (b : BayIx) : Prims s₀ (s.chooseAllot b) := by
  unfold State.chooseAllot; split
  · exact h
  · exact ((h.modDelivery b _).begin _ _).takeTag

theorem Prims.choosePoll (h : Prims s₀ s) (p : Fin 256) (x : Addr) : Prims s₀ (s.choosePoll p x) :=
  ((h.begin .poll ⟨x, s.controller.own, Kind.poll, s.scheduler.tag, []⟩).takeTag).modScheduler
    (fun c => { c with cursor := p + 1 })

theorem Prims.chooseForward (h : Prims s₀ s) : Prims s₀ s.chooseForward := by
  unfold State.chooseForward; split
  · exact h
  · next e q hq => exact (h.step (.forward s q (by simp [hq]))).begin _ _

theorem Prims.serve (c : Source) (h : s.serve c = some t) : Prims s t := by
  unfold State.serve at h
  split at h
  · obtain ⟨b, _, rfl⟩ := Option.map_eq_some_iff.1 h; exact Prims.refl.chooseAllot b
  · split at h
    · cases h
    · cases h; exact Prims.refl.chooseForward
  · obtain ⟨o, _, rfl⟩ := Option.map_eq_some_iff.1 h; exact Prims.refl.choosePoll _ _

theorem Prims.serveFrom (c : Source) (h : s.serveFrom c = some t) : Prims s t := by
  obtain ⟨u, hu, rfl⟩ := Option.map_eq_some_iff.1 h
  exact (Prims.serve c hu).modScheduler _

/-- What the arbiter's choice can do: nothing, a shed, or one source served (R136). -/
theorem State.arbitrate_cases (s : State) :
    s.arbitrate = s ∨ (∃ b ∈ s.sheds.head?, s.arbitrate = s.chooseAllot b)
      ∨ (s.sheds = [] ∧ ∃ c, s.serveFrom c = some s.arbitrate) := by
  unfold State.arbitrate
  split
  · exact .inl rfl
  · split
    · next b l e => exact .inr (.inl ⟨b, by simp [e], rfl⟩)
    · next e =>
      dsimp only
      rcases h1 : s.serveFrom s.scheduler.rotor with _ | t
      · rcases h2 : s.serveFrom s.scheduler.rotor.next with _ | t
        · rcases h3 : s.serveFrom s.scheduler.rotor.next.next with _ | t
          · exact .inl (by simp)
          · exact .inr (.inr ⟨e, _, by simpa using h3⟩)
        · exact .inr (.inr ⟨e, _, by simpa using h2⟩)
      · exact .inr (.inr ⟨e, _, by simpa using h1⟩)

theorem Prims.arbitrate (s : State) : Prims s s.arbitrate := by
  rcases s.arbitrate_cases with h | ⟨b, _, h⟩ | ⟨_, c, h⟩
  · rw [h]; exact .refl
  · rw [h]; exact Prims.refl.chooseAllot b
  · exact Prims.serveFrom c h

theorem Moves.deliverDue (h : Moves a ev) : Moves a (ev.onState State.deliverDue) := by
  have h1 := h.waitlist
    (ev.st.waitlist.map (fun e => { e with deadline := e.deadline.filter (fun v => !atOrAfter ev.st.now v) }))
    (fun hw => by simpa using h.waitLength hw)
    (fun o => by rw [List.pairwise_map]; exact o)
  have h2 := (h1.prim (.bays _ (Bay.deliver ev.st.now) (fun _ => rfl) (fun _ => rfl))).prim (.early _ (fun e =>
    { e with deadline := e.deadline.filter (fun v => !atOrAfter ev.st.now v) }) (fun _ => ⟨rfl, rfl⟩))
  exact h2.prim (.expiries _ _)

/-! ## The end of an event -/

/-- The end of an event, from the event as its body leaves it, is a run of moves but that no recompute is owed. -/
theorem Ev.finish_moves (ev : Ev) : ∃ ev', Moves ev ev' ∧ ev.finish = ev'.st := by
  obtain ⟨r, hr⟩ := Ev.runRecompute_moves ev.flushNotes.runScan
  have h0 : Moves ev ev.flushNotes.runScan := Moves.refl.flushNotes.runScan
  have h1 := (h0.trans hr).flushNotes
  have h2 := (Moves.deliverDue h1).prims (Prims.arbitrate _)
  refine ⟨_, h2, ?_⟩
  have hf : ∀ (e : Ev) (r : Bool), ({ e with recompute := r } : Ev).flushNotes.st = e.flushNotes.st := by
    intro e r
    have key : ∀ (l : List BayNote) (e : Ev) (r : Bool),
        (l.foldl Ev.raiseNote { e with recompute := r }).st = (l.foldl Ev.raiseNote e).st := by
      intro l
      induction l with
      | nil => intros; rfl
      | cons n l ih =>
        intro e r
        have : Ev.raiseNote { e with recompute := r } n = { e.raiseNote n with recompute := r } := by
          unfold Ev.raiseNote Ev.notice Ev.placeOpt Ev.place Ev.bay Ev.onState
          dsimp only
          repeat' split
          all_goals rfl
        simp only [List.foldl_cons, this, ih]
    exact key _ { e with notes := [] } r
  unfold Ev.finish
  simp only [Ev.onState, hf]

theorem Ev.finish_still (ev : Ev) : ev.finish.still = ev.st.still := by
  obtain ⟨ev', h, e⟩ := ev.finish_moves; rw [e, h.still]

theorem Ev.finish_bounded (ev : Ev) (h : ev.st.Bounded) : ev.finish.Bounded := by
  obtain ⟨ev', m, e⟩ := ev.finish_moves; rw [e]; exact m.bounded h

theorem Ev.finish_waitOrdered (ev : Ev) (h : ev.st.WaitOrdered) : ev.finish.WaitOrdered := by
  obtain ⟨ev', m, e⟩ := ev.finish_moves; rw [e]; exact m.waitOrdered h

theorem Ev.finish_alertRight (ev : Ev) (h : ev.st.AlertRight) : ev.finish.AlertRight := by
  obtain ⟨ev', m, e⟩ := ev.finish_moves; rw [e]; exact m.alertRight h

theorem Ev.finish_withinBudget (ev : Ev) (h : ev.st.WithinBudget) : ev.finish.WithinBudget := by
  obtain ⟨ev', m, e⟩ := ev.finish_moves; rw [e]; exact m.withinBudget h

theorem Ev.finish_suspensionHolds (ev : Ev) (h : ev.st.SuspensionHolds) : ev.finish.SuspensionHolds := by
  obtain ⟨ev', m, e⟩ := ev.finish_moves; rw [e]; exact m.suspensionHolds h

/-- The frames an event has placed when its body ends stand first in the FIFO. -/
theorem Ev.finish_fifo (ev : Ev) : ev.st.uplink.fifo <+: ev.finish.uplink.fifo := by
  obtain ⟨ev', m, e⟩ := ev.finish_moves; rw [e]; exact m.fifo

/-- The end of an event that owes no notice, no scan and no recompute (R59, R136). -/
theorem Ev.finish_quiet (ev : Ev) (hn : ev.notes = []) (hs : ev.scan = false) (hr : ev.recompute = false) :
    ev.finish = ev.st.deliverDue.arbitrate := by
  obtain ⟨st, bu, bf, notes, scan, rec, cap⟩ := ev
  cases hn; cases hs; cases hr
  rfl

end Sys2Proof.Machine
end

