-- ==== Sys2Proof/Laws/Answer.lean ====
section
/-!
SUPPORT. How a command runs (taken from its queue, or not), how its answer is placed, and what frames and error
records leave alone.
-/
namespace Sys2Proof.Machine

/-! ## Frames and records -/

/-- `t` is `s` but for the uplink FIFO, the notice tag and the recorder: all that frames and error records change. -/
def Talks (s t : State) : Prop := t = { s with uplink := t.uplink, noticeTag := t.noticeTag, recorder := t.recorder }

theorem Talks.refl (s : State) : Talks s s := rfl

theorem Talks.trans (h : Talks s t) (h' : Talks t u) : Talks s u := by
  unfold Talks at *; rw [h'] ; rw [h]

theorem State.recordError_talks (s : State) (e : ErrorReport) : Talks s (s.recordError e).1 := by
  obtain ⟨r, tag, h, _⟩ := s.recordError_fst e; rw [h]; rfl

theorem State.placeUplink_talks (s : State) (f : Frame) : Talks s (s.placeUplink f) := by
  rcases s.placeUplink_cases f with ⟨_, h⟩ | h | h <;> rw [h]
  · rfl
  · rfl
  · exact s.recordError_talks _

theorem Ev.place_talks (ev : Ev) (f : Frame) : Talks ev.st (ev.place f).st := by
  unfold Ev.place; split
  · rfl
  · exact ev.st.placeUplink_talks f

theorem Ev.placeOpt_talks (ev : Ev) : (f : Option Frame) → Talks ev.st (ev.placeOpt f).st
  | none => .refl _
  | some f => ev.place_talks f

theorem Ev.notice_talks (ev : Ev) (d : Addr) (k : Byte) (p : List Byte) : Talks ev.st (ev.notice d k p).st := by
  unfold Ev.notice
  refine Talks.trans (t := (ev.st.buildNotice d k p).1) ?_ (Ev.placeOpt_talks _ _)
  rcases ev.st.buildNotice_fst d k p with h | h <;> rw [h] <;> rfl

theorem Ev.log_talks (ev : Ev) (e : ErrorReport) : Talks ev.st (ev.log e).st :=
  (ev.st.recordError_talks e).trans (Ev.placeOpt_talks { ev with st := (ev.st.recordError e).1 } _)

theorem Ev.foldl_talks {f : Ev → α → Ev} (hf : ∀ ev x, Talks ev.st (f ev x).st) (l : List α) (ev : Ev) :
    Talks ev.st (l.foldl f ev).st := by
  induction l generalizing ev with
  | nil => rfl
  | cons x l ih => exact (hf ev x).trans (ih _)

theorem Ev.flushNotes_talks (ev : Ev) : Talks ev.st ev.flushNotes.st := by
  unfold Ev.flushNotes
  refine Ev.foldl_talks (fun ev n => ?_) ev.notes { ev with notes := [] }
  unfold Ev.raiseNote; dsimp only; split
  · exact ev.notice_talks _ _ _
  · rfl

theorem Ev.holdNotice_talks (ev : Ev) (x : Hold) (e : HoldEvent) (c : HoldNoticeBody) :
    Talks ev.st (ev.holdNotice x e c).st := by
  unfold Ev.holdNotice; split
  · exact ev.notice_talks _ _ _
  · rfl

theorem Ev.answer_talks (ev : Ev) (f : Option Frame) : Talks ev.st (ev.answer f).st :=
  (Ev.placeOpt_talks { ev with buffering := false, buffer := [] } f).trans (Ev.foldl_talks Ev.place_talks _ _)

/-- Frames leave what the event owes. -/
@[simp] theorem Ev.placeOpt_leaves (ev : Ev) (f : Option Frame) :
    (ev.placeOpt f).notes = ev.notes ∧ (ev.placeOpt f).scan = ev.scan
    ∧ (ev.placeOpt f).recompute = ev.recompute ∧ (ev.placeOpt f).captured = ev.captured := by
  cases f <;> simp [Ev.placeOpt]

@[simp] theorem Ev.notice_leaves (ev : Ev) (d : Addr) (k : Byte) (p : List Byte) :
    (ev.notice d k p).notes = ev.notes ∧ (ev.notice d k p).scan = ev.scan
    ∧ (ev.notice d k p).recompute = ev.recompute ∧ (ev.notice d k p).captured = ev.captured := by
  simp [Ev.notice]

@[simp] theorem Ev.log_leaves (ev : Ev) (e : ErrorReport) :
    (ev.log e).notes = ev.notes ∧ (ev.log e).scan = ev.scan
    ∧ (ev.log e).recompute = ev.recompute ∧ (ev.log e).captured = ev.captured := by
  simp [Ev.log]

@[simp] theorem Ev.holdNotice_leaves (ev : Ev) (x : Hold) (e : HoldEvent) (c : HoldNoticeBody) :
    (ev.holdNotice x e c).notes = ev.notes ∧ (ev.holdNotice x e c).scan = ev.scan
    ∧ (ev.holdNotice x e c).recompute = ev.recompute ∧ (ev.holdNotice x e c).captured = ev.captured := by
  unfold Ev.holdNotice; split
  · exact ev.notice_leaves _ _ _
  · simp

/-! ## The answer -/

/-- The answer and the frames behind it are placed by a run of moves of the event, which no longer waits. -/
theorem Ev.answer_moves (ev : Ev) (f : Option Frame) :
    Moves { ev with buffering := false, buffer := [] } (ev.answer f) :=
  Moves.foldl (fun f h => h.place f) _ (Moves.refl.placeOpt f)

@[simp] theorem Ev.answer_leaves (ev : Ev) (f : Option Frame) :
    (ev.answer f).notes = ev.notes ∧ (ev.answer f).scan = ev.scan
    ∧ (ev.answer f).recompute = ev.recompute ∧ (ev.answer f).captured = ev.captured := by
  have key : ∀ (l : List Frame) (e : Ev), (l.foldl Ev.place e).notes = e.notes ∧ (l.foldl Ev.place e).scan = e.scan
      ∧ (l.foldl Ev.place e).recompute = e.recompute ∧ (l.foldl Ev.place e).captured = e.captured := by
    intro l
    induction l with
    | nil => simp
    | cons f l ih => intro e; simp [ih]
  have := key ev.buffer (Ev.placeOpt { ev with buffering := false, buffer := [] } f)
  simpa [Ev.answer] using this

/-- The answer is the first frame the event places (R28, R162, R172). -/
theorem Ev.answer_first (ev : Ev) (f : Frame) (h : ev.st.uplink.fifo.length < 32) :
    ev.st.uplink.fifo ++ [f] <+: (ev.answer (some f)).st.uplink.fifo := by
  have hp : ({ ev with buffering := false, buffer := [] } : Ev).place f
      = { ev with st := ev.st.pushUplink f, buffering := false, buffer := [] } := by
    simp [Ev.place, Ev.onState, State.placeUplink, Config.uplinkFifo, h]
  have hm : Moves { ev with st := ev.st.pushUplink f, buffering := false, buffer := [] } (ev.answer (some f)) := by
    unfold Ev.answer Ev.placeOpt; dsimp only
    rw [hp]
    exact Moves.foldl (fun f h => h.place f) _ .refl
  exact hm.fifo

/-- An answer with nothing waiting behind it. -/
theorem Ev.answer_alone (ev : Ev) (f : Frame) (h : ev.buffer = []) :
    (ev.answer (some f)).st = ev.st.placeUplink f := by
  simp [Ev.answer, h, Ev.placeOpt, Ev.place, Ev.onState]

/-- An answer is built for every requester but the null address (R100). -/
theorem State.buildAnswer_some (s : State) (r : Request) (k : Byte) (p : List Byte) (h : r.src ≠ 0) :
    s.buildAnswer r.src r.tag k p = some ⟨r.src, s.controller.own, k, r.tag, p⟩ := by
  have : r.src ≠ Config.nullAddr := h
  simp [State.buildAnswer, this]

/-- An answer with nothing waiting behind it, and nothing owed. -/
theorem Ev.finish_answer (ev : Ev) (r : Request) (k : Byte) (p : List Byte) (hb : ev.buffer = [])
    (hn : ev.notes = []) (hs : ev.scan = false) (hr : ev.recompute = false) :
    (ev.answer (ev.st.buildAnswer r.src r.tag k p)).finish = (ev.st.sendAnswer r k p).deliverDue.arbitrate := by
  rw [Ev.finish_quiet _ (by simp [hn]) (by simp [hs]) (by simp [hr])]
  unfold State.sendAnswer
  split
  · next h => rw [h, Ev.answer_alone _ _ hb]
  · next h => rw [h]; simp [Ev.answer, hb, Ev.placeOpt]

/-- The answer of a request whose event does anything at all stands first (R28, R172). -/
theorem Ev.finish_answers (s : State) (ev : Ev) (r : Request) (k : Byte) (p : List Byte)
    (hu : ev.st.uplink = s.uplink) (ho : ev.st.controller = s.controller) :
    s.Answers (ev.answer (ev.st.buildAnswer r.src r.tag k p)).finish r k p := by
  intro hr hl
  rw [State.buildAnswer_some _ _ _ _ hr, ← hu, ← ho]
  exact (Ev.answer_first ev _ (by rw [hu]; exact hl)).trans (Ev.finish_fifo _)

/-- An error logged in an event that answers nothing. -/
theorem Ev.log_st (ev : Ev) (e : ErrorReport) (hb : ev.buffering = false) : (ev.log e).st = ev.st.logError e := by
  unfold Ev.log State.logError Ev.placeOpt; dsimp only
  split <;> split <;> simp_all [Ev.place, Ev.onState]

/-! ## How a command runs -/

/-- An event whose condition holds runs, unless the part is held in reset. -/
theorem State.event_runs (s : State) {c : Bool} (body : Ev → Ev) (h : s.heldInReset = false) (hc : c = true) :
    s.event c body = .next (body (Ev.start s)).finish := by simp [State.event, h, hc]

/-- An event that only changes the state (R59, R136). -/
theorem State.event_onState (s : State) {c : Bool} (f : State → State) (h : s.heldInReset = false) (hc : c = true) :
    s.event c (·.onState f) = .next (f s).deliverDue.arbitrate := by
  rw [s.event_runs _ h hc, Ev.finish_quiet _ rfl rfl rfl]; rfl

theorem State.takeRequest_runs (s : State) {r : Request} {q : List Request} (k : Byte) (body : Request → Ev → Ev)
    (h : s.heldInReset = false) (hq : s.requests = r :: q) (hk : r.kind = k) :
    s.takeRequest k body = .next (body r (Ev.startRequest { s with requests := q })).finish := by
  simp [State.takeRequest, hq, h, hk]

theorem State.takeManagement_runs (s : State) {r : Request} {q : List Request} (mine : Request → Bool)
    (body : Request → Ev → Ev) (h : s.heldInReset = false) (hq : s.management = r :: q) (hm : mine r = true) :
    s.takeManagement mine body = .next (body r (Ev.startRequest { s with management := q })).finish := by
  simp [State.takeManagement, hq, h, hm]

end Sys2Proof.Machine
end

