-- ==== Sys2Proof/Laws/Records.lean ====
section
/-!
SUPPORT. What leaves every bay record, the Ticket Index and the holds of the Waitlist alone: frames, the recompute
of a part whose records all agree with their check words, the delivery of deadlines and the arbiter's choice.
-/
namespace Sys2Proof.Machine

/-- Every bay record with its check word, the Ticket Index, the placement cursors and the holds of the Waitlist are
the same. -/
structure SameRecords (s t : State) : Prop where
  dyn : ∀ b, (t.bay b).dyn = (s.bay b).dyn
  check : ∀ b, (t.bay b).check = (s.bay b).check
  holds : t.waitHolds = s.waitHolds
  index : t.index = s.index
  cursors : t.cursors = s.cursors

theorem SameRecords.refl (s : State) : SameRecords s s := ⟨fun _ => rfl, fun _ => rfl, rfl, rfl, rfl⟩

theorem SameRecords.of_eq (hb : t.bays = s.bays) (hw : t.waitlist = s.waitlist) (hi : t.index = s.index)
    (hc : t.cursors = s.cursors) : SameRecords s t :=
  ⟨fun b => by rw [State.bay, hb, State.bay], fun b => by rw [State.bay, hb, State.bay],
    by rw [State.waitHolds, hw, State.waitHolds], hi, hc⟩

theorem SameRecords.trans (h : SameRecords s t) (h' : SameRecords t u) : SameRecords s u :=
  ⟨fun b => (h'.dyn b).trans (h.dyn b), fun b => (h'.check b).trans (h.check b), h'.holds.trans h.holds,
    h'.index.trans h.index, h'.cursors.trans h.cursors⟩

theorem State.dyns_eq (s : State) : s.dyns = allBays.map (fun b => (s.bay b).dyn) := by
  simp [State.dyns, Table.items_eq_get, allBays, State.bay, Function.comp_def]

theorem SameRecords.dyns (h : SameRecords s t) : t.dyns = s.dyns := by
  simp only [State.dyns_eq, h.dyn]

/-- Every stored record agrees with its check word (R3). -/
def State.AllOk (s : State) : Prop := ∀ b, (s.bay b).checkOk = true

theorem SameRecords.allOk (h : SameRecords s t) (ok : s.AllOk) : t.AllOk := by
  intro b; have := ok b; simpa [Bay.checkOk, h.dyn b, h.check b] using this

theorem Talks.sameRecords (h : Talks s t) : SameRecords s t := by
  unfold Talks at h
  exact .of_eq (by rw [h]) (by rw [h]) (by rw [h]) (by rw [h])

theorem State.modBay_sameRecords (s : State) (b : BayIx) {f : Bay → Bay} (hd : ∀ y, (f y).dyn = y.dyn)
    (hc : ∀ y, (f y).check = y.check) : SameRecords s (s.modBay b f) := by
  refine ⟨fun c => ?_, fun c => ?_, rfl, rfl, rfl⟩ <;> rw [State.bay_modBay] <;> split <;> simp_all

theorem State.modAlloc_sameRecords (s : State) (b : BayIx) (f : BayAlloc → BayAlloc) :
    SameRecords s (s.modAlloc b f) := s.modBay_sameRecords b (fun _ => rfl) (fun _ => rfl)

theorem State.modTimer_sameRecords (s : State) (b : BayIx) (f : BayTimer → BayTimer) :
    SameRecords s (s.modTimer b f) := s.modBay_sameRecords b (fun _ => rfl) (fun _ => rfl)

theorem State.modDelivery_sameRecords (s : State) (b : BayIx) (f : Delivery → Delivery) :
    SameRecords s (s.modDelivery b f) := s.modBay_sameRecords b (fun _ => rfl) (fun _ => rfl)

theorem State.bays_sameRecords (s : State) {f : Bay → Bay} (hd : ∀ y, (f y).dyn = y.dyn)
    (hc : ∀ y, (f y).check = y.check) : SameRecords s { s with bays := s.bays.map f } :=
  ⟨fun b => by simp [State.bay, hd], fun b => by simp [State.bay, hc], rfl, rfl, rfl⟩

theorem State.setRotation_sameRecords (s : State) (b : BayIx) (v : Time) : SameRecords s (s.setRotation b v) := by
  unfold State.setRotation; split
  · have h := s.modTimer_sameRecords b (fun t => { t with rotation := .due v })
    exact ⟨h.1, h.2, h.3, h.4, h.5⟩
  · exact s.modTimer_sameRecords b _

theorem State.foldl_sameRecords {f : State → α → State} (hf : ∀ s x, SameRecords s (f s x)) (l : List α) (s : State) :
    SameRecords s (l.foldl f s) := by
  induction l generalizing s with
  | nil => exact .refl s
  | cons x l ih => exact (hf s x).trans (ih _)

/-! ## The recompute -/

theorem State.markAdmitted_sameRecords (s : State) (b : BayIx) (v : Bool) : SameRecords s (s.markAdmitted b v) := by
  unfold State.markAdmitted; dsimp only
  repeat' split
  all_goals first
    | exact .refl s
    | exact (s.modAlloc_sameRecords b _).trans (State.setRotation_sameRecords _ b _)
    | exact (s.modAlloc_sameRecords b _).trans (State.modTimer_sameRecords _ b _)

theorem State.retarget_sameRecords (s : State) : SameRecords s s.retarget := by
  rw [State.retarget_eq]
  have h : SameRecords s (s.readmit s.targets) := State.foldl_sameRecords (fun s b => s.markAdmitted_sameRecords b _) _ s
  refine h.trans ?_
  generalize s.readmit s.targets = u
  have h2 : SameRecords u { u with bays := retargeted u.bays s.targets } :=
    ⟨fun b => by simp [State.bay, retargeted_get], fun b => by simp [State.bay, retargeted_get], rfl, rfl, rfl⟩
  refine h2.trans ?_
  generalize ({ u with bays := retargeted u.bays s.targets } : State) = v
  have h3 := v.bays_sameRecords (f := fun y => { y with delivery := y.delivery.handTarget y.alloc.target })
    (fun _ => rfl) (fun _ => rfl)
  exact ⟨h3.1, h3.2, h3.3, h3.4, h3.5⟩

theorem State.rotate_sameRecords (s : State) (e : ChargeEntry) : SameRecords s (s.rotate e) := by
  have h1 := (s.setQueue (insertEntry { e with stamp := s.now }
    (s.allocator.queue.filter (·.bay != e.bay)))).modAlloc_sameRecords e.bay
    (fun a => { a with admittedSince := none })
  have h2 := h1.trans (State.modTimer_sameRecords _ e.bay (fun t => { t with rotation := .clear }))
  exact ⟨h2.1, h2.2, h2.3, h2.4, h2.5⟩

/-- A comparison of records that all agree does nothing (R3, R166). -/
theorem Ev.compareRecords_ok (ev : Ev) (ok : ev.st.AllOk) (l : List BayIx) : l.foldl Ev.compareRecord ev = ev := by
  induction l with
  | nil => rfl
  | cons b l ih =>
    have : ev.compareRecord b = ev := by unfold Ev.compareRecord; rw [if_pos]; simp [Ev.bay, ok b]
    rw [List.foldl_cons, this, ih]

theorem Ev.compareQueue_ok (ev : Ev) (ok : ev.st.AllOk) : ev.compareQueue = ev.flushNotes := by
  unfold Ev.compareQueue; rw [Ev.compareRecords_ok _ ok]

theorem Ev.recomputeFuel_sameRecords (n : Nat) (ev : Ev) (ok : ev.st.AllOk) :
    SameRecords ev.st (Ev.recomputeFuel n ev).st := by
  induction n generalizing ev with
  | zero => exact .refl _
  | succ n ih =>
    unfold Ev.recomputeFuel; dsimp only
    have h : SameRecords ev.st (ev.compareQueue.onState State.retarget).st := by
      rw [Ev.compareQueue_ok _ ok]
      exact ev.flushNotes_talks.sameRecords.trans (State.retarget_sameRecords _)
    split
    · exact h
    · next e he =>
      have h2 := h.trans (State.rotate_sameRecords _ e)
      exact h2.trans (ih ((ev.compareQueue.onState State.retarget).onState (·.rotate e)) (h2.allOk ok))

/-- A recompute of a part whose records all agree leaves them alone (R85). -/
theorem Ev.runRecompute_sameRecords (ev : Ev) (ok : ev.st.AllOk) : SameRecords ev.st ev.runRecompute.st := by
  unfold Ev.runRecompute; split
  · generalize 130 = n
    exact Ev.recomputeFuel_sameRecords n ev ok
  · exact .refl _

/-- Whatever the state, the targets fit the budget once a recompute has been made (R90). -/
theorem Ev.recomputeFuel_withinBudget (n : Nat) (ev : Ev) : (Ev.recomputeFuel (n + 1) ev).st.WithinBudget := by
  have key : ∀ s : State, s.retarget.WithinBudget := by
    intro s
    rw [State.retarget_eq]
    have ha := s.readmit_allocator s.targets
    have hf := s.targets_fit
    rw [← ha] at hf
    generalize s.readmit s.targets = u at *
    have h2 : ({ u with bays := retargeted u.bays s.targets } : State).WithinBudget :=
      (retargeted_sum u.bays s.targets).trans hf
    simp only [State.WithinBudget, State.targetSum, State.handOver, State.bay, Table.get_map] at h2 ⊢
    exact h2
  rw [Ev.recomputeFuel]
  split
  · exact key _
  · next e he =>
    have h := Moves.prims .refl (Prims.rotate .refl e (State.rotationChoice_queue he))
      (a := (ev.compareQueue.onState State.retarget))
    exact Moves.withinBudget (Moves.recomputeFuel n h) (key _)

/-- An event that owes a recompute ends with targets that fit the budget, whatever they were before (R85, R90). -/
theorem Ev.finish_recomputed (ev : Ev) (h : ev.recompute = true) : ev.finish.WithinBudget := by
  have hr : ev.flushNotes.runScan.recompute = true := (Moves.refl.flushNotes.runScan).recompute h
  have h1 : ev.flushNotes.runScan.runRecompute.st.WithinBudget := by
    have h := Ev.recomputeFuel_withinBudget 129 ev.flushNotes.runScan
    unfold Ev.runRecompute; rw [if_pos hr]
    generalize Ev.recomputeFuel (129 + 1) ev.flushNotes.runScan = e at h
    exact h
  have h2 := (Moves.refl (ev₀ := ev.flushNotes.runScan.runRecompute)).flushNotes
  exact ((Moves.deliverDue h2).prims (Prims.arbitrate _)).withinBudget h1

/-! ## The end of an event -/

theorem State.deliverDue_sameRecords (s : State) : SameRecords s s.deliverDue :=
  ⟨fun b => by simp [State.deliverDue, State.bay, Bay.deliver],
    fun b => by simp [State.deliverDue, State.bay, Bay.deliver],
    by simp [State.deliverDue, State.waitHolds, Function.comp_def], rfl, rfl⟩

theorem State.chooseAllot_sameRecords (s : State) (b : BayIx) : SameRecords s (s.chooseAllot b) := by
  unfold State.chooseAllot; split
  · exact .refl s
  · next a e he =>
    have h := s.modDelivery_sameRecords b (fun d => { d with
      sequence := nextSequence (s.bay b).delivery.sequence, unacknowledged := some d.target, repeatMark := false,
      state := .inFlight })
    exact ⟨h.1, h.2, h.3, h.4, h.5⟩

theorem State.serve_sameRecords {s t : State} (c : Source) (h : s.serve c = some t) : SameRecords s t := by
  unfold State.serve at h
  split at h
  · obtain ⟨b, _, rfl⟩ := Option.map_eq_some_iff.1 h; exact s.chooseAllot_sameRecords b
  · split at h
    · cases h
    · cases h; unfold State.chooseForward; split
      · exact .refl s
      · exact .of_eq rfl rfl rfl rfl
  · obtain ⟨o, _, rfl⟩ := Option.map_eq_some_iff.1 h; exact .of_eq rfl rfl rfl rfl

theorem State.arbitrate_sameRecords (s : State) : SameRecords s s.arbitrate := by
  rcases s.arbitrate_cases with h | ⟨b, _, h⟩ | ⟨_, c, h⟩
  · rw [h]; exact .refl s
  · rw [h]; exact s.chooseAllot_sameRecords b
  · obtain ⟨u, hu, he⟩ := Option.map_eq_some_iff.1 h
    rw [← he]; have := State.serve_sameRecords c hu
    exact ⟨this.1, this.2, this.3, this.4, this.5⟩

/-- A waitlist scan of an empty Waitlist does nothing. -/
theorem Ev.runScan_empty (ev : Ev) (h : ev.scan = false ∨ ev.st.waitlist = []) :
    ev.runScan = { ev with scan := false } := by
  unfold Ev.runScan; split
  · next hs => rw [(h.resolve_left (by simp [hs]))]; rfl
  · next hs => simp at hs; cases ev; simp_all

/-- The end of an event that places nothing and whose recompute finds every record in order leaves the records
alone (R39, R59, R85, R136). -/
theorem Ev.finish_sameRecords (ev : Ev) (hs : ev.scan = false ∨ ev.st.waitlist = [])
    (ok : ev.recompute = false ∨ ev.st.AllOk) : SameRecords ev.st ev.finish := by
  have h1 := ev.flushNotes_talks
  have hsc : ev.flushNotes.scan = ev.scan := by
    have key : ∀ (l : List BayNote) (e : Ev), (l.foldl Ev.raiseNote e).scan = e.scan := by
      intro l; induction l with
      | nil => intro e; rfl
      | cons n l ih => intro e; rw [List.foldl_cons, ih]; unfold Ev.raiseNote; dsimp only; split <;> simp
    exact key _ _
  have hrc : ev.flushNotes.recompute = ev.recompute := by
    have key : ∀ (l : List BayNote) (e : Ev), (l.foldl Ev.raiseNote e).recompute = e.recompute := by
      intro l; induction l with
      | nil => intro e; rfl
      | cons n l ih => intro e; rw [List.foldl_cons, ih]; unfold Ev.raiseNote; dsimp only; split <;> simp
    exact key _ _
  have hw : ev.flushNotes.st.waitlist = ev.st.waitlist := by rw [h1]
  have h2 : ev.flushNotes.runScan = { ev.flushNotes with scan := false } :=
    Ev.runScan_empty _ (by rw [hsc, hw]; exact hs)
  have h3 : SameRecords ev.st ev.flushNotes.runScan.runRecompute.st := by
    refine h1.sameRecords.trans ?_
    rw [h2]
    rcases ok with h | h
    · unfold Ev.runRecompute; rw [if_neg (by simp [hrc, h])]; exact .refl _
    · exact Ev.runRecompute_sameRecords { ev.flushNotes with scan := false } (h1.sameRecords.allOk h)
  unfold Ev.finish
  generalize ev.flushNotes.runScan.runRecompute = e at h3
  exact ((h3.trans e.flushNotes_talks.sameRecords).trans (State.deliverDue_sameRecords _)).trans
    (State.arbitrate_sameRecords _)

end Sys2Proof.Machine
end

