-- ==== Sys2Proof/Laws/Management.lean ====
section
/-!
SUPPORT. How a management request runs: the head of its queue taken, a SET-TABLE of one entry, an operation on a
bay, and its MGMT-ANSWER placed where nothing else waits behind it.
-/
namespace Sys2Proof.Machine

/-- The bay a bay byte names. -/
theorem bayOfNo_byteOf (b : BayIx) : bayOfNo (byteOf (b.val + 1)).toNat = some b := by
  have : (byteOf (b.val + 1)).toNat = b.val + 1 := by simp [byteOf]; omega
  rw [this]; unfold bayOfNo; rw [dif_pos (by omega)]; simp

/-- An event that only answers a status (R172). -/
theorem Ev.finish_status (s : State) (r : Request) (st : Status) :
    ((Ev.startRequest s).status r st).finish = (s.sendStatus r st []).deliverDue.arbitrate :=
  Ev.finish_answer _ r _ _ rfl rfl rfl rfl

/-- An event that changes the state alone and answers a status. -/
theorem Ev.finish_status_onState (s : State) (f : State → State) (r : Request) (st : Status) :
    (((Ev.startRequest s).onState f).status r st).finish = ((f s).sendStatus r st []).deliverDue.arbitrate :=
  Ev.finish_answer _ r _ _ rfl rfl rfl rfl

/-- A SET-TABLE of one entry that names its table and a start inside it (R173). -/
theorem State.setTable_one (s : State) {r : Request} {q : List Request} {id size first last i : Nat} (w : EntryWrite)
    {e : List Byte} {idb ib : Byte} (hh : s.heldInReset = false) (hq : s.management = r :: q)
    (hk : r.kind = Kind.setTable) (hp : r.payload = idb :: ib :: e) (hid : idb.toNat = id) (hi : ib.toNat = i)
    (hl : e.length = size) (hs : 0 < size) (h1 : first ≤ i) (h2 : i ≤ last) :
    s.takeManagement (namesTable id) (Ev.writeTable size first last w) =
      .next (match w (Ev.startRequest { s with management := q }) i e with
        | .error st => ((Ev.startRequest { s with management := q }).status r st).finish
        | .ok (ev, c) => (ev.stored r c).finish) := by
  rw [State.takeManagement_runs s _ _ hh hq (by simp [namesTable, hk, hp, byteAt, hid])]
  have he : e ≠ [] := by intro h; simp [h] at hl; omega
  have hx : splitEntries size e = [e] := by
    unfold splitEntries; rw [hl, Nat.div_self hs]; subst hl; simp
  have : tableEntries r.payload size first last = .ok (i, [e]) := by
    unfold tableEntries; dsimp only
    rw [hp]
    simp only [byteAt, List.getD_cons_succ, List.getD_cons_zero, hi, List.drop_succ_cons, List.drop_zero,
      List.length_cons, hl, Nat.mod_self, Nat.div_self hs]
    rw [if_neg (by simp [he]), if_neg (by omega), hx]
  unfold Ev.writeTable; rw [this]; dsimp only
  cases hw : w (Ev.startRequest { s with management := q }) i e with
  | error st => simp [writeEntries, hw]
  | ok p => simp [writeEntries, hw]

/-- An operation that names a bay of the level, long enough for its arguments (R178, R180). -/
theorem State.takeBayControl_runs (s : State) {r : Request} {q : List Request} {code length : Nat} (b : BayIx)
    (body : BayIx → Request → Ev → Ev) (hh : s.heldInReset = false) (hq : s.management = r :: q)
    (hk : r.kind = Kind.control) (h0 : byteAt r.payload 0 = code) (h1 : byteAt r.payload 1 = (byteOf (b.val + 1)).toNat)
    (hne : r.payload ≠ []) (hl : length ≤ r.payload.length) :
    s.takeBayControl code length body = .next (body b r (Ev.startRequest { s with management := q })).finish := by
  unfold State.takeBayControl State.takeControl
  rw [State.takeManagement_runs s _ _ hh hq (by simp [namesOperation, hk, h0, hne])]
  dsimp only
  rw [if_neg (by omega), h1, bayOfNo_byteOf]

/-- An operation without a bay, long enough for its arguments. -/
theorem State.takeControl_runs (s : State) {r : Request} {q : List Request} {code length : Nat}
    (body : Request → Ev → Ev) (hh : s.heldInReset = false) (hq : s.management = r :: q)
    (hk : r.kind = Kind.control) (h0 : byteAt r.payload 0 = code) (hne : r.payload ≠ [])
    (hl : length ≤ r.payload.length) :
    s.takeControl code length body = .next (body r (Ev.startRequest { s with management := q })).finish := by
  unfold State.takeControl
  rw [State.takeManagement_runs s _ _ hh hq (by simp [namesOperation, hk, h0, hne])]
  rw [if_neg (by omega)]

/-- A status answered by an event is its first frame (R172). -/
theorem Ev.finish_status_answers (s : State) (ev : Ev) (r : Request) (st : Status) (hu : ev.st.uplink = s.uplink)
    (ho : ev.st.controller = s.controller) :
    s.Answers (ev.status r st).finish r Kind.mgmtAnswer [r.kind, byteOf st.code] :=
  Ev.finish_answers s ev r _ _ hu ho

/-- Answering a status and ending the event leave alone what `State.still` reads. -/
theorem Ev.finish_status_still (ev : Ev) (r : Request) (st : Status) : (ev.status r st).finish.still = ev.st.still := by
  rw [Ev.finish_still]
  exact (ev.answer_moves (ev.st.buildAnswer r.src r.tag Kind.mgmtAnswer (r.kind :: [byteOf st.code]))).still

/-- Answering a status and ending the event leave the records alone, where the end makes no scan and no comparison
fails (R39, R85). -/
theorem Ev.finish_status_sameRecords (ev : Ev) (r : Request) (st : Status)
    (hs : ev.scan = false ∨ ev.st.waitlist = []) (ok : ev.recompute = false ∨ ev.st.AllOk) :
    SameRecords ev.st (ev.status r st).finish := by
  have ht := ev.answer_talks (ev.st.buildAnswer r.src r.tag Kind.mgmtAnswer (r.kind :: [byteOf st.code]))
  have hl := ev.answer_leaves (ev.st.buildAnswer r.src r.tag Kind.mgmtAnswer (r.kind :: [byteOf st.code]))
  refine ht.sameRecords.trans (Ev.finish_sameRecords _ ?_ ?_)
  · rw [hl.2.1]; exact hs.imp id (fun h => by rw [ht]; exact h)
  · rw [hl.2.2.1]; exact ok.imp id (fun h => ht.sameRecords.allOk h)

end Sys2Proof.Machine
end

