-- ==== Sys2Proof/WellFormed.lean ====
section
/-!
DEFINITION. The checks a command's operands meet: bay numbers 1 to 128, tickets that are not 0, received
frames of at least one character, and storage contents inside the ranges of Tables 1-2 and 1-3.
-/
namespace Sys2Proof

open Machine

/-- A bay number of the level (00_scope.md 4.2). -/
def wfBay (b : Byte) : Bool := 1 ≤ b.toNat && b.toNat ≤ 128

/-- A ticket: not 0. -/
def wfTicket (t : Ticket) : Bool := t != 0

/-- A hold record inside the ranges of Table 1-3. -/
def wfHold (h : Hold) : Bool :=
  (match h.ticket with | none => true | some t => wfTicket t)
    && (match h.energyWanted with | none => true | some e => 1 ≤ e && e ≤ 200000)
    && h.occupiedSeconds ≤ Config.counterMax && h.chargedSeconds ≤ Config.counterMax
    && h.energyDelivered ≤ Config.counterMax
    && (match h.lastPostEnergy with | none => true | some e => e ≤ Config.counterMax)

/-- Contents inside the ranges of Table 1-2. -/
def wfDyn (d : BayDyn) : Bool :=
  d.debounce ≤ 7 && (match d.active with | none => true | some h => wfHold h)
    && (match d.staged with | none => true | some h => wfHold h)

/-- A well-formed command. -/
def Instr.wf : Instr → Bool
  | .noShowExpiry b t _ | .overstayExpiry b t _ =>
      wfBay b && (match t with | none => true | some t => wfTicket t)
  | .displacementCheck b t _ => wfBay b && wfTicket t
  | .waitlistExpiry t _ | .earlyArrivalExpiry t _ => wfTicket t
  | .rotationExpiry b | .linkLossExpiry b => wfBay b
  | .pollDue a => a != Config.nullAddr && a != Config.broadcast
  | .frameReception _ cs => !cs.isEmpty
  | .storageFault b d _ => wfBay b && wfDyn d
  | _ => true

end Sys2Proof
end

