-- ==== Sys2Proof/Tests/Slice0.lean ====
section
/-!
SUPPORT. The model's own tests: what `Instr.wf` refuses, worked figures of the manual, and for every statement with
hypotheses a state and operands that meet them (`test_meets_…`, one line for each of its clauses, at boundary
values of their ranges).
-/
namespace Sys2Proof.Tests

open Machine

set_option maxRecDepth 20000
-- One test at a time: each test evaluated beside the others would reserve a deep stack of its own.
set_option Elab.async false

/-! ## States for the tests -/

def hold : Hold where
  ticket := some 5
  requester := some 0x21
  priority := 1
  windowStart := 1000
  windowEnd := 4600
  graceEnd := 1600
  energyWanted := none
  entrySeen := false
  arrival := none
  occupiedSeconds := 0
  chargedSeconds := 0
  energyDelivered := 0
  lastPostEnergy := none

def arrivedHold : Hold := { hold with arrival := some 1100, requester := some 0xF1 }
def laterHold : Hold :=
  { hold with ticket := some 6, requester := some 0xF1, windowStart := 6000, windowEnd := 9600, graceEnd := 6600 }
def vacantBay : BayDyn := { BayDyn.powerOn with state := .free, occupancy := .vacant }
def heldBay : BayDyn := { vacantBay with state := .held, active := some hold }
def arrivedBay : BayDyn :=
  { vacantBay with state := .arrived, occupancy := .occupied, active := some arrivedHold }
def stagedBay : BayDyn := { arrivedBay with staged := some laterHold }
def wait : WaitEntry := ⟨hold, .standard, none, some 1600⟩

def r0 : State := State.reset
def withDyn (b : BayIx) (d : BayDyn) (s : State) : State := s.modDyn b (fun _ => d)
def request (kind : Byte) (p : List Byte) : Request := ⟨0xF1, kind, 7, p⟩
def asked (kind : Byte) (p : List Byte) (s : State) : State := { s with requests := [request kind p] }
def managed (kind : Byte) (p : List Byte) (s : State) : State := { s with management := [request kind p] }
def assembling (p : Port) (s : State) : State := s.setRx p ⟨.assembling, []⟩
def withNode (a : Addr) (e : NodeEntry) (s : State) : State := { s with nodes := s.nodes.set a.toFin e }
def postOf (b : BayIx) : NodeEntry := ⟨.post, Permissions.none, some b, some ⟨true, 0, 0, 1000⟩⟩
def lostPostOf (b : BayIx) : NodeEntry := ⟨.post, Permissions.none, some b, some ⟨false, 3, 0, 1000⟩⟩
def sensorOf (b : BayIx) : NodeEntry := ⟨.sensor, Permissions.none, some b, some ⟨true, 0, 0, 1000⟩⟩
/-- The server of the power-on Node Map, its permissions taken away. -/
def unpermitted (s : State) : State := withNode 0xF1 ⟨.server, Permissions.none, none, none⟩ s
def suspended (s : State) : State :=
  { s with suspension := ⟨true, false⟩, allocator := { s.allocator with suspendedCopy := true } }
def chargingAt (b : BayIx) (s : State) : State := s.modAlloc b (fun a => { a with chargingCopy := true })
def feeder (f : Nat) (s : State) : State :=
  { s with allocator := { s.allocator with settings := { s.allocator.settings with feeder := f } } }
def queued (l : List ChargeEntry) (s : State) : State :=
  l.foldl (fun s e => chargingAt e.bay s) (s.setQueue l)
def pollOf (a : Addr) (ph : Phase) : Transaction :=
  ⟨.poll, ⟨a, 0xF0, Kind.poll, 9, []⟩, false, 10, ph, false⟩
def outstanding (x : Transaction) (s : State) : State := s.setTransaction (some x)
def frame (d s k : Byte) (p : List Byte) : Frame := ⟨d, s, k, 3, p⟩

/-! ## Check words -/

theorem powerOn_check : checkWord BayDyn.powerOn = 0x32A5 := by decide +kernel
theorem check_iff (y : Bay) : y.checkOk = true ↔ (y.dyn = BayDyn.powerOn ∧ y.check = 0x32A5) ∨ y.checkOk = true :=
  ⟨.inr, fun h => h.elim (fun h => by simp [Bay.checkOk, h.1, h.2, powerOn_check]) id⟩
/-- A record with its power-on contents and their check word need not be evaluated anew. -/
theorem checks_iff (s : State) : (∀ e, (s.bay e).checkOk = true) ↔
    ∀ e, ((s.bay e).dyn = BayDyn.powerOn ∧ (s.bay e).check = 0x32A5) ∨ (s.bay e).checkOk = true :=
  forall_congr' fun _ => check_iff _
theorem other_checks_iff (s : State) (c : BayIx) : (∀ e, e ≠ c → (s.bay e).checkOk = true) ↔
    ∀ e, e ≠ c → ((s.bay e).dyn = BayDyn.powerOn ∧ (s.bay e).check = 0x32A5) ∨ (s.bay e).checkOk = true :=
  forall_congr' fun _ => forall_congr' fun _ => check_iff _

/-! ## Well-formed commands -/

theorem test_wf_bay : (Instr.noShowExpiry 0 (some 5) 9).wf = false ∧ (Instr.rotationExpiry 129).wf = false
    ∧ (Instr.linkLossExpiry 0).wf = false ∧ (Instr.overstayExpiry 128 none 9).wf = true := by decide
theorem test_wf_ticket : (Instr.displacementCheck 1 0 9).wf = false ∧ (Instr.waitlistExpiry 0 9).wf = false
    ∧ (Instr.earlyArrivalExpiry 0 9).wf = false ∧ (Instr.noShowExpiry 1 (some 0) 9).wf = false := by decide
theorem test_wf_node : (Instr.pollDue 0).wf = false ∧ (Instr.pollDue 0xFF).wf = false
    ∧ (Instr.pollDue 0xFE).wf = true := by decide
theorem test_wf_frame : (Instr.frameReception .uplink []).wf = false := by decide
theorem test_wf_contents : (Instr.storageFault 1 { vacantBay with debounce := 8 } 0).wf = false
    ∧ (Instr.storageFault 1 { heldBay with active := some { hold with energyWanted := some 200001 } } 0).wf = false
    ∧ (Instr.storageFault 1 { heldBay with active := some { hold with ticket := some 0 } } 0).wf = false
    ∧ (Instr.storageFault 1 { heldBay with staged := some { hold with occupiedSeconds := 4294967296 } } 0).wf = false
    ∧ (Instr.storageFault 1 heldBay 0).wf = true := by decide

/-! ## Worked figures of the manual -/

/-- R101: the check value of the nine bytes of "123456789". -/
theorem test_crc : crc16 [0x31, 0x32, 0x33, 0x34, 0x35, 0x36, 0x37, 0x38, 0x39] = 0x29B1 := by decide +kernel

/-- The Charge Queue of 4.9: bays 3, 12, 7, 8, 15, 21. -/
def claims49 : List Claim :=
  [⟨2, 2, 320, 4⟩, ⟨11, 1, 220, 3⟩, ⟨6, 1, 160, 2⟩, ⟨7, 1, 320, 2⟩, ⟨14, 0, 320, 2⟩, ⟨20, 0, 320, 2⟩]

/-- 4.9.2 and 4.9.3: the targets under B = 1000 and B = 1003. -/
theorem test_targets_4_9 : ∀ budget ∈ [1000, 1003],
    [(2, 320), (11, 220), (6, 160), (7, 180), (14, 60), (20, 60)].all
      (fun e => targetIn (allotTargets budget 60 5 claims49) e.1 = e.2) := by decide +kernel

/-- 4.9.4: under B = 300 five bays are admitted at M each, and bay 21 is paused. -/
theorem test_targets_4_9_4 :
    [(2, 60), (11, 60), (6, 60), (7, 60), (14, 60), (20, 0)].all
      (fun e => targetIn (allotTargets 300 60 5 claims49) e.1 = e.2) := by decide +kernel

/-- R56: the comparison of run seconds across the wrap. -/
theorem test_at_or_after : atOrAfter 5 0xFFFFFFFE = true ∧ atOrAfter 0xFFFFFFFE 5 = false
    ∧ atOrAfter 7 7 = true ∧ laterThan 7 7 = false := by decide

/-- What a command leaves, for a test that looks at a field or two of it. -/
def after (r : Result) : State := match r with | .next s => s | _ => State.reset

/-! ## The hypotheses of the statements can be met -/

theorem test_meets_ResetPinAndSupply : ({ r0 with heldInReset := true } : State).heldInReset = true
    ∧ (∀ e, Instr.tick ≠ .powerOnReset e) ∧ Instr.tick ≠ .supplyLoss ∧ r0.heldInReset = false
    ∧ ({ r0 with suspension := ⟨true, true⟩ } : State).suspension.emergency = true := by
  refine ⟨rfl, ?_, ?_, rfl, rfl⟩ <;> intros <;> intro h <;> cases h

def resetReady : State := withDyn 3 stagedBay (managed Kind.control [12] r0)
theorem test_meets_WarmResets : resetReady.heldInReset = false ∧ resetReady.resetPinTaken = false
    ∧ (∀ b, (resetReady.bay b).checkOk = true)
    ∧ (resetReady.suspension.emergency = true → resetReady.suspension.suspended = true)
    ∧ resetReady.management = [request Kind.control [12]] ∧ byteAt [12] 0 = 12
    ∧ (resetReady.bay 3).dyn.active = some arrivedHold ∧ (resetReady.bay 3).dyn.staged = some laterHold
    ∧ (resetReady.bay 0).dyn.active = none ∧ (request Kind.control [12]).src ≠ 0 := by
  simp only [checks_iff]; decide +kernel

theorem test_meets_FrameRoundTrip : (frame 1 2 3 (List.replicate 48 7)).payload.length ≤ 48 := by decide
theorem test_meets_AlteredByteIsCaught :
    let f := frame 1 2 3 (List.replicate 48 7)
    f.payload.length ≤ 48 ∧ 54 < f.bytes.length ∧ f.bytes[54]? ≠ some 77 := by decide +kernel

/-- A frame whose CHECK passes and whose LEN disagrees with its length. -/
def wrongLength : List Byte := [0xF0, 0xF1, 0x13, 3, 9, 0] ++ be16 (crc16 [0xF0, 0xF1, 0x13, 3, 9, 0]).toNat
def passes (l : List Byte) : Prop :=
  crc16 (l.take (l.length - 2)) = l.getD (l.length - 2) 0 ++ l.getD (l.length - 1) 0
def query : Frame := frame 0xF0 0xF1 Kind.query [1, 0, 0, 0, 0, 9]
theorem test_meets_FrameReception : (assembling .downlink r0).heldInReset = false
    ∧ ((assembling .downlink r0).rx .downlink).state = .assembling
    ∧ [1, 2, 3, 4, 5, 6].length < 7 ∧ 55 < (List.replicate 56 1).length
    ∧ (∃ c ∈ List.replicate 7 (⟨1, true⟩ : RxChar), c.faulty = true)
    ∧ ¬ passes (List.replicate 55 1)
    ∧ passes wrongLength ∧ wrongLength.length = 8 ∧ (wrongLength.getD 4 0).toNat = 9
    ∧ passes query.bytes ∧ (query.bytes.getD 4 0).toNat + 7 = query.bytes.length := by
  unfold passes; decide +kernel

theorem test_meets_PortEvents : r0.heldInReset = false ∧ (r0.rx .downlink).state ≠ .assembling
    ∧ r0.downlink.sending = none
    ∧ (r0.placeUplink query).uplink.sending = none ∧ (r0.placeUplink query).uplink.fifo = [query]
    ∧ (r0.setUplinkSending (some query)).uplink.sending = some query
    ∧ (outstanding (pollOf 5 .waiting) r0).scheduler.transaction = some (pollOf 5 .waiting)
    ∧ (outstanding (pollOf 5 .waiting) r0).downlink.sending = none
    ∧ ((outstanding (pollOf 5 .sending) r0).setDownlinkSending (some query)).downlink.sending = some query := by
  decide +kernel

def forwarded (ph : Phase) : Transaction :=
  ⟨.forward true, frame 5 0xF1 0x55 [1], false, 10, ph, false⟩
/-- The second window of a transaction with the post of bay 3, or with its sensor. -/
def second (k : TransactionKind) (a : Addr) : Transaction := { pollOf a .window with kind := k, retried := true }
def silent (failures : Nat) (reachable : Bool) (d : BayDyn) : State :=
  withNode 5 ⟨.post, Permissions.none, some 2, some ⟨reachable, failures, 0, 1000⟩⟩ (withDyn 2 d { r0 with now := 60 })
def silentSensor (d : BayDyn) : State :=
  withNode 6 ⟨.sensor, Permissions.none, some 2, some ⟨true, 2, 0, 1000⟩⟩ (withDyn 2 d r0)
theorem test_meets_WindowCloses :
    (outstanding (pollOf 5 .window) r0).heldInReset = false
    ∧ (outstanding (pollOf 5 .window) r0).scheduler.transaction = some (pollOf 5 .window)
    ∧ (pollOf 5 .window).destLost = false ∧ (pollOf 5 .window).retried = false
    ∧ (∀ v, (pollOf 5 .window).kind ≠ .forward v)
    ∧ ({ pollOf 5 .window with destLost := true } : Transaction).phase = .window
    ∧ (forwarded .window).phase = .window ∧ (forwarded .window).kind = .forward true := by decide
/-- After the second window: a failure below the limit, one at the limit, and one of a node already UNREACHABLE. -/
theorem test_meets_WindowCloses_second :
    let s := silent 1 true vacantBay
    let t := silent 2 true heldBay
    let u := silent 3 false vacantBay
    (second .poll 5).retried = true ∧ (s.node 5).contact = some ⟨true, 1, 0, 1000⟩ ∧ min 7 (1 + 1) < s.timing.failLimit
    ∧ (u.node 5).contact = some ⟨false, 3, 0, 1000⟩ ∧ s.linkLostNow 2 = false ∧ u.linkLostNow 2 = true
    ∧ (u.bay 2).delivery.linkLost = false ∧ (second (.allot 2 4) 5).kind = .allot 2 4
    ∧ t.timing.failLimit ≤ min 7 (2 + 1) ∧ (t.node 5).bay = some 2 ∧ (∀ e, (t.bay e).checkOk = true)
    ∧ t.waitlist = [] ∧ t.uplink.fifo.length + 3 ≤ 32 ∧ (t.node 5).role = .post ∧ t.sensor 2 = none
    ∧ (t.bay 2).dyn.state ≠ .closed ∧ (t.bay 2).dyn.state ≠ .faulted ∧ t.controller.noticeDest ≠ 0
    ∧ ((silentSensor heldBay).node 6).role = .sensor ∧ (silentSensor heldBay).plugEvidence 2 = false
    ∧ ((silentSensor heldBay).bay 2).dyn.occupancy ≠ .unknown := by simp only [checks_iff]; decide +kernel
/-- The bay of a silent post has a sensor too: its contact state, and plug evidence with a debounce run. -/
def watched (reachable : Bool) (d : BayDyn) : State :=
  withNode 6 ⟨.sensor, Permissions.none, some 2, some ⟨reachable, 0, 0, 1000⟩⟩ (silent 2 true d)
def pluggedRun (n : Nat) : BayDyn :=
  { arrivedBay with state := .charging, connector := .plugged, candidate := some .vacant, debounce := n }
theorem test_meets_WindowCloses_limit :
    let s := silent 2 true heldBay
    let w := watched true (pluggedRun 2)
    (second (.allot 2 255) 5).kind = .allot 2 255 ∧ (s.node 5).contact = some ⟨true, 2, 0, 1000⟩
    ∧ s.timing.failLimit ≤ min 7 (2 + 1) ∧ (s.post 2).isSome = true
    ∧ atOrAfter s.now (0 + BitVec.ofNat 32 s.timing.linkLoss) = true ∧ (s.bay 2).delivery.linkLost = false
    ∧ (s.bay 2).delivery.state ≠ .inFlight
    ∧ atOrAfter (59 : Time) (0 + BitVec.ofNat 32 s.timing.linkLoss) = false
    ∧ (w.node 5).role = .post ∧ (w.node 5).bay = some 2 ∧ (w.sensor 2).map (·.2.isReachable) = some true
    ∧ ((watched false (pluggedRun 2)).sensor 2).map (·.2.isReachable) = some false ∧ w.plugEvidence 2 = true
    ∧ (watched true heldBay).plugEvidence 2 = false ∧ (∀ e, (w.bay e).checkOk = true) ∧ w.waitlist = []
    ∧ (w.bay 2).dyn.candidate = some .vacant ∧ w.timing.debounce ≤ (w.bay 2).dyn.debounce
    ∧ ((watched true (pluggedRun 1)).bay 2).dyn.debounce < w.timing.debounce
    ∧ ((silentSensor { heldBay with occupancy := .unknown }).bay 2).dyn.occupancy = .unknown := by
  simp only [checks_iff]; decide +kernel

theorem test_meets_FramesForwardedOrNotTaken_notTaken :
    let up := assembling .uplink r0
    let down := withNode 5 (postOf 2) (assembling .downlink r0)
    up.heldInReset = false ∧ (up.rx .uplink).state = .assembling ∧ (up.node 9).role = .unused
    ∧ down.heldInReset = false ∧ down.downlink.rx.state = .assembling ∧ (down.node 5).role = .post
    ∧ down.scheduler.transaction = none := by decide +kernel

def control : Frame := frame 0xF0 0xF1 Kind.control [1, 1]
def waitingRequests (n : Nat) : List Request := List.replicate n (request Kind.hold [])
theorem test_meets_RequestsQueued :
    let s := assembling .uplink r0
    s.heldInReset = false ∧ s.uplink.rx.state = .assembling ∧ (s.node query.src).role = .server
    ∧ query.kind ∈ [Kind.hold, Kind.amend, Kind.free, Kind.query, Kind.arrive]
    ∧ (s.kinds.get query.kind.toFin).action = .claim ∧ query.dest = s.controller.own
    ∧ (waitingRequests 7).length < 8 ∧ 8 ≤ (waitingRequests 8).length ∧ query.src ≠ 0 ∧ s.uplink.fifo.length < 32
    ∧ control.kind ∈ [Kind.setTable, Kind.getTable, Kind.control]
    ∧ (s.kinds.get control.kind.toFin).action = .claim ∧ control.dest = s.controller.own
    ∧ (s.node control.src).permissions.manage = true ∧ (waitingRequests 3).length < 4
    ∧ ((unpermitted s).node control.src).permissions.manage = false
    ∧ ((unpermitted s).node control.src).role = .server := by decide +kernel
/-- A booking and a management kind under CLAIM-FORWARD, to broadcast and to the part itself. -/
theorem test_meets_RequestsQueued_claimForward :
    let s := { assembling .uplink r0 with
      kinds := (r0.kinds.set Kind.query.toFin ⟨.claimForward, true, false⟩).set Kind.control.toFin
        ⟨.claimForward, false, false⟩ }
    s.heldInReset = false ∧ s.uplink.rx.state = .assembling
    ∧ (s.kinds.get Kind.query.toFin).action = .claimForward ∧ (s.kinds.get Kind.control.toFin).action = .claimForward
    ∧ (frame 0xFF 0xF1 Kind.query [1]).dest = 0xFF ∧ (0xFF : Addr) ≠ s.controller.own ∧ s.requests.length < 8
    ∧ (s.node 0xF1).permissions.manage = true ∧ s.management.length < 4 ∧ s.downlink.forward.length < 16 := by
  decide +kernel

def passedOn : Frame := frame 5 0xF1 0x55 [1, 1]
theorem test_meets_FramesForwardedOrNotTaken_forwarded :
    let s := withNode 5 (postOf 2) (assembling .uplink r0)
    s.heldInReset = false ∧ s.uplink.rx.state = .assembling ∧ (s.node passedOn.src).role = .server
    ∧ (s.kinds.get passedOn.kind.toFin).action = .forward ∧ passedOn.dest ≠ s.controller.own
    ∧ (s.node passedOn.dest).role = .post ∧ s.downlink.forward.length < 16
    ∧ 16 ≤ (List.replicate 16 (⟨passedOn, true⟩ : ForwardEntry)).length := by decide +kernel
/-- Frames of one kind under another action, to broadcast, to a sensor, to the part itself and to the server. -/
theorem test_meets_FramesForwardedOrNotTaken_actions :
    let under := fun (a : UplinkAction) =>
      { withNode 6 (sensorOf 2) (assembling .uplink r0) with kinds := r0.kinds.set 0x55 ⟨a, true, false⟩ }
    let k := fun (a : UplinkAction) => ((under a).kinds.get (frame 6 0xF1 0x55 []).kind.toFin).action
    k .forward = .forward ∧ k .claimForward = .claimForward ∧ k .claim = .claim ∧ k .drop = .drop
    ∧ (∀ a ∈ [UplinkAction.forward, .claim, .claimForward, .drop], (under a).heldInReset = false
        ∧ (under a).uplink.rx.state = .assembling ∧ ((under a).node 0xF1).role = .server
        ∧ ((under a).node 6).role = .sensor ∧ (under a).controller.own = 0xF0) ∧ (0xFF : Addr) ≠ 0xF0 := by
  decide +kernel

/-- A sensor's answer at the bay's record `d`: its state byte and its health byte. -/
def sensed (v health : Byte) : Frame := ⟨0xF0, 6, Kind.occupancy, 9, [v, health]⟩
def sensing (d : BayDyn) : State :=
  withNode 6 (sensorOf 2) (outstanding (pollOf 6 .window) (assembling .downlink (withDyn 2 d r0)))
def debounced (n : Nat) : BayDyn := { vacantBay with candidate := some .occupied, debounce := n }
theorem test_meets_AnsweredReports_sensor :
    let s := sensing (debounced 1)
    s.heldInReset = false ∧ s.downlink.rx.state = .assembling ∧ s.scheduler.transaction = some (pollOf 6 .window)
    ∧ (sensed 1 1).src = (pollOf 6 .window).frame.dest ∧ (sensed 1 1).tag = (pollOf 6 .window).frame.tag
    ∧ (s.node 6).role = .sensor ∧ byteAt (sensed 1 1).payload 1 = 1 ∧ (s.kinds.get Kind.occupancy.toFin).copyUp = false
    ∧ (s.node 6).bay = some 2 ∧ s.plugEvidence 2 = false ∧ vacantBay.occupancy = .vacant
    ∧ vacantBay.occupancy ≠ .unknown ∧ 1 < s.timing.debounce ∧ s.timing.debounce ≤ min 7 (1 + 1)
    ∧ (s.bay 2).dyn.state ∈ [BayState.free, .unbooked, .closed, .faulted] ∧ (∀ e, (s.bay e).checkOk = true)
    ∧ s.controller.noticeDest ≠ 0 := by simp only [checks_iff]; decide +kernel

/-- Plug evidence is in force at the bay whose sensor answers; a debounce run as given. -/
def sensingPlugged (n : Nat) : State :=
  withNode 5 (postOf 2) (sensing { arrivedBay with
    state := .charging, connector := .charging, candidate := some .vacant, debounce := n })
theorem test_meets_AnsweredReports_plugEvidence :
    let s := sensingPlugged 1
    s.heldInReset = false ∧ s.downlink.rx.state = .assembling ∧ s.scheduler.transaction = some (pollOf 6 .window)
    ∧ (s.node 6).role = .sensor ∧ (s.node 6).bay = some 2 ∧ s.plugEvidence 2 = true ∧ (sensed 0 0).payload = [0, 0]
    ∧ (s.bay 2).dyn.debounce < s.timing.debounce ∧ s.timing.debounce ≤ min 7 (1 + 1)
    ∧ s.timing.debounce ≤ ((sensingPlugged 2).bay 2).dyn.debounce := by decide +kernel
/-- The node 5 answers a forwarded frame. -/
def passing (e : NodeEntry) (d : BayDyn) : State :=
  withNode 5 e (outstanding (forwarded .window) (assembling .downlink (withDyn 2 d { r0 with now := 1200 })))
theorem test_meets_AnsweredReports_forwarded :
    let s := passing (lostPostOf 2) { vacantBay with state := .faulted, connector := .plugged, occupancy := .unknown }
    let f : Frame := ⟨0xF1, 5, 0x56, 3, [1, 2]⟩
    s.heldInReset = false ∧ s.downlink.rx.state = .assembling ∧ s.scheduler.transaction = some (forwarded .window)
    ∧ f.src = (forwarded .window).frame.dest ∧ f.tag = (forwarded .window).frame.tag
    ∧ (s.node 5).contact = some ⟨false, 3, 0, 1000⟩ ∧ s.post 2 = some (5, s.node 5)
    ∧ (s.bay 2).dyn.state = .faulted ∧ (s.bay 2).dyn.suspect = false ∧ (s.bay 2).dyn.connector ≠ .fault
    ∧ (s.bay 2).dyn.active = none ∧ (s.bay 2).dyn.closeMode = .none ∧ s.waitlist = []
    ∧ (∀ e, (s.bay e).checkOk = true) ∧ s.controller.noticeDest ≠ 0
    ∧ ((passing (postOf 2) vacantBay).node 5).contact = some ⟨true, 0, 0, 1000⟩
    ∧ ((passing (postOf 2) vacantBay).node 5).role = .post
    ∧ ((passing (sensorOf 2) vacantBay).node 5).role = .sensor := by simp only [checks_iff]; decide +kernel
/-- Frames that match a transaction and do not answer it: a short report, one whose connector or allotment no report
has, another kind, and an ack sequence one above that of the ALLOT. -/
theorem test_meets_AnsweredReports_unanswered :
    let report := fun (p : List Byte) => 11 ≤ p.length ∧ 1 ≤ byteAt p 0 ∧ byteAt p 0 ≤ 5 ∧ field16 p 3 ≤ 800
    ¬ report (List.replicate 10 3) ∧ ¬ report (0 :: List.replicate 10 0) ∧ ¬ report (6 :: List.replicate 10 0)
    ∧ ¬ report ([3, 0, 0, 3, 33] ++ List.replicate 6 0) ∧ report ([3, 0, 0, 3, 32, 8] ++ List.replicate 5 0)
    ∧ byteAt ([3, 0, 0, 3, 32, 8] ++ List.replicate 5 0) 5 ≠ 7 ∧ (sensed 0 0).kind ≠ Kind.postStatus
    ∧ ([1] : List Byte).length < 2 := by decide

/-- The post of bay 3 answers the transaction with a report. -/
def statusFrame (r : PostReport) : Frame :=
  ⟨0xF0, 5, Kind.postStatus, 9,
    [byteOf r.connector.code] ++ be16 r.drawn ++ be16 r.inForce ++ [byteOf r.ack] ++ be32 r.energy ++ [0]⟩
def sent (k : TransactionKind) : Transaction := { pollOf 5 .window with kind := k }
def heard (k : TransactionKind) (s : State) : State :=
  withNode 5 (postOf 2) (outstanding (sent k) (assembling .downlink s))
/-- What `State.PostAnswers` asks, but for what is the same in all these states. -/
theorem heard_answers {s : State} {k : TransactionKind} {r : PostReport} (h0 : (heard k s).heldInReset = false)
    (h1 : (heard k s).post 2 = some (5, (heard k s).node 5)) (h2 : (heard k s).node 5 = postOf 2)
    (hr : r.connector ≠ .none ∧ r.drawn < 65536 ∧ r.inForce ≤ 800 ∧ r.ack < 256 ∧ r.energy < 4294967296)
    (hk : k = .poll ∨ ∃ d, k = .allot d r.ack) :
    (heard k s).PostAnswers (statusFrame r) (sent k) 2 ⟨true, 0, 0, 1000⟩ r where
  running := h0
  receiving := rfl
  outstanding := rfl
  window := rfl
  source := rfl
  tag := rfl
  post := h1
  contact := by rw [show (statusFrame r).src = 5 from rfl, h2]; rfl
  kind := rfl
  layout := ⟨0, rfl⟩
  connector := hr.1
  drawn := hr.2.1
  inForce := hr.2.2.1
  ack := hr.2.2.2.1
  energy := hr.2.2.2.2
  answers := hk

def plugged : BayDyn := { arrivedBay with
  state := .charging, connector := .charging, active := some { arrivedHold with lastPostEnergy := some 40 } }
/-- Drawn, in force and acknowledged as given; the connector and the energy of `plugged`. -/
def drawing (drawn inForce ack : Nat) : PostReport := ⟨.charging, drawn, inForce, ack, 40⟩
theorem nothing_new (k : TransactionKind) (drawn inForce ack : Nat) {s : State}
    (h : ((heard k s).bay 2).dyn = plugged) : (heard k s).NothingNew 2 (drawing drawn inForce ack) where
  connector := by rw [h]; rfl
  inService := by rw [h]; decide
  plugged := fun _ => by rw [h]; rfl
  alone := fun _ => by rw [h]; exact ⟨rfl, rfl, nofun, nofun⟩
  energy := fun a ha => by rw [h] at ha; cases ha; exact .inr ⟨rfl, Nat.zero_le _⟩
/-- A report of 800 in force, of drawn current at the tolerance and above it, and the answer to an ALLOT. -/
theorem test_meets_AnsweredReports_post :
    let s := withDyn 2 plugged r0
    (heard .poll s).PostAnswers (statusFrame (drawing 820 800 0)) (sent .poll) 2 ⟨true, 0, 0, 1000⟩ (drawing 820 800 0)
    ∧ (heard .poll s).PostAnswers (statusFrame (drawing 821 800 0)) (sent .poll) 2 ⟨true, 0, 0, 1000⟩ (drawing 821 800 0)
    ∧ (heard (.allot 2 255) s).PostAnswers (statusFrame (drawing 0 60 255)) (sent (.allot 2 255)) 2 ⟨true, 0, 0, 1000⟩
        (drawing 0 60 255)
    ∧ (heard .poll s).NothingNew 2 (drawing 821 800 0) ∧ (heard .poll s).inQueue 2 = false
    ∧ ((heard .poll s).bay 2).delivery.overdrawCount = 0
    ∧ 820 ≤ 800 + (heard .poll s).allocator.settings.overdraw :=
  ⟨heard_answers (by decide) (by decide +kernel) (by decide +kernel) (by decide) (.inl rfl),
    heard_answers (by decide) (by decide +kernel) (by decide +kernel) (by decide) (.inl rfl),
    heard_answers (by decide) (by decide +kernel) (by decide +kernel) (by decide) (.inr ⟨2, rfl⟩),
    nothing_new _ _ _ _ (by decide +kernel), by decide +kernel, by decide +kernel, by decide +kernel⟩

/-- Bay 3 in the Charge Queue with a target of 100, its under-draw count and its ceiling as given. -/
def underDrawing (count ceiling : Nat) : State :=
  (queued [⟨2, 1, 10⟩] (withDyn 2 plugged (feeder 100 r0))).modBay 2 (fun y =>
    { y with postMax := 200, alloc := { y.alloc with target := 100, underDraw := count, ceiling := ceiling } })
theorem test_meets_DrawnCurrentReports :
    let s := heard .poll (underDrawing 1 200)
    s.PostAnswers (statusFrame (drawing 69 100 0)) (sent .poll) 2 ⟨true, 0, 0, 1000⟩ (drawing 69 100 0)
    ∧ s.NothingNew 2 (drawing 69 100 0) ∧ s.inQueue 2 = true ∧ 69 ≤ 100 + s.allocator.settings.overdraw
    ∧ s.allocator.settings.minimum ≤ (s.bay 2).alloc.target ∧ (s.bay 2).alloc.target = 100
    ∧ 69 + s.allocator.settings.reclaim < 100 ∧ ¬ 70 + s.allocator.settings.reclaim < 100
    ∧ (s.bay 2).alloc.underDraw = 1 ∧ (s.bay 2).alloc.ceiling = 200 ∧ 69 + s.allocator.settings.margin ≠ 200
    ∧ (∀ e, (s.bay e).checkOk = true)
    ∧ ((heard .poll (underDrawing 0 100)).bay 2).alloc.underDraw = 0
    ∧ ((heard .poll (underDrawing 0 100)).bay 2).alloc.ceiling = 100 ∧ 100 ≤ 90 + 10 :=
  ⟨heard_answers (by decide +kernel) (by decide +kernel) (by decide +kernel) (by decide) (.inl rfl),
    nothing_new _ _ _ _ (by decide +kernel), by simp only [checks_iff]; decide +kernel⟩

/-- What the post of bay 3 tells of its connector. -/
def telling (c : Connector) (energy : Nat) : PostReport := ⟨c, 0, 0, 0, energy⟩
def posted (d : BayDyn) : State := heard .poll (withDyn 2 d { r0 with now := 1200 })
def walkInPermitted (d : BayDyn) : State :=
  heard .poll { withDyn 2 d { r0 with now := 1200 } with
    classes := r0.classes.set 0 { r0.classOf .standard with walkIn := true } }
def verifying (d : BayDyn) : State :=
  heard .poll { withDyn 2 d { r0 with now := 1200 } with
    classes := r0.classes.set 0 { r0.classOf .standard with verify := true } }
def departing : BayDyn := { plugged with state := .done, connector := .finished }
def connectorFaulted : BayDyn := { vacantBay with state := .faulted, connector := .fault }
theorem test_meets_PostStatusMovesBay :
    let s := posted vacantBay
    s.PostAnswers (statusFrame (telling .plugged 40)) (sent .poll) 2 ⟨true, 0, 0, 1000⟩ (telling .plugged 40)
    ∧ s.PostAnswers (statusFrame (telling .fault 4294967295)) (sent .poll) 2 ⟨true, 0, 0, 1000⟩
        (telling .fault 4294967295)
    ∧ s.sensor 2 = none ∧ (∀ e, (s.bay e).checkOk = true) ∧ s.waitlist = []
    ∧ s.allocator.settings.minimum ≤ (s.bay 2).postMax ∧ s.controller.noticeDest ≠ 0
    ∧ (s.bay 2).dyn.state = .free ∧ (s.bay 2).dyn.occupancy ≠ .occupied ∧ (s.bay 2).dyn.active = none
    ∧ (s.classOf .standard).walkIn = false ∧ ((walkInPermitted vacantBay).classOf .standard).walkIn = true
    ∧ 0 < (s.classOf .standard).stay ∧ (s.classOf .standard).stay ≤ 480 ∧ s.timing.overstay ≤ 60
    ∧ heldBay.state = .held ∧ heldBay.active = some hold ∧ hold.arrival = none ∧ hold.entrySeen = false
    ∧ ((verifying heldBay).classOf .standard).verify = true ∧ (s.classOf .standard).verify = false
    ∧ departing.state ∈ [BayState.arrived, .charging, .done, .overstay] ∧ departing.occupancy ≠ .vacant
    ∧ departing.closeMode = .none ∧ departing.connector ≠ .charging ∧ s.uplink.fifo.length + 3 ≤ 32
    ∧ connectorFaulted.state = .faulted ∧ connectorFaulted.suspect = false ∧ connectorFaulted.active = none :=
  ⟨heard_answers (by decide) (by decide +kernel) (by decide +kernel) (by decide) (.inl rfl),
    heard_answers (by decide) (by decide +kernel) (by decide +kernel) (by decide) (.inl rfl),
    by simp only [checks_iff]; decide +kernel⟩

/-- The same post beside a sensor node, its contact state as given. -/
def beside (reachable : Bool) (s : State) : State :=
  withNode 6 ⟨.sensor, Permissions.none, some 2, some ⟨reachable, 0, 0, 1000⟩⟩ s
/-- Plug evidence as it stands before the report that ends it: a run of VACANT of `n` reports. -/
def evident (st : BayState) (a : Option Hold) (n : Nat) : BayDyn :=
  { vacantBay with
    state := st, occupancy := .occupied, connector := .plugged, candidate := some .vacant, debounce := n, active := a }
theorem test_meets_PostStatusMovesBay_sensor :
    let s := posted (evident .unbooked none 1)
    let t := beside true s
    let u := beside false (posted (evident .charging (some { arrivedHold with lastPostEnergy := some 40 }) 2))
    t.PostAnswers (statusFrame (telling .idle 40)) (sent .poll) 2 ⟨true, 0, 0, 1000⟩ (telling .idle 40)
    ∧ (t.sensor 2).map (·.2.isReachable) = some true ∧ (u.sensor 2).map (·.2.isReachable) = some false
    ∧ t.plugEvidence 2 = true ∧ u.plugEvidence 2 = true ∧ (t.bay 2).dyn.occupancy = .occupied
    ∧ (t.bay 2).dyn.state = .unbooked ∧ (t.bay 2).dyn.active = none ∧ (t.bay 2).dyn.debounce < t.timing.debounce
    ∧ t.timing.debounce ≤ (u.bay 2).dyn.debounce ∧ (u.bay 2).dyn.candidate = some .vacant
    ∧ (u.bay 2).dyn.state ∈ [BayState.arrived, .charging, .done] ∧ (∀ e, (t.bay e).checkOk = true)
    ∧ (beside true (posted vacantBay)).plugEvidence 2 = false
    ∧ ((beside true (posted connectorFaulted)).bay 2).dyn.state = .faulted := by
  refine ⟨⟨rfl, rfl, rfl, rfl, rfl, rfl, ?_, ?_, rfl, ⟨0, rfl⟩, ?_, ?_, ?_, ?_, ?_, .inl rfl⟩, ?_⟩ <;>
    (try simp only [checks_iff]) <;> decide +kernel
/-- The report that restores contact with an UNREACHABLE post, at a vacant bay and at one with an arrived hold. -/
def restoring (d : BayDyn) : State := withNode 5 (lostPostOf 2) (walkInPermitted { d with state := .faulted })
theorem test_meets_PostStatusMovesBay_restored :
    let s := restoring vacantBay
    let t := restoring { plugged with occupancy := .unknown }
    s.PostAnswers (statusFrame (telling .plugged 40)) (sent .poll) 2 ⟨false, 3, 0, 1000⟩ (telling .plugged 40)
    ∧ (s.bay 2).dyn.state = .faulted ∧ (s.bay 2).dyn.connector ≠ .fault ∧ (s.bay 2).dyn.suspect = false
    ∧ (s.bay 2).dyn.closeMode = .none ∧ (s.bay 2).dyn.active = none ∧ (s.classOf .standard).walkIn = true
    ∧ (s.bay 2).dyn.connector ≠ .plugged ∧ (s.bay 2).dyn.connector ≠ .charging
    ∧ (∀ e, (s.bay e).checkOk = true) ∧ s.waitlist = [] ∧ (t.bay 2).dyn.connector = .charging
    ∧ (t.bay 2).dyn.active = some { arrivedHold with lastPostEnergy := some 40 }
    ∧ (t.bay 2).dyn.occupancy ≠ .vacant := by
  refine ⟨⟨rfl, rfl, rfl, rfl, rfl, rfl, ?_, ?_, rfl, ⟨0, rfl⟩, ?_, ?_, ?_, ?_, ?_, .inl rfl⟩, ?_⟩ <;>
    (try simp only [checks_iff]) <;> decide +kernel
/-- R140, R17: contact ends the cause before the evidence is taken, so the plug-in of that report walks in. -/
theorem test_contact_before_evidence :
    ((after (exec (.frameReception .downlink (statusFrame (telling .plugged 40)).received)
      (restoring vacantBay))).bay 2).dyn.state = .charging := by decide +kernel
/-- M stands above the post maximum of a bay with an arrived hold that plugs in. -/
def mismatched : State :=
  let s := posted { arrivedBay with active := some { arrivedHold with lastPostEnergy := some 40 } }
  { s with allocator := { s.allocator with settings := { s.allocator.settings with minimum := 61 } } }
theorem test_meets_PostStatusMovesBay_mismatch :
    let s := mismatched
    let h := { arrivedHold with lastPostEnergy := some 40 }
    s.PostAnswers (statusFrame (telling .charging 40)) (sent .poll) 2 ⟨true, 0, 0, 1000⟩ (telling .charging 40)
    ∧ (s.bay 2).postMax < s.allocator.settings.minimum ∧ (s.bay 2).dyn.state = .arrived
    ∧ (s.bay 2).dyn.active = some h ∧ h.arrival ≠ none ∧ (s.bay 2).dyn.occupancy ≠ .vacant
    ∧ atOrAfter s.now (h.windowEnd + BitVec.ofNat 32 (s.timing.overstay * 60)) = false ∧ h.energyWanted = none
    ∧ (s.bay 2).alloc.chargingCopy = false ∧ s.uplink.fifo.length + 3 ≤ 32 ∧ s.controller.noticeDest ≠ 0 := by
  refine ⟨⟨rfl, rfl, rfl, rfl, rfl, rfl, ?_, ?_, rfl, ⟨0, rfl⟩, ?_, ?_, ?_, ?_, ?_, .inl rfl⟩, ?_⟩ <;> decide +kernel

/-- Bays 3 and 6 charge, the first admitted, and there is current for both; the post of the second is link-lost. -/
def resetCharging : State :=
  let charging : BayDyn := { arrivedBay with state := .charging, connector := .charging }
  withNode 5 (postOf 2) (withNode 7 (lostPostOf 5)
    ((feeder 200 (queued [⟨2, 1, 10⟩, ⟨5, 1, 20⟩] (withDyn 2 charging (withDyn 5 charging { r0 with now := 1300 })))).modAlloc 2
      (fun a => { a with admittedSince := some 100, underDraw := 1 })))
theorem test_meets_WarmResets_charging :
    let s := resetCharging
    let a := s.allocator.settings
    s.heldInReset = false ∧ s.resetPinTaken = false ∧ (∀ b, (s.bay b).checkOk = true)
    ∧ (s.post 2).isSome = true ∧ s.linkLostNow 2 = false ∧ (s.post 5).isSome = true ∧ s.linkLostNow 5 = true
    ∧ (∀ b, b ∈ s.allocator.queue.map (·.bay) ↔ (s.bay b).dyn.state = .charging ∧ (s.bay b).alloc.enableCopy = true
        ∧ (s.bay b).alloc.suspectCopy = false ∧ s.allocator.suspendedCopy = false ∧ a.minimum ≤ (s.bay b).postMax)
    ∧ s.allocator.queue.length ≤ budgetOf a / a.minimum ∧ (s.bay 2).alloc.admittedSince = some 100 := by
  simp only [checks_iff]; decide +kernel

def twoCharging : State := feeder 100 (queued [⟨2, 1, 10⟩, ⟨5, 1, 20⟩] { r0 with now := 1300 })
theorem test_meets_TargetsOfRecompute : (twoCharging.allocator.queue.map (·.bay)).Nodup
    ∧ (∀ e ∈ twoCharging.allocator.queue,
        twoCharging.allocator.settings.minimum ≤ (twoCharging.bay e.bay).demand) := by decide +kernel
/-- A tier that fits in A, and one that does not: a round that caps a bay, and one that caps none. -/
theorem test_meets_TargetsOfRecompute_tier :
    let u : List Share := [⟨11, 160, 3, 0⟩, ⟨6, 100, 2, 0⟩, ⟨7, 260, 2, 0⟩]
    (u.map (·.headroom)).sum ≤ 520 ∧ 519 < (u.map (·.headroom)).sum ∧ 380 * 3 / (u.map (·.weight)).sum ≥ 160
    ∧ (∀ x ∈ u, 70 * x.weight / (u.map (·.weight)).sum < x.headroom) ∧ 60 + 5 ≤ 100 ∧ 5 ≤ 10
    ∧ (stepPass 5 u 4).2 = 4 ∧ (stepPass 5 u 5).2 ≠ 5 := by decide

/-- A post with 300 in force and a lower, or a higher, target to be sent. -/
def toSend (target : Nat) : State :=
  (withNode 5 (postOf 2) (queued [⟨2, 1, 10⟩] r0)).modDelivery 2
    (fun d => { d with target := target, inForce := some 300, state := .pending })
def raising : State := (toSend 400).modScheduler (fun c => { c with budget := 400, tag := 255 })
/-- Three sheds, one of them outside the queue. -/
def threeSheds : State :=
  let lower := fun d : Delivery => { d with target := 100, inForce := some 300, state := .pending }
  (withNode 8 (postOf 0) (withNode 7 (postOf 5) (((toSend 100).modDelivery 0 lower).modDelivery 5 lower))).setQueue
    [⟨2, 1, 10⟩, ⟨5, 1, 20⟩]
theorem test_meets_QueueOrderAndCommittedSum_sheds : threeSheds.sheds = [0, 5, 2]
    ∧ (threeSheds.allocator.queue.map (·.bay)).Nodup ∧ threeSheds.inQueue 0 = false := by decide +kernel
theorem test_meets_QueueOrderAndCommittedSum : 2 ∈ (toSend 100).sheds ∧ raising.raiseOffer = some 2
    ∧ raising.suspension.suspended = false ∧ raising.allocator.queue.map (·.bay) = [] ++ 2 :: []
    ∧ (raising.bay 2).delivery.state = .pending ∧ raising.committed 2 ≤ (raising.bay 2).delivery.target
    ∧ raising.committedSum - raising.committed 2 + (raising.bay 2).delivery.target ≤ raising.scheduler.budget := by
  decide +kernel
/-- A frame waits, the rotor stands at RAISE, and no raise is offered; and the ring's last node is due. -/
def forwarding : State := { r0 with downlink := { r0.downlink with forward := [⟨query, true⟩] } }
def polling : State := withNode 0xFE (sensorOf 127) { r0 with now := 1000 }
theorem test_meets_ArbiterChoice : (outstanding (pollOf 5 .waiting) r0).scheduler.transaction ≠ none
    ∧ (toSend 100).sheds = [2] ∧ (toSend 100).scheduler.transaction = none
    ∧ raising.scheduler.transaction = none ∧ raising.sheds = [] ∧ raising.scheduler.rotor = .raise
    ∧ raising.raiseOffer = some 2 ∧ (raising.post 2).isSome = true
    ∧ forwarding.scheduler.transaction = none ∧ forwarding.sheds = [] ∧ forwarding.scheduler.rotor = .raise
    ∧ forwarding.raiseOffer = none ∧ forwarding.downlink.forward = [⟨query, true⟩]
    ∧ polling.scheduler.transaction = none ∧ polling.sheds = [] ∧ polling.raiseOffer = none
    ∧ polling.downlink.forward = [] ∧ polling.pollOffer = some (255, 0xFE)
    ∧ (polling.node 0xFE).role = .sensor ∧ (polling.node 0xFE).bay = some 127
    ∧ (polling.node 0xFE).contact = some ⟨true, 0, 0, 1000⟩ ∧ atOrAfter polling.now 1000 = true
    ∧ r0.sheds = [] ∧ r0.scheduler.transaction = none ∧ r0.raiseOffer = none ∧ r0.downlink.forward = []
    ∧ r0.pollOffer = none := by decide +kernel

theorem test_meets_DerivedState : vacantBay.active = none
    ∧ heldBay.active = some hold ∧ hold.arrival = none ∧ heldBay.occupancy ≠ .occupied
    ∧ ({ heldBay with occupancy := .occupied } : BayDyn).occupancy = .occupied
    ∧ (r0.classOf .standard).verify = false ∧ hold.entrySeen = false
    ∧ ({ r0.classOf .standard with verify := true } : ClassEntry).verify = true
    ∧ arrivedBay.active = some arrivedHold ∧ arrivedHold.arrival ≠ none ∧ arrivedBay.occupancy ≠ .vacant := by decide

theorem test_meets_SensorDebounce : r0.plugEvidence 2 = false
    ∧ (r0.bay 2).dyn.occupancy = .unknown
    ∧ ((withDyn 2 vacantBay r0).bay 2).dyn.occupancy = Sensed.vacant.occupancy
    ∧ vacantBay.occupancy ≠ Sensed.occupied.occupancy ∧ 1 < r0.timing.debounce
    ∧ r0.timing.debounce ≤ min 7 (1 + 1) := by decide +kernel
theorem test_meets_SensorDebounce_plugEvidence : (sensingPlugged 1).plugEvidence 2 = true := by decide +kernel

def counting (last : Option Nat) : Hold := { arrivedHold with lastPostEnergy := last }
theorem test_meets_EnergyFigure :
    let d : BayDyn := { arrivedBay with connector := .charging, active := some (counting (some 40)) }
    d.active = some (counting (some 40)) ∧ (counting (some 40)).arrival ≠ none ∧ d.occupancy ≠ .vacant
    ∧ d.connector ∈ [Connector.plugged, .charging, .finished] ∧ (counting none).lastPostEnergy = none
    ∧ (counting (some 40)).lastPostEnergy = some 40 ∧ d.state ∈ [BayState.arrived, .charging, .done]
    ∧ { counting (some 40) with energyWanted := some 60 }.energyDelivered < 60
    ∧ 60 ≤ min 4294967295 (0 + (100 - 40)) := by decide

theorem test_meets_ErrorsAndFrames : (r0.recorder.settings.kinds.get 0).enabled = true
    ∧ (r0.recorder.logs.get 0).first = none
    ∧ ((r0.logError { kind := .frameCheck }).recorder.logs.get 0).first ≠ none
    ∧ r0.uplink.fifo.length < 32 ∧ 32 ≤ (List.replicate 32 query).length := by decide +kernel
/-- A FAULT-NOTICE is built of an error whose severity has an action, and not of one whose action is NONE. -/
theorem test_meets_ErrorsAndFrames_notice :
    let s := r0.recorder.settings
    (s.kinds.get ErrorKind.overdraw.ix).enabled = true
    ∧ (r0.recorder.logs.get (s.kinds.get ErrorKind.overdraw.ix).severity).first = none
    ∧ s.actions.get (s.kinds.get ErrorKind.overdraw.ix).severity ≠ .none
    ∧ s.actions.get (s.kinds.get ErrorKind.frameCheck.ix).severity = .none ∧ r0.controller.noticeDest ≠ 0 := by decide

def deadline : BayTimer := ⟨some ⟨some 5, 1300⟩, some ⟨some 5, 1301⟩, some ⟨some 6, 1300⟩, .set 1300⟩
theorem test_meets_EventEnd :
    let s := twoCharging.modTimer 2 (fun _ => deadline)
    (s.bay 2).timer = deadline ∧ (s.now - 1300).toNat < 2 ^ 31 ∧ ¬ (s.now - 1301).toNat < 2 ^ 31
    ∧ ¬ (1299 - 1300 : Time).toNat < 2 ^ 31 ∧ wait.hold.ticket = some 5 ∧ wait.deadline = some 1600
    ∧ (1600 - 1600 : Time).toNat < 2 ^ 31 ∧ (⟨7, 1000, some 1600⟩ : EarlyEntry).deadline = some 1600 := by decide +kernel

theorem test_meets_BookingCommandsFrame : servesHolds .hold = true ∧ servesHolds .forceEnd = true
    ∧ servesHolds (.noShowExpiry 1 none 0) = true ∧ (∃ t, exec .hold r0 = .next t)
    ∧ (∃ t, exec .forceEnd r0 = .next t) ∧ (∃ t, exec (.noShowExpiry 1 none 0) r0 = .next t) :=
  ⟨rfl, rfl, rfl, ⟨_, rfl⟩, ⟨_, rfl⟩, _, rfl⟩

theorem test_meets_Tick : r0.heldInReset = false ∧ (r0.bay r0.scrubber.cursor).checkOk = true := by decide +kernel
/-- The new second makes the post of bay 128 link-lost, and of bay 3 it does not: its bay is IN-FLIGHT. -/
def aboutToLose : State :=
  (withNode 5 (lostPostOf 2) (withNode 6 (lostPostOf 127) { r0 with now := 59 })).modDelivery 2
    (fun d => { d with state := .inFlight })
theorem test_meets_Tick_linkLoss :
    let s := aboutToLose
    s.heldInReset = false ∧ (s.bay s.scrubber.cursor).checkOk = true
    ∧ State.linkLostNow { s with now := s.now + 1 } 127 = true ∧ s.linkLostNow 127 = false
    ∧ (s.bay 127).delivery.linkLost = false ∧ (s.bay 127).delivery.state ≠ .inFlight
    ∧ State.linkLostNow { s with now := s.now + 1 } 2 = true ∧ (s.bay 2).delivery.state = .inFlight := by decide +kernel
/-- The record at the scrub cursor, in service or CLOSED, does not agree with its check word. -/
def damaged (d : BayDyn) : State :=
  State.modBay { r0 with scrubber := ⟨127, false⟩ } 127 (fun y => { y with dyn := d, check := checkWord d + 1 })
theorem test_meets_RecordComparison :
    let s := damaged arrivedBay
    s.heldInReset = false ∧ s.scrubber.cursor = 127 ∧ (s.bay 127).checkOk = false ∧ (s.bay 127).dyn.suspect = false
    ∧ (∀ c, c ≠ 127 → (s.bay c).checkOk = true) ∧ s.uplink.fifo.length + 2 ≤ 32 ∧ s.controller.noticeDest ≠ 0
    ∧ (s.bay 127).dyn.state ≠ .closed ∧ (s.bay 127).dyn.state ≠ .faulted
    ∧ ((damaged BayDyn.powerOn).bay 127).checkOk = false
    ∧ ({ r0 with scrubber := ⟨0, true⟩ } : State).scrubber.degraded = true
    ∧ ({ BayDyn.powerOn with suspect := true } : BayDyn).suspect = true := by
  simp only [other_checks_iff]; decide +kernel
/-- The placement search of a HOLD, or the recompute of a SET-CAP, meets a record that does not agree. -/
theorem test_meets_RecordComparison_search :
    let s := State.modBay (asked Kind.hold [0, 0, 0, 9, 0, 0, 0, 0, 60, 15, 1, 0, 0, 0, 0] r0) 127 (fun y =>
      { y with dyn := vacantBay, check := checkWord vacantBay + 1 })
    s.heldInReset = false ∧ (s.bay 127).checkOk = false ∧ (s.bay 127).dyn.suspect = false
    ∧ (∀ c, c ≠ 127 → (s.bay c).checkOk = true) ∧ s.uplink.fifo.length + 3 ≤ 32
    ∧ (s.checkHold (request Kind.hold [0, 0, 0, 9, 0, 0, 0, 0, 60, 15, 1, 0, 0, 0, 0])).toOption = some .standard
    ∧ (s.bay 127).searchable = true ∧ (s.bay 127).cls ∈ s.acceptable .standard
    ∧ (∀ c, c ≠ 127 → (s.bay c).searchable = false) ∧ s.waitlist = [] ∧ s.controller.noticeDest ≠ 0 := by
  simp only [other_checks_iff]; decide +kernel
theorem test_meets_RecordComparison_recompute :
    let s := (managed Kind.control [7, 78, 32] twoCharging).modBay 2 (fun y =>
      { y with dyn := plugged, check := checkWord plugged + 1 })
    s.management = [request Kind.control [7, 78, 32]] ∧ (78 : Byte).toNat * 256 + (32 : Byte).toNat = 20000
    ∧ 2 ∈ s.allocator.queue.map (·.bay) ∧ (s.bay 2).checkOk = false ∧ (s.bay 2).dyn.suspect = false
    ∧ (∀ c, c ≠ 2 → (s.bay c).checkOk = true) ∧ (s.bay 2).dyn.state ≠ .closed ∧ (s.bay 2).dyn.state ≠ .faulted := by
  simp only [other_checks_iff]; decide +kernel

def noShowDue (d : BayDyn) : State :=
  { withDyn 127 d { r0 with now := 1600 } with
    expiries := [.noShow 127 (some 5) 1600], index := [⟨5, 0x21, .active 127⟩] }
theorem test_meets_NoShowExpiry :
    let s := noShowDue heldBay
    s.heldInReset = false ∧ .noShow 127 (some 5) hold.graceEnd ∈ s.expiries ∧ (s.bay 127).dyn.active = some hold
    ∧ hold.ticket = some 5 ∧ hold.requester = some 0x21 ∧ hold.arrival = none ∧ (s.bay 127).dyn.staged = none
    ∧ (s.bay 127).dyn.state = .held ∧ (s.bay 127).dyn.occupancy ≠ .occupied ∧ (s.bay 127).dyn.closeMode = .none
    ∧ (s.bay 127).alloc.chargingCopy = false ∧ s.waitlist = [] ∧ s.uplink.fifo.length + 2 ≤ 32
    ∧ s.controller.noticeDest ≠ 0 ∧ (0x21 : Addr) ≠ 0
    ∧ ((noShowDue arrivedBay).bay 127).dyn.active = some arrivedHold ∧ arrivedHold.arrival ≠ none := by decide +kernel

def overstayDue (st : BayState) : State :=
  { withDyn 2 { arrivedBay with state := st } r0 with expiries := [.overstay 2 (some 5) 5500] }
theorem test_meets_OverstayExpiry :
    let s := overstayDue .done
    s.heldInReset = false
    ∧ .overstay 2 arrivedHold.ticket (arrivedHold.windowEnd + BitVec.ofNat 32 (s.timing.overstay * 60)) ∈ s.expiries
    ∧ (s.bay 2).dyn.active = some arrivedHold ∧ arrivedHold.arrival ≠ none
    ∧ (s.bay 2).dyn.state ∈ [BayState.arrived, .charging, .done] ∧ (∀ c, (s.bay c).checkOk = true)
    ∧ s.controller.noticeDest ≠ 0
    ∧ ((overstayDue .faulted).bay 2).dyn.state ∉ [BayState.arrived, .charging, .done] := by
  simp only [checks_iff]; decide +kernel

def checkDue : State :=
  { withDyn 2 stagedBay { r0 with now := 5400 } with
    expiries := [.displacement 2 (some 6) 5400]
    index := [⟨5, 0xF1, .active 2⟩, ⟨6, 0xF1, .staged 2⟩] }
theorem test_meets_Relocation_displaced :
    let s := checkDue
    s.heldInReset = false
    ∧ .displacement 2 (some 6) (laterHold.windowStart - BitVec.ofNat 32 (s.timing.lead * 60)) ∈ s.expiries
    ∧ atOrAfter s.now 5400 = true ∧ (s.bay 2).dyn.active = some arrivedHold ∧ (s.bay 2).dyn.staged = some laterHold
    ∧ laterHold.ticket = some 6 ∧ laterHold.requester = some 0xF1 ∧ (s.bay 2).dyn.state ≠ .free
    ∧ (s.bay 2).checkOk = true ∧ s.waitlist = [] ∧ s.lookup 6 = some ⟨6, 0xF1, .staged 2⟩ := by decide +kernel
/-- Bay 128 is FREE beside the bay of the check. -/
def checkWithRoom : State := withDyn 127 vacantBay checkDue
theorem test_meets_Relocation_relocated :
    let s := checkWithRoom
    (s.bay 127).alloc.chargingCopy = false ∧ (∀ c, (s.bay c).checkOk = true) ∧ s.waitlist = []
    ∧ s.lookup 6 = some ⟨6, 0xF1, .staged 2⟩ ∧ s.controller.noticeDest ≠ 0
    ∧ .displacement 2 (some 6) 5400 ∈ s.expiries ∧ (s.bay 2).dyn.staged = some laterHold := by
  simp only [checks_iff]; decide +kernel
/-- Bay 11 takes the hold staged: its own ends in time, and the new check is still ahead. -/
def checkWithStage : State :=
  withDyn 10 { arrivedBay with active := some { arrivedHold with ticket := some 8 } }
    { checkDue with expiries := [.displacement 2 (some 6) 5700], timing := { r0.timing with lead := 5 } }
/-- A full Waitlist whose entries have one priority, beside a check at a bay that is closing. -/
def checkWhenFull (p : Fin 4) : State :=
  { withDyn 2 { stagedBay with closeMode := .closingAtEnd } checkDue with
    waitlist := List.replicate 32 { wait with hold := { hold with ticket := some 9, priority := p } }
    index := [⟨5, 0xF1, .active 2⟩, ⟨6, 0xF1, .staged 2⟩, ⟨9, 0x21, .waitlist⟩] }
theorem test_meets_Relocation_full :
    let s := checkWhenFull 1
    32 ≤ s.waitlist.length ∧ (s.waitlist.getLast?.map (·.hold.ticket)) = some (some 9)
    ∧ laterHold.priority < (2 : Fin 4) ∧ (1 : Fin 4) ≤ laterHold.priority
    ∧ (∀ c, (s.bay c).searchable = false) ∧ (9 : Ticket) ≠ 6 ∧ s.lookup 6 = some ⟨6, 0xF1, .staged 2⟩
    ∧ hold.requester = some 0x21 ∧ .displacement 2 (some 6) 5400 ∈ s.expiries
    ∧ (s.bay 2).dyn.staged = some laterHold := by decide +kernel
def closesHeld : State :=
  { withDyn 127 { heldBay with state := .contested, occupancy := .occupied } (managed Kind.control [2, 128] r0) with
    index := [⟨5, 0x21, .active 127⟩] }
theorem test_meets_Relocation_closeNow :
    let s := closesHeld
    s.heldInReset = false ∧ s.management = [request Kind.control [2, byteOf ((127 : BayIx).val + 1)]]
    ∧ (s.bay 127).dyn.state = .contested ∧ (s.bay 127).dyn.active = some hold ∧ hold.arrival = none
    ∧ (s.bay 127).dyn.staged = none ∧ hold.ticket = some 5 ∧ hold.requester = some 0x21
    ∧ s.lookup 5 = some ⟨5, 0x21, .active 127⟩ ∧ (s.bay 127).alloc.chargingCopy = false
    ∧ s.waitlist = [] ∧ s.controller.noticeDest ≠ 0 := by decide +kernel
/-- The searches of these states: none found, a FREE bay found, and a bay that takes the hold staged. -/
theorem test_meets_Relocation_searches :
    checkDue.FindsNone .standard (some 2) laterHold.windowStart
    ∧ checkWithRoom.Finds .standard (some 2) laterHold.windowStart 127 .active
    ∧ checkWithStage.Finds .standard (some 2) laterHold.windowStart 10 .staged
    ∧ (checkWhenFull 2).FindsNone .standard (some 2) laterHold.windowStart
    ∧ closesHeld.FindsNone .standard (some 127) hold.windowStart :=
  ⟨by unfold State.FindsNone State.FitsSome State.Fits; decide +kernel,
    by unfold State.Finds State.FitsSome State.Fits; decide +kernel,
    by unfold State.Finds State.FitsSome State.Fits; decide +kernel,
    by unfold State.FindsNone State.FitsSome State.Fits; decide +kernel,
    by unfold State.FindsNone State.FitsSome State.Fits; decide +kernel⟩
theorem test_meets_Relocation_staged :
    let s := checkWithStage
    .displacement 2 (some 6) (laterHold.windowStart - BitVec.ofNat 32 (s.timing.lead * 60)) ∈ s.expiries
    ∧ (s.bay 2).dyn.staged = some laterHold ∧ (∀ c, (s.bay c).checkOk = true) ∧ s.waitlist = []
    ∧ s.lookup 6 = some ⟨6, 0xF1, .staged 2⟩ := by simp only [checks_iff]; decide +kernel

def waitDue : State :=
  { r0 with waitlist := [wait], index := [⟨5, 0x21, .waitlist⟩], early := [⟨4, 1, none⟩, ⟨7, 10, none⟩],
            expiries := [.waitlist 5 1600, .early 7 610, .early 7 611] }
theorem test_meets_ListExpiries : waitDue.heldInReset = false ∧ .waitlist 5 wait.hold.graceEnd ∈ waitDue.expiries
    ∧ waitDue.waiting 5 = some wait ∧ wait.hold.requester = some 0x21 ∧ (0x21 : Addr) ≠ 0
    ∧ .early 7 610 ∈ waitDue.expiries ∧ .early 7 611 ∈ waitDue.expiries
    ∧ waitDue.early.find? (fun i => i.ticket == 7) = some ⟨7, 10, none⟩ := by decide +kernel

def rotationDue : State :=
  { twoCharging.modBay 2 (fun y => { y with
      alloc := { y.alloc with admittedSince := some 100 }, timer := { y.timer with rotation := .due 1300 } }) with
    expiries := [.rotation 2] }
theorem test_meets_RotationExpiry :
    let s := rotationDue
    s.heldInReset = false ∧ .rotation 2 ∈ s.expiries ∧ s.allocator.queue = [⟨2, 1, 10⟩, ⟨5, 1, 20⟩]
    ∧ (s.bay 2).timer.rotation = .due 1300 ∧ (s.bay 2).alloc.admittedSince ≠ none
    ∧ (s.bay 5).alloc.admittedSince = none ∧ laterThan 20 s.now = false ∧ (∀ d, (s.bay d).checkOk = true)
    ∧ 5 ≤ s.allocator.settings.rotation ∧ s.allocator.settings.rotation ≤ 60
    ∧ budgetOf s.allocator.settings / s.allocator.settings.minimum = 1
    ∧ (∀ e ∈ (s.setQueue [⟨2, 1, 10⟩]).allocator.queue, (s.bay e.bay).alloc.admittedSince ≠ none) := by
  simp only [checks_iff]; decide +kernel

def lostPost : State := withNode 5 (lostPostOf 127) { r0 with now := 60 }
theorem test_meets_LinkLossAndPollDue_linkLoss : lostPost.heldInReset = false ∧ lostPost.linkLostNow 127 = true
    ∧ (lostPost.bay 127).delivery.linkLost = false ∧ (lostPost.bay 127).delivery.state ≠ .inFlight
    ∧ ((lostPost.modDelivery 127 (fun d => { d with linkLost := true })).bay 127).delivery.linkLost = true := by
  decide +kernel

def pollReady : State :=
  (withNode 0xFE (postOf 127) { r0 with now := 1000 }).modScheduler (fun c => { c with rotor := .poll, cursor := 255 })
theorem test_meets_LinkLossAndPollDue_pollDue : pollReady.heldInReset = false
    ∧ (pollReady.node 0xFE).isDue pollReady.now = true
    ∧ pollReady.scheduler.transaction = none ∧ pollReady.sheds = [] ∧ pollReady.scheduler.rotor = .poll
    ∧ pollReady.pollOffer = some (254, 0xFE) := by decide +kernel

def emergency (d : Byte) : Frame := frame d 0xF1 Kind.emergency []
theorem test_meets_EmergencyDemand :
    let s := assembling .uplink twoCharging
    s.heldInReset = false ∧ s.suspension.emergency = false ∧ s.suspension.suspended = false
    ∧ (suspended s).suspension = ⟨true, false⟩ ∧ s.uplink.rx.state = .assembling
    ∧ (s.node (emergency 0xFF).src).role = .server ∧ (s.kinds.get (emergency 0xFF).kind.toFin).action = .claim
    ∧ (suspended s).suspension.suspended = true ∧ (suspended s).uplink.rx.state = .assembling
    ∧ (emergency 0xF0).dest = s.controller.own ∧ (s.node (emergency 0xF0).src).permissions.emergency = true
    ∧ ((unpermitted s).node (emergency 0xF0).src).permissions.emergency = false := by decide +kernel
theorem test_meets_EmergencyDemand_claimForward :
    let s := { assembling .uplink r0 with kinds := r0.kinds.set Kind.emergency.toFin ⟨.claimForward, false, false⟩ }
    (s.kinds.get (emergency 0xF0).kind.toFin).action = .claimForward
    ∧ (emergency 0xF0).dest = s.controller.own := by decide

def restartReady : State :=
  (chargingAt 2 (suspended (managed Kind.control [6] r0))).modBay 2 (fun y => { y with savedMask := true })
theorem test_meets_Restart : restartReady.heldInReset = false
    ∧ restartReady.management = [request Kind.control [6]] ∧ byteAt [6] 0 = 6
    ∧ restartReady.suspension.emergency = false ∧ restartReady.suspension.suspended = true
    ∧ restartReady.allocator.suspendedCopy = restartReady.suspension.suspended ∧ restartReady.allocator.queue = []
    ∧ (∀ b, (restartReady.bay b).alloc.target = 0) ∧ (∀ b, (restartReady.bay b).checkOk = true)
    ∧ ({ restartReady with suspension := ⟨true, true⟩ } : State).suspension.emergency = true := by
  simp only [checks_iff]; decide +kernel

/-- A HOLD: ticket, class wanted, preferred bay, start offset. -/
def holdBytes (t c pref offset : Byte) : List Byte := [0, 0, 0, t, c, pref, offset, 0, 60, 15, 1, 0, 0, 0, 0]
def asksHold (p : List Byte) : State := asked Kind.hold p (withDyn 127 vacantBay r0)
theorem test_meets_HoldChecks :
    let h := fun p => request Kind.hold p
    (asksHold (holdBytes 5 0 0 0)).heldInReset = false
    ∧ ((unpermitted r0).node 0xF1).permissions.hold = false ∧ (r0.node 0xF1).permissions.hold = true
    ∧ ticketField (h (holdBytes 0 0 0 0)).payload 0 = 0 ∧ ticketField (h (holdBytes 5 0 0 0)).payload 0 ≠ 0
    ∧ ({ r0 with index := [⟨5, 0x21, .staged 127⟩] } : State).index.find? (fun e => e.ticket == 5)
        = some ⟨5, 0x21, .staged 127⟩
    ∧ r0.index.find? (fun e => e.ticket == 5) = none
    ∧ 3 < byteAt (holdBytes 5 4 0 0) 4 ∧ byteAt (holdBytes 5 3 0 121) 4 ≤ 3 ∧ 120 < byteAt (holdBytes 5 3 0 121) 6 := by
  decide +kernel

theorem test_meets_HoldGranted :
    let s := asksHold (holdBytes 9 0 128 120)
    s.heldInReset = false ∧ s.requests = [request Kind.hold (holdBytes 9 0 128 120)]
    ∧ (s.checkHold (request Kind.hold (holdBytes 9 0 128 120))).toOption = some .standard
    ∧ byteAt (holdBytes 9 0 128 120) 5 = 127 + 1 ∧ (s.bay 127).cls = .standard ∧ (s.bay 127).dyn.state = .free
    ∧ (s.bay 127).dyn.closeMode = .none ∧ (s.bay 127).dyn.suspect = false ∧ (s.bay 127).checkOk = true
    ∧ (s.bay 127).alloc.chargingCopy = false ∧ s.controller.noticeDest ≠ 0 := by decide +kernel
/-- The window starts as soon as the active hold's end and the turnover allow. -/
def asksStaged : State := withDyn 127 arrivedBay { asksHold (holdBytes 9 0 128 60) with now := 1300 }
theorem test_meets_HoldGranted_staged :
    let s := asksStaged
    (s.checkHold (request Kind.hold (holdBytes 9 0 128 60))).toOption = some .standard
    ∧ byteAt (holdBytes 9 0 128 60) 5 = 127 + 1 ∧ (s.bay 127).dyn.state = .arrived
    ∧ (s.bay 127).dyn.closeMode = .none ∧ (s.bay 127).dyn.suspect = false ∧ (s.bay 127).checkOk = true
    ∧ (s.bay 127).dyn.active = some arrivedHold ∧ (s.bay 127).dyn.staged = none
    ∧ atOrAfter (s.now + BitVec.ofNat 32 (60 * 60)) (arrivedHold.windowEnd + BitVec.ofNat 32 (s.timing.turnover * 60))
        = true
    ∧ laterThan (s.now + BitVec.ofNat 32 (60 * 60) - BitVec.ofNat 32 (s.timing.lead * 60)) s.now = true
    ∧ s.scrubber.degraded = false := by decide +kernel
/-- No preferred bay; bays 4 and 101 of the class named second in the substitution list fit, and its cursor stands
behind both. -/
def asksSearch : State :=
  let fleet := fun y : Bay => { y with cls := .fleet }
  let s := withDyn 3 vacantBay (withDyn 100 vacantBay (asked Kind.hold (holdBytes 9 0 0 120) r0))
  (({ s with
    classes := s.classes.set 0
      { s.classOf .standard with substitution := ⟨[none, some .accessible, some .fleet], rfl⟩ },
    cursors := s.cursors.set 2 101 }).modBay 3 fleet).modBay 100 fleet
theorem test_meets_HoldGranted_searched :
    let s := asksSearch
    let start := s.now + BitVec.ofNat 32 (120 * 60)
    (s.checkHold (request Kind.hold (holdBytes 9 0 0 120))).toOption = some .standard
    ∧ (∀ e : BayIx, ¬ byteAt (holdBytes 9 0 0 120) 5 = e.val + 1) ∧ s.Finds .standard none start 3 .active
    ∧ (∀ e, (s.bay e).checkOk = true) ∧ (s.bay 3).alloc.chargingCopy = false := by
  unfold State.Finds State.FitsSome State.Fits; simp only [checks_iff]; decide +kernel
/-- The preferred bay 128 does not fit; bay 4 takes a second hold staged. -/
def asksSearchStaged : State :=
  withDyn 127 { heldBay with closeMode := .closingAtEnd }
    (withDyn 3 arrivedBay { asked Kind.hold (holdBytes 9 0 128 60) r0 with now := 1300 })
theorem test_meets_HoldGranted_searchedStaged :
    let s := asksSearchStaged
    let start := s.now + BitVec.ofNat 32 (60 * 60)
    (s.checkHold (request Kind.hold (holdBytes 9 0 128 60))).toOption = some .standard
    ∧ (∀ e, (s.bay e).checkOk = true)
    ∧ (∀ e : BayIx, byteAt (holdBytes 9 0 128 60) 5 = e.val + 1 ∧ (s.bay e).cls ∈ s.acceptable .standard →
        ¬ s.FitsSome e start)
    ∧ s.Finds .standard none start 3 .staged :=
  ⟨by decide +kernel, by simp only [checks_iff]; decide +kernel,
    by unfold State.FitsSome State.Fits; decide +kernel,
    by unfold State.Finds State.FitsSome State.Fits; decide +kernel⟩
theorem test_meets_HoldGranted_fits :
    asksStaged.Fits 127 (asksStaged.now + BitVec.ofNat 32 (60 * 60)) .staged
    ∧ (asksHold (holdBytes 9 0 128 120)).Fits 127 (BitVec.ofNat 32 (120 * 60)) .active
    ∧ (asksStaged.bay 127).cls ∈ asksStaged.acceptable .standard := by
  unfold State.Fits; decide +kernel

/-- A part without a bay to search, its Waitlist holding `n` entries of one priority. -/
def asksQueued (n : Nat) (p : Fin 4) : State :=
  { asked Kind.hold (holdBytes 9 0 0 0) r0 with
    waitlist := List.replicate n { wait with hold := { hold with priority := p } }
    index := [⟨5, 0x21, .waitlist⟩] }
theorem test_meets_HoldQueued :
    let s := asksQueued 31 1
    s.heldInReset = false ∧ (s.checkHold (request Kind.hold (holdBytes 9 0 0 0))).toOption = some .standard
    ∧ s.waitlist.length < 32 ∧ 32 ≤ (asksQueued 32 1).waitlist.length
    ∧ ((asksQueued 32 1).waitlist.getLast?.map (·.hold)) = some { hold with priority := 1 }
    ∧ ((asksQueued 32 0).waitlist.getLast?.map (·.hold)) = some { hold with priority := 0 }
    ∧ byteAt (holdBytes 9 0 0 0) 10 = 1 ∧ (1 : Fin 4) ≤ 1 ∧ (0 : Fin 4) < 1 ∧ hold.ticket = some 5
    ∧ hold.requester = some 0x21 ∧ (5 : Ticket) ≠ 9 := by decide +kernel

/-- The one open bay is searched and does not fit: its hold ends too late. -/
theorem test_meets_HoldQueued_search :
    let s := withDyn 3 arrivedBay (asksQueued 31 1)
    s.FindsNone .standard none s.now ∧ (s.bay 3).searchable = true ∧ (asksQueued 32 0).FindsNone .standard none 0 :=
  ⟨by unfold State.FindsNone State.FitsSome State.Fits; decide +kernel, by decide +kernel,
    by unfold State.FindsNone State.FitsSome State.Fits; decide +kernel⟩

def asksAmendAt (d : BayDyn) (t hi lo : Byte) : State :=
  { withDyn 3 d (asked Kind.amend [0, 0, 0, t, hi, lo] { r0 with now := 1500 }) with
    index := [⟨5, 0xF1, .active 3⟩, ⟨6, 0xF1, .staged 3⟩] }
def asksAmend (t hi lo : Byte) : State := asksAmendAt stagedBay t hi lo
def asksAmendWaiting : State :=
  { asked Kind.amend [0, 0, 0, 5, 0, 200] r0 with waitlist := [wait], index := [⟨5, 0xF1, .waitlist⟩] }
theorem test_meets_Amend : (asksAmend 6 0 200).heldInReset = false
    ∧ (asksAmend 6 0 200).requests = [request Kind.amend [0, 0, 0, 6, 0, 200]]
    ∧ ticketField [0, 0, 0, 6, 0, 200] 0 = 6 ∧ (asksAmend 6 0 200).lookup 6 = some ⟨6, 0xF1, .staged 3⟩
    ∧ ((asksAmend 6 0 200).bay 3).dyn.staged = some laterHold
    ∧ (asksAmend 5 1 0).lookup 5 = some ⟨5, 0xF1, .active 3⟩
    ∧ ((asksAmend 5 1 0).bay 3).dyn.active = some arrivedHold
    ∧ laterThan (amendedEnd 1500 arrivedHold.windowStart (field16 [0, 0, 0, 5, 1, 0] 4) + 300)
        laterHold.windowStart = true
    ∧ laterThan (amendedEnd 1500 arrivedHold.windowStart (field16 [0, 0, 0, 5, 0, 60] 4) + 300)
        laterHold.windowStart = false
    ∧ ((asksAmendAt heldBay 5 0 1).bay 3).dyn.active = some hold ∧ hold.arrival = none
    ∧ ((asksAmendAt heldBay 5 0 1).bay 3).dyn.staged = none
    ∧ arrivedHold.arrival ≠ none ∧ arrivedBay.state ≠ .closed ∧ arrivedBay.state ≠ .faulted
    ∧ arrivedBay.occupancy ≠ .vacant ∧ (∀ c, ((asksAmend 5 0 60).bay c).checkOk = true)
    ∧ asksAmendWaiting.lookup 5 = some ⟨5, 0xF1, .waitlist⟩ ∧ asksAmendWaiting.waiting 5 = some wait := by
  simp only [checks_iff]; decide +kernel

def asksFree : State :=
  { asked Kind.free [0, 0, 0, 5] r0 with waitlist := [wait], index := [⟨5, 0x21, .waitlist⟩] }
/-- The staged hold of bay 128, which another node placed, is freed. -/
def freesStaged : State :=
  { withDyn 127 { stagedBay with staged := some { laterHold with requester := some 0x21 } }
      (asked Kind.free [0, 0, 0, 6] { r0 with now := 1500 }) with index := [⟨6, 0x21, .staged 127⟩] }
theorem test_meets_Free_staged :
    let s := freesStaged
    s.heldInReset = false ∧ s.requests = [request Kind.free [0, 0, 0, 6]] ∧ ticketField [0, 0, 0, 6] 0 = 6
    ∧ s.lookup 6 = some ⟨6, 0x21, .staged 127⟩ ∧ (s.node 0xF1).permissions.freeAny = true
    ∧ (s.bay 127).dyn.staged = some { laterHold with requester := some 0x21 } ∧ laterHold.ticket = some 6
    ∧ s.waitlist = [] ∧ s.uplink.fifo.length + 2 ≤ 32 ∧ (0x21 : Addr) ≠ 0 := by decide +kernel
theorem test_meets_Free : ticketField [0, 0, 0, 0] 0 = 0 ∧ r0.lookup 9 = none
    ∧ asksFree.heldInReset = false ∧ asksFree.requests = [request Kind.free [0, 0, 0, 5]]
    ∧ asksFree.lookup 5 = some ⟨5, 0x21, .waitlist⟩
    ∧ (0x21 : Addr) ≠ 0xF1 ∧ ((unpermitted asksFree).node 0xF1).permissions.freeAny = false
    ∧ (asksFree.node 0xF1).permissions.freeAny = true ∧ asksFree.waiting 5 = some wait
    ∧ wait.hold.requester = some 0x21 := by decide +kernel

/-- The end of the active hold of bay 128 is asked for, by a FREE and by a FORCE-END. -/
def frees (d : BayDyn) : State :=
  { withDyn 127 d (asked Kind.free [0, 0, 0, 5] { r0 with now := 1500 }) with
    index := [⟨5, 0xF1, .active 127⟩, ⟨6, 0xF1, .staged 127⟩] }
def forces (p : List Byte) (d : BayDyn) : State :=
  { withDyn 127 d (managed Kind.control ([4, 128, 1] ++ p) { r0 with now := 1500 }) with
    index := [⟨5, 0xF1, .active 127⟩, ⟨6, 0xF1, .staged 127⟩] }
theorem frees_ends (d : BayDyn) (h : Hold) (hr : (frees d).requests = [request Kind.free [0, 0, 0, 5]]
      ∧ (frees d).lookup 5 = some ⟨5, 0xF1, .active 127⟩) :
    (frees d).EndsActive 127 h 5 0xF1 .free 2
      ((frees d).answerTo (request Kind.free [0, 0, 0, 5]) Kind.answer
        ((frees d).answerBytes (request Kind.free [0, 0, 0, 5]) 5 0 128 1 0 h))
      { (frees d).still with requests := [] } :=
  .inl ⟨request Kind.free [0, 0, 0, 5], [], hr.1, rfl, by decide, by decide, hr.2, .inl rfl, by decide, rfl, rfl, rfl,
    rfl⟩
theorem forces_ends (d : BayDyn) (h : Hold) (v : Byte) (hv : v = 0 ∨ v = 5) :
    (forces [0, 0, 0, v] d).EndsActive 127 h 5 0xF1 .forceEnd 4
      ((forces [0, 0, 0, v] d).answerTo (request Kind.control [4, 128, 1, 0, 0, 0, v]) Kind.mgmtAnswer [Kind.control, 0])
      { (forces [0, 0, 0, v] d).still with management := [] } :=
  .inr ⟨request Kind.control [4, 128, 1, 0, 0, 0, v], [], 0, 0, 0, v, rfl, rfl, rfl,
    by rcases hv with h | h <;> subst h <;> decide, by show (0xF1 : Addr) ≠ 0; decide, rfl, rfl, rfl, rfl⟩
def closing : BayDyn := { arrivedBay with closeMode := .closingAtEnd }
/-- A waiting hold for the class of the bay, preferring it. -/
def nextInLine : WaitEntry := ⟨{ laterHold with ticket := some 9 }, .standard, some 127, none⟩
def freesToNext : State :=
  { frees { arrivedBay with occupancy := .vacant } with
    waitlist := [nextInLine], index := [⟨5, 0xF1, .active 127⟩, ⟨9, 0xF1, .waitlist⟩] }
def walkInBay : BayDyn :=
  { arrivedBay with active := some { arrivedHold with ticket := none, requester := none } }
theorem test_meets_ActiveHoldEnds :
    let s := frees arrivedBay
    s.EndsActive 127 arrivedHold 5 0xF1 .free 2
      (s.answerTo (request Kind.free [0, 0, 0, 5]) Kind.answer
        (s.answerBytes (request Kind.free [0, 0, 0, 5]) 5 0 128 1 0 arrivedHold)) { s.still with requests := [] }
    ∧ s.heldInReset = false ∧ (s.bay 127).dyn.active = some arrivedHold ∧ arrivedHold.ticket = some 5
    ∧ arrivedHold.requester = some 0xF1 ∧ (∀ e, (s.bay e).checkOk = true) ∧ s.waitlist = []
    ∧ s.controller.noticeDest ≠ 0 ∧ arrivedBay.state ≠ .closed ∧ arrivedBay.state ≠ .faulted
    ∧ arrivedBay.staged = none ∧ arrivedBay.closeMode = .none ∧ closing.closeMode = .closingAtEnd
    ∧ ((frees { arrivedBay with state := .faulted }).bay 127).dyn.state = .faulted
    ∧ ({ stagedBay with state := .faulted } : BayDyn).staged = some laterHold
    ∧ ({ arrivedBay with state := .closed } : BayDyn).closeMode = .none
    ∧ stagedBay.staged = some laterHold ∧ laterHold.arrival = none ∧ stagedBay.occupancy = .occupied
    ∧ laterHold.entrySeen = false ∧ (frees stagedBay).lookup 6 = some ⟨6, 0xF1, .staged 127⟩ ∧ (6 : Ticket) ≠ 5
    ∧ s.allocator.settings.minimum ≤ (s.bay 127).postMax ∧ (s.classOf .standard).verify = false
    ∧ freesToNext.waitlist = [nextInLine] ∧ nextInLine.classWanted = (freesToNext.bay 127).cls
    ∧ nextInLine.hold.ticket = some 9 ∧ freesToNext.lookup 9 = some ⟨9, 0xF1, .waitlist⟩
    ∧ (∀ f, f ≠ 127 → (freesToNext.bay f).searchable = false) ∧ (freesToNext.bay 127).dyn.occupancy ≠ .occupied :=
  ⟨frees_ends _ _ (by decide +kernel), by simp only [checks_iff]; decide +kernel⟩
theorem test_meets_ActiveHoldEnds_forced :
    let s := forces [0, 0, 0, 0] walkInBay
    (forces [0, 0, 0, 5] arrivedBay).EndsActive 127 arrivedHold 5 0xF1 .forceEnd 4
      ((forces [0, 0, 0, 5] arrivedBay).answerTo (request Kind.control [4, 128, 1, 0, 0, 0, 5]) Kind.mgmtAnswer
        [Kind.control, 0]) { (forces [0, 0, 0, 5] arrivedBay).still with management := [] }
    ∧ s.heldInReset = false ∧ s.management = [request Kind.control [4, byteOf ((127 : BayIx).val + 1), 1, 0, 0, 0, 0]]
    ∧ (s.bay 127).dyn.active = some { arrivedHold with ticket := none, requester := none }
    ∧ (s.bay 127).dyn.staged = none ∧ (s.bay 127).dyn.closeMode = .none ∧ s.waitlist = []
    ∧ (∀ e, (s.bay e).checkOk = true) ∧ ((forces [0, 0, 0, 0] vacantBay).bay 127).dyn.active = none
    ∧ arrivedHold.ticket ≠ some 6 :=
  ⟨forces_ends _ _ 5 (.inr rfl), by simp only [checks_iff]; decide +kernel⟩

/-- R22, step 4: a FAULTED bay stays FAULTED when its hold ends, also without a fault cause (log 28). -/
theorem test_hold_ends_at_faulted_bay :
    ((after (exec .free (frees { arrivedBay with state := .faulted }))).bay 127).dyn
      = { arrivedBay with state := .faulted, active := none } := by decide +kernel

/-- R22, step 6: where the end of the promoted hold closes the bay, nothing is scanned, though bay 1 is FREE. -/
theorem test_closed_in_derivation_scans_nothing :
    let d : BayDyn := { stagedBay with
      occupancy := .vacant, closeMode := .closingAtEnd, staged := some { laterHold with arrival := some 1200 } }
    let t := after (exec .free { withDyn 0 vacantBay (frees d) with
      waitlist := [nextInLine], index := [⟨5, 0xF1, .active 127⟩, ⟨6, 0xF1, .staged 127⟩, ⟨9, 0xF1, .waitlist⟩] })
    (t.bay 127).dyn.state = .closed ∧ t.waitlist = [nextInLine] := by decide +kernel

def asksQuery (p : List Byte) : State :=
  { withDyn 127 heldBay (asked Kind.query p r0) with index := [⟨5, 0x21, .active 127⟩] }
theorem test_meets_Query : (asksQuery [1, 0, 0, 0, 0, 127]).heldInReset = false
    ∧ ((asksQuery [1, 0, 0, 0, 0, 127]).bay 126).dyn.active = none
    ∧ byteAt [1, 0, 0, 0, 0, 127] 5 = 126 + 1 ∧ 128 < byteAt [1, 0, 0, 0, 0, 129] 5
    ∧ (asksQuery [0, 0, 0, 0, 5]).lookup 5 = some ⟨5, 0x21, .active 127⟩
    ∧ ((asksQuery [0, 0, 0, 0, 5]).bay 127).dyn.active = some hold ∧ hold.arrival = none
    ∧ (asksQuery [0, 0, 0, 0, 6]).lookup 6 = none ∧ ticketField [0, 0, 0, 0, 6] 1 = 6
    ∧ (asksQuery [0, 0, 0, 0, 6]).early.find? (fun e => e.ticket == 6) = none ∧ ticketField [0, 0, 0, 0, 0] 1 = 0 := by
  decide +kernel
/-- A staged hold, the second entry of the Waitlist, and an EARLY ticket. -/
def asksQueryMore (t : Byte) : State :=
  { withDyn 127 stagedBay (asked Kind.query [0, 0, 0, 0, t] r0) with
    index := [⟨6, 0xF1, .staged 127⟩, ⟨9, 0x21, .waitlist⟩], early := [⟨7, 1000, none⟩]
    waitlist := [wait, { wait with hold := { hold with ticket := some 9 } }] }
theorem test_meets_Query_more :
    (asksQueryMore 6).lookup 6 = some ⟨6, 0xF1, .staged 127⟩
    ∧ ((asksQueryMore 6).bay 127).dyn.staged = some laterHold
    ∧ (asksQueryMore 9).lookup 9 = some ⟨9, 0x21, .waitlist⟩
    ∧ (asksQueryMore 9).waitlist = [wait] ++ { wait with hold := { hold with ticket := some 9 } } :: []
    ∧ (∀ f ∈ [wait], f.hold.ticket ≠ some 9) ∧ (asksQueryMore 7).lookup 7 = none
    ∧ (asksQueryMore 7).early.find? (fun e => e.ticket == 7) = some ⟨7, 1000, none⟩ := by decide +kernel

def asksArrive : State :=
  { asked Kind.arrive [0, 0, 0, 5] r0 with
    early := (List.range 8).map (fun i => ⟨BitVec.ofNat 32 (i + 100), 3, none⟩) }
/-- The ticket of a hold at bay 128, or on the Waitlist, arrives. -/
def arrives (d : BayDyn) (t : Byte) : State :=
  { withDyn 127 d (asked Kind.arrive [0, 0, 0, t] r0) with
    waitlist := [{ wait with hold := { hold with ticket := some 9 } }]
    index := [⟨5, 0x21, .active 127⟩, ⟨6, 0xF1, .staged 127⟩, ⟨9, 0x21, .waitlist⟩] }
def contested : BayDyn := { heldBay with state := .contested, occupancy := .occupied }
def arrivesContested : State :=
  { withDyn 0 vacantBay (arrives contested 5) with waitlist := [] }
theorem test_meets_Arrive : asksArrive.heldInReset = false ∧ asksArrive.early.length ≤ 8
    ∧ asksArrive.requests = [request Kind.arrive [0, 0, 0, 5]]
    ∧ (asksArrive.node 0xF1).permissions.arrive = true ∧ ticketField [0, 0, 0, 5] 0 ≠ 0 ∧ asksArrive.lookup 5 = none
    ∧ ((unpermitted asksArrive).node 0xF1).permissions.arrive = false ∧ ticketField [0, 0, 0, 0] 0 = 0 := by
  decide +kernel
theorem test_meets_Arrive_seen :
    let s := arrives stagedBay 5
    s.lookup 5 = some ⟨5, 0x21, .active 127⟩ ∧ (s.bay 127).dyn.active = some arrivedHold
    ∧ (s.bay 127).dyn.state ≠ .contested ∧ s.lookup 6 = some ⟨6, 0xF1, .staged 127⟩
    ∧ (s.bay 127).dyn.staged = some laterHold ∧ s.lookup 9 = some ⟨9, 0x21, .waitlist⟩ ∧ (s.waiting 9).isSome = true
    ∧ ((arrives contested 5).bay 127).dyn.state = .contested
    ∧ ((arrives contested 5).bay 127).dyn.active = some hold := by
  decide +kernel
theorem test_meets_Arrive_relocated :
    let s := arrivesContested
    s.lookup 5 = some ⟨5, 0x21, .active 127⟩ ∧ (s.bay 127).dyn.active = some hold
    ∧ (s.bay 127).dyn.state = .contested ∧ (s.bay 127).dyn.closeMode = .none ∧ (s.bay 127).dyn.staged = none
    ∧ (∀ e, (s.bay e).checkOk = true) ∧ s.waitlist = [] ∧ hold.ticket = some 5 ∧ hold.requester = some 0x21
    ∧ s.controller.noticeDest ≠ 0 := by simp only [checks_iff]; decide +kernel
def farHold : Hold := { hold with windowStart := 9000, windowEnd := 12600, graceEnd := 9600 }
/-- Bay 8 takes the contested hold staged. -/
def arrivesStaged : State :=
  withDyn 127 { contested with active := some farHold } (withDyn 7 arrivedBay
    { arrivesContested with bays := r0.bays })
theorem test_meets_Arrive_searches :
    (arrives contested 5).FindsNone .standard (some 127) hold.windowStart
    ∧ arrivesContested.Finds .standard (some 127) hold.windowStart 0 .active
    ∧ arrivesStaged.Finds .standard (some 127) farHold.windowStart 7 .staged
    ∧ (arrivesStaged.bay 127).dyn.active = some farHold ∧ (∀ e, (arrivesStaged.bay e).checkOk = true) :=
  ⟨by unfold State.FindsNone State.FitsSome State.Fits; decide +kernel,
    by unfold State.Finds State.FitsSome State.Fits; decide +kernel,
    by unfold State.Finds State.FitsSome State.Fits; decide +kernel, by simp only [checks_iff]; decide +kernel⟩

theorem test_meets_ManagementRefusals : (managed Kind.setTable [0] r0).heldInReset = false
    ∧ (managed Kind.setTable [0] r0).management = [request Kind.setTable [0]]
    ∧ byteAt [0] 0 = 0 ∧ 8 < byteAt [9, 1] 0 ∧ 12 < byteAt [13] 0
    ∧ (128 < byteAt [4, 129, 0, 0, 60, 1] 1) ∧ byteAt [4, 128, 0, 0, 60, 1] 0 = 4
    ∧ ([4, 128, 0, 0, 60, 1, 0, 0, 60, 1] : List Byte).length - 2 = 8 ∧ 128 < 128 + 8 / 4 - 1
    ∧ byteAt [4, 0] 1 = 0 ∧ 128 < byteAt [4, 129] 1 := by decide

/-- A Node Map frame while address 253 is a post or a sensor of bay 128, its POLL outstanding. -/
def mapped (e : NodeEntry) (p : List Byte) : State :=
  outstanding (pollOf 253 .window) (withNode 253 e (managed Kind.setTable p r0))
theorem test_meets_MapAndFilterWrites :
    let s := managed Kind.setTable [1, 254, 2, 0, 128] r0
    s.heldInReset = false ∧ s.node 254 = NodeEntry.unused ∧ s.post 127 = none ∧ (254 : Addr) ≠ 0 ∧ (254 : Addr) ≠ 0xFF
    ∧ (s.bay 127).dyn.state = .closed ∧ ((withDyn 127 vacantBay s).bay 127).dyn.state ≠ .closed
    ∧ s.sensor 127 = none ∧ (request Kind.setTable [2, 0x38, 1, 3]).payload = [2, 0x38, 1, 3]
    ∧ (request Kind.setTable [2, 254, 1, 3, 9, 0]).payload = [2, 254, 1, 3, 9, 0] ∧ (254 : Byte).toNat < 255
    ∧ (1 : Addr) ≠ s.controller.own ∧ (s.node 1).role = .unused ∧ (s.node 0xF1).role ≠ .unused := by decide +kernel
theorem test_meets_MapAndFilterWrites_removal :
    let s := mapped (postOf 127) [1, 253, 0, 0, 0, 2, 0, 128]
    s.management = [request Kind.setTable [1, 253, 0, 0, 0, 2, 0, byteOf ((127 : BayIx).val + 1)]]
    ∧ s.node 253 = ⟨.post, Permissions.none, some 127, some ⟨true, 0, 0, 1000⟩⟩ ∧ (s.bay 127).dyn.state = .closed
    ∧ (253 : Addr).toNat < 254 ∧ s.node (253 + 1) = NodeEntry.unused
    ∧ (∀ e, (s.node e).role = .post → (s.node e).bay = some 127 → e = 253) ∧ s.scheduler.transaction.isSome = true
    ∧ (mapped (sensorOf 127) [1, 253, 0, 0, 0]).node 253 = ⟨.sensor, Permissions.none, some 127, some ⟨true, 0, 0, 1000⟩⟩
    ∧ (request Kind.setTable [1, 252, 2, 0, 128, 0, 0, 0]).payload = [1, 252, 2, 0, 128, 0, 0, 0]
    ∧ s.node 252 = NodeEntry.unused ∧ (252 : Addr).toNat < 255 ∧ s.node (252 + 1) = postOf 127
    ∧ (s.node 9).role = .unused ∧ (s.node 0xF1).role = .server := by decide +kernel

def tableBytes (n : Nat) : List Byte := List.replicate n 0xFF
/-- An arrived hold and a staged one, and a post that the new link-loss limit makes link-lost. -/
def retimed : State :=
  withNode 5 (lostPostOf 2) (withDyn 2 stagedBay (managed Kind.setTable (6 :: 0 :: tableBytes 9) { r0 with now := 300 }))
theorem test_meets_SettingsWrites : retimed.heldInReset = false
    ∧ retimed.management = [request Kind.setTable (6 :: 0 :: tableBytes 9)]
    ∧ (tableBytes 9).length = 9 ∧ (tableBytes 23).length = 23
    ∧ (retimed.bay 2).dyn.active = some arrivedHold ∧ arrivedHold.arrival ≠ none
    ∧ (retimed.bay 2).dyn.staged = some laterHold
    ∧ State.linkLostNow { retimed with timing := { retimed.timing with linkLoss := 300 } } 2 = true
    ∧ (retimed.bay 2).delivery.linkLost = false ∧ (retimed.bay 2).delivery.state ≠ .inFlight
    ∧ (request Kind.setTable [8, 0, 0xF0, 9, 2]).payload = [8, 0, r0.controller.own, 9, 2]
    ∧ (request Kind.control [8, 1, 2, 3, 4]).kind = Kind.control
    ∧ byteOf (1 : Fin 2).val = 1 ∧ 1 < (2 : Byte).toNat := by decide +kernel

/-- R160: the NOTICE-DROP of the answer at a full FIFO goes by the settings before the write, which disables its log. -/
theorem test_answer_goes_by_old_settings :
    let s := { managed Kind.setTable (7 :: 0 :: List.replicate 23 0) r0 with
      uplink := { r0.uplink with fifo := List.replicate 32 query } }
    let t := after (exec .faultSettings s)
    (t.recorder.settings.kinds.get ErrorKind.noticeDrop.ix).enabled = false
    ∧ (t.recorder.logs.get (s.recorder.settings.kinds.get ErrorKind.noticeDrop.ix).severity).first.map (·.kind)
        = some .noticeDrop := by decide +kernel

theorem test_meets_RecomputingWrites : (managed Kind.setTable (3 :: 3 :: tableBytes 9) twoCharging).heldInReset = false
    ∧ byteOf BayClass.shortStay.ix.val = 3 ∧ (tableBytes 9).length = 9 ∧ (tableBytes 14).length = 14
    ∧ (request Kind.control (7 :: tableBytes 2)).payload = 7 :: tableBytes 2 ∧ (tableBytes 2).length = 2 := by decide
/-- M is raised to 160 above the post maximum of one of the two bays that charge, and to 60, above none. -/
theorem test_meets_RecomputingWrites_raised :
    let s := State.modBay twoCharging 5 (fun y => { y with postMax := 160 })
    (s.bay 2).alloc.chargingCopy = true ∧ s.allocator.settings.minimum ≤ (s.bay 2).postMax
    ∧ (s.bay 2).postMax < clamp 60 160 (byteAt (tableBytes 14) 4) ∧ ¬ (s.bay 5).postMax < 160
    ∧ (∀ b, (s.bay b).alloc.chargingCopy = true → b = 2 ∨ b = 5) ∧ (∀ b, ¬ (s.bay b).postMax < clamp 60 160 60)
    ∧ (∀ b, (s.bay b).checkOk = true) ∧ s.uplink.fifo.length + 2 ≤ 32 := by simp only [checks_iff]; decide +kernel

def configures (p : List Byte) : State := withDyn 127 vacantBay (managed Kind.setTable p r0)
theorem test_meets_BayConfigurationWrite :
    let s := suspended (configures [4, 1, 2, 3, 33, 1])
    s.heldInReset = false ∧ s.management = [request Kind.setTable [4, 1, 2, 3, 33, 1]]
    ∧ (1 : Byte).toNat ≤ 1 ∧ 1 < (2 : Byte).toNat ∧ (s.bay 0).dyn.state = .closed ∧ s.suspension.suspended = true
    ∧ clamp 60 800 (3 * 256 + 33) ≠ (s.bay 0).postMax
    ∧ s.allocator.suspendedCopy = s.suspension.suspended ∧ s.allocator.queue = []
    ∧ (∀ b, (s.bay b).alloc.target = 0)
    ∧ (configures [4, 1, 2, 3, 33, 0]).suspension.suspended = false
    ∧ (∀ d, ((configures [4, 1, 2, 3, 33, 0]).bay d).checkOk = true)
    ∧ (s.bay 127).dyn.state ≠ .closed ∧ (s.bay 127).cls ≠ .fleet
    ∧ (s.bay 127).cls = .standard ∧ (s.bay 127).postMax = clamp 60 800 (0 * 256 + 60)
    ∧ (127 : BayIx).val = (126 : BayIx).val + 1 ∧ (s.bay 126).dyn.state = .closed := by
  simp only [checks_iff]; decide +kernel

def reads (id start count : Byte) (s : State) : State := managed Kind.getTable [id, start, count] s
/-- A part with something to show in every view. -/
def shown : State :=
  let s := withNode 255 (sensorOf 127) (withDyn 127 stagedBay (queued [⟨2, 1, 10⟩] r0))
  { s.logError { kind := .overdraw, bay := some 2, header := some query.header } with
    waitlist := [wait], siteOffset := 1000, suspension := ⟨true, false⟩ }
theorem test_meets_GetTable : (reads 2 250 30 r0).heldInReset = false
    ∧ (reads 2 250 30 r0).management = [request Kind.getTable [2, 250, 30]]
    ∧ 128 < (129 : Byte).toNat ∧ (0 : Byte).toNat < 1 ∧ 3 < (4 : Byte).toNat ∧ 32 < (33 : Byte).toNat
    ∧ 2 < (3 : Byte).toNat ∧ 1 < (2 : Byte).toNat ∧ 0 < (1 : Byte).toNat
    ∧ (24 : Byte).toNat ∉ [1, 2, 3, 4, 5, 6, 7, 8, 16, 17, 18, 19, 20, 21, 22, 23]
    ∧ (23 : Byte).toNat = 23 ∧ (128 : Byte).toNat = (127 : BayIx).val + 1 ∧ shown.waitlist[0]? = some wait
    ∧ shown.allocator.queue[0]? = some ⟨2, 1, 10⟩ ∧ shown.waitlist.length < (32 : Byte).toNat
    ∧ shown.allocator.queue.length < (128 : Byte).toNat := by decide +kernel

theorem test_meets_ClearLog : (managed Kind.control [9, 2] r0).heldInReset = false
    ∧ (managed Kind.control [9, 2] r0).management = [request Kind.control [9, byteOf (2 : Fin 3).val]]
    ∧ 2 < (3 : Byte).toNat := by decide

def opens (d : BayDyn) : State := withDyn 3 d (withNode 5 (postOf 3) (managed Kind.control [1, 4] r0))
def closes (d : BayDyn) : State := withDyn 3 d (managed Kind.control [2, 4] r0)
theorem test_meets_OpenAndClose :
    let s := opens BayDyn.powerOn
    s.heldInReset = false ∧ s.management = [request Kind.control [1, byteOf ((3 : BayIx).val + 1)]]
    ∧ (s.bay 3).dyn.state = .closed ∧ s.post 3 ≠ none ∧ r0.post 3 = none ∧ s.faultCauses 3 = []
    ∧ (s.bay 3).dyn.active = none ∧ (s.bay 3).alloc.chargingCopy = false ∧ s.waitlist = []
    ∧ s.controller.noticeDest ≠ 0
    ∧ (opens { BayDyn.powerOn with connector := .fault }).faultCauses 3 = [.connectorFault]
    ∧ ((opens closing).bay 3).dyn.state ≠ .closed ∧ closing.closeMode = .closingAtEnd
    ∧ vacantBay.closeMode = .none ∧ vacantBay.state ≠ .closed ∧ vacantBay.active = none
    ∧ (closes arrivedBay).management = [request Kind.control [2, byteOf ((3 : BayIx).val + 1)]]
    ∧ plugged.state = .charging ∧ arrivedBay.state ≠ .closed ∧ arrivedBay.active = some arrivedHold
    ∧ arrivedBay.staged = none ∧ (∀ e, ((closes vacantBay).bay e).checkOk = true) := by
  simp only [checks_iff]; decide +kernel

theorem test_meets_ForceEndStaged :
    let s := withDyn 127 stagedBay (managed Kind.control [4, 128, 2, 0, 0, 0, 6] r0)
    s.heldInReset = false ∧ s.management = [request Kind.control [4, byteOf ((127 : BayIx).val + 1), 2, 0, 0, 0, 6]]
    ∧ (s.bay 127).dyn.staged = some laterHold ∧ (s.bay 126).dyn.staged = none
    ∧ ((0 : Byte) ++ (0 : Byte) ++ (0 : Byte) ++ (6 : Byte) : BitVec 32) = 6
    ∧ laterHold.ticket = some 6 ∧ laterHold.ticket ≠ some 5 ∧ laterHold.requester = some 0xF1 ∧ s.waitlist = [] := by
  decide +kernel

def enableReady : State :=
  (chargingAt 0 (managed Kind.control [5, 1, 1] twoCharging)).modBay 0 (fun y => { y with allotEnable := false })
theorem test_meets_SetEnable : enableReady.heldInReset = false ∧ 1 < (2 : Byte).toNat
    ∧ enableReady.management = [request Kind.control [5, byteOf ((0 : BayIx).val + 1), 1]]
    ∧ enableReady.suspension.suspended = false ∧ (suspended enableReady).suspension.suspended = true
    ∧ enableReady.allocator.suspendedCopy = false ∧ (enableReady.bay 0).allotEnable = false
    ∧ (enableReady.bay 0).alloc.chargingCopy = true ∧ (enableReady.bay 0).alloc.suspectCopy = false
    ∧ enableReady.inQueue 0 = false ∧ enableReady.allocator.settings.minimum ≤ (enableReady.bay 0).postMax
    ∧ (∀ c, (enableReady.bay c).checkOk = true)
    ∧ (enableReady.bay 2).allotEnable = true ∧ enableReady.inQueue 2 = true := by
  simp only [checks_iff]; decide +kernel

def scrubReady : State :=
  (withDyn 127 { BayDyn.powerOn with suspect := true } (managed Kind.control [11, 128] r0)).modAlloc 127
    (fun a => { a with suspectCopy := true })
theorem test_meets_Scrub : scrubReady.heldInReset = false
    ∧ scrubReady.management = [request Kind.control [11, byteOf ((127 : BayIx).val + 1)]]
    ∧ (scrubReady.bay 0).dyn.suspect = false ∧ (scrubReady.bay 127).dyn.suspect = true
    ∧ (scrubReady.bay 127).dyn.state = .closed ∧ (scrubReady.bay 127).dyn.active = none
    ∧ (scrubReady.bay 127).alloc.chargingCopy = false ∧ scrubReady.inQueue 127 = false ∧ scrubReady.waitlist = []
    ∧ (∀ e ∈ scrubReady.index, e.location ≠ .active 127 ∧ e.location ≠ .staged 127)
    ∧ (∀ c, c ≠ 127 → (scrubReady.bay c).dyn.suspect = false) := by decide +kernel
/-- A suspect bay in service with the post `e`; bay 1 is suspect too, where `other` says so. -/
def suspectInService (d : BayDyn) (e : NodeEntry) (other : Bool) (index : List IndexEntry) : State :=
  let s := withNode 6 (sensorOf 127) (withNode 5 e (withDyn 127 { d with state := .faulted, suspect := true }
    (managed Kind.control [11, 128] { r0 with now := 50 })))
  { (if other then withDyn 0 { BayDyn.powerOn with suspect := true } s else s) with
    index := index, scrubber := ⟨9, true⟩ }
theorem test_meets_Scrub_inService :
    let s := suspectInService arrivedBay (postOf 127) true [⟨5, 0xF1, .active 127⟩, ⟨7, 0xF1, .active 3⟩]
    let u := suspectInService vacantBay (lostPostOf 127) false []
    s.management = [request Kind.control [11, byteOf ((127 : BayIx).val + 1)]] ∧ (s.bay 127).dyn.suspect = true
    ∧ (s.bay 127).dyn.state = .faulted ∧ s.waitlist = [] ∧ (∀ c, c ≠ 127 → (s.bay c).checkOk = true)
    ∧ s.controller.noticeDest ≠ 0
    ∧ s.index.filter (fun e => e.location = .active 127 ∨ e.location = .staged 127) = [⟨5, 0xF1, .active 127⟩]
    ∧ s.postUnreachable 127 = false ∧ (s.bay 0).dyn.suspect = true ∧ s.post 127 = some (5, postOf 127)
    ∧ s.sensor 127 = some (6, sensorOf 127) ∧ u.postUnreachable 127 = true ∧ (u.bay 127).dyn.active = none
    ∧ (∀ c, c ≠ 127 → (u.bay c).dyn.suspect = false) := by simp only [other_checks_iff]; decide +kernel

theorem test_meets_StorageFault : r0.heldInReset = false ∧ (0 : Byte).toNat = 0 ∧ 128 < (129 : Byte).toNat := by decide

/-- A part about to tick, whose FIFO and Waitlist are full. -/
def fullPart : State :=
  { r0 with pending := [.tick], uplink := { r0.uplink with fifo := List.replicate 32 (frame 0xF1 0xF0 1 []) },
            waitlist := List.replicate 32 wait }
theorem test_meets_StepKeepsCapacitiesAndAlert_bounded : fullPart.Bounded ∧ fullPart.WaitOrdered
    ∧ (∃ t, step fullPart = .next t) :=
  ⟨⟨by decide, by decide, by decide, by decide, by decide, by decide, by decide, by decide⟩,
    List.pairwise_replicate.mpr (.inr (Nat.le_refl _)), _, rfl⟩
/-- A part started suspended: it has logged EMERGENCY-ENTERED and drives ALERT. -/
def alertPart : State :=
  (r0.logError ⟨.emergencyEntered, none, none⟩).withPending [.pollDue 5]
theorem test_meets_StepKeepsCapacitiesAndAlert_alert : alertPart.recorder.alert = true ∧ alertPart.AlertRight
    ∧ (∃ t, step alertPart = .next t) :=
  ⟨by decide, ⟨fun _ => ⟨2, by decide, by decide⟩, fun _ => by decide⟩, _, rfl⟩
/-- The whole budget of a feeder of 60 stands at bay 4. -/
def targetPart : State := ((feeder 60 r0).modAlloc 3 (fun a => { a with target := 60 })).withPending [.endOfSending]
theorem test_meets_StepKeepsTargetsWithinBudget : targetPart.targetSum = budgetOf targetPart.allocator.settings
    ∧ targetPart.WithinBudget ∧ (∃ t, step targetPart = .next t) :=
  ⟨by decide +kernel, (by decide +kernel : targetPart.targetSum ≤ budgetOf targetPart.allocator.settings), _, rfl⟩
theorem test_meets_StepKeepsSuspension : (suspended r0).suspension.suspended = true ∧ (suspended r0).SuspensionHolds
    ∧ (∃ t, step (suspended r0) = .next t) :=
  ⟨rfl, ⟨rfl, fun _ => ⟨rfl, by decide +kernel⟩⟩, _, rfl⟩

end Sys2Proof.Tests
end

section
/-!
SUPPORT. What an event leaves of the evidence a sensor has given about a bay: nothing that a bay's state, its slots, its
queue place or its notices do touches the accepted occupancy or the debounce run, so a change of occupancy leaves just
the occupancy it was given (R10, R14). With it the settlement of the statement about a sensor's report.
-/
namespace Sys2Proof.Machine

/-! ## Occupancy and debounce run -/

/-- The accepted occupancy, the debounce candidate and the debounce count (Table 1-2). -/
def BayDyn.sensing (d : BayDyn) : Occupancy × Option Sensed × Nat := (d.occupancy, d.candidate, d.debounce)

/-- Every bay's occupancy, candidate and count are the same. -/
def SameSensing (s t : State) : Prop := ∀ b, (t.bay b).dyn.sensing = (s.bay b).dyn.sensing

variable {s t u : State} {ev : Ev}

theorem SameSensing.refl (s : State) : SameSensing s s := fun _ => rfl

theorem SameSensing.records (h : SameSensing s t) (h' : SameRecords t u) : SameSensing s u :=
  fun b => by rw [h'.dyn b, h b]

theorem SameSensing.of_bays (h : SameSensing s t) (hb : u.bays = t.bays) : SameSensing s u :=
  fun b => by rw [State.bay, hb]; exact h b

/-! ## Changes of one bay, notices and the Charge Queue -/

theorem SameSensing.modDyn (h : SameSensing s ev.st) (b : BayIx) (f : BayDyn → BayDyn)
    (hf : ∀ d, (f d).sensing = d.sensing) : SameSensing s (ev.modDyn b f).st := by
  intro c
  change ((ev.st.modBay b _).bay c).dyn.sensing = _
  rw [State.bay_modBay]
  split
  · rw [Bay.modDyn_dyn, hf, h c]
  · exact h c

theorem SameSensing.modAlloc (h : SameSensing s ev.st) (b : BayIx) (f : BayAlloc → BayAlloc) :
    SameSensing s (ev.modAlloc b f).st := h.records (ev.st.modAlloc_sameRecords b f)

theorem SameSensing.modTimer (h : SameSensing s ev.st) (b : BayIx) (f : BayTimer → BayTimer) :
    SameSensing s (ev.modTimer b f).st := h.records (ev.st.modTimer_sameRecords b f)

theorem SameSensing.log (h : SameSensing s ev.st) (e : ErrorReport) : SameSensing s (ev.log e).st :=
  h.records (ev.log_talks e).sameRecords

theorem SameSensing.holdNotice (h : SameSensing s ev.st) (x : Hold) (e : HoldEvent) (c : HoldNoticeBody) :
    SameSensing s (ev.holdNotice x e c).st := h.records (ev.holdNotice_talks x e c).sameRecords

@[simp] theorem Ev.touch_st (ev : Ev) (b : BayIx) : (ev.touch b).st = ev.st := by
  unfold Ev.touch; split <;> rfl

theorem SameSensing.touch (h : SameSensing s ev.st) (b : BayIx) : SameSensing s (ev.touch b).st := by
  rwa [Ev.touch_st]

theorem SameSensing.note (h : SameSensing s ev.st) (b : BayIx) (c : BayCause) : SameSensing s (ev.note b c).st :=
  h.touch b

theorem SameSensing.noteEnd (h : SameSensing s ev.st) (b : BayIx) (r : EndReason) :
    SameSensing s (ev.noteEnd b r).st := h.note b .holdEnded

theorem SameSensing.syncQueue (h : SameSensing s ev.st) (b : BayIx) : SameSensing s (ev.syncQueue b).st := by
  have queued (q : List ChargeEntry) : SameSensing s (ev.onState (·.setQueue q)).st := h.of_bays rfl
  unfold Ev.syncQueue; repeat' split
  · exact h
  · exact (queued _).modAlloc b _
  · exact ((queued _).modAlloc b _).modTimer b _
  · exact h

theorem SameSensing.reportCharging (h : SameSensing s ev.st) (b : BayIx) (v : Bool) :
    SameSensing s (ev.reportCharging b v).st := by
  unfold Ev.reportCharging; split
  · exact h
  · have copied := h.modAlloc b (fun a => { a with chargingCopy := v })
    dsimp only; split
    · exact (copied.log _).syncQueue b
    · exact copied.syncQueue b

/-! ## The operations of the engine that a change of occupancy can run -/

theorem SameSensing.setState (h : SameSensing s ev.st) (b : BayIx) (x : BayState) :
    SameSensing s (ev.setState b x).st :=
  ((h.touch b).modDyn b _ (fun _ => by rfl)).reportCharging b _

theorem SameSensing.closeBay (h : SameSensing s ev.st) (b : BayIx) : SameSensing s (ev.closeBay b).st :=
  (h.setState b .closed).modDyn b _ (fun _ => by rfl)

theorem SameSensing.capture (h : SameSensing s ev.st) (b : BayIx) (x : Hold) : SameSensing s (ev.capture b x).st :=
  (h.modDyn b _ (fun _ => by rfl)).modTimer b _

theorem State.unindexHold_bays (s : State) (x : Hold) : (s.unindexHold x).bays = s.bays := by
  unfold State.unindexHold; split <;> rfl

theorem State.indexHold_bays (s : State) (x : Hold) (l : Location) : (s.indexHold x l).bays = s.bays := by
  unfold State.indexHold State.setIndex; repeat' split
  all_goals rfl

theorem SameSensing.leaveIndex (h : SameSensing s ev.st) (x : Hold) (l : Leave) :
    SameSensing s (ev.leaveIndex x l).st := by
  cases l with
  | ended => exact h.of_bays (ev.st.unindexHold_bays x)
  | relocated | displaced | lost => exact h

theorem SameSensing.leaveNotice (h : SameSensing s ev.st) (b : BayIx) (x : Hold) (l : Leave)
    (sum : EndReason → HoldNoticeBody) : SameSensing s (ev.leaveNotice b x l sum).st := by
  cases l <;> exact h.holdNotice _ _ _

theorem SameSensing.indexHold (h : SameSensing s ev.st) (x : Hold) (l : Location) :
    SameSensing s (ev.onState (·.indexHold x l)).st := h.of_bays (ev.st.indexHold_bays x l)

theorem SameSensing.promote (h : SameSensing s ev.st) (b : BayIx) : SameSensing s (ev.promote b).st := by
  unfold Ev.promote; split
  · exact h.modDyn b _ (fun _ => by rfl)
  · exact ((h.modDyn b _ (fun _ => by rfl)).indexHold _ _).modTimer b _

theorem SameSensing.settleEnd {derive : BayIx → Ev → Ev}
    (hd : ∀ {ev} b, SameSensing s ev.st → SameSensing s (derive b ev).st) (nested : Bool)
    (h : SameSensing s ev.st) (b : BayIx) : SameSensing s (ev.settleEnd derive nested b).st := by
  unfold Ev.settleEnd; dsimp only
  repeat' split
  · exact h
  · exact h.closeBay b
  · exact h
  · exact hd b h
  · exact hd b h

theorem SameSensing.endActiveWith {derive : BayIx → Ev → Ev}
    (hd : ∀ {ev} b, SameSensing s ev.st → SameSensing s (derive b ev).st) (nested : Bool)
    (h : SameSensing s ev.st) (b : BayIx) (l : Leave) :
    SameSensing s (Ev.endActiveWith derive nested ev b l).st := by
  unfold Ev.endActiveWith; split
  · exact h
  · next x _ =>
    have reported := ((h.touch b).modTimer b BayTimer.clearActive).reportCharging b false
    exact ((((reported.leaveIndex x l).leaveNotice b x l _).promote b).noteEnd b l.reason).settleEnd hd nested b

theorem SameSensing.deriveArrivedWith {onVacant : Ev → Ev}
    (hv : ∀ {ev}, SameSensing s ev.st → SameSensing s (onVacant ev).st) (h : SameSensing s ev.st) (b : BayIx)
    (x : Hold) : SameSensing s (Ev.deriveArrivedWith onVacant ev b x).st := by
  unfold Ev.deriveArrivedWith; dsimp only
  split
  · exact hv h
  · repeat' split
    all_goals exact h.setState b _

theorem SameSensing.deriveFuel (n : Nat) (b : BayIx) (h : SameSensing s ev.st) :
    SameSensing s (deriveFuel n b ev).st := by
  induction n generalizing b ev with
  | zero => exact h
  | succ n ih =>
    have hv {ev : Ev} (h : SameSensing s ev.st) :
        SameSensing s (Ev.endActiveWith (Machine.deriveFuel n) true ev b (.ended .departed)).st :=
      h.endActiveWith (fun b h => ih b h) true b _
    unfold Machine.deriveFuel; dsimp only
    split
    · exact h.setState b _
    · split
      · exact h.deriveArrivedWith hv b _
      · split
        · split
          · exact h.setState b _
          · exact (h.capture b _).deriveArrivedWith hv b _
        · exact h.setState b _

theorem SameSensing.endActive (h : SameSensing s ev.st) (b : BayIx) (l : Leave) :
    SameSensing s (ev.endActive b l).st :=
  h.endActiveWith (fun b h => h.deriveFuel 3 b) false b l

theorem SameSensing.rederive (h : SameSensing s ev.st) (b : BayIx) : SameSensing s (ev.rederive b).st := by
  unfold Ev.rederive; repeat' split
  · exact h.deriveArrivedWith (fun h => h.endActive b _) b _
  · exact h
  · exact h

/-- What a bay does when its occupancy changes (Table 1-5) leaves the occupancy and the debounce run. -/
theorem SameSensing.occupancyResponse (h : SameSensing s ev.st) (b : BayIx) :
    SameSensing s (ev.occupancyResponse b).st := by
  unfold Ev.occupancyResponse; dsimp only
  split
  case h_2 =>
    split
    · split
      · exact (h.setState b _).note b _
      · exact (((h.touch b).capture b _).rederive b).note b _
    · exact h
  case h_7 | h_8 | h_9 | h_10 => exact (h.endActive b _).note b _
  case h_11 => exact h
  all_goals exact (h.setState b _).note b _

/-- A bay whose occupancy is set has that occupancy, and its debounce run as it was (R14). -/
theorem Ev.setOccupancy_sensing (ev : Ev) (b : BayIx) (o : Occupancy) :
    ((ev.setOccupancy b o).bay b).dyn.sensing = (o, (ev.bay b).dyn.candidate, (ev.bay b).dyn.debounce) := by
  unfold Ev.setOccupancy; split
  · next same => simp [BayDyn.sensing, same]
  · have kept := (SameSensing.refl ((ev.touch b).modDyn b (fun d => { d with occupancy := o })).st).occupancyResponse b
    have set : (((ev.touch b).modDyn b (fun d => { d with occupancy := o })).bay b).dyn
        = { (ev.bay b).dyn with occupancy := o } := by
      simp [Ev.modDyn, Ev.onState, Ev.bay]
    exact (kept b).trans (congrArg BayDyn.sensing set)

/-! ## One bay of an event, and an error logged -/

theorem Ev.dyn_modDyn (ev : Ev) (b : BayIx) (f : BayDyn → BayDyn) :
    ((ev.modDyn b f).bay b).dyn = f (ev.bay b).dyn := ev.st.dyn_modDyn_same b f

theorem Ev.recorder_modDyn (ev : Ev) (b : BayIx) (f : BayDyn → BayDyn) :
    (ev.modDyn b f).st.recorder = ev.st.recorder := rfl

theorem Ev.dyn_log (ev : Ev) (e : ErrorReport) (b : BayIx) : ((ev.log e).bay b).dyn = (ev.bay b).dyn :=
  (ev.log_talks e).sameRecords.dyn b

theorem State.buildNotice_kind {s : State} {dest : Addr} {kind : Byte} {p : List Byte} {f : Frame}
    (h : (s.buildNotice dest kind p).2 = some f) : f.kind = kind := by
  unfold State.buildNotice at h; split at h
  · cases h
  · cases h; rfl

/-- The frame an error builds is a FAULT-NOTICE (R162). -/
theorem State.recordError_kind {s : State} {e : ErrorReport} {f : Frame} (h : (s.recordError e).2 = some f) :
    f.kind = Kind.faultNotice := by
  unfold State.recordError at h; dsimp only at h
  repeat' split at h
  · cases h
  · exact State.buildNotice_kind h
  · cases h

/-- A FAULT-NOTICE leaves the recorder, also at a full FIFO (R104). -/
theorem State.placeUplink_faultNotice (s : State) {f : Frame} (h : f.kind = Kind.faultNotice) :
    (s.placeUplink f).recorder = s.recorder := by
  simp only [State.placeUplink, h, if_true]; split <;> rfl

theorem Ev.place_faultNotice (ev : Ev) {f : Frame} (h : f.kind = Kind.faultNotice) :
    (ev.place f).st.recorder = ev.st.recorder := by
  unfold Ev.place; split
  · rfl
  · exact ev.st.placeUplink_faultNotice h

theorem State.logError_recorder (s : State) (e : ErrorReport) :
    (s.logError e).recorder = (s.recordError e).1.recorder := by
  unfold State.logError; split
  · next f h => exact State.placeUplink_faultNotice _ (State.recordError_kind h)
  · rfl

/-- An error leaves the same recorder whether or not its FAULT-NOTICE waits behind an answer. -/
theorem Ev.log_recorder (ev : Ev) (e : ErrorReport) : (ev.log e).st.recorder = (ev.st.logError e).recorder := by
  rw [State.logError_recorder, Ev.log]
  cases h : (ev.st.recordError e).2 with
  | none => rfl
  | some f => exact Ev.place_faultNotice _ (State.recordError_kind h)

theorem State.buildNotice_recorder (s : State) (dest : Addr) (kind : Byte) (p : List Byte) :
    (s.buildNotice dest kind p).1.recorder = s.recorder := by
  rcases s.buildNotice_fst dest kind p with h | h <;> rw [h]

/-- What an error makes of the recorder does not depend on the bay records (R161, R165). -/
theorem State.logError_modDyn_recorder (s : State) (b : BayIx) (f : BayDyn → BayDyn) (e : ErrorReport) :
    ((s.modDyn b f).logError e).recorder = (s.logError e).recorder := by
  simp only [State.logError_recorder, State.recordError, State.modDyn_leaves]
  split
  · rfl
  · split <;> simp only [State.buildNotice_recorder]

/-! ## A sensor's report -/

/-- The count a report of `x` brings a run to (R10). -/
theorem BayDyn.advance_eq (d : BayDyn) (x : Sensed) :
    d.advance x = { d with
      candidate := some x, debounce := if d.candidate = some x then min 7 (d.debounce + 1) else 1 } := by
  unfold BayDyn.advance; split
  · next same => rw [← same]
  · rfl

/-- A report that ends the run and gives the occupancy (R10). -/
theorem Ev.accept_sensing (ev : Ev) (b : BayIx) (o : Occupancy) :
    (((ev.modDyn b BayDyn.endRun).setOccupancy b o).bay b).dyn.sensing = (o, none, 0) := by
  rw [Ev.setOccupancy_sensing, Ev.dyn_modDyn]; rfl

theorem BayDyn.sensing_eq {d : BayDyn} {o : Occupancy} {c : Option Sensed} {n : Nat} :
    d.sensing = (o, c, n) ↔ d.occupancy = o ∧ d.candidate = c ∧ d.debounce = n := by
  simp [BayDyn.sensing]

section Unplugged

variable {b : BayIx} (plug : ev.st.plugEvidence b = false) (x : Sensed)
include plug

/-- What a report without plug evidence does, by what the bay's occupancy is (R10). -/
theorem Ev.sensorReport_unplugged :
    ev.sensorReport b x =
      if (ev.bay b).dyn.occupancy = .unknown then (ev.modDyn b BayDyn.endRun).setOccupancy b x.occupancy
      else if (ev.bay b).dyn.occupancy = x.occupancy then ev.modDyn b BayDyn.endRun
      else if ev.st.timing.debounce ≤ ((ev.bay b).dyn.advance x).debounce then
        (ev.modDyn b BayDyn.endRun).setOccupancy b x.occupancy
      else ev.modDyn b (·.advance x) := by
  unfold Ev.sensorReport; rw [plug]; rfl

theorem Ev.sensorReport_unknown (unknown : (ev.bay b).dyn.occupancy = .unknown) :
    ((ev.sensorReport b x).bay b).dyn.sensing = (x.occupancy, none, 0) := by
  rw [Ev.sensorReport_unplugged plug, if_pos unknown, Ev.accept_sensing]

theorem Ev.sensorReport_agrees (same : (ev.bay b).dyn.occupancy = x.occupancy) :
    ((ev.sensorReport b x).bay b).dyn.sensing = (x.occupancy, none, 0) := by
  have known : (ev.bay b).dyn.occupancy ≠ .unknown := by rw [same]; cases x <;> decide
  rw [Ev.sensorReport_unplugged plug, if_neg known, if_pos same, Ev.dyn_modDyn, ← same]; rfl

variable (known : (ev.bay b).dyn.occupancy ≠ .unknown) (differs : (ev.bay b).dyn.occupancy ≠ x.occupancy)
include known differs

theorem Ev.sensorReport_accepted (full : ev.st.timing.debounce ≤ ((ev.bay b).dyn.advance x).debounce) :
    ((ev.sensorReport b x).bay b).dyn.sensing = (x.occupancy, none, 0) := by
  rw [Ev.sensorReport_unplugged plug, if_neg known, if_neg differs, if_pos full, Ev.accept_sensing]

theorem Ev.sensorReport_counted (below : ((ev.bay b).dyn.advance x).debounce < ev.st.timing.debounce) :
    ((ev.sensorReport b x).bay b).dyn = (ev.bay b).dyn.advance x := by
  rw [Ev.sensorReport_unplugged plug, if_neg known, if_neg differs, if_neg (Nat.not_le.2 below), Ev.dyn_modDyn]

end Unplugged

/-- The count of a run of VACANT, 0 where there is none. -/
def BayDyn.vacantRun (d : BayDyn) : Nat := if d.candidate = some .vacant then d.debounce else 0

theorem BayDyn.advance_vacant (d : BayDyn) :
    d.advance .vacant = { d with candidate := some .vacant, debounce := min 7 (d.vacantRun + 1) } := by
  rw [BayDyn.advance_eq, BayDyn.vacantRun]; split <;> rfl

section Plugged

variable {b : BayIx} (plug : ev.st.plugEvidence b = true)
include plug

/-- Under plug evidence an OCCUPIED report ends the run (R12). -/
theorem Ev.sensorReport_occupied_plugged : ev.sensorReport b .occupied = ev.modDyn b BayDyn.endRun := by
  unfold Ev.sensorReport; rw [plug]; rfl

/-- Under plug evidence a VACANT report advances the run, and logs SENSOR-DISAGREE as it reaches D (R12). -/
theorem Ev.sensorReport_vacant_plugged :
    ev.sensorReport b .vacant =
      if (ev.bay b).dyn.vacantRun < ev.st.timing.debounce
          ∧ ev.st.timing.debounce ≤ ((ev.bay b).dyn.advance .vacant).debounce then
        (ev.modDyn b (·.advance .vacant)).log { kind := .sensorDisagree, bay := some b }
      else ev.modDyn b (·.advance .vacant) := by
  unfold Ev.sensorReport; rw [plug]; rfl

theorem Ev.sensorReport_vacant_dyn : ((ev.sensorReport b .vacant).bay b).dyn = (ev.bay b).dyn.advance .vacant := by
  rw [Ev.sensorReport_vacant_plugged plug]; split
  · rw [Ev.dyn_log, Ev.dyn_modDyn]
  · rw [Ev.dyn_modDyn]

theorem Ev.sensorReport_vacant_recorder :
    (ev.sensorReport b .vacant).st.recorder =
      if (ev.bay b).dyn.vacantRun < ev.st.timing.debounce
          ∧ ev.st.timing.debounce ≤ min 7 ((ev.bay b).dyn.vacantRun + 1) then
        (ev.st.logError { kind := .sensorDisagree, bay := some b }).recorder
      else ev.st.recorder := by
  rw [Ev.sensorReport_vacant_plugged plug, BayDyn.advance_vacant]; split
  · rw [Ev.log_recorder]; exact ev.st.logError_modDyn_recorder b _ _
  · rw [Ev.recorder_modDyn]

end Plugged

/-! ## A write of the debounce setting -/

theorem State.linkLossTests_sameRecords (s : State) : SameRecords s s.linkLossTests := by
  refine State.foldl_sameRecords (fun s b => ?_) allBays s
  unfold State.linkLossTest; dsimp only; split
  · exact s.modDelivery_sameRecords b _
  · exact .refl s

/-- A write of the Timing Settings ends every bay's run (R10, R67). -/
theorem State.writeTiming_dyn (s : State) (t : TimingSettings) (b : BayIx) :
    ((s.writeTiming t).bay b).dyn = (s.bay b).dyn.endRun := by
  unfold State.writeTiming; dsimp only
  rw [(State.linkLossTests_sameRecords _).dyn b]
  simp [State.bay, State.retime]

/-! ## The statement -/

/-- Settles O23: the four cases of R10 without plug evidence, the two reports under it (R12), and the write of D. -/
theorem sensorDebounce : Obligations.SensorDebounce := by
  unfold Obligations.SensorDebounce
  refine ⟨fun ev b x plug => ?_, fun ev b plug => ?_, fun s t b => s.writeTiming_dyn t b⟩
  · have counted := BayDyn.advance_eq (ev.bay b).dyn x
    have count := congrArg BayDyn.debounce counted
    refine ⟨fun unknown => ?_, fun same => ?_, fun known differs full => ?_, fun known differs below => ?_⟩
    · exact BayDyn.sensing_eq.1 (Ev.sensorReport_unknown plug x unknown)
    · rw [same]; exact BayDyn.sensing_eq.1 (Ev.sensorReport_agrees plug x same)
    · exact BayDyn.sensing_eq.1 (Ev.sensorReport_accepted plug x known differs (count ▸ full))
    · exact (Ev.sensorReport_counted plug x known differs (count ▸ below)).trans counted
  · have counted := BayDyn.advance_vacant (ev.bay b).dyn
    refine ⟨?_, ?_, (Ev.sensorReport_vacant_dyn plug).trans counted, ?_⟩
    · rw [Ev.sensorReport_occupied_plugged plug, Ev.dyn_modDyn]; rfl
    · rw [Ev.sensorReport_occupied_plugged plug, Ev.recorder_modDyn]
    · exact Ev.sensorReport_vacant_recorder plug

end Sys2Proof.Machine
end

section
/-!
SUPPORT. The checks of a HOLD: where each of them refuses, the bytes of a refusal, and the event of a HOLD that is
refused. With it the settlement of the statement about those checks (R30).
-/
namespace Sys2Proof.Machine

/-! ## What each check answers -/

theorem BayClass.ofNat?_eq_none {n : Nat} (h : 3 < n) : BayClass.ofNat? n = none := by
  match n, h with
  | _ + 4, _ => rfl

theorem BayClass.exists_ofNat?_eq_some {n : Nat} (h : n ≤ 3) : ∃ c, BayClass.ofNat? n = some c := by
  match n, h with
  | 0, _ | 1, _ | 2, _ | 3, _ => exact ⟨_, rfl⟩

section Checks

variable {s : State} {r : Request}

theorem State.checkHold_notPermitted (h : (s.node r.src).permissions.hold = false) :
    s.checkHold r = .error (refusal .notPermitted) := by
  simp [State.checkHold, h]

variable (permitted : (s.node r.src).permissions.hold = true)
include permitted

theorem State.checkHold_badTicket (h : ticketField r.payload 0 = 0) :
    s.checkHold r = .error (refusal .badTicket) := by
  simp [State.checkHold, permitted, h]

variable (ticket : ticketField r.payload 0 ≠ 0)
include ticket

theorem State.checkHold_duplicate {e : IndexEntry} (h : s.lookup (ticketField r.payload 0) = some e) :
    s.checkHold r
      = .error { refusal .duplicate with bay := e.location.codes.1, slot := e.location.codes.2 } := by
  simp only [State.checkHold, permitted, ticket, h, Bool.not_true, Bool.false_eq_true, if_false]

variable (new : s.lookup (ticketField r.payload 0) = none)
include new

theorem State.checkHold_badClass (h : 3 < byteAt r.payload 4) : s.checkHold r = .error (refusal .badClass) := by
  simp only [State.checkHold, permitted, ticket, new, BayClass.ofNat?_eq_none h, Bool.not_true, Bool.false_eq_true,
    if_false]

theorem State.checkHold_tooFar (cls : byteAt r.payload 4 ≤ 3) (h : 120 < byteAt r.payload 6) :
    s.checkHold r = .error (refusal .tooFar) := by
  obtain ⟨c, hc⟩ := BayClass.exists_ofNat?_eq_some cls
  simp only [State.checkHold, permitted, ticket, new, hc, h, Bool.not_true, Bool.false_eq_true, if_false, if_true]

end Checks

/-! ## The event of a refused HOLD -/

/-- The bytes of a refusal: no position and no window (R28, Table 11-2). -/
theorem answerPayload_refusal (k : Byte) (t : Ticket) (why : Reason) (bay slot : Nat) :
    answerPayload k t { refusal why with bay := bay, slot := slot }
      = [k] ++ be32w t ++ [2, byteOf why.code, byteOf bay, byteOf slot, 0] ++ List.replicate 12 0 := by
  simp [answerPayload, refusal, be32, byteOf, List.replicate]

theorem exec_hold (s : State) : exec .hold s = execHold s := rfl

/-- A HOLD that fails a check leaves the queue and is answered, and its event owes nothing else (R27, R30). -/
theorem execHold_refused {s : State} {r : Request} {q : List Request} {a : AnswerBody} (running : s.heldInReset = false)
    (head : s.requests = r :: q) (kind : r.kind = Kind.hold) (fails : s.checkHold r = .error a) :
    execHold s = .next ({ s with requests := q }.sendAnswer r Kind.answer
      (answerPayload r.kind (ticketField r.payload 0) a)).deliverDue.arbitrate := by
  have checked : ({ s with requests := q } : State).checkHold r = .error a := fails
  have body : Ev.holdRequest r (Ev.startRequest { s with requests := q })
      = (Ev.startRequest { s with requests := q }).reply r (ticketField r.payload 0) a := by
    simp only [Ev.holdRequest, Ev.startRequest, checked]
  rw [execHold, s.takeRequest_runs Kind.hold _ running head kind, body]
  exact congrArg _ (Ev.finish_answer _ r _ _ rfl rfl rfl rfl)

/-! ## The statement -/

/-- Settles O38: each clause is one failed check, and the event of a refused HOLD answers it. -/
theorem holdChecks : Obligations.HoldChecks := by
  unfold Obligations.HoldChecks
  intro s r q running head kind t permitted cls offset refused
  have refuses : ∀ (why : Reason) (bay slot : Nat),
      s.checkHold r = .error { refusal why with bay := bay, slot := slot } →
        exec .hold s = refused why.code bay slot := by
    intro why bay slot fails
    rw [exec_hold, execHold_refused running head kind fails, answerPayload_refusal]
  refine ⟨fun forbidden => ?_, fun allowed zero => ?_, fun e allowed ticket known => ?_,
    fun allowed ticket new high => ?_, fun allowed ticket new low far => ?_⟩
  · exact refuses .notPermitted 0 0 (State.checkHold_notPermitted forbidden)
  · exact refuses .badTicket 0 0 (State.checkHold_badTicket allowed zero)
  · have duplicate := State.checkHold_duplicate allowed ticket known
    obtain ⟨_, _, b | b | _⟩ := e
    · exact refuses .duplicate (b.val + 1) 1 duplicate
    · exact refuses .duplicate (b.val + 1) 2 duplicate
    · exact refuses .duplicate 0 3 duplicate
  · exact refuses .badClass 0 0 (State.checkHold_badClass allowed ticket new high)
  · exact refuses .tooFar 0 0 (State.checkHold_tooFar allowed ticket new low far)

end Sys2Proof.Machine
end

section
/-!
SUPPORT. CLEAR-LOG (R164): the operation it names, what clearing a severity's logs leaves, and the event that clears
them or refuses a severity above 2. With it the settlement of the statement about CLEAR-LOG.
-/
namespace Sys2Proof.Machine

/-! ## A severity's logs cleared -/

/-- Clearing a log re-evaluates ALERT, so it is right even where it was not before (R163, R164). -/
theorem State.clearLog_alertRight (s : State) (sev : Fin 3) : (s.clearLog sev).AlertRight :=
  Recorder.alertLevel_iff _

theorem State.clearLog_still (s : State) (sev : Fin 3) : (s.clearLog sev).still = s.still := by
  simp [State.still]

/-! ## The event of a CLEAR-LOG -/

/-- What a CLEAR-LOG long enough for its severity does (R164). -/
def Ev.clearLogRequest (r : Request) (ev : Ev) : Ev :=
  if h : byteAt r.payload 1 < 3 then (ev.onState (·.clearLog ⟨byteAt r.payload 1, h⟩)).status r .ok
  else ev.status r .badIndex

theorem exec_clearLog (s : State) : exec .clearLog s = s.takeControl 9 2 Ev.clearLogRequest := rfl

theorem Ev.clearLogRequest_severity (ev : Ev) {r : Request} (v : Fin 3) (h : byteAt r.payload 1 = v.val) :
    ev.clearLogRequest r = (ev.onState (·.clearLog v)).status r .ok := by
  simp only [Ev.clearLogRequest, h, v.isLt, dite_true]

theorem Ev.clearLogRequest_badIndex (ev : Ev) {r : Request} (h : 2 < byteAt r.payload 1) :
    ev.clearLogRequest r = ev.status r .badIndex :=
  dif_neg (Nat.not_lt.2 h)

/-- The byte of a severity names it. -/
theorem byteAt_severity {p : List Byte} {code : Byte} (v : Fin 3) (h : p = [code, byteOf v.val]) :
    byteAt p 1 = v.val := by
  have small : v.val % 256 = v.val := Nat.mod_eq_of_lt (by omega)
  simp [h, byteAt, byteOf, small]

/-! ## The statement -/

/-- Settles O52: the command runs its request on the rest of the queue, which clears a severity 0 to 2 and refuses any
other. -/
theorem clearLog : Obligations.ClearLog := by
  unfold Obligations.ClearLog
  intro s r q running head kind s'
  have runs : ∀ x : Byte, r.payload = [9, x] →
      exec .clearLog s = .next ((Ev.startRequest s').clearLogRequest r).finish := by
    intro x payload
    rw [exec_clearLog]
    exact s.takeControl_runs _ running head kind (by rw [payload]; rfl) (by simp [payload]) (by simp [payload])
  refine ⟨fun v payload => ⟨?_, ?_, ?_, s'.clearLog_alertRight v, s'.clearLog_still v⟩, fun x payload high => ?_⟩
  · rw [runs _ payload, Ev.clearLogRequest_severity _ v (byteAt_severity v payload), Ev.finish_status_onState]
  · simp [s', SeverityLog.cleared]
  · simp [s']
  · have outside : 2 < byteAt r.payload 1 := by rw [payload]; exact high
    rw [runs x payload, Ev.clearLogRequest_badIndex _ outside, Ev.finish_status]

end Sys2Proof.Machine
end

section
/-!
SUPPORT. What every command keeps. `Kept` says it of a change of the state, `Holds` of an event in progress, where a
recompute that is owed stands for the sum of the targets and, once the Charge Queue is empty, for the targets of a
suspended part. With it the settlement of the statements about what every step keeps and of the completion of every
command.
-/
namespace Sys2Proof.Machine

/-! ## Changes of the state -/

/-- The Charge Queue of a suspended part is empty, and the allocator's copy of the flag is true to it (R78). -/
def State.QueueHolds (s : State) : Prop :=
  s.allocator.suspendedCopy = s.suspension.suspended ∧ (s.suspension.suspended = true → s.allocator.queue = [])

theorem State.SuspensionHolds.queueHolds {s : State} (h : s.SuspensionHolds) : s.QueueHolds :=
  ⟨h.1, fun v => (h.2 v).1⟩

/-- From `s` to `t` the waiting commands stand, and every invariant is kept. -/
structure Kept (s t : State) : Prop where
  pending : t.pending = s.pending
  bounded : s.Bounded → t.Bounded
  ordered : s.WaitOrdered → t.WaitOrdered
  alert : s.AlertRight → t.AlertRight
  budget : s.WithinBudget → t.WithinBudget
  queue : s.QueueHolds → t.QueueHolds
  suspension : s.SuspensionHolds → t.SuspensionHolds

theorem Kept.refl (s : State) : Kept s s := ⟨rfl, id, id, id, id, id, id⟩

theorem Kept.trans {s t u : State} (h : Kept s t) (h' : Kept t u) : Kept s u where
  pending := h'.pending.trans h.pending
  bounded := h'.bounded ∘ h.bounded
  ordered := h'.ordered ∘ h.ordered
  alert := h'.alert ∘ h.alert
  budget := h'.budget ∘ h.budget
  queue := h'.queue ∘ h.queue
  suspension := h'.suspension ∘ h.suspension

theorem Prim.queueHolds (h : Prim s t) (hs : s.QueueHolds) : t.QueueHolds := by
  cases h with
  | queue q h => exact ⟨hs.1, fun v => h (hs.1.trans v) (hs.2 v)⟩
  | record e => obtain ⟨r, tag, h, _⟩ := s.recordError_fst e; rw [h]; exact hs
  | _ => exact hs

theorem Moves.queueHolds (h : Moves ev ev') (hs : ev.st.QueueHolds) : ev'.st.QueueHolds :=
  h.keeps (fun p => p.queueHolds) (fun _ _ hs => hs) (fun _ _ hs => hs) hs

theorem Moves.kept (h : Moves ev ev') : Kept ev.st ev'.st where
  pending := congrArg Still.pending h.still
  bounded := h.bounded
  ordered := h.waitOrdered
  alert := h.alertRight
  budget := h.withinBudget
  queue := h.queueHolds
  suspension := h.suspensionHolds

theorem Prims.kept (h : Prims s t) : Kept s t := by
  have := (Moves.prims (.refl (ev₀ := Ev.start s)) h).kept
  exact this

/-- A change that leaves the Charge Queue, the targets, the settings of the allocator and the recorder alone, adds no
entry to a list or queue and keeps the order of the Waitlist. -/
theorem Kept.of_same {s t : State} (pending : t.pending = s.pending := by rfl)
    (fifo : t.uplink.fifo.length ≤ s.uplink.fifo.length := by exact Nat.le_refl _)
    (forward : t.downlink.forward.length ≤ s.downlink.forward.length := by exact Nat.le_refl _)
    (requests : t.requests.length ≤ s.requests.length := by exact Nat.le_refl _)
    (management : t.management.length ≤ s.management.length := by exact Nat.le_refl _)
    (waitlist : t.waitlist.map (·.hold.priority) = s.waitlist.map (·.hold.priority) := by rfl)
    (early : t.early.length ≤ s.early.length := by exact Nat.le_refl _)
    (recorder : t.recorder = s.recorder := by rfl) (allocator : t.allocator = s.allocator := by rfl)
    (suspended : t.suspension.suspended = s.suspension.suspended := by rfl)
    (target : ∀ b, (t.bay b).alloc.target = (s.bay b).alloc.target := by exact fun _ => rfl) : Kept s t where
  pending := pending
  bounded h :=
    { fifo := fifo.trans h.fifo, forward := forward.trans h.forward, requests := requests.trans h.requests
      management := management.trans h.management, early := early.trans h.early
      waitlist := by
        have same := congrArg List.length waitlist
        simp only [List.length_map] at same
        exact same.le.trans h.waitlist
      lost := recorder ▸ h.lost, counts := recorder ▸ h.counts }
  ordered h := by
    have descending (l : List WaitEntry) : l.Pairwise (fun a b => b.hold.priority ≤ a.hold.priority)
        ↔ (l.map (·.hold.priority)).Pairwise (fun a b => b ≤ a) := by rw [List.pairwise_map]
    rw [State.WaitOrdered, descending, waitlist, ← descending]
    exact h
  alert h := by rw [State.AlertRight, recorder]; exact h
  budget h := by simpa only [State.WithinBudget, State.targetSum, allocator, target] using h
  queue h := by rw [State.QueueHolds, allocator, suspended]; exact h
  suspension h := by simpa only [State.SuspensionHolds, allocator, suspended, target] using h

/-! ## Events in progress -/

/-- What an event in progress holds, that it began on the state `s`: each invariant that `s` met is met, or is met once
the recompute that is owed has been made (R85). -/
structure Holds (s : State) (ev : Ev) : Prop where
  pending : ev.st.pending = s.pending
  bounded : s.Bounded → ev.st.Bounded
  ordered : s.WaitOrdered → ev.st.WaitOrdered
  alert : s.AlertRight → ev.st.AlertRight
  budget : s.WithinBudget → ev.st.WithinBudget ∨ ev.recompute = true
  suspension : s.SuspensionHolds → ev.st.QueueHolds ∧ (ev.st.SuspensionHolds ∨ ev.recompute = true)

theorem Kept.holds (h : Kept s ev.st) : Holds s ev where
  pending := h.pending
  bounded := h.bounded
  ordered := h.ordered
  alert := h.alert
  budget hs := .inl (h.budget hs)
  suspension hs := ⟨h.queue hs.queueHolds, .inl (h.suspension hs)⟩

/-- A change of the state that keeps the invariants, and leaves what is owed. -/
theorem Holds.kept (h : Holds s ev) {ev' : Ev} (k : Kept ev.st ev'.st)
    (owed : ev.recompute = true → ev'.recompute = true) : Holds s ev' where
  pending := k.pending.trans h.pending
  bounded hs := k.bounded (h.bounded hs)
  ordered hs := k.ordered (h.ordered hs)
  alert hs := k.alert (h.alert hs)
  budget hs := (h.budget hs).imp k.budget owed
  suspension hs := ⟨k.queue (h.suspension hs).1, (h.suspension hs).2.imp k.suspension owed⟩

theorem Holds.onState (h : Holds s ev) {f : State → State} (k : Kept ev.st (f ev.st)) : Holds s (ev.onState f) :=
  h.kept k id

theorem Holds.moves (h : Holds s ev) {ev' : Ev} (m : Moves ev ev') : Holds s ev' := h.kept m.kept m.recompute

theorem Holds.answer (h : Holds s ev) (f : Option Frame) : Holds s (ev.answer f) :=
  h.kept (Moves.kept (ev := { ev with buffering := false, buffer := [] }) (ev.answer_moves f))
    (fun owed => by rw [(ev.answer_leaves f).2.2.1]; exact owed)

theorem Holds.log (h : Holds s ev) (e : ErrorReport) : Holds s (ev.log e) := h.moves (Moves.refl.log e)

theorem Holds.buffer (h : Holds s ev) : Holds s { ev with buffering := true } := h.kept (.refl _) id

theorem Holds.foldl {f : Ev → α → Ev} (hf : ∀ {ev} x, Holds s ev → Holds s (f ev x)) (l : List α) (h : Holds s ev) :
    Holds s (l.foldl f ev) := by
  induction l generalizing ev with
  | nil => exact h
  | cons x l ih => exact ih (hf x h)

/-! ## The recompute of a suspended part -/

/-- The targets of an empty Charge Queue are 0 (R90). -/
theorem State.retarget_suspensionHolds {s : State} (h : s.QueueHolds) : s.retarget.SuspensionHolds := by
  have q := Prims.kept (Prims.retarget (.refl (s₀ := s)))
  refine ⟨(q.queue h).1, fun v => ⟨(q.queue h).2 v, fun b => ?_⟩⟩
  have same : s.retarget.suspension = s.suspension :=
    congrArg Still.suspension (Moves.prims (.refl (ev₀ := Ev.start s)) (Prims.retarget .refl)).still
  rw [State.retarget_eq, State.targets_of_empty (h.2 (same ▸ v))]
  simp only [State.handOver, State.bay, Table.get_map, retargeted_get, BayAlloc.retarget_target]
  rfl

theorem Ev.recomputeFuel_suspensionHolds (n : Nat) (ev : Ev) (h : ev.st.QueueHolds) :
    (Ev.recomputeFuel (n + 1) ev).st.SuspensionHolds := by
  have first : (ev.compareQueue.onState State.retarget).st.SuspensionHolds :=
    State.retarget_suspensionHolds (Moves.refl.compareQueue.queueHolds h)
  rw [Ev.recomputeFuel]
  split
  · exact first
  · next e he =>
    have rotated := Moves.prims (.refl (ev₀ := ev.compareQueue.onState State.retarget))
      (Prims.rotate .refl e (State.rotationChoice_queue he))
    exact (Moves.recomputeFuel n rotated).suspensionHolds first

/-- An event that owes a recompute ends with the targets of a suspended part at 0 (R90, R149). -/
theorem Ev.finish_suspended (ev : Ev) (owed : ev.recompute = true) (h : ev.st.QueueHolds) :
    ev.finish.SuspensionHolds := by
  have scanned : Moves ev ev.flushNotes.runScan := Moves.refl.flushNotes.runScan
  have recomputed : ev.flushNotes.runScan.runRecompute.st.SuspensionHolds := by
    have made := Ev.recomputeFuel_suspensionHolds 129 _ (scanned.queueHolds h)
    unfold Ev.runRecompute; rw [if_pos (scanned.recompute owed)]
    generalize Ev.recomputeFuel (129 + 1) ev.flushNotes.runScan = e at made
    exact made
  have flushed := (Moves.refl (ev₀ := ev.flushNotes.runScan.runRecompute)).flushNotes
  exact ((Moves.deliverDue flushed).prims (Prims.arbitrate _)).suspensionHolds recomputed

/-- What a command that is run to its end keeps. -/
structure Safe (s t : State) : Prop where
  pending : t.pending = s.pending
  bounded : s.Bounded → t.Bounded
  ordered : s.WaitOrdered → t.WaitOrdered
  alert : s.AlertRight → t.AlertRight
  budget : s.WithinBudget → t.WithinBudget
  suspension : s.SuspensionHolds → t.SuspensionHolds

theorem Kept.safe (h : Kept s t) : Safe s t := ⟨h.pending, h.bounded, h.ordered, h.alert, h.budget, h.suspension⟩

theorem Holds.finish (h : Holds s ev) : Safe s ev.finish where
  pending := (congrArg Still.pending ev.finish_still).trans h.pending
  bounded hs := ev.finish_bounded (h.bounded hs)
  ordered hs := ev.finish_waitOrdered (h.ordered hs)
  alert hs := ev.finish_alertRight (h.alert hs)
  budget hs := (h.budget hs).elim ev.finish_withinBudget ev.finish_recomputed
  suspension hs := (h.suspension hs).2.elim ev.finish_suspensionHolds
    (fun owed => ev.finish_suspended owed (h.suspension hs).1)


/-- The result of a command: a next state, which keeps what `Safe` says. -/
def Runs (s : State) (r : Result) : Prop := ∃ t, r = .next t ∧ Safe s t

theorem Runs.same (s : State) : Runs s (.next s) := ⟨s, rfl, (Kept.refl s).safe⟩

theorem Runs.event (s : State) (c : Bool) {body : Ev → Ev} (h : c = true → Holds s (body (Ev.start s))) :
    Runs s (s.event c body) := by
  refine ⟨_, rfl, ?_⟩
  split
  · exact (Kept.refl s).safe
  · next runs =>
    simp only [Bool.or_eq_true, Bool.not_eq_true', not_or, Bool.not_eq_false] at runs
    exact (h runs.2).finish

/-- A request that is taken from its queue (R27). -/
theorem Runs.takeRequest (s : State) (k : Byte) {body : Request → Ev → Ev}
    (h : ∀ {ev} r, Holds s ev → Holds s (body r ev)) : Runs s (s.takeRequest k body) := by
  unfold State.takeRequest
  split
  · exact .same s
  · next r q head =>
    refine ⟨_, rfl, ?_⟩
    split
    · exact (Kept.refl s).safe
    · have taken : Kept s { s with requests := q } := .of_same (requests := by simp [head])
      exact (h r (Kept.holds (ev := Ev.startRequest { s with requests := q }) taken)).finish

/-- A request that is taken from the management queue (R172). -/
theorem Runs.takeManagement (s : State) (mine : Request → Bool) {body : Request → Ev → Ev}
    (h : ∀ {ev} r, Holds s ev → Holds s (body r ev)) : Runs s (s.takeManagement mine body) := by
  unfold State.takeManagement
  split
  · exact .same s
  · next r q head =>
    refine ⟨_, rfl, ?_⟩
    split
    · exact (Kept.refl s).safe
    · have taken : Kept s { s with management := q } := .of_same (management := by simp [head])
      exact (h r (Kept.holds (ev := Ev.startRequest { s with management := q }) taken)).finish

theorem Holds.status (h : Holds s ev) (r : Request) (x : Status) : Holds s (ev.status r x) := h.answer _

theorem Holds.stored (h : Holds s ev) (r : Request) (c : Bool) : Holds s (ev.stored r c) := h.answer _

theorem Runs.takeControl (s : State) (code length : Nat) {body : Request → Ev → Ev}
    (h : ∀ {ev} r, Holds s ev → Holds s (body r ev)) : Runs s (s.takeControl code length body) :=
  .takeManagement s _ fun r hev => by
    split
    · exact hev.status r _
    · exact h r hev

theorem Runs.takeBayControl (s : State) (code length : Nat) {body : BayIx → Request → Ev → Ev}
    (h : ∀ {ev} b r, Holds s ev → Holds s (body b r ev)) : Runs s (s.takeBayControl code length body) :=
  .takeControl s code length fun r hev => by
    split
    · exact hev.status r _
    · exact h _ r hev

theorem Runs.takeExpiry (s : State) (x : Expiry) {body : Ev → Ev} (h : ∀ {ev}, Holds s ev → Holds s (body ev)) :
    Runs s (s.takeExpiry x body) :=
  .event s _ fun _ => h (Kept.holds (Prims.kept (Prims.step .refl (.expiries s _))))

/-! ## Suspension and the resets -/

theorem Ev.wantRecompute_st (ev : Ev) : ev.wantRecompute.st = ev.st := rfl

theorem Ev.wantRecompute_owes (ev : Ev) : ev.wantRecompute.recompute = true := rfl

theorem Holds.wantRecompute (h : Holds s ev) : Holds s ev.wantRecompute := h.moves Moves.refl.wantRecompute

/-- Bringing a bay into line in a suspended part takes it out of the Charge Queue (R78, R81). -/
theorem Ev.syncQueue_suspended (ev : Ev) (b : BayIx) (h : ev.st.allocator.suspendedCopy = true) :
    (ev.syncQueue b).st.allocator.suspendedCopy = true
      ∧ (ev.syncQueue b).st.allocator.queue = ev.st.allocator.queue.filter (·.bay != b) := by
  have ineligible : ev.st.eligible b = false := by simp [State.eligible, h]
  unfold Ev.syncQueue
  rw [ineligible, if_neg Bool.false_ne_true]
  split
  · exact ⟨h, rfl⟩
  · next absent =>
    refine ⟨h, (List.filter_eq_self.2 fun e he => ?_).symm⟩
    simp only [State.inQueue, List.any_eq_true, not_exists, not_and, beq_iff_eq] at absent
    simpa using absent e he

/-- Every bay brought into line, the Charge Queue of a suspended part is empty (R149 step 2). -/
theorem Ev.syncAll_suspended (ev : Ev) (h : ev.st.allocator.suspendedCopy = true) :
    ev.syncAll.st.allocator.queue = [] := by
  have leaves : ∀ (l : List BayIx) (ev : Ev), ev.st.allocator.suspendedCopy = true →
      (l.foldl Ev.syncQueue ev).st.allocator.queue = ev.st.allocator.queue.filter (fun e => !l.contains e.bay) := by
    intro l
    induction l with
    | nil => intro ev _; exact (List.filter_eq_self.2 fun _ _ => rfl).symm
    | cons b l ih =>
      intro ev h
      obtain ⟨kept, queue⟩ := ev.syncQueue_suspended b h
      rw [List.foldl_cons, ih _ kept, queue, List.filter_filter]
      refine List.filter_congr fun e _ => ?_
      by_cases same : e.bay = b <;> simp [same]
  rw [Ev.syncAll, leaves _ _ h, List.filter_eq_nil_iff]
  exact fun e _ => by simp [allBays]

theorem Holds.logEmergency (h : Holds s ev) (x : Option Header) : Holds s (ev.logEmergency x) := h.log _

/-- The enables saved and the flag set, bringing every bay into line leaves no Charge Queue (R149). -/
theorem Holds.suspend (h : Holds s ev) : Holds s ((ev.onState (·.setSuspended true)).syncAll.wantRecompute) := by
  have synced := (Moves.refl (ev₀ := ev.onState (·.setSuspended true))).syncAll.wantRecompute
  have empty : (ev.onState (·.setSuspended true)).syncAll.wantRecompute.st.allocator.queue = [] := by
    rw [Ev.wantRecompute_st]; exact Ev.syncAll_suspended (ev.onState (·.setSuspended true)) rfl
  have owed := Ev.wantRecompute_owes (ev.onState (·.setSuspended true)).syncAll
  generalize (ev.onState (·.setSuspended true)).syncAll.wantRecompute = w at synced empty owed
  have copied : w.st.allocator.suspendedCopy = w.st.suspension.suspended :=
    (congrArg Still.suspendedCopy synced.still).trans
      (congrArg (fun x : Still => x.suspension.suspended) synced.still).symm
  constructor
  case pending => exact (congrArg Still.pending synced.still).trans h.pending
  case bounded =>
    intro hs
    obtain ⟨h1, h2, h3, h4, h5, h6, h7, h8⟩ := h.bounded hs
    exact synced.bounded ⟨h1, h2, h3, h4, h5, h6, h7, h8⟩
  case ordered => exact fun hs => synced.waitOrdered (h.ordered hs)
  case alert => exact fun hs => synced.alertRight (h.alert hs)
  case budget => exact fun _ => .inr owed
  case suspension => exact fun _ => ⟨⟨copied, fun _ => empty⟩, .inr owed⟩

theorem Holds.enterSuspension (h : Holds s ev) (x : Option Header) : Holds s (ev.enterSuspension x) :=
  ((h.onState (.of_same (target := fun b => by simp [State.bay, Bay.suspend]))).suspend).logEmergency x

theorem Holds.emergencyDemand (h : Holds s ev) (x : Option Header) : Holds s (ev.emergencyDemand x) := by
  unfold Ev.emergencyDemand; split
  · exact h.logEmergency x
  · exact h.enterSuspension x

end Sys2Proof.Machine
end

section
/-!
SUPPORT. The power-on values meet the invariants, and the resets, the suspension commands, the tick and the expiries
keep them.
-/
namespace Sys2Proof.Machine

/-! ## Reset and suspension commands -/

theorem State.powerOn_bay (e : Bool) (b : BayIx) : (State.powerOn e).bay b = Bay.powerOn (!e) :=
  Table.get_replicate _ _

theorem State.powerOn_targetSum (e : Bool) : (State.powerOn e).targetSum = 0 := by
  rw [State.targetSum, List.sum_eq_zero]
  simp only [State.powerOn_bay, List.mem_map]
  rintro _ ⟨_, _, rfl⟩
  rfl

theorem State.powerOn_bounded (e : Bool) : (State.powerOn e).Bounded where
  fifo := Nat.zero_le _
  forward := Nat.zero_le _
  requests := Nat.zero_le _
  management := Nat.zero_le _
  waitlist := Nat.zero_le _
  early := Nat.zero_le _
  lost v := by simp [State.powerOn, SeverityLog.cleared]
  counts c := by simp [State.powerOn]

theorem State.powerOn_waitOrdered (e : Bool) : (State.powerOn e).WaitOrdered := List.Pairwise.nil

theorem State.powerOn_alertRight (e : Bool) : (State.powerOn e).AlertRight := by
  simp [State.AlertRight, State.powerOn, SeverityLog.cleared]

theorem State.powerOn_withinBudget (e : Bool) : (State.powerOn e).WithinBudget := by
  rw [State.WithinBudget, State.powerOn_targetSum]; exact Nat.zero_le _

theorem State.powerOn_suspensionHolds (e : Bool) : (State.powerOn e).SuspensionHolds :=
  ⟨rfl, fun _ => ⟨rfl, fun b => by rw [State.powerOn_bay]; rfl⟩⟩

/-- The power-on values meet every invariant, whatever the state before. -/
theorem Kept.powerUp (s : State) (e : Bool) : Kept s (s.powerUp e) where
  pending := rfl
  bounded _ := by
    obtain ⟨h1, h2, h3, h4, h5, h6, h7, h8⟩ := State.powerOn_bounded e
    exact ⟨h1, h2, h3, h4, h5, h6, h7, h8⟩
  ordered _ := State.powerOn_waitOrdered e
  alert _ := State.powerOn_alertRight e
  budget _ := State.powerOn_withinBudget e
  queue _ := (State.powerOn_suspensionHolds e).queueHolds
  suspension _ := State.powerOn_suspensionHolds e

theorem runs_powerOnReset (e : Bool) (s : State) : Runs s (execPowerOnReset e s) := by
  refine ⟨_, rfl, ?_⟩
  split
  · exact ((Kept.holds (ev := Ev.start (s.powerUp true)) (Kept.powerUp s true)).logEmergency none).finish
  · exact (Kept.powerUp s false).safe

theorem runs_supplyLoss (s : State) : Runs s (execSupplyLoss s) :=
  ⟨_, rfl, ((Kept.powerUp s false).trans .of_same).safe⟩

/-- An event that changes the state alone. -/
theorem Runs.onState (s : State) (c : Bool) {f : State → State} (h : c = true → Kept s (f s)) :
    Runs s (s.event c (·.onState f)) :=
  .event s c (body := (·.onState f)) fun hc => Kept.holds (ev := (Ev.start s).onState f) (h hc)

theorem runs_resetPinRelease (s : State) : Runs s (execResetPinRelease s) := .onState s _ fun _ => .of_same

theorem runs_emergencyInactive (s : State) : Runs s (execEmergencyInactive s) := .onState s _ fun _ => .of_same

theorem runs_emergencyActive (s : State) : Runs s (execEmergencyActive s) :=
  .event s _ fun _ => Holds.emergencyDemand (Kept.holds (ev := (Ev.start s).onState
    (fun s => { s with suspension := { s.suspension with emergency := true } })) .of_same) none

theorem State.warm_target (s : State) (b : BayIx) : (s.warm.bay b).alloc.target = (s.bay b).alloc.target := by
  simp only [State.warm, State.bay, State.freshTimers, Table.get, List.getElem_map, allBays, List.getElem_finRange]
  rfl

theorem Kept.warm (s : State) : Kept s s.warm :=
  .of_same (fifo := Nat.zero_le _) (forward := Nat.zero_le _) (requests := Nat.zero_le _)
    (management := Nat.zero_le _) (waitlist := by simp [State.warm, Function.comp_def])
    (early := by simp [State.warm]) (target := s.warm_target)

theorem Prims.freshRotation (h : Prims s₀ s) (b : BayIx) : Prims s₀ (s.freshRotation b) := by
  unfold State.freshRotation; dsimp only
  repeat' split
  · exact h.setRotation b _
  · exact h.clearRotation b
  · exact h.clearRotation b

theorem Prims.linkLossTest (h : Prims s₀ s) (b : BayIx) : Prims s₀ (s.linkLossTest b) := by
  unfold State.linkLossTest; dsimp only; split
  · exact h.modDelivery b _
  · exact h

theorem Prims.linkLossTests (h : Prims s₀ s) : Prims s₀ s.linkLossTests := Prims.foldl (fun b h => h.linkLossTest b) _ h

theorem Holds.prims (h : Holds s ev) {f : State → State} (p : Prims ev.st (f ev.st)) : Holds s (ev.onState f) :=
  h.onState p.kept

theorem Moves.reportAfresh (h : Moves a ev) (b : BayIx) : Moves a (ev.reportAfresh b) :=
  (h.modAlloc b (f := fun a => { a with chargingCopy := (ev.bay b).dyn.state == .charging })
    (fun _ => .inl rfl)).syncQueue b

theorem Holds.warmReset (h : Holds s ev) : Holds s ev.warmReset := by
  have warmed := (h.onState (Kept.warm _)).prims
    (f := fun s => allBays.foldl State.freshRotation s) (Prims.foldl (fun b h => h.freshRotation b) _ .refl)
  have tested := warmed.prims (f := State.linkLossTests) (Prims.linkLossTests .refl)
  have reported := (Holds.foldl (f := Ev.reportAfresh) (fun b h => h.moves (Moves.refl.reportAfresh b)) allBays
    tested).wantRecompute
  unfold Ev.warmReset; dsimp only; split
  · exact reported.enterSuspension none
  · exact reported

theorem runs_warmReset (s : State) : Runs s (execWarmReset s) :=
  .event s _ fun _ =>
    Holds.warmReset (Kept.holds (ev := (Ev.start s).onState (fun s => { s with resetPinTaken := true })) .of_same)

theorem runs_reset (s : State) : Runs s (execReset s) :=
  .takeControl s _ _ fun r h => h.warmReset.status r .ok

theorem runs_storageFault (n : Byte) (d : BayDyn) (x : BitVec 16) (s : State) :
    Runs s (execStorageFault n d x s) := by
  unfold execStorageFault
  split
  · exact .same s
  · next b _ =>
    refine ⟨_, rfl, ?_⟩
    split
    · exact (Kept.refl s).safe
    · refine Kept.safe (.of_same (target := fun c => ?_))
      rw [State.bay_modBay]; split <;> rfl

/-! ## The tick and the expiries -/

theorem Prims.countBay (h : Prims s₀ s) (b : BayIx) : Prims s₀ (s.countBay b) := by
  unfold State.countBay; split
  · exact h
  · exact h.modDyn b _

theorem Holds.scrubStep (h : Holds s ev) : Holds s ev.scrubStep :=
  (h.moves (Moves.refl.compareRecord ev.st.scrubber.cursor)).onState
    (f := fun s => { s with scrubber := { s.scrubber with cursor := nextBay ev.st.scrubber.cursor } }) .of_same

theorem runs_tick (s : State) : Runs s (execTick s) := by
  refine .event s _ fun _ => ?_
  have counted : Holds s ((Ev.start s).onState (fun s => { s with now := s.now + 1 })) := Kept.holds .of_same
  have delivered := counted.moves (Moves.deliverDue .refl)
  have counted := delivered.scrubStep.prims (f := fun s => allBays.foldl State.countBay s)
    (Prims.foldl (fun b h => h.countBay b) _ .refl)
  exact counted.prims (f := State.linkLossTests) (Prims.linkLossTests .refl)

theorem Moves.noShow (h : Moves a ev) (b : BayIx) (t : Option Ticket) (v : Time) : Moves a (ev.noShow b t v) := by
  unfold Ev.noShow; repeat' split
  · exact h.endActive b _
  · exact h
  · exact h

theorem Moves.overstay (h : Moves a ev) (b : BayIx) (t : Option Ticket) (v : Time) : Moves a (ev.overstay b t v) := by
  unfold Ev.overstay; repeat' split
  all_goals first | exact h | exact (h.setState b _).note b _

theorem Moves.displacement (h : Moves a ev) (b : BayIx) (t : Ticket) (v : Time) :
    Moves a (ev.displacement b t v) := by
  unfold Ev.displacement; repeat' split
  · exact h.relocateOrDisplace b _
  · exact h
  · exact h

theorem Moves.removeWaiting (h : Moves a ev) (e : WaitEntry) : Moves a (ev.onState (·.removeWaiting e)) :=
  (h.waitSub (List.erase_sublist)).unindexHold e.hold

theorem Moves.waitlistExpiry (h : Moves a ev) (t : Ticket) (v : Time) : Moves a (ev.waitlistExpiry t v) := by
  unfold Ev.waitlistExpiry; repeat' split
  · exact (h.removeWaiting _).holdNotice _ _ _
  · exact h
  · exact h

theorem runs_noShowExpiry (n : Byte) (t : Option Ticket) (v : Time) (s : State) : Runs s (execNoShowExpiry n t v s) := by
  unfold execNoShowExpiry; split
  · exact .same s
  · exact .takeExpiry s _ fun h => h.moves (Moves.refl.noShow _ t v)

theorem runs_overstayExpiry (n : Byte) (t : Option Ticket) (v : Time) (s : State) : Runs s (execOverstayExpiry n t v s) := by
  unfold execOverstayExpiry; split
  · exact .same s
  · exact .takeExpiry s _ fun h => h.moves (Moves.refl.overstay _ t v)

theorem runs_displacementCheck (n : Byte) (t : Ticket) (v : Time) (s : State) : Runs s (execDisplacementCheck n t v s) := by
  unfold execDisplacementCheck; split
  · exact .same s
  · exact .takeExpiry s _ fun h => h.moves (Moves.refl.displacement _ t v)

theorem runs_waitlistExpiry (t : Ticket) (v : Time) (s : State) : Runs s (execWaitlistExpiry t v s) :=
  .takeExpiry s _ fun h => h.moves (Moves.refl.waitlistExpiry t v)

theorem Kept.earlyExpiry (s : State) (t : Ticket) (v : Time) : Kept s (s.earlyExpiry t v) := by
  unfold State.earlyExpiry; repeat' split
  · exact .of_same (early := List.length_filter_le _ _)
  · exact .refl s
  · exact .refl s

theorem runs_earlyArrivalExpiry (t : Ticket) (v : Time) (s : State) : Runs s (execEarlyArrivalExpiry t v s) :=
  .takeExpiry s _ fun h => h.onState (Kept.earlyExpiry _ t v)

theorem Moves.rotationExpiry (h : Moves a ev) (b : BayIx) : Moves a (ev.rotationExpiry b) := by
  unfold Ev.rotationExpiry; repeat' split
  · next e he => exact (h.prims (Prims.rotate .refl e (State.rotationChoice_queue he))).wantRecompute
  · exact h
  · exact h

theorem runs_rotationExpiry (n : Byte) (s : State) : Runs s (execRotationExpiry n s) := by
  unfold execRotationExpiry; split
  · exact .same s
  · exact .takeExpiry s _ fun h => h.moves (Moves.refl.rotationExpiry _)

theorem runs_linkLossExpiry (n : Byte) (s : State) : Runs s (execLinkLossExpiry n s) := by
  unfold execLinkLossExpiry; split
  · exact .same s
  · exact .onState s _ fun _ => (Prims.linkLossTest .refl _).kept

theorem runs_pollDue (x : Addr) (s : State) : Runs s (execPollDue x s) :=
  .event s _ fun _ => Kept.holds (.refl s)

end Sys2Proof.Machine
end

section
/-!
SUPPORT. The ports, the frames received, the transactions and the booking requests keep the invariants.
-/
namespace Sys2Proof.Machine

variable {a ev : Ev}

/-! ## The ports -/

theorem Kept.setRx (s : State) (p : Port) (r : Receiver) : Kept s (s.setRx p r) := by
  cases p <;> exact .of_same

theorem runs_frameBegin (p : Port) (s : State) : Runs s (execFrameBegin p s) :=
  .onState s _ fun _ => .setRx s p _

theorem runs_uplinkSendStart (s : State) : Runs s (execUplinkSendStart s) :=
  .onState s _ fun _ => .of_same (fifo := by simp [State.uplinkStart])

theorem runs_uplinkSendEnd (s : State) : Runs s (execUplinkSendEnd s) := .onState s _ fun _ => .of_same

theorem Kept.setTransaction (s : State) (t : Option Transaction) : Kept s (s.setTransaction t) := .of_same

theorem Kept.modContact (s : State) (x : Addr) (f : Contact → Contact) : Kept s (s.modContact x f) := .of_same

theorem runs_downlinkFrameStart (s : State) : Runs s (execDownlinkFrameStart s) := by
  refine .onState s _ fun _ => ?_
  unfold State.downlinkStart; split
  · exact .refl s
  · exact .of_same

theorem runs_endOfSending (s : State) : Runs s (execEndOfSending s) := by
  refine .onState s _ fun _ => ?_
  unfold State.sendingEnds; dsimp only; repeat' split
  all_goals exact .of_same

/-! ## A transaction that is answered or ends unanswered -/

theorem Moves.linkLossTest (h : Moves a ev) (b : BayIx) : Moves a (ev.onState (·.linkLossTest b)) :=
  h.prims (Prims.linkLossTest .refl b)

theorem Holds.modContact (h : Holds s ev) (x : Addr) (f : Contact → Contact) : Holds s (ev.onState (·.modContact x f)) :=
  h.onState (.modContact _ x f)

theorem Holds.countFailure (h : Holds s ev) (x : Addr) : Holds s (ev.countFailure x) := by
  unfold Ev.countFailure; dsimp only
  split
  · exact h
  · have lost (n : Nat) := ((h.modContact x (fun c => { c with failures := n })).modContact x
      (fun c => { c with reachable := false })).log { kind := .nodeUnreachable, bay := (ev.st.node x).bay }
    repeat' split
    · exact (lost _).moves (((Moves.refl.gainFault _ _).postLost _ _).linkLossTest _)
    · exact (lost _).moves (Moves.refl.sensorLost _)
    · exact lost _
    · exact h.modContact x _

theorem Holds.endUnanswered (h : Holds s ev) (t : Transaction) : Holds s (ev.endUnanswered t) := by
  have ended := h.onState (f := (·.setTransaction none)) (.setTransaction _ none)
  unfold Ev.endUnanswered; dsimp only; split
  · exact ended.log _
  · exact (((ended.log _).moves (Moves.refl.modDelivery _ _)).countFailure _).moves (Moves.refl.linkLossTest _)
  · exact ((ended.log _).modContact _ _).countFailure _

theorem Holds.windowClosed (h : Holds s ev) (t : Transaction) : Holds s (ev.windowClosed t) := by
  unfold Ev.windowClosed; repeat' split
  · exact h.onState (.setTransaction _ _)
  · exact h.endUnanswered t
  · exact h.endUnanswered t
  · exact h.onState (.setTransaction _ _)

theorem runs_replyWindowClose (s : State) : Runs s (execReplyWindowClose s) := by
  refine .event s _ fun _ => ?_
  have h : Holds s (Ev.start s) := Kept.holds (.refl s)
  unfold Ev.closeWindow; split
  · exact h.windowClosed _
  · exact h

theorem Moves.setCeiling (h : Moves a ev) (b : BayIx) (c : Nat) : Moves a (ev.setCeiling b c) := by
  unfold Ev.setCeiling; split
  · exact h
  · exact (h.modAlloc b (f := fun a => { a with ceiling := c }) (fun _ => .inl rfl)).wantRecompute

theorem Moves.ceilingTest (h : Moves a ev) (b : BayIx) (d f : Nat) : Moves a (ev.ceilingTest b d f) := by
  have counted (n : Nat) : Moves a (ev.modAlloc b (fun x => { x with underDraw := n })) := h.modAlloc b (fun _ => .inl rfl)
  unfold Ev.ceilingTest; dsimp only; repeat' split
  · exact (counted 0).setCeiling b _
  · exact h.modAlloc b (fun _ => .inl rfl)
  · exact (counted 0).setCeiling b _
  · exact counted 0
  · exact counted 0

theorem Moves.deliveryReport (h : Moves a ev) (b : BayIx) (r : PostReport) (v : Bool) :
    Moves a (ev.deliveryReport b r v) := by
  unfold Ev.deliveryReport; dsimp only; repeat' split
  · exact ((h.modDelivery b _).log _).modDelivery b _
  · exact (h.modDelivery b _).modDelivery b _
  · exact h.modDelivery b _

theorem Moves.energyFigure (h : Moves a ev) (b : BayIx) (e : Nat) (v : Bool) : Moves a (ev.energyFigure b e v) := by
  unfold Ev.energyFigure; dsimp only; split
  · exact h
  · split
    · split
      · exact h.modDyn b _
      · repeat' split
        · exact (((h.modDyn b _).touch b).rederive b).note b _
        · exact h.modDyn b _
        · exact (h.log _).modDyn b _
    · exact h

theorem Moves.postEvidence (h : Moves a ev) (b : BayIx) (r : PostReport) (v w : Bool) :
    Moves a (ev.postEvidence b r v w) :=
  (((h.connectorReport b _ _).energyFigure b _ _).ceilingTest b _ _).deliveryReport b _ _

theorem Moves.sensorEvidence (h : Moves a ev) (b : BayIx) (p : List Byte) : Moves a (ev.sensorEvidence b p) := by
  unfold Ev.sensorEvidence; repeat' split
  · exact h.sensorReport b _
  · exact h.sensorReport b _
  · exact h
  · exact h

theorem Moves.takeEvidence (h : Moves a ev) (t : Transaction) (f : Frame) (e : NodeEntry) (v : Bool) :
    Moves a (ev.takeEvidence t f e v) := by
  unfold Ev.takeEvidence; repeat' split
  all_goals first | exact h | exact h.postEvidence _ _ _ _ | exact h.sensorEvidence _ _

theorem Moves.contactRestored (h : Moves a ev) (b : BayIx) (c : Connector) : Moves a (ev.contactRestored b c) := by
  unfold Ev.contactRestored; dsimp only; repeat' split
  · exact h.setOccupancy b _
  · exact h
  · exact (h.setOccupancy b _).recover b
  · exact h.recover b

theorem Holds.restoreContact (h : Holds s ev) (t : Transaction) (f : Frame) (e : NodeEntry) :
    Holds s (ev.restoreContact t f e) := by
  have answered := h.onState (f := (·.contactAnswered f.src)) (.modContact _ _ _)
  unfold Ev.restoreContact; dsimp only; repeat' split
  · exact answered.moves (Moves.refl.contactRestored _ _)
  · exact answered
  · exact answered

theorem Holds.answered (h : Holds s ev) (t : Transaction) (f : Frame) (v : Bool) : Holds s (ev.answered t f v) := by
  have restored := (h.onState (f := (·.setTransaction none)) (.setTransaction _ none)).restoreContact t f
    (ev.st.node f.src)
  have taken := restored.moves
    (((Moves.refl.takeEvidence t f (ev.st.node f.src) ((ev.st.node f.src).bay.any ev.st.plugEvidence)).flushNotes).runScan)
  unfold Ev.answered; dsimp only; repeat' split
  · exact taken.moves (Moves.refl.place f)
  · exact taken.moves (Moves.refl.placeOpt _)
  · exact taken

theorem Holds.downlinkFrame (h : Holds s ev) (f : Frame) : Holds s (ev.downlinkFrame f) := by
  unfold Ev.downlinkFrame; repeat' split
  · exact h.log _
  · exact h.log _
  · exact h.answered _ f _
  · exact h.windowClosed _

/-! ## Reception and the claims -/

theorem Kept.joinRequests (s : State) (r : Request) (room : s.requests.length < Config.holdQueue) :
    Kept s { s with requests := s.requests ++ [r] } where
  pending := rfl
  bounded h := { h with requests := by simpa using room }
  ordered := id
  alert := id
  budget := id
  queue := id
  suspension := id

theorem Kept.joinManagement (s : State) (r : Request) (room : s.management.length < Config.managementQueue) :
    Kept s { s with management := s.management ++ [r] } where
  pending := rfl
  bounded h := { h with management := by simpa using room }
  ordered := id
  alert := id
  budget := id
  queue := id
  suspension := id

theorem Kept.joinForward (s : State) (x : ForwardEntry) (room : s.downlink.forward.length < Config.forwardQueue) :
    Kept s { s with downlink := { s.downlink with forward := s.downlink.forward ++ [x] } } where
  pending := rfl
  bounded h := { h with forward := by simpa using room }
  ordered := id
  alert := id
  budget := id
  queue := id
  suspension := id

theorem Holds.claimBooking (h : Holds s ev) (f : Frame) : Holds s (ev.claimBooking f) := by
  unfold Ev.claimBooking; split
  · next room => exact h.onState (.joinRequests _ _ room)
  · exact (h.buffer.log _).answer _

theorem Holds.claimManagement (h : Holds s ev) (f : Frame) : Holds s (ev.claimManagement f) := by
  unfold Ev.claimManagement; split
  · exact (h.buffer.log _).answer _
  · split
    · next room => exact h.onState (.joinManagement _ _ room)
    · exact h.log _

theorem Holds.claim (h : Holds s ev) (f : Frame) : Holds s (ev.claim f) := by
  unfold Ev.claim Ev.claimEmergency; repeat' split
  · exact h.claimBooking f
  · exact h.claimManagement f
  · exact h.emergencyDemand _
  · exact h.log _
  · exact h

theorem Holds.forward (h : Holds s ev) (f : Frame) (v : Bool) : Holds s (ev.forward f v) := by
  unfold Ev.forward; split
  · next room => exact h.onState (.joinForward _ _ room)
  · exact h.log _

theorem Holds.uplinkFrame (h : Holds s ev) (f : Frame) : Holds s (ev.uplinkFrame f) := by
  have claimed : Holds s (if claims (ev.st.kinds.get f.kind.toFin).action (ev.st.destColumn f.dest) then ev.claim f
      else ev) := by
    split
    · exact h.claim f
    · exact h
  unfold Ev.uplinkFrame; dsimp only; split
  · exact claimed.forward f _
  · exact claimed.log _
  · exact claimed

theorem Holds.classify (h : Holds s ev) (p : Port) (f : Frame) : Holds s (ev.classify p f) := by
  unfold Ev.classify; repeat' split
  · exact h.log _
  · exact h.uplinkFrame f
  · exact h.downlinkFrame f

theorem runs_frameReception (p : Port) (chars : List RxChar) (s : State) : Runs s (execFrameReception p chars s) := by
  refine .event s _ fun _ => ?_
  have idle : Holds s ((Ev.start s).onState (·.setRx p ⟨.idle, []⟩)) := Kept.holds (.setRx s p _)
  unfold Ev.frameEnd; dsimp only; split
  · exact idle.classify p _
  · exact idle.log _

/-! ## Booking requests -/

theorem Holds.reply (h : Holds s ev) (r : Request) (t : Ticket) (x : AnswerBody) : Holds s (ev.reply r t x) := h.answer _

theorem Holds.refuse (h : Holds s ev) (r : Request) (t : Ticket) (x : Reason) : Holds s (ev.refuse r t x) := h.answer _

theorem Holds.replyState (h : Holds s ev) (r : Request) (p : List Byte) : Holds s (ev.replyState r p) := h.answer _

theorem Kept.removeEarly (s : State) (t : Ticket) : Kept s (s.removeEarly t) :=
  .of_same (early := List.length_filter_le _ _)

theorem Holds.placeRequest (h : Holds s ev) (r : Request) (c : BayClass) : Holds s (ev.placeRequest r c) := by
  unfold Ev.placeRequest; dsimp only; split
  · exact ((h.moves ((Moves.refl.search c _ none _).placeHold _ _ _)).onState (.removeEarly _ _)).reply r _ _
  · split
    · next admitted =>
      exact ((h.moves ((Moves.refl.search c _ none _).joinWaitlist
        (fun x l => length_insertTail x l) (fun x l => insertTail_ordered x) _ _ _)).onState
          (.removeEarly _ _)).reply r _ _
    · exact (h.moves (Moves.refl.search c _ none _)).refuse r _ _

theorem runs_hold (s : State) : Runs s (execHold s) :=
  .takeRequest s _ fun r h => by
    unfold Ev.holdRequest; split
    · exact h.reply r _ _
    · exact h.placeRequest r _

theorem Holds.ownedRequest (h : Holds s ev) (r : Request) {act : Ev → Location → Hold → Ev}
    (ha : ∀ {ev} l x, Holds s ev → Holds s (act ev l x)) : Holds s (ev.ownedRequest r act) := by
  unfold Ev.ownedRequest; dsimp only; repeat' split
  · exact h.refuse r _ _
  · exact h.refuse r _ _
  · exact ha _ _ h

theorem Kept.mapWaiting (s : State) {f : WaitEntry → WaitEntry} (hf : ∀ e, (f e).hold.priority = e.hold.priority) :
    Kept s (s.setWaitlist (s.waitlist.map f)) :=
  .of_same (waitlist := by simp [hf])

theorem Holds.ite {c : Prop} [Decidable c] {x y : Ev} (hx : Holds s x) (hy : Holds s y) :
    Holds s (if c then x else y) := by split <;> assumption

theorem Moves.ite {c : Prop} [Decidable c] {x y : Ev} (hx : Moves a x) (hy : Moves a y) :
    Moves a (if c then x else y) := by split <;> assumption

theorem Holds.amendAt (h : Holds s ev) (r : Request) (l : Location) (x : Hold) : Holds s (Ev.amendAt r ev l x) := by
  unfold Ev.amendAt; dsimp only; split
  · next b =>
    refine Holds.ite (h.refuse r _ _) (Holds.reply (h.moves ?_) r _ _)
    have amended := (Moves.refl (ev₀ := ev)).touch b
    exact Moves.ite (Moves.ite ((amended.modDyn b _).modTimer b _) (amended.modDyn b _))
      (((Moves.ite ((amended.modDyn b _).modTimer b _) (amended.modDyn b _)).rederive b).note b _)
  · exact (h.moves (Moves.refl.modDyn _ _)).reply r _ _
  · refine Holds.reply (h.onState (.mapWaiting _ fun e => ?_)) r _ _
    split <;> rfl

theorem runs_amend (s : State) : Runs s (execAmend s) :=
  .takeRequest s _ fun r h => h.ownedRequest r fun l x h => h.amendAt r l x

theorem Holds.freeAt (h : Holds s ev) (r : Request) (l : Location) (x : Hold) : Holds s (Ev.freeAt r ev l x) := by
  unfold Ev.freeAt; dsimp only
  refine Holds.reply ?_ r _ _
  split
  · exact h.moves (Moves.refl.endActive _ _)
  · exact h.moves (Moves.refl.endStaged _ _)
  · refine h.moves (Moves.holdNotice (?_ : Moves ev _) _ _ _)
    simp only [Ev.onState]; split
    · exact Moves.refl.removeWaiting _
    · exact .refl

theorem runs_free (s : State) : Runs s (execFree s) :=
  .takeRequest s _ fun r h => h.ownedRequest r fun l x h => h.freeAt r l x

theorem runs_query (s : State) : Runs s (execQuery s) := .takeRequest s _ fun r h => h.replyState r _

/-- The Early Arrival List never grows beyond its capacity (R47). -/
theorem Kept.recordEarly (s : State) (t : Ticket) : Kept s (s.recordEarly t) where
  pending := rfl
  bounded h :=
    { h with
      early := by
        have others := List.length_filter_le (fun e : EarlyEntry => e.ticket != t) s.early
        have cap := h.early
        simp only [State.recordEarly, Config.earlyList] at cap ⊢
        by_cases full : 8 ≤ (s.early.filter (fun e => e.ticket != t)).length
        · simp [full]; omega
        · simp [full]; omega }
  ordered := id
  alert := id
  budget := id
  queue := id
  suspension := id

theorem Moves.arriveActive (h : Moves a ev) (b : BayIx) (x : Hold) : Moves a (ev.arriveActive b x) := by
  have seen := (h.touch b).modDyn b (fun d => { d with active := some x.seen })
  unfold Ev.arriveActive Ev.relocationSearch; dsimp only; repeat' split
  · exact (seen.search _ _ _ _).relocateTo b _ _ _ _
  · exact (seen.search _ _ _ _).note b _
  · exact seen

theorem Holds.arriveAt (h : Holds s ev) (t : Ticket) : Holds s (ev.arriveAt t) := by
  unfold Ev.arriveAt; repeat' split
  · exact h.onState (.recordEarly _ t)
  · exact h.moves (Moves.refl.arriveActive _ _)
  · exact h.moves (Moves.refl.modDyn _ _)
  · refine h.onState (.mapWaiting _ fun e => ?_)
    split <;> rfl
  · exact h

theorem runs_arrive (s : State) : Runs s (execArrive s) :=
  .takeRequest s _ fun r h => by
    unfold Ev.arriveRequest; dsimp only; repeat' split
    · exact h.refuse r _ _
    · exact h.refuse r _ _
    · exact (h.arriveAt _).replyState r _

end Sys2Proof.Machine
end

section
/-!
SUPPORT. The writes of tables and the operations keep the invariants.
-/
namespace Sys2Proof.Machine

variable {a ev : Ev}

/-! ## Tables -/

/-- An entry of a SET-TABLE keeps what the event holds, where it is written. -/
def EntryKeeps (write : EntryWrite) : Prop :=
  ∀ {s : State} {ev ev' : Ev} {i : Nat} {e : List Byte} {c : Bool}, Holds s ev → write ev i e = .ok (ev', c) → Holds s ev'

theorem EntryKeeps.entries {write : EntryWrite} (hw : EntryKeeps write) {s : State} (l : List (List Byte)) :
    ∀ {ev ev' : Ev} {i : Nat} {c : Bool}, Holds s ev → writeEntries write ev i l = .ok (ev', c) → Holds s ev' := by
  induction l with
  | nil => intro ev ev' i c h hl; cases hl; exact h
  | cons e l ih =>
    intro ev ev' i c h hl
    unfold writeEntries at hl
    split at hl
    · cases hl
    · next _ _ first =>
      split at hl
      · cases hl
      · next _ _ rest => cases hl; exact ih (hw h first) rest

theorem Holds.writeTable (h : Holds s ev) {write : EntryWrite} (hw : EntryKeeps write) (size first last : Nat)
    (r : Request) : Holds s (Ev.writeTable size first last write r ev) := by
  unfold Ev.writeTable; split
  · exact h.status r _
  · split
    · exact h.status r _
    · next written => exact (hw.entries _ h written).stored r _

/-- A SET-TABLE of a table whose entries keep what the event holds (R173). -/
theorem Runs.writeTable (s : State) {write : EntryWrite} (hw : EntryKeeps write) (id size first last : Nat) :
    Runs s (s.takeManagement (namesTable id) (Ev.writeTable size first last write)) :=
  .takeManagement s _ fun r h => h.writeTable hw size first last r

theorem Kept.modDelivery (s : State) (b : BayIx) (f : Delivery → Delivery) : Kept s (s.modDelivery b f) :=
  (Prims.modDelivery .refl b f).kept

theorem Kept.modPostDelivery (s : State) (r : Role) (b : Option BayIx) (f : Delivery → Delivery) :
    Kept s (s.modPostDelivery r b f) := by
  unfold State.modPostDelivery; split
  · exact .modDelivery s _ f
  · exact .refl s

theorem Kept.loseDest (s : State) (x : Addr) : Kept s (s.loseDest x) := by
  unfold State.loseDest; repeat' split
  · exact .setTransaction s _
  · exact .refl s
  · exact .refl s

theorem Kept.setNodes (s : State) (t : Table NodeEntry 256) : Kept s { s with nodes := t } := .of_same

theorem Kept.writeNode (s : State) (x : Addr) (w : NodeWrite) : Kept s (s.writeNode x w) := by
  unfold State.writeNode; dsimp only; split
  · exact .setNodes s _
  · split
    · exact (((Kept.setNodes s _).trans (.loseDest _ _)).trans (.modPostDelivery _ _ _ _)).trans
        (.modPostDelivery _ _ _ _)
    · exact ((Kept.setNodes s _).trans (.modPostDelivery _ _ _ _)).trans (.modPostDelivery _ _ _ _)

theorem writeNodeEntry_keeps : EntryKeeps writeNodeEntry := by
  intro s ev ev' i e c h hw
  unfold writeNodeEntry at hw; dsimp only at hw
  repeat' split at hw
  · cases hw
  · cases hw
  · cases hw; exact h.onState (.writeNode _ _ _)

theorem writeKindEntry_keeps : EntryKeeps writeKindEntry := by
  intro s ev ev' i e c h hw
  simp only [writeKindEntry, Except.ok.injEq, Prod.mk.injEq] at hw
  obtain ⟨rfl, -⟩ := hw
  exact h.onState .of_same

theorem Prims.modeWritten (h : Prims s₀ s) (i : Fin 4) (b : BayIx) : Prims s₀ (s.modeWritten i b) := by
  unfold State.modeWritten; split
  · exact h.freshRotation b
  · exact h

theorem writeClassEntry_keeps : EntryKeeps writeClassEntry := by
  intro s ev ev' i e c h hw
  simp only [writeClassEntry, Except.ok.injEq, Prod.mk.injEq] at hw
  obtain ⟨rfl, -⟩ := hw
  have stored := h.onState (f := fun s => { s with classes := s.classes.set ⟨i % 4, by omega⟩ (classEntryOf e).1 })
    .of_same
  exact (stored.prims (f := fun s => allBays.foldl (·.modeWritten ⟨i % 4, by omega⟩ ·) s)
    (Prims.foldl (fun b h => h.modeWritten _ b) _ .refl)).wantRecompute

theorem Kept.modBay (s : State) (b : BayIx) {f : Bay → Bay} (hf : ∀ y, (f y).alloc.target = y.alloc.target) :
    Kept s (s.modBay b f) :=
  .of_same (target := fun c => by rw [State.bay_modBay]; split <;> simp [*])

theorem Holds.setEnable (h : Holds s ev) (b : BayIx) (v : Bool) : Holds s (ev.setEnable b v) := by
  unfold Ev.setEnable; repeat' split
  · exact h.onState (.modBay _ b fun _ => rfl)
  · exact h
  · have stored := h.onState (f := (·.modBay b (fun y => { y with allotEnable := v }))) (.modBay _ b fun _ => rfl)
    exact stored.moves ((Moves.refl.modAlloc b (f := fun a => { a with enableCopy := v }) (fun _ => .inl rfl)).syncQueue b)

theorem Holds.configureBay (h : Holds s ev) (b : BayIx) (c : BayClass) (m : Nat) :
    Holds s (ev.configureBay b c m) :=
  (h.onState (f := (·.modBay b (fun y => { y with cls := c, postMax := m }))) (.modBay _ b fun _ => rfl)).moves
    (Moves.refl.setCeiling b m)

theorem writeBayEntry_keeps : EntryKeeps writeBayEntry := by
  intro s ev ev' i e c h hw
  unfold writeBayEntry at hw; dsimp only at hw
  repeat' split at hw
  · cases hw
  · cases hw; exact h.setEnable _ _
  · cases hw; exact (h.configureBay _ _ _).setEnable _ _
  · cases hw
  · cases hw

/-- A write of the settings owes the recompute that brings the targets into the budget (R85, R95). -/
theorem Holds.settings (h : Holds s ev) (f : State → State) (x : AllocatorSettings)
    (hf : f ev.st = { ev.st with allocator := { ev.st.allocator with settings := x } }) :
    Holds s ((ev.onState f).wantRecompute) where
  pending := by simp only [Ev.wantRecompute_st, Ev.onState, hf]; exact h.pending
  bounded hs := by
    obtain ⟨h1, h2, h3, h4, h5, h6, h7, h8⟩ := h.bounded hs
    simp only [Ev.wantRecompute_st, Ev.onState, hf]
    exact ⟨h1, h2, h3, h4, h5, h6, h7, h8⟩
  ordered hs := by simp only [Ev.wantRecompute_st, Ev.onState, hf]; exact h.ordered hs
  alert hs := by simp only [Ev.wantRecompute_st, Ev.onState, hf]; exact h.alert hs
  budget _ := .inr rfl
  suspension hs := by
    refine ⟨?_, .inr rfl⟩
    simp only [Ev.wantRecompute_st, Ev.onState, hf]
    exact (h.suspension hs).1

theorem Moves.mismatchOnWrite (h : Moves a ev) (m n : Nat) (b : BayIx) : Moves a (Ev.mismatchOnWrite m n ev b) := by
  unfold Ev.mismatchOnWrite; dsimp only; split
  · exact h.log _
  · exact h

theorem Moves.raiseCeiling (h : Moves a ev) (m : Nat) (b : BayIx) : Moves a (Ev.raiseCeiling m ev b) := by
  unfold Ev.raiseCeiling; split
  · exact h.setCeiling b m
  · exact h

theorem Prims.periodWritten (h : Prims s₀ s) (b : BayIx) : Prims s₀ (s.periodWritten b) := by
  unfold State.periodWritten; split
  · exact h
  · exact h.setRotation b _
  · exact h

/-- A run of moves is one also where a recompute is owed throughout. -/
theorem Moves.wantingRecompute (h : Moves a ev) : Moves a.wantRecompute ev.wantRecompute := by
  induction h with
  | refl => exact .refl
  | owed _ n sc r c _ ih => exact ih.owed n sc true c (fun _ => rfl)
  | prim _ p ih => exact ih.prim p
  | waitlist _ l len ord ih => exact ih.waitlist l len ord
  | @place ev _ f ih =>
    have same : (ev.place f).wantRecompute = ev.wantRecompute.place f := by
      unfold Ev.place Ev.wantRecompute; dsimp only; split <;> rfl
    rw [same]; exact ih.place f

theorem Holds.writeAllocator (h : Holds s ev) (x : AllocatorSettings) : Holds s (ev.writeAllocator x) := by
  have stored := h.settings (fun s => { s with allocator := { s.allocator with settings := x } }) x rfl
  unfold Ev.writeAllocator; dsimp only
  refine stored.moves (Moves.wantingRecompute ?_)
  exact Moves.prims (Moves.foldl (fun b h => h.raiseCeiling _ b) _
    (Moves.foldl (fun b h => h.mismatchOnWrite _ _ b) _ .refl).syncAll) (Prims.foldl (fun b h => h.periodWritten b) _ .refl)

theorem writeAllocatorEntry_keeps : EntryKeeps writeAllocatorEntry := by
  intro s ev ev' i e c h hw
  simp only [writeAllocatorEntry, Except.ok.injEq, Prod.mk.injEq] at hw
  obtain ⟨rfl, -⟩ := hw
  exact h.writeAllocator _

theorem Kept.setBays (s : State) {f : Bay → Bay} (hf : ∀ y, (f y).alloc.target = y.alloc.target) :
    Kept s { s with bays := s.bays.map f } :=
  .of_same (target := fun b => by simp [State.bay, hf])

theorem Kept.writeTiming (s : State) (x : TimingSettings) : Kept s (s.writeTiming x) := by
  have timed : Kept s { s with timing := x } := .of_same
  have bays := timed.trans (Kept.setBays _ (f := fun y => (({ s with timing := x } : State).retime y).modDyn BayDyn.endRun)
    fun y => by simp [State.retime])
  unfold State.writeTiming; dsimp only
  exact (bays.trans (Kept.setNodes _ _)).trans (Prims.linkLossTests .refl).kept

theorem writeTimingEntry_keeps : EntryKeeps writeTimingEntry := by
  intro s ev ev' i e c h hw
  simp only [writeTimingEntry, Except.ok.injEq, Prod.mk.injEq] at hw
  obtain ⟨rfl, -⟩ := hw
  exact h.onState (.writeTiming _ _)

/-- The Fault Settings replaced, ALERT is evaluated afresh (R160, R163). -/
theorem Kept.writeFaultSettings (s : State) (x : FaultSettings) : Kept s (s.writeFaultSettings x) where
  pending := rfl
  bounded h := { h with }
  ordered := id
  alert _ := Recorder.alertLevel_iff _
  budget := id
  queue := id
  suspension := id

theorem Holds.writeFaults (h : Holds s ev) (r : Request) : Holds s (Ev.writeFaults r ev) := by
  unfold Ev.writeFaults; split
  · exact h.status r _
  · exact (h.stored r _).onState (.writeFaultSettings _ _)

theorem Kept.moveSelf (s : State) (x : Addr) : Kept s (s.moveSelf x) := by
  unfold State.moveSelf; split
  · exact .refl s
  · exact .setNodes s _

theorem writeControllerEntry_keeps : EntryKeeps writeControllerEntry := by
  intro s ev ev' i e c h hw
  unfold writeControllerEntry at hw; dsimp only at hw
  split at hw
  · cases hw
  · cases hw; exact (h.onState (f := (·.moveSelf _)) (.moveSelf _ _)).onState .of_same

/-! ## Operations -/

theorem Moves.openClosed (h : Moves a ev) (b : BayIx) : Moves a (ev.openClosed b) := by
  unfold Ev.openClosed; split
  · exact ((h.noteFault b _).setState b _).note b _
  · exact (((h.touch b).derive b).note b _).wantScan

theorem Holds.openAt (h : Holds s ev) (b : BayIx) (r : Request) : Holds s (Ev.openAt b r ev) := by
  unfold Ev.openAt; dsimp only; repeat' split
  · exact h.status r _
  · exact (h.moves (Moves.refl.openClosed b)).status r _
  · exact (h.moves (Moves.refl.modDyn b _).wantScan).status r _
  · exact h.status r _

theorem Moves.startClosing (h : Moves a ev) (b : BayIx) : Moves a (ev.startClosing b) := (h.touch b).modDyn b _

theorem Moves.closeAtEnd (h : Moves a ev) (b : BayIx) : Moves a (ev.closeAtEnd b) := by
  unfold Ev.closeAtEnd; dsimp only; repeat' split
  · exact h
  · exact ((h.touch b).closeBay b).note b _
  · exact h.startClosing b

theorem Moves.relocateActive (h : Moves a ev) (b : BayIx) : Moves a (ev.relocateActive b) := by
  unfold Ev.relocateActive; repeat' split
  · exact h
  · exact h.relocateOrDisplace b _
  · exact h

theorem Moves.closeNow (h : Moves a ev) (b : BayIx) : Moves a (ev.closeNow b) := by
  unfold Ev.closeNow; dsimp only; split
  · exact h.closeAtEnd b
  · exact ((h.startClosing b).relocateOrDisplace b _).relocateActive b

theorem Holds.forceEnd (h : Holds s ev) (b : BayIx) (r : Request) : Holds s (Ev.forceEnd b r ev) := by
  unfold Ev.forceEnd; dsimp only; repeat' split
  · exact h.status r _
  · exact h.status r _
  · exact h.status r _
  · exact (h.moves (Moves.refl.leaveSlot b _ _)).status r _

/-- The end of a suspension clears the flag and its copy together (R78, R151). -/
theorem Kept.resume (s : State) : Kept s (s.setSuspended false) where
  pending := rfl
  bounded h := { h with }
  ordered := id
  alert := id
  budget := id
  queue _ := ⟨rfl, fun v => Bool.noConfusion v⟩
  suspension _ := ⟨rfl, fun v => Bool.noConfusion v⟩

theorem Holds.endSuspension (h : Holds s ev) : Holds s ev.endSuspension := by
  have restored := h.onState (f := fun s => { s with bays := s.bays.map Bay.restore }) (Kept.setBays _ fun _ => rfl)
  exact (restored.onState (f := (·.setSuspended false)) (Kept.resume _)).moves Moves.refl.syncAll.wantRecompute

theorem Holds.restart (h : Holds s ev) (r : Request) : Holds s (Ev.restart r ev) := by
  unfold Ev.restart; repeat' split
  · exact h.status r _
  · exact h.endSuspension.status r _
  · exact h.status r _

theorem Holds.capRequest (h : Holds s ev) (r : Request) : Holds s (Ev.capRequest r ev) := by
  unfold Ev.capRequest; dsimp only; split
  · exact (h.settings (·.setCap none) _ rfl).stored r _
  · exact (h.settings (·.setCap _) _ rfl).stored r _

theorem Kept.clearLog (s : State) (v : Fin 3) : Kept s (s.clearLog v) where
  pending := rfl
  bounded h :=
    { h with
      lost := fun i => by
        rw [State.clearLog_writes, (Recorder.setLog_writes _ _ _).2.2, Table.get_set]
        split
        · exact Nat.zero_le _
        · exact h.lost i }
  ordered := id
  alert _ := s.clearLog_alertRight v
  budget := id
  queue := id
  suspension := id

theorem Kept.clearCounter (s : State) (c : Fin 2) : Kept s (s.clearCounter c) where
  pending := rfl
  bounded h :=
    { h with
      counts := fun i => by
        simp only [State.clearCounter_writes, Table.get_set]
        split
        · exact Nat.zero_le _
        · exact h.counts i }
  ordered := id
  alert := id
  budget := id
  queue := id
  suspension := id

theorem Moves.loseTicket (h : Moves a ev) (b : BayIx) (e : IndexEntry) : Moves a (Ev.loseTicket b ev e) :=
  (h.unindex e.ticket).holdNoticeTo _ _ _ _

theorem Kept.dueNow (s : State) (n : Option (Addr × NodeEntry)) : Kept s (s.dueNow n) := by
  unfold State.dueNow; split
  · exact .modContact s _ _
  · exact .refl s

theorem Moves.scrubState (h : Moves a ev) (b : BayIx) : Moves a (ev.scrubState b) := by
  unfold Ev.scrubState; dsimp only; repeat' split
  · exact h
  · exact (h.setState b _).note b _
  · exact ((h.noteFault b _).setState b _).note b _
  · exact ((h.note b _).closeBay b).wantScan
  · exact ((h.note b _).derive b).wantScan

theorem Moves.endDegraded (h : Moves a ev) : Moves a ev.endDegraded := by
  unfold Ev.endDegraded; split
  · exact h
  · exact (h.degraded false).wantScan

theorem Holds.scrubBay (h : Holds s ev) (b : BayIx) : Holds s (ev.scrubBay b) := by
  have lost := h.moves (Moves.foldl (f := Ev.loseTicket b) (fun e h => h.loseTicket b e) (ev.st.entriesAt b)
    (Moves.refl.touch b))
  have rebuilt := lost.moves ((((Moves.refl.modTimer b
    (fun t => { t.clearActive with displacement := none })).modDyn b BayDyn.rebuilt).reportCharging b
      false).reportSuspect b false)
  have due := (rebuilt.onState (f := fun s => s.dueNow (s.post b)) (.dueNow _ _)).onState
    (f := fun s => s.dueNow (s.sensor b)) (.dueNow _ _)
  exact due.moves ((Moves.ite (Moves.refl.noteEnd b .lost) .refl).scrubState b).endDegraded

end Sys2Proof.Machine
end

section
/-!
SUPPORT. Every command runs to a next state and keeps the invariants; with it the settlement of the statements about
every step and every command.
-/
namespace Sys2Proof.Machine

/-! ## Every command -/

theorem runs_nodeMap (s : State) : Runs s (execNodeMap s) :=
  .writeTable s writeNodeEntry_keeps 1 3 0 255

theorem runs_kindFilter (s : State) : Runs s (execKindFilter s) :=
  .writeTable s writeKindEntry_keeps 2 2 0 255

theorem runs_classTable (s : State) : Runs s (execClassTable s) :=
  .writeTable s writeClassEntry_keeps 3 9 0 3

theorem runs_bayConfiguration (s : State) : Runs s (execBayConfiguration s) :=
  .writeTable s writeBayEntry_keeps 4 4 1 128

theorem runs_allocatorSettings (s : State) : Runs s (execAllocatorSettings s) :=
  .writeTable s writeAllocatorEntry_keeps 5 14 0 0

theorem runs_timingSettings (s : State) : Runs s (execTimingSettings s) :=
  .writeTable s writeTimingEntry_keeps 6 9 0 0

theorem runs_faultSettings (s : State) : Runs s (execFaultSettings s) :=
  .takeManagement s _ fun r h => h.writeFaults r

theorem runs_controllerSettings (s : State) : Runs s (execControllerSettings s) :=
  .writeTable s writeControllerEntry_keeps 8 3 0 0

theorem runs_setTable (s : State) : Runs s (execSetTable s) :=
  .takeManagement s _ fun r h => h.status r _

theorem runs_getTable (s : State) : Runs s (execGetTable s) :=
  .takeManagement s _ fun _ h => h.answer _

theorem runs_openBay (s : State) : Runs s (execOpen s) :=
  .takeBayControl s 1 2 fun b r h => h.openAt b r

theorem runs_closeNow (s : State) : Runs s (execCloseNow s) :=
  .takeBayControl s 2 2 fun b r h => (h.moves (Moves.refl.closeNow b)).status r .ok

theorem runs_closeAtEnd (s : State) : Runs s (execCloseAtEnd s) :=
  .takeBayControl s 3 2 fun b r h => (h.moves (Moves.refl.closeAtEnd b)).status r .ok

theorem runs_forceEnd (s : State) : Runs s (execForceEnd s) :=
  .takeBayControl s 4 7 fun b r h => h.forceEnd b r

theorem runs_setEnable (s : State) : Runs s (execSetEnable s) :=
  .takeBayControl s 5 3 fun b r h => .ite (h.status r _) ((h.setEnable b _).status r .ok)

theorem runs_restart (s : State) : Runs s (execRestart s) :=
  .takeControl s 6 1 fun r h => h.restart r

theorem runs_setCap (s : State) : Runs s (execSetCap s) :=
  .takeControl s 7 3 fun r h => h.capRequest r

theorem runs_setTime (s : State) : Runs s (execSetTime s) :=
  .takeControl s 8 5 fun r h =>
    (h.onState (f := fun s => { s with siteOffset := BitVec.ofNat 32 (field32 r.payload 1) }) .of_same).answer _

theorem runs_clearLog (s : State) : Runs s (execClearLog s) := by
  refine .takeControl s 9 2 fun r h => ?_
  split
  · exact (h.onState (f := (·.clearLog _)) (.clearLog _ _)).status r .ok
  · exact h.status r .badIndex

theorem runs_clearCounter (s : State) : Runs s (execClearCounter s) := by
  refine .takeControl s 10 2 fun r h => ?_
  split
  · exact (h.onState (f := (·.clearCounter _)) (.clearCounter _ _)).status r .ok
  · exact h.status r .badIndex

theorem runs_scrub (s : State) : Runs s (execScrub s) :=
  .takeBayControl s 11 2 fun b r h => .ite ((h.scrubBay b).status r .ok) (h.status r .badIndex)

theorem runs_control (s : State) : Runs s (execControl s) :=
  .takeManagement s _ fun r h => h.status r .badTable

/-- Every command runs to a next state that keeps what `Safe` says. -/
theorem exec_runs (c : Instr) (s : State) : Runs s (exec c s) := by
  cases c
  case powerOnReset e => exact runs_powerOnReset e s
  case warmReset => exact runs_warmReset s
  case emergencyActive => exact runs_emergencyActive s
  case emergencyInactive => exact runs_emergencyInactive s
  case tick => exact runs_tick s
  case noShowExpiry n t v => exact runs_noShowExpiry n t v s
  case overstayExpiry n t v => exact runs_overstayExpiry n t v s
  case displacementCheck n t v => exact runs_displacementCheck n t v s
  case waitlistExpiry t v => exact runs_waitlistExpiry t v s
  case earlyArrivalExpiry t v => exact runs_earlyArrivalExpiry t v s
  case rotationExpiry n => exact runs_rotationExpiry n s
  case linkLossExpiry n => exact runs_linkLossExpiry n s
  case pollDue x => exact runs_pollDue x s
  case replyWindowClose => exact runs_replyWindowClose s
  case endOfSending => exact runs_endOfSending s
  case downlinkFrameStart => exact runs_downlinkFrameStart s
  case uplinkSendStart => exact runs_uplinkSendStart s
  case uplinkSendEnd => exact runs_uplinkSendEnd s
  case frameReception p chars => exact runs_frameReception p chars s
  case hold => exact runs_hold s
  case amend => exact runs_amend s
  case free => exact runs_free s
  case query => exact runs_query s
  case arrive => exact runs_arrive s
  case nodeMap => exact runs_nodeMap s
  case kindFilter => exact runs_kindFilter s
  case classTable => exact runs_classTable s
  case bayConfiguration => exact runs_bayConfiguration s
  case allocatorSettings => exact runs_allocatorSettings s
  case timingSettings => exact runs_timingSettings s
  case faultSettings => exact runs_faultSettings s
  case controllerSettings => exact runs_controllerSettings s
  case setTable => exact runs_setTable s
  case getTable => exact runs_getTable s
  case openBay => exact runs_openBay s
  case closeNow => exact runs_closeNow s
  case closeAtEnd => exact runs_closeAtEnd s
  case forceEnd => exact runs_forceEnd s
  case setEnable => exact runs_setEnable s
  case restart => exact runs_restart s
  case setCap => exact runs_setCap s
  case setTime => exact runs_setTime s
  case clearLog => exact runs_clearLog s
  case clearCounter => exact runs_clearCounter s
  case scrub => exact runs_scrub s
  case reset => exact runs_reset s
  case storageFault n d x => exact runs_storageFault n d x s
  case frameBegin p => exact runs_frameBegin p s
  case supplyLoss => exact runs_supplyLoss s
  case resetPinRelease => exact runs_resetPinRelease s
  case control => exact runs_control s

/-- What a step keeps: it idles, or runs the front command on the rest of the queue. -/
theorem step_keeps {P : State → Prop} (hq : ∀ (s : State) q, P s → P (s.withPending q))
    (hc : ∀ {s t}, Safe s t → P s → P t) {s t : State} (hs : P s) (h : step s = .next t) : P t := by
  unfold step at h
  split at h
  · cases h; exact hs
  · next c q _ =>
    obtain ⟨u, hu, safe⟩ := exec_runs c (s.withPending q)
    cases hu.symm.trans h
    exact hc safe (hq s q hs)

/-! ## The statements -/

/-- Settles O58: every command keeps the capacities, the order of the Waitlist and the ALERT rule. -/
theorem stepKeepsCapacitiesAndAlert : Obligations.StepKeepsCapacitiesAndAlert := by
  unfold Obligations.StepKeepsCapacitiesAndAlert
  refine ⟨fun s t hs h => ⟨?_, ?_⟩, fun s t hs h => ?_⟩
  · exact step_keeps (fun s q h => { h with }) (fun safe => safe.bounded) hs.1 h
  · exact step_keeps (fun s q h => h) (fun safe => safe.ordered) hs.2 h
  · exact step_keeps (fun s q h => h) (fun safe => safe.alert) hs h

/-- Settles O59: an event that changes the settings owes a recompute, and no other raises a target. -/
theorem stepKeepsTargetsWithinBudget : Obligations.StepKeepsTargetsWithinBudget := by
  unfold Obligations.StepKeepsTargetsWithinBudget
  exact fun s t hs h => step_keeps (fun s q h => h) (fun safe => safe.budget) hs h

/-- Settles O60: no bay joins the Charge Queue of a suspended part, and the recompute of an empty one gives only
targets of 0. -/
theorem stepKeepsSuspension : Obligations.StepKeepsSuspension := by
  unfold Obligations.StepKeepsSuspension
  exact fun s t hs h => step_keeps (fun s q h => h) (fun safe => safe.suspension) hs h

/-- Settles O2: every command runs to a next state, and none reads or writes the commands that wait. -/
theorem everyCommandCompletes : Obligations.EveryCommandCompletes := by
  unfold Obligations.EveryCommandCompletes
  intro c s
  obtain ⟨t, ht, safe⟩ := exec_runs c s
  exact ⟨t, ht, safe.pending⟩

/-- Settles O5: the power-on values meet each invariant, whether or not the part starts suspended. -/
theorem resetIsSafe : Obligations.ResetIsSafe := by
  unfold Obligations.ResetIsSafe
  exact fun e => ⟨State.powerOn_bounded e, State.powerOn_waitOrdered e, State.powerOn_alertRight e,
    State.powerOn_withinBudget e, State.powerOn_suspensionHolds e⟩

/-- Settles O1: a step looks at nothing but the front of its queue. -/
theorem stepRunsFrontCommand : Obligations.StepRunsFrontCommand := by
  unfold Obligations.StepRunsFrontCommand
  exact fun c q s => rfl

end Sys2Proof.Machine
end

section
/-!
SUPPORT. The end of an event that owes nothing: what the delivery of deadlines and the arbiter's choice change, and what
they leave (R59, R136). With it the settlement of the statement about the end of every event.
-/
namespace Sys2Proof.Machine

/-! ## The arbiter's choice -/

/-- `t` is `s` but for what the arbiter's choice may change: the sequence, the unacknowledged allotment, the repeat mark
and the state of delivery records, the scheduler, and the forward queue. -/
structure Chosen (s t : State) : Prop where
  rest : t = { s with
    bays := t.bays, scheduler := t.scheduler, downlink := { s.downlink with forward := t.downlink.forward } }
  bay : ∀ b, t.bay b = { s.bay b with
    delivery := { (s.bay b).delivery with
      sequence := (t.bay b).delivery.sequence, unacknowledged := (t.bay b).delivery.unacknowledged,
      repeatMark := (t.bay b).delivery.repeatMark, state := (t.bay b).delivery.state } }

theorem Chosen.refl (s : State) : Chosen s s := ⟨rfl, fun _ => rfl⟩

theorem Chosen.scheduler (h : Chosen s t) (f : Scheduler → Scheduler) : Chosen s (t.modScheduler f) := by
  obtain ⟨rest, bay⟩ := h
  refine ⟨?_, fun b => bay b⟩
  unfold State.modScheduler; rw [rest]

theorem State.chooseAllot_chosen (s : State) (b : BayIx) : Chosen s (s.chooseAllot b) := by
  unfold State.chooseAllot; split
  · exact .refl s
  · refine ⟨rfl, fun c => ?_⟩
    simp only [State.takeTag, State.begin, State.setTransaction, State.modScheduler, State.modDelivery, State.bay_def]
    simp only [← State.bay_def, State.bay_modBay]
    by_cases same : c = b <;> simp [same]

theorem State.serve_chosen {s t : State} (c : Source) (h : s.serve c = some t) : Chosen s t := by
  unfold State.serve at h
  split at h
  · obtain ⟨b, _, rfl⟩ := Option.map_eq_some_iff.1 h; exact s.chooseAllot_chosen b
  · split at h
    · cases h
    · cases h; unfold State.chooseForward; split
      · exact .refl s
      · exact ⟨rfl, fun _ => rfl⟩
  · obtain ⟨o, _, rfl⟩ := Option.map_eq_some_iff.1 h; exact ⟨rfl, fun _ => rfl⟩

theorem State.arbitrate_chosen (s : State) : Chosen s s.arbitrate := by
  rcases s.arbitrate_cases with h | ⟨b, _, h⟩ | ⟨_, c, h⟩
  · rw [h]; exact .refl s
  · rw [h]; exact s.chooseAllot_chosen b
  · obtain ⟨u, hu, he⟩ := Option.map_eq_some_iff.1 h
    rw [← he]; exact (State.serve_chosen c hu).scheduler _

/-- The fields that the arbiter's choice leaves. -/
theorem State.arbitrate_leaves (s : State) :
    s.arbitrate.now = s.now ∧ s.arbitrate.index = s.index ∧ s.arbitrate.waitlist = s.waitlist
    ∧ s.arbitrate.early = s.early ∧ s.arbitrate.cursors = s.cursors ∧ s.arbitrate.requests = s.requests
    ∧ s.arbitrate.expiries = s.expiries ∧ s.arbitrate.allocator = s.allocator ∧ s.arbitrate.nodes = s.nodes
    ∧ s.arbitrate.uplink = s.uplink ∧ s.arbitrate.noticeTag = s.noticeTag ∧ s.arbitrate.recorder = s.recorder
    ∧ s.arbitrate.scrubber = s.scrubber ∧ s.arbitrate.management = s.management
    ∧ s.arbitrate.controller = s.controller ∧ s.arbitrate.suspension = s.suspension := by
  have rest := s.arbitrate_chosen.rest
  generalize s.arbitrate = t at rest
  rw [rest]
  exact ⟨rfl, rfl, rfl, rfl, rfl, rfl, rfl, rfl, rfl, rfl, rfl, rfl, rfl, rfl, rfl, rfl⟩

/-- What the arbiter's choice leaves of a bay. -/
theorem State.arbitrate_bay (s : State) (b : BayIx) :
    (s.arbitrate.bay b).dyn = (s.bay b).dyn ∧ (s.arbitrate.bay b).check = (s.bay b).check
    ∧ (s.arbitrate.bay b).timer = (s.bay b).timer ∧ (s.arbitrate.bay b).alloc = (s.bay b).alloc
    ∧ (s.arbitrate.bay b).config = (s.bay b).config
    ∧ (s.arbitrate.bay b).delivery.target = (s.bay b).delivery.target
    ∧ (s.arbitrate.bay b).delivery.inForce = (s.bay b).delivery.inForce
    ∧ (s.arbitrate.bay b).delivery.drawn = (s.bay b).delivery.drawn
    ∧ (s.arbitrate.bay b).delivery.overdrawCount = (s.bay b).delivery.overdrawCount
    ∧ (s.arbitrate.bay b).delivery.linkLost = (s.bay b).delivery.linkLost := by
  have bay := s.arbitrate_chosen.bay b
  generalize s.arbitrate.bay b = y at bay
  rw [bay]
  exact ⟨rfl, rfl, rfl, rfl, rfl, rfl, rfl, rfl, rfl, rfl⟩

/-! ## The delivery of deadlines -/

@[simp] theorem State.deliverDue_leaves (s : State) :
    s.deliverDue.now = s.now ∧ s.deliverDue.index = s.index ∧ s.deliverDue.cursors = s.cursors
    ∧ s.deliverDue.requests = s.requests ∧ s.deliverDue.allocator = s.allocator ∧ s.deliverDue.nodes = s.nodes
    ∧ s.deliverDue.uplink = s.uplink ∧ s.deliverDue.downlink = s.downlink ∧ s.deliverDue.noticeTag = s.noticeTag
    ∧ s.deliverDue.recorder = s.recorder ∧ s.deliverDue.scrubber = s.scrubber
    ∧ s.deliverDue.management = s.management ∧ s.deliverDue.controller = s.controller
    ∧ s.deliverDue.scheduler = s.scheduler ∧ s.deliverDue.suspension = s.suspension
    ∧ s.deliverDue.pending = s.pending ∧ s.deliverDue.resetPinTaken = s.resetPinTaken :=
  ⟨rfl, rfl, rfl, rfl, rfl, rfl, rfl, rfl, rfl, rfl, rfl, rfl, rfl, rfl, rfl, rfl, rfl⟩

theorem State.deliverDue_bay (s : State) (b : BayIx) : s.deliverDue.bay b = (s.bay b).deliver s.now :=
  Table.get_map _ _ _

/-- The end of an event that owes nothing. -/
abbrev State.settle (s : State) : State := s.deliverDue.arbitrate

theorem State.settle_still (s : State) : s.settle.still = s.still := by
  have := Ev.finish_quiet (Ev.start s) rfl rfl rfl
  exact (congrArg State.still this).symm.trans (Ev.finish_still (Ev.start s))

theorem State.settle_sameRecords (s : State) : SameRecords s s.settle :=
  s.deliverDue_sameRecords.trans s.deliverDue.arbitrate_sameRecords

theorem State.settle_timer (s : State) (b : BayIx) : (s.settle.bay b).timer = ((s.bay b).deliver s.now).timer := by
  rw [(s.deliverDue.arbitrate_bay b).2.2.1, s.deliverDue_bay]

theorem State.settle_expiries (s : State) : s.settle.expiries = s.deliverDue.expiries :=
  s.deliverDue.arbitrate_leaves.2.2.2.2.2.2.1

theorem State.settle_waitlist (s : State) : s.settle.waitlist = s.deliverDue.waitlist :=
  s.deliverDue.arbitrate_leaves.2.2.1

theorem State.settle_early (s : State) : s.settle.early = s.deliverDue.early :=
  s.deliverDue.arbitrate_leaves.2.2.2.1

theorem State.settle_uplink (s : State) : s.settle.uplink = s.uplink :=
  s.deliverDue.arbitrate_leaves.2.2.2.2.2.2.2.2.2.1

theorem State.settle_recorder (s : State) : s.settle.recorder = s.recorder :=
  s.deliverDue.arbitrate_leaves.2.2.2.2.2.2.2.2.2.2.2.1

theorem State.settle_allocator (s : State) : s.settle.allocator = s.allocator :=
  s.deliverDue.arbitrate_leaves.2.2.2.2.2.2.2.1

theorem State.settle_alloc (s : State) (b : BayIx) : (s.settle.bay b).alloc = (s.bay b).alloc := by
  rw [(s.deliverDue.arbitrate_bay b).2.2.2.1, s.deliverDue_bay]; rfl

theorem State.settle_index (s : State) : s.settle.index = s.index := s.settle_sameRecords.index

theorem State.settle_noticeTag (s : State) : s.settle.noticeTag = s.noticeTag :=
  s.deliverDue.arbitrate_leaves.2.2.2.2.2.2.2.2.2.2.1

theorem State.settle_scrubber (s : State) : s.settle.scrubber = s.scrubber :=
  s.deliverDue.arbitrate_leaves.2.2.2.2.2.2.2.2.2.2.2.2.1

/-! ## Deadlines that are due -/

theorem atOrAfter_iff (t u : Time) : atOrAfter t u = true ↔ (t - u).toNat < 2 ^ 31 := by
  simp [atOrAfter]

theorem clearDue_due {now : Time} {d : Deadline} (h : atOrAfter now d.due = true) : clearDue now (some d) = none := by
  simp [clearDue, Option.filter, h]

theorem clearDue_ahead {now : Time} {d : Deadline} (h : atOrAfter now d.due = false) :
    clearDue now (some d) = some d := by
  simp [clearDue, Option.filter, h]

theorem Rotation.fallDue_set (now v : Time) :
    Rotation.fallDue now (.set v) = if atOrAfter now v then .due v else .set v := rfl

/-- What is delivered for a bay: the deadlines of its holds and its rotation deadline that are due (R59, R66). -/
theorem Bay.mem_dueExpiries {now : Time} {b : BayIx} {y : Bay} {x : Expiry} :
    x ∈ y.dueExpiries now b ↔
      (∃ d, y.timer.noShow = some d ∧ atOrAfter now d.due = true ∧ x = .noShow b d.owner d.due)
      ∨ (∃ d, y.timer.overstay = some d ∧ atOrAfter now d.due = true ∧ x = .overstay b d.owner d.due)
      ∨ (∃ d, y.timer.displacement = some d ∧ atOrAfter now d.due = true ∧ x = .displacement b d.owner d.due)
      ∨ (∃ v, y.timer.rotation = .set v ∧ atOrAfter now v = true ∧ x = .rotation b) := by
  have hold (o : Option Deadline) (f : Option Ticket → Time → Expiry) :
      x ∈ (match o with | some d => if atOrAfter now d.due then [f d.owner d.due] else [] | none => [])
        ↔ ∃ d, o = some d ∧ atOrAfter now d.due = true ∧ x = f d.owner d.due := by
    cases o with
    | none => simp
    | some d => by_cases due : atOrAfter now d.due = true <;> simp [due]
  have rotation : x ∈ (match y.timer.rotation with
      | .set v => if atOrAfter now v then [Expiry.rotation b] else []
      | _ => []) ↔ ∃ v, y.timer.rotation = .set v ∧ atOrAfter now v = true ∧ x = .rotation b := by
    cases y.timer.rotation with
    | clear | due => simp
    | set v => by_cases due : atOrAfter now v = true <;> simp [due]
  unfold Bay.dueExpiries
  simp only [List.mem_append, or_assoc]
  exact or_congr (hold _ (.noShow b)) (or_congr (hold _ (.overstay b)) (or_congr (hold _ (.displacement b)) rotation))

/-- The expiries that wait when deadlines have been delivered (R59). -/
theorem State.mem_deliverDue_expiries {s : State} {x : Expiry} :
    x ∈ s.deliverDue.expiries ↔
      x ∈ s.expiries ∨ (∃ b, x ∈ (s.bay b).dueExpiries s.now b)
      ∨ (∃ e ∈ s.waitlist, ∃ t v, e.hold.ticket = some t ∧ e.deadline = some v ∧ atOrAfter s.now v = true
          ∧ x = .waitlist t v)
      ∨ (∃ e ∈ s.early, ∃ v, e.deadline = some v ∧ atOrAfter s.now v = true ∧ x = .early e.ticket v) := by
  have waits (e : WaitEntry) : (match e.hold.ticket, e.deadline with
      | some t, some v => if atOrAfter s.now v then some (Expiry.waitlist t v) else none
      | _, _ => none) = some x ↔ ∃ t v, e.hold.ticket = some t ∧ e.deadline = some v ∧ atOrAfter s.now v = true
        ∧ x = .waitlist t v := by
    cases e.hold.ticket with
    | none => simp
    | some t =>
      cases e.deadline with
      | none => simp
      | some v => by_cases due : atOrAfter s.now v = true <;> simp [due, eq_comm (a := x)]
  have earlier (e : EarlyEntry) : (match e.deadline with
      | some v => if atOrAfter s.now v then some (Expiry.early e.ticket v) else none
      | none => none) = some x ↔ ∃ v, e.deadline = some v ∧ atOrAfter s.now v = true ∧ x = .early e.ticket v := by
    cases e.deadline with
    | none => simp
    | some v => by_cases due : atOrAfter s.now v = true <;> simp [due, eq_comm (a := x)]
  unfold State.deliverDue
  simp only [List.mem_append, List.mem_flatMap, List.mem_filterMap, or_assoc]
  refine or_congr .rfl (or_congr ?_ (or_congr ?_ ?_))
  · simp [allBays]
  · exact exists_congr fun e => and_congr_right fun _ => waits e
  · exact exists_congr fun e => and_congr_right fun _ => earlier e

theorem State.expiries_prefix (s : State) : s.expiries <+: s.settle.expiries := by
  rw [s.settle_expiries]
  unfold State.deliverDue
  simp only [List.append_assoc]
  exact List.prefix_append _ _

theorem not_atOrAfter (t u : Time) : (!atOrAfter t u) = decide (2 ^ 31 ≤ (t - u).toNat) := by
  rw [atOrAfter, ← decide_not, decide_eq_decide, Nat.not_lt]; rfl

/-! ## The statement -/

/-- The first clause: what the end of an event leaves alone. -/
theorem State.settle_leaves (s : State) :
    s.settle.still = s.still ∧ s.settle.dyns = s.dyns ∧ s.settle.waitHolds = s.waitHolds ∧ s.settle.index = s.index
      ∧ s.settle.cursors = s.cursors ∧ s.settle.allocator = s.allocator ∧ s.settle.uplink = s.uplink
      ∧ s.settle.noticeTag = s.noticeTag ∧ s.settle.recorder = s.recorder ∧ s.settle.scrubber = s.scrubber
      ∧ s.settle.requests = s.requests ∧ s.settle.management = s.management
      ∧ (∀ b, (s.settle.bay b).alloc = (s.bay b).alloc ∧ (s.settle.bay b).check = (s.bay b).check
          ∧ (s.settle.bay b).delivery.target = (s.bay b).delivery.target
          ∧ (s.settle.bay b).delivery.inForce = (s.bay b).delivery.inForce) := by
  have same := s.settle_sameRecords
  refine ⟨s.settle_still, same.dyns, same.holds, same.index, same.cursors, s.settle_allocator, s.settle_uplink,
    s.settle_noticeTag, s.settle_recorder, s.settle_scrubber, congrArg Still.requests s.settle_still,
    congrArg Still.management s.settle_still, fun b => ⟨s.settle_alloc b, same.check b, ?_, ?_⟩⟩
  · rw [(s.deliverDue.arbitrate_bay b).2.2.2.2.2.1, s.deliverDue_bay]; rfl
  · rw [(s.deliverDue.arbitrate_bay b).2.2.2.2.2.2.1, s.deliverDue_bay]; rfl

/-- Settles O26: the choice of the arbiter leaves every deadline, and the delivery takes just those that are due. -/
theorem eventEnd : Obligations.EventEnd := by
  unfold Obligations.EventEnd
  refine ⟨State.settle_leaves, fun s b => ?_, fun s => ?_⟩
  · have told {x : Expiry} (h : x ∈ (s.bay b).dueExpiries s.now b) : x ∈ s.settle.expiries := by
      rw [s.settle_expiries]; exact State.mem_deliverDue_expiries.2 (.inr (.inl ⟨b, h⟩))
    simp only [s.settle_timer b, Bay.deliver, ← atOrAfter_iff, Bool.not_eq_true]
    refine ⟨fun d set due => ⟨?_, ?_⟩, fun d set due => ⟨?_, ?_⟩, fun d set due => ⟨?_, ?_⟩, fun v set due => ⟨?_, ?_⟩,
      fun d set ahead => ?_, fun d set ahead => ?_, fun d set ahead => ?_, fun v set ahead => ?_, fun v set => ?_⟩
    · rw [set, clearDue_due due]
    · exact told (Bay.mem_dueExpiries.2 (.inl ⟨d, set, due, rfl⟩))
    · rw [set, clearDue_due due]
    · exact told (Bay.mem_dueExpiries.2 (.inr (.inl ⟨d, set, due, rfl⟩)))
    · rw [set, clearDue_due due]
    · exact told (Bay.mem_dueExpiries.2 (.inr (.inr (.inl ⟨d, set, due, rfl⟩))))
    · rw [set, Rotation.fallDue_set, due, if_pos rfl]
    · exact told (Bay.mem_dueExpiries.2 (.inr (.inr (.inr ⟨v, set, due, rfl⟩))))
    · rw [set, clearDue_ahead ahead]
    · rw [set, clearDue_ahead ahead]
    · rw [set, clearDue_ahead ahead]
    · rw [set, Rotation.fallDue_set, ahead, if_neg Bool.false_ne_true]
    · rw [set]; rfl
  · simp only [← not_atOrAfter, ← atOrAfter_iff]
    refine ⟨s.settle_waitlist, s.settle_early, fun e he u v ticket set due => ?_, fun e he v set due => ?_,
      s.expiries_prefix, fun x hx => ?_⟩
    · rw [s.settle_expiries]
      exact State.mem_deliverDue_expiries.2 (.inr (.inr (.inl ⟨e, he, u, v, ticket, set, due, rfl⟩)))
    · rw [s.settle_expiries]
      exact State.mem_deliverDue_expiries.2 (.inr (.inr (.inr ⟨e, he, v, set, due, rfl⟩)))
    · rw [s.settle_expiries] at hx
      rcases State.mem_deliverDue_expiries.1 hx with old | ⟨b, hb⟩ | ⟨e, he, t, v, ticket, set, due, rfl⟩
        | ⟨e, he, v, set, due, rfl⟩
      · exact .inl old
      · rcases Bay.mem_dueExpiries.1 hb with ⟨d, set, due, rfl⟩ | ⟨d, set, due, rfl⟩ | ⟨d, set, due, rfl⟩
          | ⟨v, set, due, rfl⟩
        · exact .inr ⟨set, due⟩
        · exact .inr ⟨set, due⟩
        · exact .inr ⟨set, due⟩
        · exact .inr ⟨v, set, due⟩
      · exact .inr ⟨⟨e, he, ticket, set⟩, due⟩
      · exact .inr ⟨⟨e, he, rfl, set⟩, due⟩

end Sys2Proof.Machine
end

section
/-!
SUPPORT. The CRC-16 of R101: a byte shifts out of a register that holds it alone, and no two registers and no two bytes
give the same next register. With it the settlement of the statements about the CHECK of a frame, about a frame sent and
received, and about a frame with one altered byte.
-/
namespace Sys2Proof.Machine

/-! ## Two bytes of the register -/

theorem be16_bytes (c : BitVec 16) : be16 c.toNat = [c.extractLsb' 8 8, c.extractLsb' 0 8] := by
  have high : byteOf (c.toNat / 256) = c.extractLsb' 8 8 := by
    apply BitVec.eq_of_toNat_eq; simp [byteOf, Nat.shiftRight_eq_div_pow]
  have low : byteOf c.toNat = c.extractLsb' 0 8 := by
    apply BitVec.eq_of_toNat_eq; simp [byteOf]
  rw [be16, high, low]

theorem extract_append (hi lo : Byte) :
    (hi ++ lo).extractLsb' 8 8 = hi ∧ (hi ++ lo).extractLsb' 0 8 = lo := by
  constructor
  · exact BitVec.extractLsb'_append_eq_left
  · exact BitVec.extractLsb'_append_eq_right

theorem append_extract (c : BitVec 16) : c.extractLsb' 8 8 ++ c.extractLsb' 0 8 = c := by
  have h := BitVec.extractLsb'_append_extractLsb'_eq_extractLsb' (x := c) (start₁ := 0) (len₁ := 8) (start₂ := 8)
    (len₂ := 8) rfl
  rw [h]; simp

/-- Two received bytes are the register's exactly when they are its halves in order. -/
theorem be16_eq_iff (c : BitVec 16) (hi lo : Byte) : be16 c.toNat = [hi, lo] ↔ c = hi ++ lo := by
  rw [be16_bytes, List.cons.injEq, List.cons.injEq]
  constructor
  · rintro ⟨rfl, rfl, -⟩; exact (append_extract c).symm
  · rintro rfl; exact ⟨(extract_append hi lo).1, (extract_append hi lo).2, rfl⟩

/-! ## A register that holds one byte -/

theorem crcShift_small {c : BitVec 16} (h : c.toNat < 32768) : crcShift c = c <<< 1 ∧ (c <<< 1).toNat = 2 * c.toNat := by
  have top : c.msb = false := by rw [BitVec.msb_eq_false_iff_two_mul_lt]; omega
  refine ⟨by rw [crcShift, top]; rfl, ?_⟩
  rw [BitVec.toNat_shiftLeft, Nat.shiftLeft_eq]; omega

/-- Eight shifts of a register below 256 bring it up by one byte. -/
theorem crcShift_eight {c : BitVec 16} (h : c.toNat < 256) :
    crcShift (crcShift (crcShift (crcShift (crcShift (crcShift (crcShift (crcShift c))))))) = c <<< 8 := by
  have step {c : BitVec 16} (n : Nat) (hn : n < 32768) (hc : c.toNat = n) : (crcShift c).toNat = 2 * n := by
    obtain ⟨eq, val⟩ := crcShift_small (hc ▸ hn); rw [eq, val, hc]
  apply BitVec.eq_of_toNat_eq
  generalize hn : c.toNat = n at h
  have shifted : (c <<< 8).toNat = 256 * n := by
    rw [BitVec.toNat_shiftLeft, Nat.shiftLeft_eq, hn]; omega
  rw [shifted]
  have h1 := step n (by omega) hn
  have h2 := step _ (by omega) h1
  have h3 := step _ (by omega) h2
  have h4 := step _ (by omega) h3
  have h5 := step _ (by omega) h4
  have h6 := step _ (by omega) h5
  have h7 := step _ (by omega) h6
  have h8 := step _ (by omega) h7
  rw [h8]; omega

/-- A byte that meets itself in the upper half of the register leaves the lower half, shifted up. -/
theorem crcByte_cancel (hi lo : Byte) : crcByte (hi ++ lo) hi = lo.zeroExtend 16 <<< 8 := by
  have low : (hi ++ lo) ^^^ (hi.zeroExtend 16 <<< 8) = lo.zeroExtend 16 := by
    apply BitVec.eq_of_getLsbD_eq
    intro i hi16
    simp only [BitVec.getLsbD_xor, BitVec.getLsbD_append, BitVec.getLsbD_shiftLeft, BitVec.truncate_eq_setWidth,
      BitVec.getLsbD_setWidth]
    by_cases below : i < 8
    · simp [below, hi16]
    · simp [below, hi16, BitVec.getLsbD_of_ge lo i (by omega)]
      intro _; omega
  have small : (lo.zeroExtend 16 : BitVec 16).toNat < 256 := by
    have := lo.isLt
    show (lo.setWidth 16).toNat < 256
    rw [BitVec.toNat_setWidth]; omega
  unfold crcByte; dsimp only
  rw [low, crcShift_eight small]

/-- The two bytes of the register, taken in, leave it 0 (R101). -/
theorem crc16_check (bs : List Byte) : crc16 (bs ++ be16 (crc16 bs).toNat) = 0 := by
  have taken : crc16 (bs ++ be16 (crc16 bs).toNat)
      = crcByte (crcByte (crc16 bs) ((crc16 bs).extractLsb' 8 8)) ((crc16 bs).extractLsb' 0 8) := by
    rw [be16_bytes, crc16, List.foldl_append]; rfl
  have whole := append_extract (crc16 bs)
  rw [taken]
  generalize (crc16 bs).extractLsb' 8 8 = hi at whole ⊢
  generalize (crc16 bs).extractLsb' 0 8 = lo at whole ⊢
  have upper : (lo.zeroExtend 16 <<< 8 : BitVec 16) = lo ++ (0 : Byte) := by
    apply BitVec.eq_of_getLsbD_eq
    intro i hi16
    simp only [BitVec.getLsbD_append, BitVec.getLsbD_shiftLeft, BitVec.truncate_eq_setWidth, BitVec.getLsbD_setWidth]
    by_cases below : i < 8 <;> simp [below, hi16]
    intro _; omega
  rw [← whole, crcByte_cancel, upper, crcByte_cancel]
  rfl

/-! ## No two registers and no two bytes give the same next register -/

theorem crcShift_injective : Function.Injective crcShift := by
  have bit0 (c : BitVec 16) : (crcShift c).getLsbD 0 = c.msb := by
    unfold crcShift; split <;> simp_all
  have bits (c : BitVec 16) (i : Nat) (h : i < 15) :
      (crcShift c).getLsbD (i + 1) = ((c.msb && (0x1021 : BitVec 16).getLsbD (i + 1)) ^^ c.getLsbD i) := by
    have inside : i + 1 < 16 := by omega
    unfold crcShift; split
    · next top => simp [top, inside, Bool.xor_comm, BitVec.getLsbD_eq_getElem (Nat.lt_of_succ_lt inside)]
    · next top => simp [top, inside, BitVec.getLsbD_eq_getElem (Nat.lt_of_succ_lt inside)]
  intro a b same
  have top : a.msb = b.msb := by rw [← bit0 a, ← bit0 b, same]
  apply BitVec.eq_of_getLsbD_eq
  intro i h
  by_cases last : i = 15
  · subst last; simpa [BitVec.msb_eq_getLsbD_last] using top
  · have := congrArg (BitVec.getLsbD · (i + 1)) same
    simp only [bits _ i (by omega), top] at this
    simpa using this

theorem crcByte_register_injective (x : Byte) : Function.Injective (crcByte · x) := by
  intro a b same
  have shifts := crcShift_injective
  have := shifts (shifts (shifts (shifts (shifts (shifts (shifts (shifts same)))))))
  simpa using this

theorem crcByte_byte_injective (c : BitVec 16) : Function.Injective (crcByte c) := by
  intro x y same
  have shifts := crcShift_injective
  have upper : (x.zeroExtend 16 <<< 8 : BitVec 16) = y.zeroExtend 16 <<< 8 := by
    have := shifts (shifts (shifts (shifts (shifts (shifts (shifts (shifts same)))))))
    simpa using this
  apply BitVec.eq_of_getLsbD_eq
  intro i h
  have := congrArg (BitVec.getLsbD · (i + 8)) upper
  simpa [show i + 8 < 16 by omega, show i < 16 by omega] using this

theorem foldl_crcByte_injective (bs : List Byte) : Function.Injective (fun c => bs.foldl crcByte c) := by
  induction bs with
  | nil => exact fun _ _ same => same
  | cons x bs ih => exact fun a b same => crcByte_register_injective x (ih same)

/-- One altered byte gives another CRC (R101). -/
theorem crc16_set_ne {bs : List Byte} {i : Nat} {x : Byte} (h : i < bs.length) (ne : bs[i]? ≠ some x) :
    crc16 (bs.set i x) ≠ crc16 bs := by
  intro same
  have split (y : Byte) : crc16 (bs.set i y)
      = (bs.drop (i + 1)).foldl crcByte (crcByte ((bs.take i).foldl crcByte 0xFFFF) y) := by
    rw [List.set_eq_take_append_cons_drop, if_pos h, crc16, List.foldl_append]; rfl
  have kept : bs.set i bs[i] = bs := List.set_getElem_self h
  rw [← kept, List.set_set, split, split] at same
  have bytes := crcByte_byte_injective _ (foldl_crcByte_injective _ same)
  exact ne (by rw [List.getElem?_eq_getElem h, bytes])

/-! ## The test of a received CHECK -/

theorem checkPasses_iff (bs : List Byte) (hi lo : Byte) :
    checkPasses (bs ++ [hi, lo]) = true ↔ crc16 bs = hi ++ lo := by
  have len : (bs ++ [hi, lo]).length - 2 = bs.length := by simp
  unfold checkPasses; dsimp only
  rw [len, List.take_left, List.drop_left, beq_iff_eq]
  exact be16_eq_iff _ _ _

/-- A frame's bytes: its body and the two bytes of its CHECK. -/
theorem Frame.bytes_eq (f : Frame) :
    f.bytes = f.body ++ [(crc16 f.body).extractLsb' 8 8, (crc16 f.body).extractLsb' 0 8] := by
  rw [Frame.bytes, Frame.check, be16_bytes]

/-- Settles O8: the CHECK bytes cancel the register, and the test compares it with them. -/
theorem frameCheck : Obligations.FrameCheck := by
  unfold Obligations.FrameCheck
  exact ⟨fun f => crc16_check f.body, by decide +kernel, Frame.bytes_eq, checkPasses_iff⟩

/-! ## Reception -/

theorem Frame.body_length (f : Frame) : f.body.length = f.payload.length + 5 := by simp [Frame.body]

theorem Frame.bytes_length (f : Frame) : f.bytes.length = f.payload.length + 7 := by
  simp [Frame.bytes_eq, Frame.body_length]

theorem map_data (bs : List Byte) : (bs.map (⟨·, false⟩ : Byte → RxChar)).map (·.data) = bs := by
  simp [Function.comp_def]

theorem any_faulty (bs : List Byte) : (bs.map (⟨·, false⟩ : Byte → RxChar)).any (·.faulty) = false := by
  simp

/-- A run of 7 to 55 faultless characters whose CHECK fails (R103). -/
theorem receive_checkFails {bs : List Byte} (h7 : 7 ≤ bs.length) (h55 : bs.length ≤ 55) (fails : checkPasses bs = false) :
    receive (bs.map (⟨·, false⟩)) = .error .frameCheck := by
  have long : ¬ (bs.length < 7 ∨ 55 < bs.length) := by omega
  unfold receive
  simp only [map_data, any_faulty, fails, Config.receiveBuffer, long, if_false, Bool.false_eq_true, Bool.not_false,
    if_true]

/-- Settles O9: the four tests of R103 pass on a frame that the part could send. -/
theorem frameRoundTrip : Obligations.FrameRoundTrip := by
  unfold Obligations.FrameRoundTrip
  intro f short
  have passes : checkPasses f.bytes = true := by
    rw [f.bytes_eq, checkPasses_iff]; exact (append_extract _).symm
  have len : (byteOf f.payload.length).toNat = f.payload.length := by simp [byteOf]; omega
  have long : ¬ (f.bytes.length < 7 ∨ 55 < f.bytes.length) := by rw [f.bytes_length]; omega
  have fits : ¬ (48 < f.payload.length ∨ f.payload.length + 7 ≠ f.bytes.length) := by rw [f.bytes_length]; omega
  have shape : f.bytes = f.dest :: f.src :: f.kind :: f.tag :: byteOf f.payload.length :: (f.payload ++ be16 f.check.toNat) := rfl
  unfold receive Frame.received
  simp only [map_data, any_faulty, passes, Config.receiveBuffer, long, if_false, Bool.false_eq_true, Bool.not_true]
  rw [shape] at fits ⊢
  simp only [len, Config.maxPayload, fits, if_false, List.take_left]

/-- Settles O10: an altered body gives another CRC than the CHECK that was sent, and an altered CHECK another CHECK than
the CRC of the body that was sent. -/
theorem alteredByteIsCaught : Obligations.AlteredByteIsCaught := by
  unfold Obligations.AlteredByteIsCaught
  intro f i x short inside altered
  have sent := f.bytes_length
  refine receive_checkFails (by rw [List.length_set]; omega) (by rw [List.length_set]; omega) ?_
  rw [Bool.eq_false_iff]
  intro passes
  have body := f.body_length
  rw [f.bytes_eq] at passes altered inside
  by_cases early : i < f.body.length
  · rw [List.set_append_left _ _ early, checkPasses_iff, append_extract] at passes
    rw [List.getElem?_append_left early] at altered
    exact crc16_set_ne early altered passes
  · rw [List.set_append_right _ _ (by omega)] at passes
    rw [List.getElem?_append_right (by omega)] at altered
    have place : i - f.body.length = 0 ∨ i - f.body.length = 1 := by
      simp only [List.length_append, List.length_cons, List.length_nil] at inside; omega
    rcases place with h | h <;> rw [h] at passes altered
    · rw [List.set_cons_zero, checkPasses_iff] at passes
      exact altered (by rw [passes, (extract_append _ _).1]; rfl)
    · rw [List.set_cons_succ, List.set_cons_zero, checkPasses_iff] at passes
      exact altered (by rw [passes, (extract_append _ _).2]; rfl)

end Sys2Proof.Machine
end

section
/-!
SUPPORT. The power-on values item by item, the resets by pin and supply, and the storage fault. With them the settlement
of the statements about power-on reset, its values, the RESET pin and the supply, and the storage fault.
-/
namespace Sys2Proof.Machine

/-! ## Commands by their names -/

theorem exec_powerOnReset (e : Bool) (s : State) : exec (.powerOnReset e) s = execPowerOnReset e s := rfl
theorem exec_supplyLoss (s : State) : exec .supplyLoss s = execSupplyLoss s := rfl
theorem exec_resetPinRelease (s : State) : exec .resetPinRelease s = execResetPinRelease s := rfl
theorem exec_emergencyInactive (s : State) : exec .emergencyInactive s = execEmergencyInactive s := rfl
theorem exec_storageFault (n : Byte) (d : BayDyn) (w : BitVec 16) (s : State) :
    exec (.storageFault n d w) s = execStorageFault n d w s := rfl

/-! ## Power-on reset -/

/-- An event that only logs an error (R159). -/
theorem Ev.finish_log (s : State) (e : ErrorReport) : ((Ev.start s).log e).finish = (s.logError e).settle := by
  rw [Ev.finish_quiet _ (by simp [Ev.start]) (by simp [Ev.start]) (by simp [Ev.start]), Ev.log_st _ _ rfl]; rfl

/-- What logging an error leaves. -/
theorem State.logError_talks (s : State) (e : ErrorReport) : Talks s (s.logError e) := by
  have := Ev.log_talks (Ev.start s) e
  rw [Ev.log_st _ _ rfl] at this; exact this

/-- The FAULT-NOTICE of the EMERGENCY-ENTERED that a part logs which starts suspended. -/
def bootNotice : Frame := ⟨0xF1, 0xF0, Kind.faultNotice, 0, [2, 16, 0, 0, 0, 0, 0, 0, 0, 0, 0, 0, 0]⟩

/-- An error report goes by nothing of the commands that wait. -/
theorem State.recordError_withPending (s : State) (q : List Instr) (e : ErrorReport) :
    (s.withPending q).recordError e = ((s.recordError e).1.withPending q, (s.recordError e).2) := by
  unfold State.recordError State.buildNotice State.withPending; dsimp only
  repeat' split
  all_goals rfl

theorem powerOn_recordError :
    let r := (State.powerOn true).recordError { kind := .emergencyEntered }
    (r.1.recorder.logs.get 2).first = some ⟨.emergencyEntered, 0, none, none⟩ ∧ r.1.recorder.alert = true
      ∧ r.2 = some bootNotice ∧ r.1.uplink.fifo = [] := by
  refine ⟨?_, ?_, ?_, ?_⟩ <;> rfl

/-- The EMERGENCY-ENTERED that a part logs which starts suspended. -/
theorem State.powerUp_recordError (s : State) :
    let r := (s.powerUp true).recordError { kind := .emergencyEntered }
    (r.1.recorder.logs.get 2).first = some ⟨.emergencyEntered, 0, none, none⟩ ∧ r.1.recorder.alert = true
      ∧ r.2 = some bootNotice ∧ r.1.uplink.fifo = [] := by
  have up : s.powerUp true = (State.powerOn true).withPending s.pending := rfl
  rw [up, State.recordError_withPending]
  exact powerOn_recordError

/-- Settles O3: the first event logs EMERGENCY-ENTERED on the power-on values, and its end leaves what it logged. -/
theorem powerOnReset : Obligations.PowerOnReset := by
  unfold Obligations.PowerOnReset
  refine fun s => ⟨rfl, _, rfl, ?_⟩
  rw [if_pos rfl, Ev.logEmergency, Ev.finish_log]
  obtain ⟨first, alert, notice, fifo⟩ := s.powerUp_recordError
  have talks := (s.powerUp true).logError_talks { kind := .emergencyEntered }
  have log : (s.powerUp true).logError { kind := .emergencyEntered }
      = ((s.powerUp true).recordError { kind := .emergencyEntered }).1.pushUplink bootNotice := by
    unfold State.logError; rw [notice]; dsimp only
    rw [State.placeUplink, if_pos (by rw [fifo]; exact Nat.zero_lt_succ _)]
  generalize hx : (s.powerUp true).logError { kind := .emergencyEntered } = x at talks log
  have still := x.settle_still
  have config (b : BayIx) : (x.settle.bay b).config = (x.bay b).config := by
    have := congrArg (fun t => Table.get (Still.bays t) b) still; simpa [State.still, State.bay] using this
  have boot (b : BayIx) : (x.bay b).config = (Bay.powerOn false).config := by
    unfold Talks at talks; rw [talks]; exact congrArg Bay.config (State.powerOn_bay true b)
  refine ⟨?_, ?_, fun b => ?_, ?_, ?_, ?_⟩
  · refine (congrArg Still.pending still).trans ?_
    unfold Talks at talks; rw [talks]; rfl
  · refine (congrArg Still.suspension still).trans ?_
    unfold Talks at talks; rw [talks]; rfl
  · have same := (config b).trans (boot b)
    exact ⟨congrArg BayConfig.allotEnable same, congrArg BayConfig.savedMask same⟩
  · rw [x.settle_recorder, log]; exact first
  · rw [x.settle_recorder, log]; exact alert
  · rw [x.settle_uplink, log]
    show _ ++ [bootNotice] = [bootNotice]
    rw [fifo]; rfl

/-! ## The power-on values -/

theorem powerOn_downNodes : downNodes powerOnNodes = [] := by decide +kernel

theorem nodeOf_powerOn (r : Role) (b : BayIx) : nodeOf powerOnNodes r b = none := by
  rw [nodeOf, powerOn_downNodes]; rfl

theorem State.reset_committedSum : State.reset.committedSum = 0 := by
  have none (b : BayIx) : State.reset.committed b = 0 := by
    have post : State.reset.post b = none := nodeOf_powerOn .post b
    rw [State.committed, post]; rfl
  rw [State.committedSum, List.sum_eq_zero]
  simp [none]

theorem powerOnNodes_get (a : Addr) : powerOnNodes.get (addrIx a) =
    if a = 0xF0 then ⟨.self, Permissions.none, none, none⟩
    else if a = 0xF1 then ⟨.server, Permissions.all, none, none⟩ else NodeEntry.unused := by
  have index (x y : Addr) : addrIx x = addrIx y ↔ x = y :=
    ⟨fun h => BitVec.eq_of_toFin_eq h, fun h => congrArg addrIx h⟩
  unfold powerOnNodes
  rw [Table.get_set, Table.get_set, Table.get_replicate]
  simp only [index, Config.serverAddress, Config.ownAddress]
  by_cases own : a = 0xF0
  · subst own; rfl
  · rw [if_neg own, if_neg own]

theorem powerOnKinds_get (k : Fin 256) : powerOnKinds.get k = powerOnKind k.val := by
  simp [powerOnKinds, Table.get]

/-- Settles O4: each item of the power-on values. -/
theorem resetValues : Obligations.ResetValues := by
  unfold Obligations.ResetValues
  refine ⟨rfl, rfl, rfl, rfl, rfl, fun b => ?_, rfl, rfl, rfl, rfl, fun c => Table.get_replicate _ c,
    fun c => Table.get_replicate _ c, rfl, rfl, rfl, powerOnNodes_get, fun k => ?_, State.reset_committedSum, rfl, rfl,
    rfl, rfl, rfl, rfl, rfl, by decide +kernel, by decide, by decide, fun v => Table.get_replicate _ v,
    fun c => Table.get_replicate _ c, rfl, rfl, rfl⟩
  · have bay : State.reset.bay b = Bay.powerOn true := State.powerOn_bay false b
    rw [bay]
    exact ⟨rfl, rfl, rfl, rfl, rfl, by simp [Bay.checkOk, Bay.powerOn]⟩
  · refine (powerOnKinds_get k).trans ?_
    simp only [powerOnKind, List.mem_cons, List.not_mem_nil, or_false]
    congr 1
    apply propext; constructor <;> omega

/-! ## The supply, the RESET pin and the EMERGENCY input -/

/-- A part held in reset takes no event, no request and no management frame. -/
theorem exec_held {c : Instr} {s : State} (held : s.heldInReset = true) (boot : ∀ e, c ≠ .powerOnReset e)
    (loss : c ≠ .supplyLoss) : exec c s = .next s := by
  have event (x : Bool) (body : Ev → Ev) : s.event x body = .next s := by simp [State.event, held]
  have request (k : Byte) (body : Request → Ev → Ev) : s.takeRequest k body = .next s := by
    unfold State.takeRequest; split <;> simp [held]
  have management (mine : Request → Bool) (body : Request → Ev → Ev) : s.takeManagement mine body = .next s := by
    unfold State.takeManagement; split <;> simp [held]
  have expiry (x : Expiry) (body : Ev → Ev) : s.takeExpiry x body = .next s := event _ _
  have operation (n m : Nat) (body : Request → Ev → Ev) : s.takeControl n m body = .next s := management _ _
  have atBay (n : Byte) (f : BayIx → Result) (h : ∀ b, f b = .next s) :
      (match bayOfNo n.toNat with | none => Host.Outcome.next s | some b => f b) = .next s := by
    cases bayOfNo n.toNat with
    | none => rfl
    | some b => exact h b
  cases c with
  | powerOnReset e => exact absurd rfl (boot e)
  | supplyLoss => exact absurd rfl loss
  | warmReset | emergencyActive | emergencyInactive | tick | pollDue | replyWindowClose | endOfSending
  | downlinkFrameStart | uplinkSendStart | uplinkSendEnd | frameReception | frameBegin | resetPinRelease =>
    simp only [exec, execWarmReset, execEmergencyActive, execEmergencyInactive, execTick, execPollDue,
      execReplyWindowClose, execEndOfSending, execDownlinkFrameStart, execUplinkSendStart, execUplinkSendEnd,
      execFrameReception, execFrameBegin, execResetPinRelease, event]
  | waitlistExpiry | earlyArrivalExpiry => simp only [exec, execWaitlistExpiry, execEarlyArrivalExpiry, expiry]
  | noShowExpiry n | overstayExpiry n | displacementCheck n | rotationExpiry n =>
    exact atBay n _ fun b => expiry _ _
  | linkLossExpiry n => exact atBay n _ fun b => event _ _
  | hold | amend | free | query | arrive =>
    simp only [exec, execHold, execAmend, execFree, execQuery, execArrive, request]
  | nodeMap | kindFilter | classTable | bayConfiguration | allocatorSettings | timingSettings | faultSettings
  | controllerSettings | setTable | getTable | openBay | closeNow | closeAtEnd | forceEnd | setEnable | restart
  | setCap | setTime | clearLog | clearCounter | scrub | reset | control =>
    simp only [exec, execNodeMap, execKindFilter, execClassTable, execBayConfiguration, execAllocatorSettings,
      execTimingSettings, execFaultSettings, execControllerSettings, execSetTable, execGetTable, execOpen,
      execCloseNow, execCloseAtEnd, execForceEnd, execSetEnable, execRestart, execSetCap, execSetTime, execClearLog,
      execClearCounter, execScrub, execReset, execControl, State.takeBayControl, operation, management]
  | storageFault n d w =>
    refine atBay n _ fun b => ?_
    rw [if_pos held]

/-- Settles O6: each of these events changes the state alone, and a part held in reset takes none. -/
theorem resetPinAndSupply : Obligations.ResetPinAndSupply := by
  unfold Obligations.ResetPinAndSupply
  refine ⟨fun s => rfl, fun c s => exec_held, fun s up => ?_, fun s up emergency => ?_⟩
  · exact s.event_onState (fun s => { s with resetPinTaken := false }) up rfl
  · exact s.event_onState (fun s => { s with suspension := { s.suspension with emergency := false } }) up emergency

/-! ## The storage fault -/

/-- Settles O57: the fault writes the record that its bay number names. -/
theorem storageFault : Obligations.StorageFault := by
  unfold Obligations.StorageFault
  refine fun s d w up => ⟨fun b => ?_, fun n outside => ?_⟩
  · rw [exec_storageFault, execStorageFault, bayOfNo_byteOf]
    dsimp only
    rw [if_neg (by simp [up])]; rfl
  · have unnamed : bayOfNo n.toNat = none := by
      unfold bayOfNo; rw [dif_neg (by omega)]
    rw [exec_storageFault, execStorageFault, unnamed]

end Sys2Proof.Machine
end

section
/-!
SUP.downlink. The two ports: the end of a received frame by the four tests of R103, the beginning and the sending of frames,
and what the classifier does with a frame that is forwarded, not taken, or claimed. With it the settlement of the
statements about reception, the ports, frames forwarded or not taken, and requests queued.
-/
namespace Sys2Proof.Machine

/-! ## The four tests of R103 -/

section
variable (cs : List RxChar)

/-- The captured header of a frame by its first five bytes. -/
theorem rxHeader?_eq : rxHeader? cs = if 5 ≤ cs.length then
    some ⟨(cs.map (·.data)).getD 0 0, (cs.map (·.data)).getD 1 0, (cs.map (·.data)).getD 2 0,
      (cs.map (·.data)).getD 3 0, (cs.map (·.data)).getD 4 0⟩ else none := by
  unfold rxHeader?
  match cs with
  | [] | [_] | [_, _] | [_, _, _] | [_, _, _, _] => rfl
  | _ :: _ :: _ :: _ :: _ :: _ => simp

/-- A list of at least two bytes ends in its last two. -/
theorem take_append_last_two (bs : List Byte) (h : 2 ≤ bs.length) :
    bs = bs.take (bs.length - 2) ++ [bs.getD (bs.length - 2) 0, bs.getD (bs.length - 1) 0] := by
  have ends : bs.drop (bs.length - 2) = [bs.getD (bs.length - 2) 0, bs.getD (bs.length - 1) 0] := by
    rw [List.drop_eq_getElem_cons (by omega), List.drop_eq_getElem_cons (by omega), List.drop_eq_nil_of_le (by omega)]
    simp only [List.getD_eq_getElem?_getD]
    rw [List.getElem?_eq_getElem (by omega), List.getElem?_eq_getElem (by omega)]
    simp [show bs.length - 2 + 1 = bs.length - 1 by omega]
  rw [← ends, List.take_append_drop]

theorem checkPasses_iff_last_two (bs : List Byte) (h : 2 ≤ bs.length) : checkPasses bs = true ↔
    crc16 (bs.take (bs.length - 2)) = bs.getD (bs.length - 2) 0 ++ bs.getD (bs.length - 1) 0 := by
  have split := take_append_last_two bs h
  conv_lhs => rw [split]
  exact checkPasses_iff _ _ _

theorem receive_shape (h : cs.length < 7 ∨ 55 < cs.length) : receive cs = .error .frameShape := by
  unfold receive; dsimp only; rw [List.length_map, if_pos (by simpa only [Config.receiveBuffer] using h)]

variable {cs} (h7 : 7 ≤ cs.length) (h55 : cs.length ≤ 55)
include h7 h55

theorem receive_faulty (faulty : ∃ c ∈ cs, c.faulty = true) : receive cs = .error .frameCheck := by
  have any : cs.any (·.faulty) = true := List.any_eq_true.2 faulty
  unfold receive; dsimp only
  rw [List.length_map, if_neg (by simp only [Config.receiveBuffer]; omega), if_pos any]

variable (clean : ¬ ∃ c ∈ cs, c.faulty = true)
include clean

theorem receive_check (fails : checkPasses (cs.map (·.data)) = false) : receive cs = .error .frameCheck := by
  have any : ¬ cs.any (·.faulty) = true := fun h => clean (List.any_eq_true.1 h)
  unfold receive; dsimp only
  rw [List.length_map, if_neg (by simp only [Config.receiveBuffer]; omega), if_neg any, fails]; rfl

/-- The last test, on LEN, and the frame it passes. -/
theorem receive_len (passes : checkPasses (cs.map RxChar.data) = true) :
    receive cs = if 48 < ((cs.map RxChar.data).getD 4 0).toNat ∨ ((cs.map RxChar.data).getD 4 0).toNat + 7 ≠ cs.length then
        .error .frameShape
      else .ok ⟨(cs.map RxChar.data).getD 0 0, (cs.map RxChar.data).getD 1 0, (cs.map RxChar.data).getD 2 0,
        (cs.map RxChar.data).getD 3 0, ((cs.map RxChar.data).drop 5).take ((cs.map RxChar.data).getD 4 0).toNat⟩ := by
  have any : ¬ cs.any (·.faulty) = true := fun h => clean (List.any_eq_true.1 h)
  unfold receive; dsimp only
  rw [List.length_map, if_neg (by simp only [Config.receiveBuffer]; omega), if_neg any, passes]
  match cs, h7 with
  | _ :: _ :: _ :: _ :: _ :: _, _ => simp [Config.maxPayload]

end

/-! ## The end of a frame at a port -/

theorem exec_frameReception (p : Port) (cs : List RxChar) (s : State) :
    exec (.frameReception p cs) s = execFrameReception p cs s := rfl

theorem State.rx_event {s : State} {p : Port} (cs : List RxChar) (up : s.heldInReset = false)
    (rx : (s.rx p).state = .assembling) :
    execFrameReception p cs s = .next ((Ev.start s).frameEnd p cs).finish :=
  s.event_runs _ up (by rw [rx]; rfl)

/-- A frame that fails a test is logged and dropped. -/
theorem frameReception_dropped {s : State} {p : Port} {cs : List RxChar} {k : ErrorKind} (up : s.heldInReset = false)
    (rx : (s.rx p).state = .assembling) (fails : receive cs = .error k) :
    exec (.frameReception p cs) s
      = .next ((s.setRx p ⟨.idle, []⟩).logError { kind := k, header := rxHeader? cs }).settle := by
  rw [exec_frameReception, s.rx_event cs up rx, Ev.frameEnd, fails]
  exact congrArg Host.Outcome.next (Ev.finish_log (s.setRx p ⟨.idle, []⟩) _)

/-- A frame that passes the tests is classified in the same event. -/
theorem frameReception_classified {s : State} {p : Port} {cs : List RxChar} {f : Frame} (up : s.heldInReset = false)
    (rx : (s.rx p).state = .assembling) (passes : receive cs = .ok f) :
    exec (.frameReception p cs) s = .next ((Ev.start (s.setRx p ⟨.idle, []⟩)).classify p f).finish := by
  rw [exec_frameReception, s.rx_event cs up rx, Ev.frameEnd, passes]; rfl

/-- Settles O11: the four tests in their order. -/
theorem frameReception : Obligations.FrameReception := by
  unfold Obligations.FrameReception
  intro s p cs up rx
  have len : (cs.map (·.data)).length = cs.length := List.length_map _
  have checks (h7 : 7 ≤ cs.length) : checkPasses (cs.map (·.data)) = true ↔
      crc16 ((cs.map (·.data)).take (cs.length - 2))
        = (cs.map (·.data)).getD (cs.length - 2) 0 ++ (cs.map (·.data)).getD (cs.length - 1) 0 := by
    have := checkPasses_iff_last_two (cs.map (·.data)) (by omega)
    rwa [len] at this
  dsimp only
  rw [← rxHeader?_eq]
  refine ⟨fun h => ?_, fun h7 h55 faulty => ?_, fun h7 h55 clean fails => ?_, fun h7 h55 clean passes fails => ?_,
    fun h7 h55 clean passes fits => ?_⟩
  · exact frameReception_dropped up rx (receive_shape cs h)
  · exact frameReception_dropped up rx (receive_faulty h7 h55 faulty)
  · exact frameReception_dropped up rx
      (receive_check h7 h55 clean (Bool.eq_false_iff.2 fun h => fails ((checks h7).1 h)))
  · refine frameReception_dropped up rx ((receive_len h7 h55 clean ((checks h7).2 passes)).trans (if_pos ?_))
    rwa [not_and_or, Nat.not_le] at fails
  · refine frameReception_classified up rx ((receive_len h7 h55 clean ((checks h7).2 passes)).trans (if_neg ?_))
    rwa [not_or, Nat.not_lt, not_not]

/-! ## The ports -/

theorem exec_frameBegin (p : Port) (s : State) : exec (.frameBegin p) s = execFrameBegin p s := rfl
theorem exec_uplinkSendStart (s : State) : exec .uplinkSendStart s = execUplinkSendStart s := rfl
theorem exec_uplinkSendEnd (s : State) : exec .uplinkSendEnd s = execUplinkSendEnd s := rfl
theorem exec_downlinkFrameStart (s : State) : exec .downlinkFrameStart s = execDownlinkFrameStart s := rfl
theorem exec_endOfSending (s : State) : exec .endOfSending s = execEndOfSending s := rfl

theorem Transaction.opensWindow_eq (x : Transaction) :
    x.opensWindow = !(x.kind == .forward false || (x.kind == .forward true && x.frame.dest == 0xFF)) := by
  unfold Transaction.opensWindow
  cases x.kind with
  | forward v =>
    cases v with
    | false => rfl
    | true => rfl
  | _ => rfl

/-- Settles O12: each event of a port changes the state alone. -/
theorem portEvents : Obligations.PortEvents := by
  unfold Obligations.PortEvents
  refine ⟨fun s p up free quiet => ?_, fun s up => ⟨fun f rest idle waits => ?_, fun f line => ?_⟩,
    fun s x up out => ⟨fun waits idle free => ?_, fun f sends line => ?_⟩⟩
  · refine s.event_onState (·.setRx p ⟨.assembling, []⟩) up ?_
    cases p with
    | uplink => simpa [State.mayBegin] using free
    | downlink => simpa [State.mayBegin, quiet rfl] using free
  · rw [exec_uplinkSendStart, execUplinkSendStart,
      s.event_onState State.uplinkStart up (by simp [State.uplinkReady, idle, waits])]
    simp [State.uplinkStart, waits]
  · exact s.event_onState (·.setUplinkSending none) up (by simp [line])
  · rw [exec_downlinkFrameStart, execDownlinkFrameStart,
      s.event_onState State.downlinkStart up (by simpa [State.downlinkReady, out, waits, idle] using free)]
    simp [State.downlinkStart, out, State.setTransaction, State.setDownlinkSending, State.modScheduler]
  · rw [exec_endOfSending, execEndOfSending, s.event_onState State.sendingEnds up (by simp [line])]
    have same : (s.setDownlinkSending none).scheduler.transaction = some x := out
    unfold State.sendingEnds
    simp only [same, sends, if_true, x.opensWindow_eq]
    cases (x.kind == .forward false || (x.kind == .forward true && x.frame.dest == 0xFF)) <;> rfl

/-! ## The classifier -/

theorem Role.isDown_iff (r : Role) : r.isDown = true ↔ r = .post ∨ r = .sensor := by cases r <;> decide

theorem Role.isUp_iff (r : Role) : r.isUp = true ↔ r = .requester ∨ r = .server := by cases r <;> decide

theorem Ev.finish_onState (s : State) (f : State → State) : ((Ev.start s).onState f).finish = (f s).settle :=
  Ev.finish_quiet _ rfl rfl rfl

theorem Ev.classify_eq (ev : Ev) (p : Port) (f : Frame) : ev.classify p f =
    if ev.st.sourcePasses p f then (match p with | .uplink => ev.uplinkFrame f | .downlink => ev.downlinkFrame f)
    else ev.log { kind := .notPermitted, header := some f.header } := by
  unfold Ev.classify
  cases ev.st.sourcePasses p f <;> rfl

/-- A frame whose source has no role on the segment it is heard on (R122). -/
theorem frameReception_notPermitted {s : State} {p : Port} {f : Frame} (up : s.heldInReset = false)
    (rx : (s.rx p).state = .assembling) (short : f.payload.length ≤ 48) (fails : s.sourcePasses p f = false) :
    exec (.frameReception p f.received) s
      = .next ((s.setRx p ⟨.idle, []⟩).logError { kind := .notPermitted, header := some f.header }).settle := by
  have fails' : (s.setRx p ⟨.idle, []⟩).sourcePasses p f = false := by cases p <;> exact fails
  rw [frameReception_classified up rx (frameRoundTrip f short), Ev.classify_eq, if_neg (by simp [Ev.start, fails']),
    Ev.finish_log]

/-- A downlink frame from a node of the downlink goes to the Node Supervisor (R128). -/
theorem frameReception_downlink {s : State} {f : Frame} (up : s.heldInReset = false)
    (rx : s.downlink.rx.state = .assembling) (short : f.payload.length ≤ 48)
    (role : (s.node f.src).role = .post ∨ (s.node f.src).role = .sensor) :
    exec (.frameReception .downlink f.received) s
      = .next ((Ev.start (s.setRx .downlink ⟨.idle, []⟩)).downlinkFrame f).finish := by
  have passes : (s.setRx .downlink ⟨.idle, []⟩).sourcePasses .downlink f = true := (Role.isDown_iff _).2 role
  have classified := frameReception_classified (p := .downlink) up rx (frameRoundTrip f short)
  rwa [Ev.classify_eq, if_pos (by exact passes)] at classified

/-- An uplink frame from a node of the uplink goes by the action of its kind (R123). -/
theorem frameReception_uplink {s : State} {f : Frame} (up : s.heldInReset = false)
    (rx : s.uplink.rx.state = .assembling) (short : f.payload.length ≤ 48)
    (role : (s.node f.src).role = .requester ∨ (s.node f.src).role = .server) :
    exec (.frameReception .uplink f.received) s
      = .next ((Ev.start (s.setRx .uplink ⟨.idle, []⟩)).uplinkFrame f).finish := by
  have passes : (s.setRx .uplink ⟨.idle, []⟩).sourcePasses .uplink f = true := (Role.isUp_iff _).2 role
  have classified := frameReception_classified (p := .uplink) up rx (frameRoundTrip f short)
  rwa [Ev.classify_eq, if_pos (by exact passes)] at classified

/-- A frame that joins no transaction (R110, R138). -/
theorem Ev.downlinkFrame_unmatched {ev : Ev} {f : Frame}
    (h : ∀ x, ev.st.scheduler.transaction = some x → x.phase ≠ .window ∨ f.src ≠ x.frame.dest ∨ f.tag ≠ x.frame.tag) :
    ev.downlinkFrame f = ev.unexpected f := by
  unfold Ev.downlinkFrame; split
  · rfl
  · next x out => rw [if_pos (h x out)]

/-! ## Where a DEST falls -/

section
variable {s : State} {a : Addr}

theorem State.destColumn_own (own : a = s.controller.own) : s.destColumn a = .own := if_pos own

theorem State.destColumn_broadcast (own : a ≠ s.controller.own) (all : a = 0xFF) : s.destColumn a = .broadcast :=
  (if_neg own).trans (if_pos all)

theorem State.destColumn_downNode (own : a ≠ s.controller.own) (all : a ≠ 0xFF)
    (down : (s.node a).role = .post ∨ (s.node a).role = .sensor) : s.destColumn a = .downNode :=
  (if_neg own).trans ((if_neg all).trans (if_pos ((Role.isDown_iff _).2 down)))

theorem State.destColumn_other (own : a ≠ s.controller.own) (all : a ≠ 0xFF)
    (down : ¬ ((s.node a).role = .post ∨ (s.node a).role = .sensor)) : s.destColumn a = .other :=
  (if_neg own).trans ((if_neg all).trans (if_neg fun h => down ((Role.isDown_iff _).1 h)))

theorem State.destColumn_ne_own (own : a ≠ s.controller.own) : s.destColumn a ≠ .own := by
  unfold State.destColumn; rw [if_neg own]
  repeat' split
  all_goals decide

theorem State.destColumn_ne_broadcast (all : a ≠ 0xFF) : s.destColumn a ≠ .broadcast := by
  unfold State.destColumn; rw [if_neg (c := a = Config.broadcast) all]
  repeat' split
  all_goals decide

end

/-! ## The two halves of an uplink frame -/

/-- What the forward half does when there is no claim half. -/
theorem Ev.uplinkFrame_unclaimed {ev : Ev} {f : Frame}
    (h : claims (ev.st.kinds.get f.kind.toFin).action (ev.st.destColumn f.dest) = false) :
    ev.uplinkFrame f =
      match forwardHalf (ev.st.kinds.get f.kind.toFin).action (ev.st.destColumn f.dest) with
      | .forwarded => ev.forward f (ev.st.kinds.get f.kind.toFin).answerExpected
      | .dropLogged => ev.forwardDrop f
      | .nothing => ev := by
  unfold Ev.uplinkFrame; simp only [h]; rfl

theorem Ev.forward_room {ev : Ev} (f : Frame) (v : Bool) (room : ev.st.downlink.forward.length < 16) :
    ev.forward f v = ev.onState (fun s =>
      { s with downlink := { s.downlink with forward := s.downlink.forward ++ [(⟨f, v⟩ : ForwardEntry)] } }) := if_pos room

theorem Ev.forward_full {ev : Ev} (f : Frame) (v : Bool) (full : 16 ≤ ev.st.downlink.forward.length) :
    ev.forward f v = ev.forwardDrop f := if_neg (Nat.not_lt.2 full)

/-- The end of a frame that is only forwarded, or dropped at a full forward queue. -/
theorem Ev.finish_forward (s : State) (f : Frame) (v : Bool) :
    (s.downlink.forward.length < 16 → ((Ev.start s).forward f v).finish
      = { s with downlink := { s.downlink with forward := s.downlink.forward ++ [(⟨f, v⟩ : ForwardEntry)] } }.settle)
    ∧ (16 ≤ s.downlink.forward.length → ((Ev.start s).forward f v).finish
      = (s.logError { kind := .forwardDrop, header := some f.header }).settle) :=
  ⟨fun room => by rw [Ev.forward_room f v room, Ev.finish_onState],
    fun full => by rw [Ev.forward_full f v full]; exact Ev.finish_log s _⟩

/-- Settles O14: the action of the kind and the column of DEST give the forward half. -/
theorem framesForwardedOrNotTaken : Obligations.FramesForwardedOrNotTaken := by
  unfold Obligations.FramesForwardedOrNotTaken
  refine ⟨fun s p f up rx short noUp noDown => ?_, fun s f up rx short role unmatched => ?_,
    fun s f up rx short role => ?_⟩
  · refine frameReception_notPermitted up rx short ?_
    rw [Bool.eq_false_iff]
    cases p with
    | uplink => exact fun h => ((Role.isUp_iff _).1 h).elim (noUp rfl).1 (noUp rfl).2
    | downlink => exact fun h => ((Role.isDown_iff _).1 h).elim (noDown rfl).1 (noDown rfl).2
  · rw [frameReception_downlink up rx short role, Ev.downlinkFrame_unmatched (fun x out => unmatched x out)]
    exact congrArg Host.Outcome.next (Ev.finish_log (s.setRx .downlink ⟨.idle, []⟩) _)
  · have run := frameReception_uplink up rx short role
    dsimp only
    generalize hx : s.setRx .uplink ⟨.idle, []⟩ = x at run ⊢
    have kinds : x.kinds = s.kinds := by rw [← hx]; rfl
    have column : x.destColumn f.dest = s.destColumn f.dest := by rw [← hx]; rfl
    have forward : x.downlink = s.downlink := by rw [← hx]; rfl
    have half : claims (s.kinds.get f.kind.toFin).action (s.destColumn f.dest) = false →
        ((Ev.start x).uplinkFrame f) =
          match forwardHalf (s.kinds.get f.kind.toFin).action (s.destColumn f.dest) with
          | .forwarded => (Ev.start x).forward f (s.kinds.get f.kind.toFin).answerExpected
          | .dropLogged => (Ev.start x).forwardDrop f
          | .nothing => Ev.start x := by
      have := Ev.uplinkFrame_unclaimed (ev := Ev.start x) (f := f)
      rwa [show (Ev.start x).st = x from rfl, kinds, column] at this
    generalize (s.kinds.get f.kind.toFin).action = action at half ⊢
    rw [run]
    refine ⟨fun own goes => ?_, fun goes => ?_, fun goes => ?_⟩
    · have forwarded : ((Ev.start x).uplinkFrame f)
          = (Ev.start x).forward f (s.kinds.get f.kind.toFin).answerExpected := by
        by_cases all : f.dest = 0xFF
        · rcases goes with ⟨rfl, _⟩ | ⟨_, no, _⟩
          · rw [State.destColumn_broadcast own all] at half; exact half rfl
          · exact absurd all no
        · rcases goes with ⟨rfl, bc | down⟩ | ⟨rfl, _, down⟩
          · exact absurd bc all
          · rw [State.destColumn_downNode own all down] at half; exact half rfl
          · rw [State.destColumn_downNode own all down] at half; exact half rfl
      have ends := Ev.finish_forward x f (s.kinds.get f.kind.toFin).answerExpected
      rw [forward] at ends
      rw [forwarded]
      exact ⟨fun room => congrArg Host.Outcome.next (ends.1 room),
        fun full => congrArg Host.Outcome.next (ends.2 full)⟩
    · have dropped : ((Ev.start x).uplinkFrame f) = (Ev.start x).forwardDrop f := by
        rcases goes with ⟨rfl, own⟩ | ⟨rfl | rfl, own, all, down⟩
        · rw [State.destColumn_own own] at half; exact half rfl
        · rw [State.destColumn_other own all down] at half; exact half rfl
        · rw [State.destColumn_other own all down] at half; exact half rfl
      rw [dropped]
      exact congrArg Host.Outcome.next (Ev.finish_log x _)
    · have nothing : ((Ev.start x).uplinkFrame f) = Ev.start x := by
        rcases goes with rfl | ⟨rfl, own, all⟩
        · have none : forwardHalf .drop (s.destColumn f.dest) = .nothing := by cases s.destColumn f.dest <;> rfl
          rw [none] at half; exact half (by cases s.destColumn f.dest <;> rfl)
        · have notOwn := State.destColumn_ne_own own
          have notAll := State.destColumn_ne_broadcast (s := s) all
          generalize s.destColumn f.dest = column at half notOwn notAll
          cases column with
          | own => exact absurd rfl notOwn
          | broadcast => exact absurd rfl notAll
          | downNode | other => exact half rfl
      rw [nothing]
      exact congrArg Host.Outcome.next (Ev.finish_onState x id)

/-! ## The claim half -/

/-- A booking kind goes to the hold request queue, and a management kind to the management queue (R124). -/
theorem Ev.claim_booking {f : Frame} (ev : Ev)
    (kind : f.kind ∈ [Kind.hold, Kind.amend, Kind.free, Kind.query, Kind.arrive]) : ev.claim f = ev.claimBooking f := by
  have booking : isBooking f.kind = true := by simpa [isBooking, or_assoc] using kind
  rw [Ev.claim, if_pos booking]

theorem Ev.claim_management {f : Frame} (ev : Ev) (kind : f.kind ∈ [Kind.setTable, Kind.getTable, Kind.control]) :
    ev.claim f = ev.claimManagement f := by
  have management : isManagement f.kind = true := by simpa [isManagement, or_assoc] using kind
  have booking : ¬ isBooking f.kind = true := by
    simp only [List.mem_cons, List.not_mem_nil, or_false] at kind
    rcases kind with h | h | h <;> rw [h] <;> decide
  rw [Ev.claim, if_neg booking, if_pos management]

theorem Ev.claimBooking_room {ev : Ev} (f : Frame) (room : ev.st.requests.length < 8) :
    ev.claimBooking f = ev.onState (fun s => { s with requests := s.requests ++ [f.request] }) := if_pos room

theorem Ev.claimManagement_room {ev : Ev} (f : Frame) (may : (ev.st.node f.src).permissions.manage = true)
    (room : ev.st.management.length < 4) :
    ev.claimManagement f = ev.onState (fun s => { s with management := s.management ++ [f.request] }) := by
  unfold Ev.claimManagement; rw [may]; exact if_pos room

theorem Ev.claimManagement_full {ev : Ev} (f : Frame) (may : (ev.st.node f.src).permissions.manage = true)
    (full : 4 ≤ ev.st.management.length) :
    ev.claimManagement f = ev.log { kind := .requestBusy, header := some f.header } := by
  unfold Ev.claimManagement; rw [may]; exact if_neg (Nat.not_lt.2 full)

/-- A refusal at the classifier: an error logged, and the answer placed before its FAULT-NOTICE (log 22). -/
def Ev.refuseClaim (ev : Ev) (e : ErrorReport) (f : Frame) (kind : Byte) (payload : List Byte) : Ev :=
  let ev := ({ ev with buffering := true }).log e
  ev.answer (ev.st.buildAnswer f.src f.tag kind payload)

theorem Ev.claimBooking_full {ev : Ev} (f : Frame) (full : 8 ≤ ev.st.requests.length) :
    ev.claimBooking f = ev.refuseClaim { kind := .requestBusy, header := some f.header } f Kind.answer
      (answerPayload f.kind (busyTicket f) (refusal .busy)) := if_neg (Nat.not_lt.2 full)

theorem Ev.claimManagement_refused {ev : Ev} (f : Frame) (may : (ev.st.node f.src).permissions.manage = false) :
    ev.claimManagement f = ev.refuseClaim { kind := .notPermitted, header := some f.header } f Kind.mgmtAnswer
      [f.kind, byteOf Status.notPermitted.code] := by
  unfold Ev.claimManagement; rw [may]; rfl

/-- A refusal at the classifier changes nothing but what the error and the answer change, and its answer is the first frame
placed. -/
theorem Ev.finish_refuseClaim (s : State) (e : ErrorReport) (f : Frame) (kind : Byte) (payload : List Byte) :
    ∃ u, Talks s u ∧ ((Ev.start s).refuseClaim e f kind payload).finish = u.settle
      ∧ s.Answers u.settle f.request kind payload := by
  have logged : Talks s ((Ev.startRequest s).log e).st := Ev.log_talks _ e
  have waits : ((Ev.startRequest s).log e).st.uplink = s.uplink :=
    ((Moves.refl (ev₀ := Ev.startRequest s)).log e).uplink rfl
  have owes := Ev.log_leaves (Ev.startRequest s) e
  have refused : (Ev.start s).refuseClaim e f kind payload = ((Ev.startRequest s).log e).answer
    (((Ev.startRequest s).log e).st.buildAnswer f.request.src f.request.tag kind payload) := rfl
  generalize (Ev.startRequest s).log e = ev at logged waits owes refused
  have quiet := Ev.answer_leaves ev (ev.st.buildAnswer f.request.src f.request.tag kind payload)
  have ends := Ev.finish_quiet _ (quiet.1.trans owes.1) (quiet.2.1.trans owes.2.1) (quiet.2.2.1.trans owes.2.2.1)
  have own : ev.st.controller = s.controller := by unfold Talks at logged; rw [logged]
  rw [refused]
  have sent := Ev.finish_answers s ev f.request kind payload waits own
  rw [ends] at sent
  exact ⟨_, logged.trans (Ev.answer_talks _ _), ends, sent⟩

/-! ## Claimed frames -/

section
variable {s : State} {f : Frame} (up : s.heldInReset = false) (rx : s.uplink.rx.state = .assembling)
  (short : f.payload.length ≤ 48) (role : (s.node f.src).role = .requester ∨ (s.node f.src).role = .server)
include up rx short role

/-- A frame that is claimed and not forwarded. -/
theorem frameReception_claimed
    (claimed : (s.kinds.get f.kind.toFin).action = .claim ∧ (f.dest = s.controller.own ∨ f.dest = 0xFF)
      ∨ (s.kinds.get f.kind.toFin).action = .claimForward ∧ f.dest = s.controller.own) :
    exec (.frameReception .uplink f.received) s
      = .next ((Ev.start (s.setRx .uplink ⟨.idle, []⟩)).claim f).finish := by
  have run := frameReception_uplink up rx short role
  generalize hx : s.setRx .uplink ⟨.idle, []⟩ = x at run ⊢
  have kinds : x.kinds = s.kinds := by rw [← hx]; rfl
  have column : x.destColumn f.dest = s.destColumn f.dest := by rw [← hx]; rfl
  have only : (Ev.start x).uplinkFrame f = (Ev.start x).claim f := by
    unfold Ev.uplinkFrame
    rw [show (Ev.start x).st = x from rfl, kinds, column]
    rcases claimed with ⟨action, own | all⟩ | ⟨action, own⟩
    · simp only [action, State.destColumn_own own, claims, forwardHalf, if_true]
    · by_cases own : f.dest = s.controller.own
      · simp only [action, State.destColumn_own own, claims, forwardHalf, if_true]
      · simp only [action, State.destColumn_broadcast own all, claims, forwardHalf, if_true]
    · simp only [action, State.destColumn_own own, claims, forwardHalf, if_true]
  rw [run, only]

/-- A frame of a CLAIM-FORWARD kind to broadcast is claimed, and what the claim leaves forwards it. -/
theorem frameReception_claimedForwarded (action : (s.kinds.get f.kind.toFin).action = .claimForward)
    (all : f.dest = 0xFF) (own : f.dest ≠ s.controller.own) {u : State}
    (claim : (Ev.start (s.setRx .uplink ⟨.idle, []⟩)).claim f = Ev.start u) :
    exec (.frameReception .uplink f.received) s
      = .next ((Ev.start u).forward f (s.kinds.get f.kind.toFin).answerExpected).finish := by
  have run := frameReception_uplink up rx short role
  generalize hx : s.setRx .uplink ⟨.idle, []⟩ = x at run claim
  have kinds : x.kinds = s.kinds := by rw [← hx]; rfl
  have column : x.destColumn f.dest = s.destColumn f.dest := by rw [← hx]; rfl
  rw [run, Ev.uplinkFrame, show (Ev.start x).st = x from rfl, kinds, column]
  simp only [action, State.destColumn_broadcast own all, claims, forwardHalf, if_true, claim]

end

/-- Settles O15: the claim half joins its queue or refuses, and a broadcast CLAIM-FORWARD goes on to the forward queue. -/
theorem requestsQueued : Obligations.RequestsQueued := by
  unfold Obligations.RequestsQueued
  refine ⟨fun s f up rx short role kind => ?_, fun s f up rx short role kind => ?_,
    fun s f up rx short role action all own => ?_⟩
  · intro _ claimed
    have run := frameReception_claimed up rx short role claimed
    rw [Ev.claim_booking _ kind] at run
    refine ⟨fun room => ?_, fun full => ?_⟩
    · rw [run, Ev.claimBooking_room f room]
      exact congrArg Host.Outcome.next (Ev.finish_onState (s.setRx .uplink ⟨.idle, []⟩) _)
    · rw [Ev.claimBooking_full f full] at run
      obtain ⟨u, talks, ends, sent⟩ := Ev.finish_refuseClaim (s.setRx .uplink ⟨.idle, []⟩)
        { kind := .requestBusy, header := some f.header } f Kind.answer
        (answerPayload f.kind (busyTicket f) (refusal .busy))
      rw [ends] at run
      refine ⟨u.settle, run, ?_⟩
      obtain ⟨_, dyns, _, index, _, _, _, _, _, _, requests, management, _⟩ := u.settle_leaves
      rw [requests, management, dyns, index]
      unfold Talks at talks
      exact ⟨by rw [talks]; rfl, by rw [talks]; rfl, by rw [talks]; rfl, by rw [talks]; rfl, sent⟩
  · intro _ claimed
    have run := frameReception_claimed up rx short role claimed
    rw [Ev.claim_management _ kind] at run
    refine ⟨fun may room => ?_, fun may full => ?_, fun may => ?_⟩
    · rw [run, Ev.claimManagement_room f may room]
      exact congrArg Host.Outcome.next (Ev.finish_onState (s.setRx .uplink ⟨.idle, []⟩) _)
    · rw [run, Ev.claimManagement_full f may full]
      exact congrArg Host.Outcome.next (Ev.finish_log (s.setRx .uplink ⟨.idle, []⟩) _)
    · rw [Ev.claimManagement_refused f may] at run
      obtain ⟨u, talks, ends, sent⟩ := Ev.finish_refuseClaim (s.setRx .uplink ⟨.idle, []⟩)
        { kind := .notPermitted, header := some f.header } f Kind.mgmtAnswer [f.kind, byteOf Status.notPermitted.code]
      rw [ends] at run
      refine ⟨u.settle, run, ?_, ?_⟩
      · obtain ⟨_, _, _, _, _, _, _, _, _, _, _, management, _⟩ := u.settle_leaves
        unfold Talks at talks; rw [management, talks]; rfl
      · exact sent
  · have ends {u : State} (claim : (Ev.start (s.setRx .uplink ⟨.idle, []⟩)).claim f = Ev.start u)
        (same : u.downlink = s.downlink) :
        (s.downlink.forward.length < 16 → exec (.frameReception .uplink f.received) s
          = .next { u with downlink := { s.downlink with forward := s.downlink.forward
              ++ [(⟨f, (s.kinds.get f.kind.toFin).answerExpected⟩ : ForwardEntry)] } }.deliverDue.arbitrate)
        ∧ (16 ≤ s.downlink.forward.length → exec (.frameReception .uplink f.received) s
          = .next (u.logError { kind := .forwardDrop, header := some f.header }).deliverDue.arbitrate) := by
      have run := frameReception_claimedForwarded up rx short role action all own claim
      have halves := Ev.finish_forward u f (s.kinds.get f.kind.toFin).answerExpected
      rw [same] at halves
      exact ⟨fun room => run.trans (congrArg Host.Outcome.next (halves.1 room)),
        fun full => run.trans (congrArg Host.Outcome.next (halves.2 full))⟩
    refine ⟨fun kind room => ends ?_ rfl, fun kind may room => ends ?_ rfl⟩
    · rw [Ev.claim_booking _ kind, Ev.claimBooking_room f room]; rfl
    · rw [Ev.claim_management _ kind, Ev.claimManagement_room f may room]; rfl

end Sys2Proof.Machine
end

section
/-!
SUPPORT. What an error makes of the recorder and the FIFO, what the commands that serve the bookings leave alone, and the
tick. With it the settlement of the statements about them.
-/
namespace Sys2Proof.Machine

/-! ## Errors and the FIFO -/

theorem Counter.bump_eq (c : Counter) :
    c.bump = if c.count < 255 then ⟨c.count + 1, c.overflow⟩ else ⟨c.count, true⟩ := by
  unfold Counter.bump; split <;> rfl

theorem Recorder.countIn_counters (k : ErrorKind) (r : Recorder) (i c : Fin 2) :
    (r.countIn k i).counters.get c =
      if c = i ∧ (r.settings.selections.get c).getLsbD k.ix.val then (r.counters.get c).bump else r.counters.get c := by
  unfold Recorder.countIn
  by_cases same : c = i
  · subst same
    cases selected : (r.settings.selections.get c).getLsbD k.ix.val <;> simp
  · split <;> simp [same, Table.get_modify_other _ _ same]

/-- Every counter that selects the kind of an error rises (R165). -/
theorem Recorder.count_counters (k : ErrorKind) (r : Recorder) (c : Fin 2) :
    (r.count k).counters.get c =
      if (r.settings.selections.get c).getLsbD k.ix.val then (r.counters.get c).bump else r.counters.get c := by
  unfold Recorder.count
  rw [Recorder.countIn_counters, Recorder.countIn_counters, (Recorder.countIn_leaves k r 0).1]
  match c with
  | 0 => simp
  | 1 => simp

/-- The entry that an error makes in the logs (R161). -/
def ErrorReport.entry (e : ErrorReport) (now : Time) : LogEntry := ⟨e.kind, now, e.bay, e.header⟩

/-- The recorder after an error (R161, R165). -/
def Recorder.after (r : Recorder) (now : Time) (e : ErrorReport) : Recorder :=
  let sev := (r.settings.kinds.get e.kind.ix).severity
  if (r.settings.kinds.get e.kind.ix).enabled then
    (r.count e.kind).setLog sev ((r.logs.get sev).take (e.entry now))
  else r.count e.kind

/-- The FAULT-NOTICE of an error is built (R162). -/
def State.notifies (s : State) (e : ErrorReport) : Prop :=
  let k := s.recorder.settings.kinds.get e.kind.ix
  k.enabled = true ∧ (s.recorder.logs.get k.severity).first = none
    ∧ s.recorder.settings.actions.get k.severity ≠ .none ∧ s.controller.noticeDest ≠ 0


/-- The FAULT-NOTICE of an error (R162). -/
def State.faultNotice (s : State) (e : ErrorReport) : Frame :=
  ⟨s.controller.noticeDest, s.controller.own, Kind.faultNotice, s.noticeTag,
    faultNoticePayload s (s.recorder.settings.kinds.get e.kind.ix).severity (e.entry s.now)⟩

theorem State.recordError_recorder (s : State) (e : ErrorReport) :
    (s.recordError e).1.recorder = s.recorder.after s.now e := by
  unfold State.recordError Recorder.after
  simp only [Recorder.count_leaves]
  cases (s.recorder.settings.kinds.get e.kind.ix).enabled with
  | false => rfl
  | true =>
    simp only [Bool.not_true, Bool.false_eq_true, if_false, if_true]
    split
    · rw [State.buildNotice_recorder]; rfl
    · rfl

/-- An error that builds its FAULT-NOTICE takes the notice tag (R106, R162). -/
theorem State.recordError_told {s : State} {e : ErrorReport} (h : s.notifies e) :
    (s.recordError e).1.noticeTag = s.noticeTag + 1 ∧ (s.recordError e).2 = some (s.faultNotice e) := by
  obtain ⟨enabled, free, action, dest⟩ := h
  have named : s.controller.noticeDest ≠ Config.nullAddr := dest
  unfold State.recordError
  simp only [Recorder.count_leaves, enabled, free, Bool.not_true, Bool.false_eq_true, if_false, Option.isNone_none,
    Bool.true_and, bne_iff_ne, ne_eq, action, not_false_eq_true, if_true, State.buildNotice, named]
  exact ⟨trivial, rfl⟩

theorem State.recordError_untold {s : State} {e : ErrorReport} (h : ¬ s.notifies e) :
    (s.recordError e).1.noticeTag = s.noticeTag ∧ (s.recordError e).2 = none := by
  unfold State.recordError
  simp only [Recorder.count_leaves]
  split
  · exact ⟨rfl, rfl⟩
  · next enabled =>
    split
    · next built =>
      simp only [Bool.and_eq_true, Option.isNone_iff_eq_none, bne_iff_ne] at built
      have enabled' : (s.recorder.settings.kinds.get e.kind.ix).enabled = true := by simpa using enabled
      have dest : s.controller.noticeDest = Config.nullAddr := by
        by_contra dest; exact h ⟨enabled', built.1, built.2, dest⟩
      unfold State.buildNotice; rw [if_pos dest]; exact ⟨rfl, rfl⟩
    · exact ⟨rfl, rfl⟩

theorem State.recordError_uplink (s : State) (e : ErrorReport) : (s.recordError e).1.uplink = s.uplink := by
  obtain ⟨_, _, h, _⟩ := s.recordError_fst e; rw [h]

theorem State.placeUplink_room {s : State} (f : Frame) (h : s.uplink.fifo.length < 32) :
    s.placeUplink f = s.pushUplink f := if_pos h

theorem State.placeUplink_faultNotice_full {s : State} {f : Frame} (h : 32 ≤ s.uplink.fifo.length)
    (kind : f.kind = Kind.faultNotice) : s.placeUplink f = s := by
  rw [State.placeUplink, if_neg (c := s.uplink.fifo.length < Config.uplinkFifo) (Nat.not_lt.2 h), if_pos kind]

/-- What an error changes but for the recorder: its FAULT-NOTICE takes a tag and joins the FIFO, or is dropped at a full
one. -/
theorem State.logError_told {s : State} {e : ErrorReport} (h : s.notifies e) :
    (s.logError e).noticeTag = s.noticeTag + 1
    ∧ (s.logError e).uplink.fifo =
        if s.uplink.fifo.length < 32 then s.uplink.fifo ++ [s.faultNotice e] else s.uplink.fifo := by
  obtain ⟨tag, told⟩ := State.recordError_told h
  have uplink := s.recordError_uplink e
  unfold State.logError; rw [told]; dsimp only
  by_cases room : s.uplink.fifo.length < 32
  · rw [State.placeUplink_room _ (uplink ▸ room), if_pos room]
    refine ⟨tag, ?_⟩
    show (s.recordError e).1.uplink.fifo ++ _ = _
    rw [uplink]
  · rw [State.placeUplink_faultNotice_full (by rw [uplink]; omega) rfl, if_neg room, uplink]
    exact ⟨tag, rfl⟩

theorem State.logError_untold {s : State} {e : ErrorReport} (h : ¬ s.notifies e) :
    (s.logError e).noticeTag = s.noticeTag ∧ (s.logError e).uplink = s.uplink := by
  obtain ⟨tag, told⟩ := State.recordError_untold h
  unfold State.logError; rw [told]
  exact ⟨tag, s.recordError_uplink e⟩

/-- A frame that a full FIFO drops logs NOTICE-DROP, whose own FAULT-NOTICE is dropped too (R104, R162). -/
theorem State.placeUplink_full {s : State} {f : Frame} (h : 32 ≤ s.uplink.fifo.length)
    (kind : f.kind ≠ Kind.faultNotice) :
    s.placeUplink f = s.logError { kind := .noticeDrop, header := some f.header } := by
  rw [State.placeUplink, if_neg (c := s.uplink.fifo.length < Config.uplinkFifo) (Nat.not_lt.2 h), if_neg kind]
  unfold State.logError
  cases told : (s.recordError { kind := .noticeDrop, header := some f.header }).2 with
  | none => rfl
  | some g =>
    exact (State.placeUplink_faultNotice_full (by rw [State.recordError_uplink]; exact h)
      (State.recordError_kind told)).symm

theorem faultNoticePayload_eq (s : State) (sev : Fin 3) (e : ErrorReport) (now : Time) :
    faultNoticePayload s sev (e.entry now) =
      [byteOf sev.val, byteOf e.kind.code] ++ be32w (now + s.siteOffset)
        ++ [byteOf (match e.bay with | some b => b.val + 1 | none => 0), if e.header = none then 0 else 1]
        ++ (match e.header with | some h => [h.dest, h.src, h.kind, h.tag, h.len] | none => [0, 0, 0, 0, 0]) := by
  obtain ⟨kind, bay, header⟩ := e
  cases bay <;> cases header <;> rfl

/-- Settles O25: the counters, the logs and the FAULT-NOTICE of an error, and a frame at a full FIFO. -/
theorem errorsAndFrames : Obligations.ErrorsAndFrames := by
  unfold Obligations.ErrorsAndFrames
  refine ⟨fun s e => ?_, fun s f => ⟨State.placeUplink_room f, State.placeUplink_faultNotice_full,
    State.placeUplink_full⟩⟩
  have recorder : (s.logError e).recorder = s.recorder.after s.now e := by
    rw [State.logError_recorder, State.recordError_recorder]
  dsimp only
  rw [recorder]
  refine ⟨fun c => ?_, fun off => ?_, fun on free => ?_, fun on locked => ?_, fun built => ?_, State.logError_untold⟩
  · have counters : (s.recorder.after s.now e).counters = (s.recorder.count e.kind).counters := by
      unfold Recorder.after; dsimp only; split <;> rfl
    rw [counters, Recorder.count_counters, Counter.bump_eq]
  · unfold Recorder.after; rw [off]; simp
  · unfold Recorder.after SeverityLog.take; simp only [on, free, if_true]
    simp [ErrorReport.entry]
  · obtain ⟨first, taken⟩ := Option.ne_none_iff_exists'.1 locked
    unfold Recorder.after SeverityLog.take; simp only [on, taken, if_true]
    simp [ErrorReport.entry]
  · obtain ⟨tag, fifo⟩ := State.logError_told built
    refine ⟨tag, fifo.trans ?_⟩
    rw [State.faultNotice, faultNoticePayload_eq]; rfl

/-! ## What serves the bookings -/

/-- `t` keeps of `s` all that no booking command changes but the Early Arrival List. -/
def KeepsFrame (s t : State) : Prop := t.still = { s.still with early := t.still.early }

theorem KeepsFrame.of_still (h : t.still = s.still) : KeepsFrame s t := by unfold KeepsFrame; rw [h]

theorem KeepsFrame.trans (h : KeepsFrame s t) (h' : KeepsFrame t u) : KeepsFrame s u := by
  unfold KeepsFrame at *; rw [h', h]

theorem KeepsFrame.moves {ev ev' : Ev} (h : KeepsFrame s ev.st) (m : Moves ev ev') : KeepsFrame s ev'.st :=
  h.trans (.of_still m.still)

theorem KeepsFrame.onState {ev : Ev} (h : KeepsFrame s ev.st) {f : State → State} (k : KeepsFrame ev.st (f ev.st)) :
    KeepsFrame s (ev.onState f).st := h.trans k

theorem KeepsFrame.answer {ev : Ev} (h : KeepsFrame s ev.st) (f : Option Frame) : KeepsFrame s (ev.answer f).st :=
  h.trans (.of_still (ev.answer_moves f).still)

theorem KeepsFrame.ite {c : Prop} [Decidable c] {x y : Ev} (hx : KeepsFrame s x.st) (hy : KeepsFrame s y.st) :
    KeepsFrame s (if c then x else y).st := by split <;> assumption

theorem KeepsFrame.removeEarly (s : State) (t : Ticket) : KeepsFrame s (s.removeEarly t) := rfl
theorem KeepsFrame.recordEarly (s : State) (t : Ticket) : KeepsFrame s (s.recordEarly t) := rfl
theorem KeepsFrame.setWaitlist (s : State) (l : List WaitEntry) : KeepsFrame s (s.setWaitlist l) := rfl

theorem KeepsFrame.earlyExpiry (s : State) (t : Ticket) (v : Time) : KeepsFrame s (s.earlyExpiry t v) := by
  unfold State.earlyExpiry; repeat' split
  all_goals rfl

section
variable {s : State} {ev : Ev} (h : KeepsFrame s ev.st) (r : Request)
include h

theorem KeepsFrame.holdRequest : KeepsFrame s (Ev.holdRequest r ev).st := by
  unfold Ev.holdRequest Ev.placeRequest; dsimp only; repeat' split
  · exact h.answer _
  · exact ((h.moves ((Moves.refl.search _ _ none _).placeHold _ _ _)).onState (.removeEarly _ _)).answer _
  · exact ((h.moves ((Moves.refl.search _ _ none _).joinWaitlist
      (fun x l => length_insertTail x l) (fun x l => insertTail_ordered x) _ _ _)).onState (.removeEarly _ _)).answer _
  · exact (h.moves (Moves.refl.search _ _ none _)).answer _

theorem KeepsFrame.ownedRequest {act : Ev → Location → Hold → Ev}
    (ha : ∀ {ev} l x, KeepsFrame s ev.st → KeepsFrame s (act ev l x).st) : KeepsFrame s (ev.ownedRequest r act).st := by
  unfold Ev.ownedRequest; dsimp only; repeat' split
  · exact h.answer _
  · exact h.answer _
  · exact ha _ _ h

theorem KeepsFrame.amendAt (l : Location) (x : Hold) : KeepsFrame s (Ev.amendAt r ev l x).st := by
  unfold Ev.amendAt; dsimp only; split
  · next b =>
    refine KeepsFrame.ite (h.answer _) (KeepsFrame.answer (h.moves ?_) _)
    have amended := (Moves.refl (ev₀ := ev)).touch b
    exact Moves.ite (Moves.ite ((amended.modDyn b _).modTimer b _) (amended.modDyn b _))
      (((Moves.ite ((amended.modDyn b _).modTimer b _) (amended.modDyn b _)).rederive b).note b _)
  · exact (h.moves (Moves.refl.modDyn _ _)).answer _
  · exact (h.onState (.setWaitlist _ _)).answer _

theorem KeepsFrame.freeAt (l : Location) (x : Hold) : KeepsFrame s (Ev.freeAt r ev l x).st := by
  unfold Ev.freeAt; dsimp only
  refine KeepsFrame.answer ?_ _
  split
  · exact h.moves (Moves.refl.endActive _ _)
  · exact h.moves (Moves.refl.endStaged _ _)
  · refine h.moves (Moves.holdNotice (?_ : Moves ev _) _ _ _)
    simp only [Ev.onState]; split
    · exact Moves.refl.removeWaiting _
    · exact .refl

theorem KeepsFrame.arriveRequest : KeepsFrame s (Ev.arriveRequest r ev).st := by
  unfold Ev.arriveRequest Ev.arriveAt; dsimp only; repeat' split
  · exact h.answer _
  · exact h.answer _
  all_goals refine KeepsFrame.answer ?_ _
  · exact h.onState (.recordEarly _ _)
  · exact h.moves (Moves.refl.arriveActive _ _)
  · exact h.moves (Moves.refl.modDyn _ _)
  · exact h.onState (.setWaitlist _ _)
  · exact h

theorem KeepsFrame.replyState (p : List Byte) : KeepsFrame s (ev.replyState r p).st := h.answer _

theorem KeepsFrame.status (x : Status) : KeepsFrame s (ev.status r x).st := h.answer _

theorem KeepsFrame.openAt (b : BayIx) : KeepsFrame s (Ev.openAt b r ev).st := by
  unfold Ev.openAt; dsimp only; repeat' split
  · exact h.answer _
  · exact (h.moves (Moves.refl.openClosed b)).answer _
  · exact (h.moves (Moves.refl.modDyn b _).wantScan).answer _
  · exact h.answer _

theorem KeepsFrame.forceEnd (b : BayIx) : KeepsFrame s (Ev.forceEnd b r ev).st := by
  unfold Ev.forceEnd; dsimp only; repeat' split
  · exact h.answer _
  · exact h.answer _
  · exact h.answer _
  · exact (h.moves (Moves.refl.leaveSlot b _ _)).answer _

end

/-- What a request or an expiry leaves: it is not taken, or it takes the head of its queue and keeps the frame. -/
theorem takeRequest_frame {s t : State} {k : Byte} {body : Request → Ev → Ev}
    (hb : ∀ {s ev} r, KeepsFrame s ev.st → KeepsFrame s (body r ev).st) (run : s.takeRequest k body = .next t) :
    KeepsFrame { s with requests := t.requests } t ∧ (t.requests = s.requests ∨ t.requests = s.requests.tail) := by
  unfold State.takeRequest at run
  split at run
  · cases run; exact ⟨rfl, .inl rfl⟩
  · next r q waits =>
    split at run
    · cases run; exact ⟨rfl, .inl rfl⟩
    · cases run
      have kept : KeepsFrame { s with requests := q } (body r (Ev.startRequest { s with requests := q })).finish :=
        (hb r (.of_still rfl)).trans (.of_still (Ev.finish_still _))
      have requests := congrArg Still.requests kept
      generalize (body r (Ev.startRequest { s with requests := q })).finish = t at kept requests
      have requests : t.requests = q := requests
      rw [requests]
      exact ⟨kept, .inr (by rw [waits]; rfl)⟩

theorem takeManagement_frame {s t : State} {mine : Request → Bool} {body : Request → Ev → Ev}
    (hb : ∀ {s ev} r, KeepsFrame s ev.st → KeepsFrame s (body r ev).st) (run : s.takeManagement mine body = .next t) :
    KeepsFrame { s with management := t.management } t
      ∧ (t.management = s.management ∨ t.management = s.management.tail) := by
  unfold State.takeManagement at run
  split at run
  · cases run; exact ⟨rfl, .inl rfl⟩
  · next r q waits =>
    split at run
    · cases run; exact ⟨rfl, .inl rfl⟩
    · cases run
      have kept : KeepsFrame { s with management := q } (body r (Ev.startRequest { s with management := q })).finish :=
        (hb r (.of_still rfl)).trans (.of_still (Ev.finish_still _))
      have management := congrArg Still.management kept
      generalize (body r (Ev.startRequest { s with management := q })).finish = t at kept management
      have management : t.management = q := management
      rw [management]
      exact ⟨kept, .inr (by rw [waits]; rfl)⟩

theorem takeBayControl_frame {s t : State} {code length : Nat} {body : BayIx → Request → Ev → Ev}
    (hb : ∀ {s ev} b r, KeepsFrame s ev.st → KeepsFrame s (body b r ev).st)
    (run : s.takeBayControl code length body = .next t) :
    KeepsFrame { s with management := t.management } t
      ∧ (t.management = s.management ∨ t.management = s.management.tail) := by
  unfold State.takeBayControl State.takeControl at run
  refine takeManagement_frame ?_ run
  intro s ev r h
  dsimp only
  split
  · exact h.answer _
  · split
    · exact h.answer _
    · exact hb _ r h

theorem takeExpiry_frame {s t : State} {x : Expiry} {body : Ev → Ev}
    (hb : ∀ {s ev}, KeepsFrame s ev.st → KeepsFrame s (body ev).st) (run : s.takeExpiry x body = .next t) :
    KeepsFrame s t := by
  unfold State.takeExpiry State.event at run
  obtain rfl := Host.Outcome.next.inj run
  have taken : KeepsFrame s (s.dropExpiry x) := rfl
  split
  · exact .of_still rfl
  · exact (hb (s := s) (ev := (Ev.start s).onState (·.dropExpiry x)) taken).trans (.of_still (Ev.finish_still _))

theorem bayExpiry_frame {s t : State} {n : Byte} {x : BayIx → Expiry} {body : BayIx → Ev → Ev}
    (hb : ∀ {s ev} b, KeepsFrame s ev.st → KeepsFrame s (body b ev).st)
    (run : (match bayOfNo n.toNat with
      | none => (.next s : Result) | some b => s.takeExpiry (x b) (body b)) = .next t) : KeepsFrame s t := by
  split at run
  · cases run; exact .of_still rfl
  · exact takeExpiry_frame (hb _) run

theorem KeepsFrame.ofRequests {s t : State} (h : KeepsFrame { s with requests := t.requests } t) :
    t.still = { s.still with requests := t.requests, management := t.management, early := t.still.early }
      ∧ t.management = s.management := by
  have same : t.management = s.management := congrArg Still.management h
  exact ⟨by rw [same]; exact h, same⟩

theorem KeepsFrame.ofManagement {s t : State} (h : KeepsFrame { s with management := t.management } t) :
    t.still = { s.still with requests := t.requests, management := t.management, early := t.still.early }
      ∧ t.requests = s.requests := by
  have same : t.requests = s.requests := congrArg Still.requests h
  exact ⟨by rw [same]; exact h, same⟩

theorem KeepsFrame.queues {s t : State} (h : KeepsFrame s t) :
    t.still = { s.still with requests := t.requests, management := t.management, early := t.still.early }
      ∧ t.requests = s.requests ∧ t.management = s.management := by
  have requests : t.requests = s.requests := congrArg Still.requests h
  have management : t.management = s.management := congrArg Still.management h
  exact ⟨by rw [requests, management]; exact h, requests, management⟩

/-- Settles O27: each of these commands is a run of shared operations, and changes of the Waitlist and of the Early Arrival
List. -/
theorem bookingCommandsFrame : Obligations.BookingCommandsFrame := by
  unfold Obligations.BookingCommandsFrame
  intro c s t serves run
  have request (h : KeepsFrame { s with requests := t.requests } t
      ∧ (t.requests = s.requests ∨ t.requests = s.requests.tail)) :
      t.still = { s.still with requests := t.requests, management := t.management, early := t.still.early }
        ∧ t.management = s.management ∧ (t.requests = s.requests ∨ t.requests = s.requests.tail) :=
    ⟨h.1.ofRequests.1, h.1.ofRequests.2, h.2⟩
  have operation (h : KeepsFrame { s with management := t.management } t
      ∧ (t.management = s.management ∨ t.management = s.management.tail)) :
      t.still = { s.still with requests := t.requests, management := t.management, early := t.still.early }
        ∧ t.requests = s.requests ∧ (t.management = s.management ∨ t.management = s.management.tail) :=
    ⟨h.1.ofManagement.1, h.1.ofManagement.2, h.2⟩
  cases c with
  | hold => exact request (takeRequest_frame (fun r h => h.holdRequest r) run)
  | amend => exact request (takeRequest_frame (fun r h => h.ownedRequest r fun l x h => h.amendAt r l x) run)
  | free => exact request (takeRequest_frame (fun r h => h.ownedRequest r fun l x h => h.freeAt r l x) run)
  | query =>
    have answered {s : State} {ev : Ev} (r : Request) (h : KeepsFrame s ev.st) :
        KeepsFrame s (ev.replyState r (ev.st.queryState r.payload)).st := h.replyState r _
    exact request (takeRequest_frame answered run)
  | arrive => exact request (takeRequest_frame (fun r h => h.arriveRequest r) run)
  | openBay => exact operation (takeBayControl_frame (fun b r h => h.openAt r b) run)
  | closeNow => exact operation (takeBayControl_frame (fun b r h => (h.moves (Moves.refl.closeNow b)).status r .ok) run)
  | closeAtEnd => exact operation (takeBayControl_frame (fun b r h => (h.moves (Moves.refl.closeAtEnd b)).status r .ok)
    run)
  | forceEnd => exact operation (takeBayControl_frame (fun b r h => h.forceEnd r b) run)
  | noShowExpiry n o v => exact (bayExpiry_frame (fun b h => h.moves (Moves.refl.noShow b o v)) run).queues
  | overstayExpiry n o v => exact (bayExpiry_frame (fun b h => h.moves (Moves.refl.overstay b o v)) run).queues
  | displacementCheck n o v => exact (bayExpiry_frame (fun b h => h.moves (Moves.refl.displacement b o v)) run).queues
  | waitlistExpiry o v => exact (takeExpiry_frame (fun h => h.moves (Moves.refl.waitlistExpiry o v)) run).queues
  | earlyArrivalExpiry o v => exact (takeExpiry_frame (fun h => h.onState (.earlyExpiry _ o v)) run).queues
  | _ => cases serves

end Sys2Proof.Machine
end

section
/-!
SUPPORT. A change made at every bay in turn, when each goes by its own bay alone, and the delivery of deadlines repeated.
With it the settlement of the statements about the tick, the link-loss expiry and a node that falls due.
-/
namespace Sys2Proof.Machine

/-! ## A change made at every bay -/

/-- Every bay changed by what `g` makes of it. -/
def State.eachBay (s : State) (g : BayIx → Bay → Bay) : State :=
  { s with bays := ⟨allBays.map (fun b => g b (s.bay b)), by rw [List.length_map]; exact List.length_finRange⟩ }

@[simp] theorem State.eachBay_bay (s : State) (g : BayIx → Bay → Bay) (b : BayIx) :
    (s.eachBay g).bay b = g b (s.bay b) := by
  simp [State.eachBay, State.bay, Table.get, allBays]

theorem State.with_bays_ext {s : State} {t u : Table Bay 128} (h : ∀ b, t.get b = u.get b) :
    ({ s with bays := t } : State) = { s with bays := u } := by rw [Table.ext_get h]

theorem State.modBay_eachBay (s : State) (b : BayIx) (f : Bay → Bay) (g : BayIx → Bay → Bay) :
    (s.modBay b f).eachBay g = s.eachBay (fun c y => g c (if c = b then f y else y)) := by
  refine State.with_bays_ext fun c => ?_
  have left := (s.modBay b f).eachBay_bay g c
  have right := s.eachBay_bay (fun c y => g c (if c = b then f y else y)) c
  rw [State.bay_modBay] at left
  exact (left.trans (by split <;> rfl)).trans right.symm

theorem State.eachBay_id (s : State) : s.eachBay (fun _ y => y) = s := by
  have same : s.eachBay (fun _ y => y) = { s with bays := s.bays } :=
    State.with_bays_ext fun b => s.eachBay_bay (fun _ y => y) b
  exact same

/-- A change made at the bays of a list in turn, while `P` holds, is made at each of them once. -/
theorem State.foldl_modBay {f : State → BayIx → State} {g : BayIx → Bay → Bay} {P : State → Prop}
    (step : ∀ s b, P s → f s b = s.modBay b (g b)) (keep : ∀ s b, P s → P (f s b)) (l : List BayIx) (nodup : l.Nodup)
    {s : State} (hs : P s) : l.foldl f s = s.eachBay (fun b y => if b ∈ l then g b y else y) := by
  induction l generalizing s with
  | nil => simp [State.eachBay_id]
  | cons b l ih =>
    obtain ⟨fresh, nodup⟩ := List.nodup_cons.1 nodup
    rw [List.foldl_cons, ih nodup (keep s b hs), step s b hs, State.modBay_eachBay]
    congr 1; funext c y
    by_cases same : c = b
    · subst same; simp [fresh]
    · simp [same]

theorem State.foldl_allBays {f : State → BayIx → State} {g : BayIx → Bay → Bay} {P : State → Prop}
    (step : ∀ s b, P s → f s b = s.modBay b (g b)) (keep : ∀ s b, P s → P (f s b)) {s : State} (hs : P s) :
    allBays.foldl f s = s.eachBay g := by
  rw [State.foldl_modBay step keep allBays (List.nodup_finRange 128) hs]
  congr 1; funext b y; simp [allBays]

theorem State.modBay_same {s : State} {b : BayIx} {f : Bay → Bay} (h : f (s.bay b) = s.bay b) : s.modBay b f = s := by
  refine State.with_bays_ext (s := s) fun c => ?_
  exact (s.bay_modBay b c f).trans (by split <;> simp_all [State.bay])

/-! ## The link-loss tests and the gated counters -/

/-- What the link-loss test of a bay does to it, given whether its post is link-lost (R142). -/
def Bay.linkLossTest (lost : Bool) (y : Bay) : Bay :=
  if lost && !y.delivery.linkLost && y.delivery.state != .inFlight then { y with delivery := y.delivery.lose } else y

theorem State.linkLossTest_eq (s : State) (b : BayIx) :
    s.linkLossTest b = s.modBay b (Bay.linkLossTest (s.linkLostNow b)) := by
  unfold State.linkLossTest; dsimp only; split
  · next h =>
    refine State.with_bays_ext fun c => ?_
    exact ((s.bay_modBay b c _).trans (by
      split
      · next same => subst same; rw [Bay.linkLossTest, if_pos h]
      · rfl)).trans (s.bay_modBay b c _).symm
  · next h => exact (State.modBay_same (if_neg h)).symm

theorem State.linkLossTests_eq (s : State) : s.linkLossTests = s.eachBay (fun b => Bay.linkLossTest (s.linkLostNow b)) :=
  State.foldl_allBays (P := fun t => ∀ b, t.linkLostNow b = s.linkLostNow b)
    (fun t b same => by rw [State.linkLossTest_eq, same])
    (fun t b same c => by rw [State.linkLossTest_eq]; exact same c) (fun _ => rfl)

/-- What one second's gated counters do to a bay, given whether its post is REACHABLE (R69, R70). -/
def Bay.countSecond (reachable : Bool) (y : Bay) : Bay :=
  if y.dyn.active.isNone then y else y.modDyn (·.countSecond reachable)

theorem State.countBay_eq (s : State) (b : BayIx) :
    s.countBay b = s.modBay b (Bay.countSecond (s.postReachable b)) := by
  unfold State.countBay; split
  · next none => exact (State.modBay_same (by simp [Bay.countSecond, none])).symm
  · next x some =>
    refine State.with_bays_ext fun c => ?_
    exact ((s.bay_modBay b c _).trans (by
      split
      · next same => subst same; simp [Bay.countSecond, some]
      · rfl)).trans (s.bay_modBay b c _).symm

theorem State.countBays_eq (s : State) :
    allBays.foldl State.countBay s = s.eachBay (fun b => Bay.countSecond (s.postReachable b)) :=
  State.foldl_allBays (P := fun t => ∀ b, t.postReachable b = s.postReachable b)
    (fun t b same => by rw [State.countBay_eq, same])
    (fun t b same c => by rw [State.countBay_eq]; exact same c) (fun _ => rfl)

@[simp] theorem Bay.countSecond_leaves (v : Bool) (y : Bay) :
    (y.countSecond v).config = y.config ∧ (y.countSecond v).timer = y.timer ∧ (y.countSecond v).alloc = y.alloc
      ∧ (y.countSecond v).delivery = y.delivery := by
  unfold Bay.countSecond; split <;> simp

theorem Bay.countSecond_dyn (v : Bool) (y : Bay) : (y.countSecond v).dyn = y.dyn.countSecond v := by
  unfold Bay.countSecond; split
  · next empty =>
    have same : y.dyn.active.map (·.countSecond (y.dyn.occupancy != .vacant) (y.dyn.connector == .charging && v))
        = y.dyn.active := by rw [Option.isNone_iff_eq_none.1 empty]; rfl
    rw [BayDyn.countSecond, same]
  · simp

@[simp] theorem Bay.linkLossTest_leaves (v : Bool) (y : Bay) :
    (y.linkLossTest v).config = y.config ∧ (y.linkLossTest v).timer = y.timer ∧ (y.linkLossTest v).alloc = y.alloc
      ∧ (y.linkLossTest v).dyn = y.dyn ∧ (y.linkLossTest v).check = y.check := by
  unfold Bay.linkLossTest; split <;> simp [Bay.config]

theorem Delivery.lose_eq (d : Delivery) :
    d.lose = ⟨d.target, some 0, none, 0, d.sequence, false, 0, true, if d.target = 0 then .settled else .pending⟩ := rfl

theorem Bay.linkLossTest_delivery (v : Bool) (y : Bay) : (y.linkLossTest v).delivery =
    if v = true ∧ y.delivery.linkLost = false ∧ y.delivery.state ≠ .inFlight then y.delivery.lose else y.delivery := by
  unfold Bay.linkLossTest
  simp only [Bool.and_eq_true, Bool.not_eq_true', bne_iff_ne, and_assoc]
  split <;> rfl

/-! ## Deadlines delivered -/

/-- The hold deadlines of a bay with those that are due taken out (R59). -/
theorem Bay.deliver_timer (now : Time) (y : Bay) : (y.deliver now).timer =
    ⟨clearDue now y.timer.noShow, clearDue now y.timer.overstay, clearDue now y.timer.displacement,
      y.timer.rotation.fallDue now⟩ := rfl

@[simp] theorem clearDue_clearDue (now : Time) (o : Option Deadline) : clearDue now (clearDue now o) = clearDue now o := by
  cases o with
  | none => rfl
  | some d => by_cases due : atOrAfter now d.due = true <;> simp [clearDue, Option.filter, due]

/-- Delivering deadlines leaves a bay awaiting those that it had (R59). -/
theorem State.deliverDue_awaits (s : State) (b : BayIx) :
    s.deliverDue.Awaits b (s.bay b).timer.noShow (s.bay b).timer.overstay (s.bay b).timer.displacement := by
  have told {x : Expiry} (h : x ∈ (s.bay b).dueExpiries s.now b) : x ∈ s.deliverDue.expiries :=
    State.mem_deliverDue_expiries.2 (.inr (.inl ⟨b, h⟩))
  unfold State.Awaits
  rw [s.deliverDue_bay]
  refine ⟨rfl, rfl, rfl, fun d set due => told ?_, fun d set due => told ?_, fun d set due => told ?_⟩
  · exact Bay.mem_dueExpiries.2 (.inl ⟨d, set, due, rfl⟩)
  · exact Bay.mem_dueExpiries.2 (.inr (.inl ⟨d, set, due, rfl⟩))
  · exact Bay.mem_dueExpiries.2 (.inr (.inr (.inl ⟨d, set, due, rfl⟩)))

/-- What a bay awaits, it awaits after a change that keeps its hold deadlines, the clock and the expiries delivered. -/
theorem State.Awaits.of_same {s t : State} {b : BayIx} {x y z : Option Deadline} (h : s.Awaits b x y z)
    (now : t.now = s.now) (noShow : (t.bay b).timer.noShow = (s.bay b).timer.noShow)
    (overstay : (t.bay b).timer.overstay = (s.bay b).timer.overstay)
    (check : (t.bay b).timer.displacement = (s.bay b).timer.displacement) (expiries : s.expiries ⊆ t.expiries) :
    t.Awaits b x y z := by
  unfold State.Awaits at *
  rw [now, noShow, overstay, check]
  obtain ⟨h1, h2, h3, h4, h5, h6⟩ := h
  exact ⟨h1, h2, h3, fun d set due => expiries (h4 d set due), fun d set due => expiries (h5 d set due),
    fun d set due => expiries (h6 d set due)⟩

theorem State.deliverDue_expiries_subset (s : State) : s.expiries ⊆ s.deliverDue.expiries :=
  fun _ h => State.mem_deliverDue_expiries.2 (.inl h)

/-- What a bay awaits, it awaits after a further delivery at the same second. -/
theorem State.Awaits.deliverDue {s : State} {b : BayIx} {x y z : Option Deadline} (h : s.Awaits b x y z) :
    s.deliverDue.Awaits b x y z := by
  have noShow : (s.bay b).timer.noShow = clearDue s.now x := h.1
  have overstay : (s.bay b).timer.overstay = clearDue s.now y := h.2.1
  have check : (s.bay b).timer.displacement = clearDue s.now z := h.2.2.1
  refine h.of_same rfl ?_ ?_ ?_ s.deliverDue_expiries_subset
  · rw [s.deliverDue_bay, Bay.deliver_timer, noShow, clearDue_clearDue]
  · rw [s.deliverDue_bay, Bay.deliver_timer, overstay, clearDue_clearDue]
  · rw [s.deliverDue_bay, Bay.deliver_timer, check, clearDue_clearDue]

theorem State.Awaits.arbitrate {s : State} {b : BayIx} {x y z : Option Deadline} (h : s.Awaits b x y z) :
    s.arbitrate.Awaits b x y z := by
  obtain ⟨_, _, timer, _⟩ := s.arbitrate_bay b
  refine h.of_same s.arbitrate_leaves.1 (by rw [timer]) (by rw [timer]) (by rw [timer]) ?_
  rw [s.arbitrate_leaves.2.2.2.2.2.2.1]; exact fun _ h => h

/-! ## The tick -/

/-- The part as the tick leaves it before the deadlines are delivered a second time (R55). -/
def State.ticked (s : State) : State :=
  let t := ({ s with now := s.now + 1 } : State).deliverDue
  let t := { t with scrubber := { t.scrubber with cursor := t.scrubber.cursor + 1 } }
  (t.eachBay (fun b => Bay.countSecond (s.postReachable b))).eachBay
    (fun b => Bay.linkLossTest (State.linkLostNow { s with now := s.now + 1 } b))

theorem exec_tick (s : State) : exec .tick s = execTick s := rfl

theorem Ev.compareRecord_agrees {ev : Ev} {b : BayIx}
    (h : (ev.bay b).checkOk = true ∨ (ev.bay b).dyn.suspect = true) : ev.compareRecord b = ev := by
  unfold Ev.compareRecord; rw [if_pos]
  rcases h with h | h <;> simp [h]

theorem Ev.onState_onState (ev : Ev) (f g : State → State) : (ev.onState f).onState g = ev.onState (fun s => g (f s)) := rfl

/-- The tick where the scrubber finds nothing. -/
theorem tick_runs {s : State} (up : s.heldInReset = false)
    (agrees : (s.bay s.scrubber.cursor).checkOk = true ∨ (s.bay s.scrubber.cursor).dyn.suspect = true) :
    exec .tick s = .next s.ticked.settle := by
  have start : ((Ev.start s).onState (fun s => { s with now := s.now + 1 })).onState State.deliverDue
      = Ev.start (({ s with now := s.now + 1 } : State).deliverDue) := rfl
  rw [exec_tick, execTick, s.event_runs _ up rfl]; dsimp only
  rw [start]
  generalize ht : ({ s with now := s.now + 1 } : State).deliverDue = t
  have bay : (t.bay s.scrubber.cursor).dyn = (s.bay s.scrubber.cursor).dyn
      ∧ (t.bay s.scrubber.cursor).checkOk = (s.bay s.scrubber.cursor).checkOk := by
    rw [← ht, State.deliverDue_bay]; exact ⟨rfl, rfl⟩
  have cursor : t.scrubber = s.scrubber := by rw [← ht]; rfl
  have scrub : (Ev.start t).scrubStep
      = Ev.start { t with scrubber := { t.scrubber with cursor := t.scrubber.cursor + 1 } } := by
    unfold Ev.scrubStep; dsimp only
    rw [Ev.compareRecord_agrees]
    · rfl
    · show (t.bay t.scrubber.cursor).checkOk = true ∨ (t.bay t.scrubber.cursor).dyn.suspect = true
      rw [cursor, bay.1, bay.2]; exact agrees
  rw [scrub]
  rw [Ev.onState_onState, Ev.finish_onState, State.linkLossTests_eq, State.countBays_eq]
  subst ht; rfl

theorem State.ticked_bay (s : State) (b : BayIx) : s.ticked.bay b =
    (((s.bay b).deliver (s.now + 1)).countSecond (s.postReachable b)).linkLossTest
      (State.linkLostNow { s with now := s.now + 1 } b) := by
  unfold State.ticked; dsimp only
  rw [State.eachBay_bay, State.eachBay_bay]
  congr 2
  exact State.deliverDue_bay _ b

theorem State.eachBay_still {s : State} {g : BayIx → Bay → Bay} (h : ∀ b y, (g b y).config = y.config) :
    (s.eachBay g).still = s.still := by
  have bays : (s.eachBay g).bays.map Bay.config = s.bays.map Bay.config :=
    Table.ext_get fun b => by
      have := congrArg Bay.config (s.eachBay_bay g b)
      simpa [State.bay, h] using this
  simp only [State.still, bays]; rfl

theorem State.ticked_still (s : State) :
    s.ticked.still = { s.still with now := s.now + 1, scrubCursor := s.scrubber.cursor + 1 } := by
  have delivered : ({ s with now := s.now + 1 } : State).deliverDue.still = { s.still with now := s.now + 1 } :=
    ((Moves.refl (ev₀ := Ev.start { s with now := s.now + 1 })).deliverDue).still
  unfold State.ticked; dsimp only
  rw [State.eachBay_still (by simp), State.eachBay_still (by simp)]
  exact congrArg (fun x : Still => { x with scrubCursor := s.scrubber.cursor + 1 }) delivered

/-- Settles O28: a record that agrees, or is suspect already, leaves the scrubber nothing to do, and each bay's counters
and link-loss test go by that bay alone. -/
theorem tick : Obligations.Tick := by
  unfold Obligations.Tick
  intro s up agrees
  refine ⟨s.ticked.deliverDue, tick_runs up agrees, fun b => ?_, fun b => ?_, ?_, fun b => ?_, ?_, ?_, ?_, ?_, ?_⟩
  · have record : (s.ticked.deliverDue.bay b).delivery =
        if State.linkLostNow { s with now := s.now + 1 } b = true ∧ (s.bay b).delivery.linkLost = false
          ∧ (s.bay b).delivery.state ≠ .inFlight then (s.bay b).delivery.lose else (s.bay b).delivery := by
      rw [State.deliverDue_bay, State.ticked_bay]
      show (Bay.linkLossTest _ _).delivery = _
      rw [Bay.linkLossTest_delivery, (Bay.countSecond_leaves _ _).2.2.2]; rfl
    exact ⟨fun lost => by rw [record, if_pos lost, Delivery.lose_eq], fun kept => by rw [record, if_neg kept]⟩
  · have first := State.deliverDue_awaits { s with now := s.now + 1 } b
    refine State.Awaits.deliverDue (first.of_same rfl ?_ ?_ ?_ fun _ h => h)
    all_goals rw [State.ticked_bay, State.deliverDue_bay, (Bay.linkLossTest_leaves _ _).2.1,
      (Bay.countSecond_leaves _ _).2.1]; rfl
  · exact s.ticked.settle_still.trans s.ticked_still
  · rw [s.ticked.settle_sameRecords.dyn, State.ticked_bay, (Bay.linkLossTest_leaves _ _).2.2.2.1, Bay.countSecond_dyn]
    show (s.bay b).dyn.countSecond _ = _
    unfold BayDyn.countSecond
    congr 2; funext x
    unfold Hold.countSecond Hold.arrived countUp
    cases arrival : x.arrival with
    | none => simp
    | some a =>
      simp only [Option.isSome_some, if_true, reduceCtorEq, if_false, Config.counterMax, bne_iff_ne, ne_eq, ite_not,
        Bool.and_eq_true, beq_iff_eq]
  · rw [s.ticked.settle_sameRecords.holds]
    simp [State.ticked, State.eachBay, State.deliverDue, State.waitHolds, Function.comp_def]
  · rw [s.ticked.settle_index]; rfl
  · rw [s.ticked.settle_recorder]; rfl
  · rw [s.ticked.settle_uplink]; rfl
  · rw [s.ticked.settle_allocator]; rfl

end Sys2Proof.Machine
end

section
/-!
SUPPORT. The Downlink Scheduler: the nodes of the map, the poll ring, sheds and raises, and the arbiter's choice case by
case. With it the settlement of the statements about link loss and polling, the arbiter, and the Charge Queue's order and
committed sum.
-/
namespace Sys2Proof.Machine

/-! ## The nodes of the map -/

theorem mem_nodeList {t : Table NodeEntry 256} {a : Addr} {e : NodeEntry} :
    (a, e) ∈ nodeList t ↔ t.get (addrIx a) = e := by
  unfold nodeList
  simp only [List.mem_map, Prod.mk.injEq, Prod.exists, List.mem_zipIdx_iff_getElem?]
  constructor
  · rintro ⟨x, i, entry, rfl, rfl⟩
    obtain ⟨inside, entry⟩ := List.getElem?_eq_some_iff.1 entry
    have bound : i < 256 := t.size ▸ inside
    have index : addrIx (BitVec.ofNat 8 i) = ⟨i, bound⟩ := by
      apply Fin.ext; simp [addrIx]; omega
    rw [index]; exact entry
  · rintro rfl
    exact ⟨_, a.toNat, List.getElem?_eq_getElem (by rw [t.size]; exact a.isLt), by simp, rfl⟩

theorem mem_downNodes {t : Table NodeEntry 256} {a : Addr} {e : NodeEntry} :
    (a, e) ∈ downNodes t ↔ t.get (addrIx a) = e ∧ (e.role = .post ∨ e.role = .sensor) := by
  unfold downNodes
  rw [List.mem_filter, mem_nodeList]
  exact and_congr_right fun _ => Role.isDown_iff _

theorem nodeOf_some {t : Table NodeEntry 256} {r : Role} {b : BayIx} {a : Addr} {e : NodeEntry}
    (h : nodeOf t r b = some (a, e)) : t.get (addrIx a) = e ∧ e.role = r ∧ e.bay = some b := by
  have found := List.find?_some h
  simp only [Bool.and_eq_true, beq_iff_eq] at found
  exact ⟨(mem_downNodes.1 (List.mem_of_find?_eq_some h)).1, found⟩

theorem State.post_some {s : State} {b : BayIx} {a : Addr} {e : NodeEntry} (h : s.post b = some (a, e)) :
    s.node a = e ∧ e.role = .post ∧ e.bay = some b := nodeOf_some h

/-! ## The poll ring (R143) -/

/-- The node at an address is due and stands at a ring position. -/
structure State.DueAt (s : State) (a : Addr) (p : Fin 256) : Prop where
  due : (s.node a).isDue s.now = true
  role : (s.node a).role = ringRole p
  bay : (s.node a).bay = some (ringBay p)

theorem NodeEntry.isDue_iff (e : NodeEntry) (now : Time) :
    e.isDue now = true ↔ ∃ c, e.contact = some c ∧ atOrAfter now c.due = true := by
  unfold NodeEntry.isDue; split <;> simp_all

theorem ringRole_down (p : Fin 256) : ringRole p = .post ∨ ringRole p = .sensor := by
  unfold ringRole; split <;> simp

theorem mem_ringOrder (c p : Fin 256) : p ∈ ringOrder c := by
  simp only [ringOrder, List.mem_append, List.mem_filter, List.mem_finRange, true_and, decide_eq_true_eq]
  exact le_or_gt c p

/-- The ring order goes up and around from the cursor. -/
theorem ringOrder_pairwise (c : Fin 256) : (ringOrder c).Pairwise (fun p p' => (p - c).val ≤ (p' - c).val) := by
  have distance (p : Fin 256) : (p - c).val = (256 - c.val + p.val) % 256 := rfl
  have up := List.pairwise_lt_finRange 256
  refine List.pairwise_append.2 ⟨?_, ?_, ?_⟩
  · refine List.Pairwise.imp_of_mem ?_ (up.filter _)
    intro p p' hp hp' lt
    simp only [List.mem_filter, decide_eq_true_eq] at hp hp'
    rw [distance, distance]; omega
  · refine List.Pairwise.imp_of_mem ?_ (up.filter _)
    intro p p' hp hp' lt
    simp only [List.mem_filter, decide_eq_true_eq] at hp hp'
    rw [distance, distance]; omega
  · intro p hp p' hp'
    simp only [List.mem_filter, decide_eq_true_eq] at hp hp'
    rw [distance, distance]; omega

/-- The node that is due at a ring position. -/
def State.dueAt? (s : State) (p : Fin 256) : Option (Addr × NodeEntry) :=
  ((downNodes s.nodes).filter (fun e => e.2.isDue s.now)).find?
    (fun e => e.2.role == ringRole p && e.2.bay == some (ringBay p))

theorem State.pollOffer_eq (s : State) :
    s.pollOffer = (ringOrder s.scheduler.cursor).findSome? (fun p => (s.dueAt? p).map (fun e => (p, e.1))) := rfl

theorem State.dueAt?_some {s : State} {p : Fin 256} {x : Addr × NodeEntry} (h : s.dueAt? p = some x) : s.DueAt x.1 p := by
  have found := List.find?_some h
  have mem := List.mem_of_find?_eq_some h
  simp only [Bool.and_eq_true, beq_iff_eq] at found
  obtain ⟨down, due⟩ := List.mem_filter.1 mem
  have entry : s.node x.1 = x.2 := (mem_downNodes.1 down).1
  exact ⟨entry ▸ due, entry ▸ found.1, entry ▸ found.2⟩

theorem State.dueAt?_none {s : State} {p : Fin 256} (h : s.dueAt? p = none) (a : Addr) : ¬ s.DueAt a p := by
  intro ⟨due, role, bay⟩
  have down : (a, s.node a) ∈ downNodes s.nodes := mem_downNodes.2 ⟨rfl, role ▸ ringRole_down p⟩
  have := List.find?_eq_none.1 h (a, s.node a) (List.mem_filter.2 ⟨down, due⟩)
  simp [role, bay] at this

/-- The node offered is due, and no due node stands nearer to the cursor. -/
theorem State.pollOffer_some {s : State} {p : Fin 256} {a : Addr} (h : s.pollOffer = some (p, a)) :
    s.DueAt a p ∧ ∀ p' a', s.DueAt a' p' → (p - s.scheduler.cursor).val ≤ (p' - s.scheduler.cursor).val := by
  rw [State.pollOffer_eq] at h
  obtain ⟨before, q, behind, split, found, earlier⟩ := List.findSome?_eq_some_iff.1 h
  obtain ⟨x, node, place⟩ := Option.map_eq_some_iff.1 found
  cases place
  refine ⟨State.dueAt?_some node, fun p' a' due => ?_⟩
  have order := ringOrder_pairwise s.scheduler.cursor
  have mem := mem_ringOrder s.scheduler.cursor p'
  rw [split] at order mem
  rcases List.mem_append.1 mem with early | late
  · have none : s.dueAt? p' = none := by simpa using earlier p' early
    exact absurd due (State.dueAt?_none none a')
  · rcases List.mem_cons.1 late with rfl | late
    · exact Nat.le_refl _
    · exact List.rel_of_pairwise_cons (List.pairwise_append.1 order).2.1 late

theorem State.pollOffer_none_iff (s : State) : s.pollOffer = none ↔ ∀ a p, ¬ s.DueAt a p := by
  rw [State.pollOffer_eq, List.findSome?_eq_none_iff]
  constructor
  · intro none a p
    exact State.dueAt?_none (by simpa using none p (mem_ringOrder _ p)) a
  · intro none p _
    cases found : s.dueAt? p with
    | none => rfl
    | some x => exact absurd (State.dueAt?_some found) (none x.1 p)

/-! ## The arbiter's choice, case by case (R136) -/

/-- A source has work to offer. -/
def State.HasWork (s : State) : Source → Prop
  | .raise => s.raiseOffer ≠ none
  | .forward => s.downlink.forward ≠ []
  | .poll => s.pollOffer ≠ none

theorem State.serve_none {s : State} {c : Source} (h : ¬ s.HasWork c) : s.serve c = none := by
  cases c with
  | raise =>
    have none : s.raiseOffer = none := not_not.1 h
    simp [State.serve, none]
  | forward =>
    have none : s.downlink.forward = [] := not_not.1 h
    simp [State.serve, none]
  | poll =>
    have none : s.pollOffer = none := not_not.1 h
    simp [State.serve, none]

theorem State.arbitrate_outstanding {s : State} {x : Transaction} (h : s.scheduler.transaction = some x) :
    s.arbitrate = s := by unfold State.arbitrate; rw [h]

theorem State.arbitrate_shed {s : State} {b : BayIx} {rest : List BayIx} (free : s.scheduler.transaction = none)
    (h : s.sheds = b :: rest) : s.arbitrate = s.chooseAllot b := by unfold State.arbitrate; rw [free, h]

theorem State.arbitrate_idle {s : State} (free : s.scheduler.transaction = none) (calm : s.sheds = [])
    (none : ∀ c, ¬ s.HasWork c) : s.arbitrate = s := by
  have nothing (c : Source) : s.serveFrom c = Option.none := by rw [State.serveFrom, State.serve_none (none c)]; rfl
  unfold State.arbitrate; rw [free, calm]; simp [nothing]

/-- It is the turn of a source: no transaction is outstanding, no shed is pending, and no source before it from the rotor
has work. -/
structure State.Turn (s : State) (c : Source) : Prop where
  free : s.scheduler.transaction = none
  calm : s.sheds = []
  place : c = s.scheduler.rotor ∨ c = s.scheduler.rotor.next ∧ ¬ s.HasWork s.scheduler.rotor
    ∨ c = s.scheduler.rotor.next.next ∧ ¬ s.HasWork s.scheduler.rotor ∧ ¬ s.HasWork s.scheduler.rotor.next

theorem State.arbitrate_turn {s t : State} {c : Source} (h : s.Turn c) (served : s.serve c = some t) :
    s.arbitrate = t.modScheduler (fun x => { x with rotor := c.next }) := by
  obtain ⟨free, calm, place⟩ := h
  have nothing {c : Source} (idle : ¬ s.HasWork c) : s.serveFrom c = none := by
    rw [State.serveFrom, State.serve_none idle]; rfl
  have chosen : s.serveFrom c = some (t.modScheduler (fun x => { x with rotor := c.next })) := by
    rw [State.serveFrom, served]; rfl
  unfold State.arbitrate; rw [free, calm]; dsimp only
  rcases place with rfl | ⟨rfl, idle⟩ | ⟨rfl, idle, idle'⟩
  · rw [chosen]; rfl
  · rw [nothing idle, chosen]; rfl
  · rw [nothing idle, nothing idle', chosen]; rfl

/-! ## Sheds and raises (R133, R134) -/

theorem State.isShed_iff {s : State} {b : BayIx} :
    s.isShed b = true ↔ (s.bay b).delivery.state = .pending ∧ (s.bay b).delivery.target < s.committed b := by
  simp [State.isShed]

theorem State.isRaise_iff {s : State} {b : BayIx} :
    s.isRaise b = true ↔ (s.bay b).delivery.state = .pending ∧ s.committed b ≤ (s.bay b).delivery.target := by
  unfold State.isRaise State.isShed
  by_cases pending : (s.bay b).delivery.state = .pending <;> simp [pending]

theorem State.inQueue_iff {s : State} {b : BayIx} : s.inQueue b = true ↔ ∃ e ∈ s.allocator.queue, e.bay = b := by
  simp [State.inQueue]

theorem State.mem_sheds {s : State} {b : BayIx} : b ∈ s.sheds ↔ s.isShed b = true := by
  unfold State.sheds
  rw [List.mem_filter]
  refine and_iff_right_of_imp fun _ => List.mem_append.2 ?_
  by_cases queued : s.inQueue b = true
  · obtain ⟨e, mem, rfl⟩ := State.inQueue_iff.1 queued
    refine .inr (List.mem_flatMap.2 ⟨e.priority, ?_, ?_⟩)
    · generalize e.priority = p; revert p; decide
    · simp only [List.mem_reverse, List.mem_map, List.mem_filter, beq_iff_eq]
      exact ⟨e, ⟨mem, rfl⟩, rfl⟩
  · exact .inl (List.mem_filter.2 ⟨List.mem_finRange b, by simpa using queued⟩)

/-- A shed has a post: a bay without one commits nothing. -/
theorem State.post_of_shed {s : State} {b : BayIx} (h : s.isShed b = true) : ∃ a e, s.post b = some (a, e) := by
  cases post : s.post b with
  | some x => exact ⟨x.1, x.2, rfl⟩
  | none =>
    have less := (State.isShed_iff.1 h).2
    rw [State.committed, post] at less
    exact absurd less (Nat.not_lt_zero _)

/-! ## The choice of an ALLOT -/

/-- The delivery record of a bay whose ALLOT has been chosen (R137). -/
def Delivery.allotted (d : Delivery) : Delivery :=
  { d with sequence := nextSequence d.sequence, unacknowledged := some d.target, repeatMark := false, state := .inFlight }

theorem State.chooseAllot_some {s : State} {b : BayIx} {a : Addr} {e : NodeEntry} (h : s.post b = some (a, e)) :
    s.chooseAllot b = ((s.modDelivery b Delivery.allotted).begin (.allot b (nextSequence (s.bay b).delivery.sequence))
      ⟨a, s.controller.own, Kind.allot, s.scheduler.tag,
        be16 (s.bay b).delivery.target ++ [byteOf (nextSequence (s.bay b).delivery.sequence)]⟩).takeTag := by
  unfold State.chooseAllot; rw [h]; rfl

theorem State.chooseAllot_delivery {s : State} {b : BayIx} {a : Addr} {e : NodeEntry} (h : s.post b = some (a, e))
    (c : BayIx) : (s.chooseAllot b).bay c
      = if c = b then { s.bay c with delivery := (s.bay c).delivery.allotted } else s.bay c := by
  rw [State.chooseAllot_some h]
  exact s.bay_modBay b c _

theorem exec_linkLossExpiry (n : Byte) (s : State) : exec (.linkLossExpiry n) s = execLinkLossExpiry n s := rfl
theorem exec_pollDue (a : Addr) (s : State) : exec (.pollDue a) s = execPollDue a s := rfl

theorem State.linkLostNow_iff (s : State) (b : BayIx) : s.linkLostNow b = true ↔ ∃ a e c, s.post b = some (a, e)
    ∧ e.contact = some c ∧ c.reachable = false
    ∧ atOrAfter s.now (c.last + BitVec.ofNat 32 s.timing.linkLoss) = true := by
  unfold State.linkLostNow secs
  cases post : s.post b with
  | none => simp
  | some x =>
    obtain ⟨a, e⟩ := x
    cases contact : e.contact with
    | none => simp [contact]
    | some c => simp [contact]

theorem State.deliverDue_committed (s : State) (b : BayIx) : s.deliverDue.committed b = s.committed b := by
  unfold State.committed; rw [s.deliverDue_bay]; rfl

/-- The delivery of deadlines leaves the sheds. -/
theorem State.deliverDue_sheds (s : State) : s.deliverDue.sheds = s.sheds := by
  have shed : s.deliverDue.isShed = s.isShed := by
    funext b; unfold State.isShed; rw [s.deliverDue_committed, s.deliverDue_bay]; rfl
  unfold State.sheds; rw [shed]; rfl

/-- Settles O35: the expiry is the link-loss test of its bay, and a node that is due is served at the end of the event. -/
theorem linkLossAndPollDue : Obligations.LinkLossAndPollDue := by
  unfold Obligations.LinkLossAndPollDue
  refine ⟨State.linkLostNow_iff, fun s b up lost => ?_, fun s a p up due free calm rotor offer => ?_⟩
  · have run : exec (.linkLossExpiry (byteOf (b.val + 1))) s = .next (s.linkLossTest b).deliverDue.arbitrate := by
      rw [exec_linkLossExpiry, execLinkLossExpiry, bayOfNo_byteOf]
      exact s.event_onState (·.linkLossTest b) up lost
    rw [run]
    refine ⟨fun clear free => ?_, fun not => ?_⟩
    · have test : s.linkLossTest b = s.modDelivery b Delivery.lose := by
        unfold State.linkLossTest; dsimp only
        rw [if_pos (by simp [lost, clear, free])]
      rw [test]
      rfl
    · have test : s.linkLossTest b = s := by
        unfold State.linkLossTest; dsimp only
        rw [if_neg]; rcases not with h | h <;> simp [h]
      rw [test]
  · have run : exec (.pollDue a) s = .next s.deliverDue.arbitrate :=
      s.event_onState id up due
    have turn : s.deliverDue.Turn .poll := ⟨free, s.deliverDue_sheds.trans calm, .inl rotor.symm⟩
    have serve : s.deliverDue.serve .poll = some (s.deliverDue.choosePoll p a) := by
      have same : s.deliverDue.pollOffer = some (p, a) := offer
      simp [State.serve, same]
    obtain ⟨still, dyns, _, _, _, _, uplink, _⟩ := s.settle_leaves
    refine ⟨_, run, still, dyns, uplink, ?_⟩
    rw [State.arbitrate_turn turn serve]; rfl

/-! ## The statement about the arbiter -/

theorem State.dueAt_iff (s : State) (a : Addr) (p : Fin 256) : s.DueAt a p ↔
    (∃ c, (s.node a).contact = some c ∧ atOrAfter s.now c.due = true)
      ∧ (s.node a).role = (if p.val % 2 = 0 then .post else .sensor)
      ∧ ∃ b : BayIx, (s.node a).bay = some b ∧ b.val = p.val / 2 := by
  constructor
  · intro ⟨due, role, bay⟩
    exact ⟨(NodeEntry.isDue_iff _ _).1 due, role, ringBay p, bay, rfl⟩
  · rintro ⟨due, role, b, bay, half⟩
    exact ⟨(NodeEntry.isDue_iff _ _).2 due, role, bay.trans (congrArg some (Fin.ext half))⟩

/-- What an ALLOT chosen for a bay with a post leaves. -/
theorem State.chooseAllot_leaves {s : State} {b : BayIx} {a : Addr} {e : NodeEntry} (h : s.post b = some (a, e)) :
    let d := (s.bay b).delivery
    let q := nextSequence d.sequence
    (s.chooseAllot b).scheduler = { s.scheduler with
        tag := s.scheduler.tag + 1,
        transaction := some ⟨.allot b q, ⟨a, s.controller.own, Kind.allot, s.scheduler.tag, be16 d.target ++ [byteOf q]⟩,
          false, s.timing.window, .waiting, false⟩ }
      ∧ ((s.chooseAllot b).bay b).delivery = d.allotted ∧ (s.chooseAllot b).downlink = s.downlink := by
  refine ⟨by rw [State.chooseAllot_some h]; rfl, ?_, by rw [State.chooseAllot_some h]; rfl⟩
  rw [State.chooseAllot_delivery h, if_pos rfl]

/-- Settles O21: the first shed, or the first source from the rotor that has work. -/
theorem arbiterChoice : Obligations.ArbiterChoice := by
  unfold Obligations.ArbiterChoice
  intro s
  dsimp only
  simp only [← State.dueAt_iff]
  refine ⟨fun x => State.arbitrate_outstanding, fun b rest free shed => ?_, fun b a e turn offer post => ?_,
    fun e q turn waits => ?_, fun p a turn offer => ?_, fun p a offer => State.pollOffer_some offer,
    s.pollOffer_none_iff, fun free calm idle => State.arbitrate_idle free calm idle⟩
  · obtain ⟨a, e, post⟩ := State.post_of_shed (State.mem_sheds.1 (shed ▸ List.mem_cons_self))
    obtain ⟨scheduler, delivery, downlink⟩ := State.chooseAllot_leaves post
    refine ⟨a, e, post, ?_⟩
    rw [State.arbitrate_shed free shed, scheduler, delivery, downlink]
    exact ⟨⟨rfl, rfl⟩, rfl, rfl, rfl, rfl⟩
  · obtain ⟨scheduler, delivery, downlink⟩ := State.chooseAllot_leaves post
    have served : s.serve .raise = some (s.chooseAllot b) := by simp [State.serve, offer]
    rw [State.arbitrate_turn ⟨turn.1, turn.2.1, turn.2.2⟩ served]
    simp only [State.modScheduler, State.bay]
    rw [scheduler, downlink]
    exact ⟨⟨rfl, rfl⟩, delivery, rfl, rfl, rfl⟩
  · have served : s.serve .forward = some s.chooseForward := by simp [State.serve, waits]
    rw [State.arbitrate_turn ⟨turn.1, turn.2.1, turn.2.2⟩ served, State.chooseForward, waits]
    exact ⟨⟨rfl, rfl⟩, rfl, rfl, rfl⟩
  · have served : s.serve .poll = some (s.choosePoll p a) := by simp [State.serve, offer]
    rw [State.arbitrate_turn ⟨turn.1, turn.2.1, turn.2.2⟩ served]
    exact ⟨⟨rfl, rfl⟩, rfl, rfl, rfl, (State.pollOffer_some offer).1⟩

/-! ## The Charge Queue's order (R80) -/

theorem ChargeEntry.ahead_iff (e : ChargeEntry) (p : Fin 4) (t : Time) :
    e.ahead p t = true ↔ p < e.priority ∨ e.priority = p ∧ laterThan e.stamp t = false := by
  simp [ChargeEntry.ahead]

/-- A joining entry stands behind every entry ahead of it, up to the first that is not. -/
theorem insertEntry_split (x : ChargeEntry) (q : List ChargeEntry) : ∃ l r, q = l ++ r ∧ insertEntry x q = l ++ x :: r
    ∧ (∀ e ∈ l, e.ahead x.priority x.stamp = true) ∧ (∀ e ∈ r.head?, ¬ e.ahead x.priority x.stamp = true) := by
  induction q with
  | nil => exact ⟨[], [], rfl, rfl, by simp, by simp⟩
  | cons e q ih =>
    by_cases ahead : e.ahead x.priority x.stamp = true
    · obtain ⟨l, r, split, place, before, behind⟩ := ih
      refine ⟨e :: l, r, by rw [split]; rfl, ?_, ?_, behind⟩
      · rw [insertEntry, if_pos ahead, place]; rfl
      · exact List.forall_mem_cons.2 ⟨ahead, before⟩
    · refine ⟨[], e :: q, rfl, ?_, by simp, by simpa using ahead⟩
      rw [insertEntry, if_neg ahead]; rfl

/-- A queue ordered by priority stays so. -/
theorem insertEntry_ordered (x : ChargeEntry) {q : List ChargeEntry}
    (h : q.Pairwise (fun d e => e.priority ≤ d.priority)) :
    (insertEntry x q).Pairwise (fun d e => e.priority ≤ d.priority) := by
  obtain ⟨l, r, split, place, before, behind⟩ := insertEntry_split x q
  rw [split] at h
  obtain ⟨front, back, across⟩ := List.pairwise_append.1 h
  have above (e : ChargeEntry) (mem : e ∈ l) : x.priority ≤ e.priority := by
    rcases (ChargeEntry.ahead_iff _ _ _).1 (before e mem) with higher | ⟨same, _⟩
    · exact le_of_lt higher
    · exact le_of_eq same.symm
  have below (e : ChargeEntry) (mem : e ∈ r) : e.priority ≤ x.priority := by
    match r with
    | [] => cases mem
    | d :: r =>
      have first : d.priority ≤ x.priority := by
        by_contra higher
        exact behind d rfl ((ChargeEntry.ahead_iff _ _ _).2 (.inl (not_le.1 higher)))
      rcases List.mem_cons.1 mem with rfl | later
      · exact first
      · exact le_trans (List.rel_of_pairwise_cons back later) first
  rw [place]
  refine List.pairwise_append.2 ⟨front, List.pairwise_cons.2 ⟨below, back⟩, fun d hd e he => ?_⟩
  rcases List.mem_cons.1 he with rfl | he
  · exact above d hd
  · exact across d hd e he

/-! ## The order of the sheds (R133) -/

/-- Bay `b` stands before bay `c` among the pending sheds. -/
def State.ShedBefore (s : State) (b c : BayIx) : Prop :=
  let q := s.allocator.queue
  (∀ e ∈ q, e.bay ≠ b) ∧ (∀ e ∈ q, e.bay ≠ c) ∧ b.val < c.val
    ∨ (∀ e ∈ q, e.bay ≠ b) ∧ (∃ e ∈ q, e.bay = c)
    ∨ ∃ (i j : Nat) (e f : ChargeEntry), q[i]? = some e ∧ q[j]? = some f ∧ e.bay = b ∧ f.bay = c
        ∧ (e.priority < f.priority ∨ e.priority = f.priority ∧ j < i)

theorem State.not_inQueue_iff {s : State} {b : BayIx} : s.inQueue b = false ↔ ∀ e ∈ s.allocator.queue, e.bay ≠ b := by
  rw [Bool.eq_false_iff, ne_eq, State.inQueue_iff]; push Not; rfl

/-- Two entries of one list stand at two places of it, in order. -/
theorem pairwise_places {α : Type} (l : List α) :
    l.Pairwise (fun x y => ∃ i j : Nat, j < i ∧ l[j]? = some x ∧ l[i]? = some y) := by
  rw [List.pairwise_iff_getElem]
  exact fun i j hi hj lt => ⟨j, i, lt, List.getElem?_eq_getElem hi, List.getElem?_eq_getElem hj⟩

theorem State.sheds_pairwise (s : State) : s.sheds.Pairwise s.ShedBefore := by
  unfold State.sheds
  refine List.Pairwise.filter _ (List.pairwise_append.2 ⟨?_, List.pairwise_flatMap.2 ⟨fun p _ => ?_, ?_⟩, ?_⟩)
  · refine List.Pairwise.imp_of_mem ?_ ((List.pairwise_lt_finRange 128).filter _)
    intro b c hb hc lt
    simp only [List.mem_filter, Bool.not_eq_true'] at hb hc
    exact .inl ⟨State.not_inQueue_iff.1 hb.2, State.not_inQueue_iff.1 hc.2, lt⟩
  · rw [List.pairwise_reverse, List.pairwise_map]
    refine List.Pairwise.imp_of_mem ?_ ((pairwise_places s.allocator.queue).filter _)
    rintro x y hx hy ⟨i, j, lt, px, py⟩
    simp only [List.mem_filter, beq_iff_eq] at hx hy
    exact .inr (.inr ⟨i, j, y, x, py, px, rfl, rfl, .inr ⟨hy.2.trans hx.2.symm, lt⟩⟩)
  · have ascending : [(0 : Fin 4), 1, 2, 3].Pairwise (· < ·) := by decide
    refine ascending.imp fun lt b hb c hc => ?_
    simp only [List.mem_reverse, List.mem_map, List.mem_filter, beq_iff_eq] at hb hc
    obtain ⟨e, ⟨he, rfl⟩, rfl⟩ := hb
    obtain ⟨f, ⟨hf, rfl⟩, rfl⟩ := hc
    obtain ⟨i, pi⟩ := List.getElem?_of_mem he
    obtain ⟨j, pj⟩ := List.getElem?_of_mem hf
    exact .inr (.inr ⟨i, j, e, f, pi, pj, rfl, rfl, .inl lt⟩)
  · intro b hb c hc
    simp only [List.mem_filter, Bool.not_eq_true', List.mem_flatMap, List.mem_reverse, List.mem_map] at hb hc
    obtain ⟨_, _, e, ⟨he, _⟩, rfl⟩ := hc
    exact .inr (.inl ⟨State.not_inQueue_iff.1 hb.2, e, he, rfl⟩)

/-! ## The committed sum (R130, R133, R134) -/

/-- The committed value of a bay whose ALLOT has been chosen: the target counts as unacknowledged (R130). -/
theorem Bay.committed_allotted (y : Bay) :
    ({ y with delivery := y.delivery.allotted } : Bay).committed true ≤ max (y.committed true) y.delivery.target := by
  unfold Bay.committed Delivery.allotted
  cases y.alloc.suspectCopy with
  | true => simp
  | false =>
    cases y.delivery.inForce with
    | none => simp
    | some f => simp; omega

theorem State.chooseAllot_committed {s : State} {b : BayIx} {a : Addr} {e : NodeEntry} (h : s.post b = some (a, e)) :
    (∀ c, c ≠ b → (s.chooseAllot b).committed c = s.committed c)
      ∧ (s.chooseAllot b).committed b ≤ max (s.committed b) (s.bay b).delivery.target := by
  have post (c : BayIx) : (s.chooseAllot b).post c = s.post c := by rw [State.chooseAllot_some h]; rfl
  refine ⟨fun c other => ?_, ?_⟩
  · rw [State.committed, post, State.chooseAllot_delivery h, if_neg other]; rfl
  · rw [State.committed, post, State.chooseAllot_delivery h, if_pos rfl, State.committed, h]
    exact (s.bay b).committed_allotted

/-- The sum over all bays after one bay's value has changed. -/
theorem sum_allBays_change {f g : BayIx → Nat} {b : BayIx} (same : ∀ c, c ≠ b → g c = f c) :
    (allBays.map g).sum + f b = (allBays.map f).sum + g b := by
  have sum (f : BayIx → Nat) : (allBays.map f).sum = ∑ c, f c := Fin.sum_univ_def f |>.symm
  have rest : ∑ c ∈ Finset.univ.erase b, g c = ∑ c ∈ Finset.univ.erase b, f c :=
    Finset.sum_congr rfl fun c hc => same c (Finset.ne_of_mem_erase hc)
  have whole (f : BayIx → Nat) := Finset.add_sum_erase Finset.univ f (Finset.mem_univ b)
  rw [sum, sum, ← whole f, ← whole g, rest]
  omega

theorem State.committed_le_sum (s : State) (b : BayIx) : s.committed b ≤ s.committedSum :=
  List.le_sum_of_mem (List.mem_map.2 ⟨b, List.mem_finRange b, rfl⟩)

/-- The committed sum after an ALLOT is no higher than with the bay's value replaced by the higher of it and the target. -/
theorem State.chooseAllot_committedSum (s : State) (b : BayIx) : (s.chooseAllot b).committedSum
    ≤ s.committedSum - s.committed b + max (s.committed b) (s.bay b).delivery.target := by
  have part := s.committed_le_sum b
  cases post : s.post b with
  | none =>
    have same : s.chooseAllot b = s := by unfold State.chooseAllot; rw [post]
    rw [same]; omega
  | some x =>
    obtain ⟨others, own⟩ := State.chooseAllot_committed (a := x.1) (e := x.2) post
    have sums := sum_allBays_change others
    simp only [State.committedSum] at *
    omega

theorem State.raiseOffer_iff (s : State) (b : BayIx) : s.raiseOffer = some b ↔ s.suspension.suspended = false
    ∧ (∃ l r, s.allocator.queue.map (·.bay) = l ++ b :: r ∧ ∀ c ∈ l, ¬ s.isRaise c = true) ∧ s.isRaise b = true
    ∧ s.committedSum - s.committed b + (s.bay b).delivery.target ≤ s.scheduler.budget := by
  unfold State.raiseOffer
  cases s.suspension.suspended with
  | true => simp
  | false =>
    simp only [Bool.false_eq_true, if_false, true_and]
    have first := List.find?_eq_some_iff_append (p := s.isRaise) (xs := s.allocator.queue.map (·.bay)) (b := b)
    simp only [Bool.not_eq_true'] at first
    simp only [Bool.not_eq_true]
    cases found : (s.allocator.queue.map (·.bay)).find? s.isRaise with
    | none =>
      rw [found] at first
      refine iff_of_false (fun h => by cases h) fun h => ?_
      cases first.2 ⟨h.2.1, h.1⟩
    | some c =>
      rw [found, Option.some.injEq] at first
      have offered : (if s.committedSum - s.committed c + (s.bay c).delivery.target ≤ s.scheduler.budget then some c
          else none) = some b ↔ c = b
            ∧ s.committedSum - s.committed c + (s.bay c).delivery.target ≤ s.scheduler.budget := by
        split <;> simp_all
      refine offered.trans ⟨?_, ?_⟩
      · rintro ⟨rfl, fits⟩
        exact ⟨(first.1 rfl).2, (first.1 rfl).1, fits⟩
      · rintro ⟨split, raise, fits⟩
        obtain rfl := first.2 ⟨raise, split⟩
        exact ⟨rfl, fits⟩

/-- Settles O20: the place of a join, the order of the sheds, and what an ALLOT does to the committed sum. -/
theorem queueOrderAndCommittedSum : Obligations.QueueOrderAndCommittedSum := by
  unfold Obligations.QueueOrderAndCommittedSum
  simp only [← ChargeEntry.ahead_iff, ← State.isShed_iff, ← State.isRaise_iff]
  refine ⟨fun x q => ⟨insertEntry_split x q, insertEntry_ordered x⟩,
    fun s => ⟨fun b => State.mem_sheds, fun _ => s.sheds_pairwise⟩, fun s b shed => ?_, fun s b offer => ?_,
    State.raiseOffer_iff⟩
  · have less := (State.isShed_iff.1 (State.mem_sheds.1 shed)).2
    have sum := s.chooseAllot_committedSum b
    have part := s.committed_le_sum b
    obtain ⟨a, e, post⟩ := State.post_of_shed (State.mem_sheds.1 shed)
    refine ⟨by omega, ?_, ?_⟩
    · rw [State.chooseAllot_delivery post, if_pos rfl]; rfl
    · rw [State.chooseAllot_delivery post, if_pos rfl]; rfl
  · obtain ⟨free, _, raise, fits⟩ := (s.raiseOffer_iff b).1 offer
    have more := (State.isRaise_iff.1 raise).2
    have sum := s.chooseAllot_committedSum b
    exact ⟨free, by omega⟩

end Sys2Proof.Machine
end

section
/-!
SUPPORT. The books of the part: what the Reservation Engine reads and writes of a state. Each operation on an event says
here once what it makes of the books, of the notes owed and of the frames placed; the end of an event leaves the books.
-/
namespace Sys2Proof.Machine

/-! ## The books -/

/-- What the engine keeps of one bay: the record, the three hold deadlines, and whether the check word agrees. -/
structure BayBook where
  dyn : BayDyn
  noShow : Option Deadline
  overstay : Option Deadline
  check : Option Deadline
  ok : Bool

/-- The books: every bay, the Ticket Index, the Waitlist, the placement cursors, and what no operation of the engine
changes. -/
structure Books where
  bays : BayIx → BayBook
  index : List IndexEntry
  waitlist : List WaitEntry
  cursors : Table BayIx 4
  degraded : Bool
  still : Still

def Bay.book (y : Bay) : BayBook :=
  ⟨y.dyn, y.timer.noShow, y.timer.overstay, y.timer.displacement, y.checkOk⟩

def State.books (s : State) : Books :=
  ⟨fun b => (s.bay b).book, s.index, s.waitlist, s.cursors, s.scrubber.degraded, s.still⟩

/-- The record of a bay changed in its book, its check word recomputed when a field changes (R3). -/
def BayBook.setDyn (y : BayBook) (f : BayDyn → BayDyn) : BayBook :=
  { y with dyn := f y.dyn, ok := if f y.dyn = y.dyn then y.ok else true }

@[simp] theorem BayBook.setDyn_fields (y : BayBook) (f : BayDyn → BayDyn) :
    (y.setDyn f).dyn = f y.dyn ∧ (y.setDyn f).noShow = y.noShow ∧ (y.setDyn f).overstay = y.overstay
    ∧ (y.setDyn f).check = y.check := ⟨rfl, rfl, rfl, rfl⟩

@[simp] theorem BayBook.setDyn_ok {y : BayBook} (f : BayDyn → BayDyn) (h : y.ok = true) : (y.setDyn f).ok = true := by
  unfold BayBook.setDyn; dsimp only; split
  · exact h
  · rfl

/-- Every record agrees with its check word. -/
def Books.Ok (k : Books) : Prop := ∀ b, (k.bays b).ok = true

/-- The books with one bay changed. -/
def Books.put (k : Books) (b : BayIx) (f : BayBook → BayBook) : Books :=
  { k with bays := fun c => if c = b then f (k.bays c) else k.bays c }

@[simp] theorem Books.put_same (k : Books) (b : BayIx) (f : BayBook → BayBook) : (k.put b f).bays b = f (k.bays b) :=
  if_pos rfl

theorem Books.put_other (k : Books) {b c : BayIx} (f : BayBook → BayBook) (h : c ≠ b) :
    (k.put b f).bays c = k.bays c := if_neg h

@[simp] theorem Books.put_leaves (k : Books) (b : BayIx) (f : BayBook → BayBook) :
    (k.put b f).index = k.index ∧ (k.put b f).waitlist = k.waitlist ∧ (k.put b f).cursors = k.cursors
    ∧ (k.put b f).degraded = k.degraded ∧ (k.put b f).still = k.still := ⟨rfl, rfl, rfl, rfl, rfl⟩

@[simp] theorem Books.put_put (k : Books) (b : BayIx) (f g : BayBook → BayBook) :
    (k.put b f).put b g = k.put b (fun y => g (f y)) := by
  unfold Books.put; congr 1; funext c; by_cases h : c = b <;> simp [h]

theorem Books.put_congr {k : Books} {b : BayIx} {f g : BayBook → BayBook} (h : f (k.bays b) = g (k.bays b)) :
    k.put b f = k.put b g := by
  unfold Books.put; congr 1; funext c; split
  · next same => subst same; exact h
  · rfl

theorem Books.put_id {k : Books} {b : BayIx} {f : BayBook → BayBook} (h : f (k.bays b) = k.bays b) : k.put b f = k := by
  have same : k.put b f = k.put b id := Books.put_congr h
  rw [same]; unfold Books.put; simp

theorem Books.Ok.put {k : Books} (h : k.Ok) (b : BayIx) {f : BayBook → BayBook}
    (kept : ∀ y : BayBook, y.ok = true → (f y).ok = true) : (k.put b f).Ok := by
  intro c
  by_cases same : c = b
  · subst same; rw [Books.put_same]; exact kept _ (h c)
  · rw [Books.put_other _ _ same]; exact h c

/-! ## What a change of the state makes of the books -/

theorem State.books_eq {s t : State} (bays : ∀ b, (t.bay b).book = (s.bay b).book) (index : t.index = s.index)
    (waitlist : t.waitlist = s.waitlist) (cursors : t.cursors = s.cursors)
    (degraded : t.scrubber.degraded = s.scrubber.degraded) (still : t.still = s.still) : t.books = s.books := by
  unfold State.books; rw [index, waitlist, cursors, degraded, still]; congr 1; funext b; exact bays b

theorem State.modBay_books (s : State) (b : BayIx) {f : Bay → Bay} {g : BayBook → BayBook}
    (book : ∀ y, (f y).book = g y.book) (cfg : ∀ y, (f y).config = y.config) :
    (s.modBay b f).books = s.books.put b g := by
  have still : (s.modBay b f).still = s.still := by
    simp only [State.still, State.modBay]
    rw [Table.map_modify_of_eq _ _ _ _ (cfg _)]
  unfold State.books Books.put; dsimp only
  rw [still]; congr 1; funext c
  rw [State.bay_modBay]
  by_cases same : c = b <;> simp [same, book]

theorem State.modBay_books_same (s : State) (b : BayIx) {f : Bay → Bay}
    (book : ∀ y, (f y).book = y.book) (cfg : ∀ y, (f y).config = y.config) : (s.modBay b f).books = s.books := by
  rw [s.modBay_books b (g := id) book cfg]; exact Books.put_id rfl

theorem Bay.modDyn_book (y : Bay) (f : BayDyn → BayDyn) : (y.modDyn f).book = y.book.setDyn f := by
  by_cases same : f y.dyn = y.dyn
  · simp [Bay.modDyn, Bay.book, BayBook.setDyn, same]
  · simp [Bay.modDyn, Bay.book, BayBook.setDyn, Bay.checkOk, same]

theorem State.modDyn_books (s : State) (b : BayIx) (f : BayDyn → BayDyn) :
    (s.modDyn b f).books = s.books.put b (·.setDyn f) :=
  s.modBay_books b (fun y => y.modDyn_book f) (fun y => y.modDyn_config f)

theorem Talks.books {s t : State} (h : Talks s t) (still : t.still = s.still) : t.books = s.books := by
  unfold Talks at h
  exact State.books_eq (fun b => by rw [h]; rfl) (by rw [h]) (by rw [h]) (by rw [h]) (by rw [h]) still

/-! ## Operations on an event: the books -/

section
variable (ev : Ev)

/-- The books of an event in progress. -/
abbrev Ev.books (ev : Ev) : Books := ev.st.books

theorem Ev.bay_dyn (b : BayIx) : (ev.bay b).dyn = (ev.books.bays b).dyn := rfl

@[simp] theorem Ev.modDyn_books (b : BayIx) (f : BayDyn → BayDyn) :
    (ev.modDyn b f).books = ev.books.put b (·.setDyn f) := ev.st.modDyn_books b f

@[simp] theorem Ev.modAlloc_books (b : BayIx) (f : BayAlloc → BayAlloc) : (ev.modAlloc b f).books = ev.books :=
  ev.st.modBay_books_same b (fun _ => rfl) (fun _ => rfl)

@[simp] theorem Ev.modDelivery_books (b : BayIx) (f : Delivery → Delivery) : (ev.modDelivery b f).books = ev.books :=
  ev.st.modBay_books_same b (fun _ => rfl) (fun _ => rfl)

@[simp] theorem Ev.log_books (e : ErrorReport) : (ev.log e).books = ev.books :=
  (ev.log_talks e).books (Moves.refl.log e).still

@[simp] theorem Ev.notice_books (d : Addr) (k : Byte) (p : List Byte) : (ev.notice d k p).books = ev.books :=
  (ev.notice_talks d k p).books (Moves.refl.notice d k p).still

@[simp] theorem Ev.holdNotice_books (x : Hold) (e : HoldEvent) (c : HoldNoticeBody) :
    (ev.holdNotice x e c).books = ev.books := (ev.holdNotice_talks x e c).books (Moves.refl.holdNotice x e c).still

@[simp] theorem Ev.answer_books (f : Option Frame) : (ev.answer f).books = ev.books :=
  (ev.answer_talks f).books (ev.answer_moves f).still

@[simp] theorem Ev.flushNotes_books : ev.flushNotes.books = ev.books :=
  ev.flushNotes_talks.books (Moves.refl.flushNotes).still

@[simp] theorem Ev.clearRotation_books (b : BayIx) : (ev.onState (·.clearRotation b)).books = ev.books :=
  ev.st.modBay_books_same b (fun _ => rfl) (fun _ => rfl)

theorem State.setQueue_books (s : State) (q : List ChargeEntry) : (s.setQueue q).books = s.books := rfl

@[simp] theorem Ev.join_books (b : BayIx) : (ev.join b).books = ev.books := by
  unfold Ev.join; dsimp only
  exact (Ev.modAlloc_books _ b _).trans (State.setQueue_books _ _)

@[simp] theorem Ev.leave_books (b : BayIx) : (ev.leave b).books = ev.books := by
  unfold Ev.leave; dsimp only
  exact ((Ev.clearRotation_books _ b).trans (Ev.modAlloc_books _ b _)).trans (State.setQueue_books _ _)

@[simp] theorem Ev.syncQueue_books (b : BayIx) : (ev.syncQueue b).books = ev.books := by
  unfold Ev.syncQueue; split <;> split <;> simp

@[simp] theorem Ev.reportCharging_books (b : BayIx) (v : Bool) : (ev.reportCharging b v).books = ev.books := by
  unfold Ev.reportCharging; split
  · rfl
  · dsimp only; split <;> simp

@[simp] theorem Ev.reportSuspect_books (b : BayIx) (v : Bool) : (ev.reportSuspect b v).books = ev.books := by
  simp [Ev.reportSuspect]

@[simp] theorem Ev.touch_books (b : BayIx) : (ev.touch b).books = ev.books := congrArg State.books (ev.touch_st b)

@[simp] theorem Ev.note_books (b : BayIx) (c : BayCause) : (ev.note b c).books = ev.books := ev.touch_books b

@[simp] theorem Ev.noteEnd_books (b : BayIx) (r : EndReason) : (ev.noteEnd b r).books = ev.books := ev.touch_books b

@[simp] theorem Ev.noteFault_books (b : BayIx) (c : FaultCause) : (ev.noteFault b c).books = ev.books := ev.touch_books b

@[simp] theorem Ev.wantScan_books : ev.wantScan.books = ev.books := rfl

@[simp] theorem Ev.setState_books (b : BayIx) (st : BayState) :
    (ev.setState b st).books = ev.books.put b (·.setDyn ({ · with state := st })) := by
  unfold Ev.setState; simp

theorem Ev.modTimer_books (b : BayIx) {f : BayTimer → BayTimer} {g : BayBook → BayBook}
    (h : ∀ y : Bay, ({ y with timer := f y.timer } : Bay).book = g y.book) :
    (ev.modTimer b f).books = ev.books.put b g := ev.st.modBay_books b h (fun _ => rfl)

/-- The active hold's deadlines withdrawn. -/
def BayBook.clearActive (y : BayBook) : BayBook := { y with noShow := none, overstay := none }

/-- The deadline of an active hold (Table 3-2). -/
def BayBook.await (noShow overstay : Deadline) (arrived : Bool) (y : BayBook) : BayBook :=
  { y with noShow := if arrived then none else some noShow, overstay := if arrived then some overstay else none }

@[simp] theorem Ev.clearActive_books (b : BayIx) :
    (ev.modTimer b BayTimer.clearActive).books = ev.books.put b BayBook.clearActive :=
  ev.modTimer_books b fun _ => rfl

theorem BayTimer.setActive_fields (t : BayTimer) (x y : Deadline) (v : Bool) :
    (t.setActive x y v).noShow = (if v then none else some x) ∧ (t.setActive x y v).overstay = (if v then some y else none)
      ∧ (t.setActive x y v).displacement = t.displacement := by cases v <;> exact ⟨rfl, rfl, rfl⟩

@[simp] theorem Ev.setActive_books (b : BayIx) (x y : Deadline) (v : Bool) :
    (ev.modTimer b (fun t => t.setActive x y v)).books = ev.books.put b (.await x y v) :=
  ev.modTimer_books b fun z => by
    obtain ⟨h1, h2, h3⟩ := z.timer.setActive_fields x y v
    simp [Bay.book, Bay.checkOk, BayBook.await, h1, h2, h3]

@[simp] theorem Ev.setCheck_books (b : BayIx) (o : Option Deadline) :
    (ev.modTimer b (fun t => { t with displacement := o })).books = ev.books.put b ({ · with check := o }) :=
  ev.modTimer_books b fun _ => rfl

/-- The Ticket Index of the books changed. -/
def Books.setIndex (k : Books) (l : List IndexEntry) : Books := { k with index := l }

/-- The Ticket Index without the entry of a hold's ticket. -/
def Books.unindex (k : Books) (x : Hold) : Books :=
  { k with index := match x.ticket with | some t => k.index.filter (fun e => e.ticket != t) | none => k.index }

/-- The Ticket Index with a hold's ticket at a location (R29). -/
def indexAt (l : List IndexEntry) (x : Hold) (at_ : Location) : List IndexEntry :=
  match x.ticket, x.requester with
  | some t, some r =>
    if l.any (·.ticket == t) then l.map (fun e => if e.ticket = t then { e with location := at_ } else e)
    else l ++ [⟨t, r, at_⟩]
  | _, _ => l

def Books.indexHold (k : Books) (x : Hold) (at_ : Location) : Books := { k with index := indexAt k.index x at_ }

@[simp] theorem Ev.unindexHold_books (x : Hold) : (ev.onState (·.unindexHold x)).books = ev.books.unindex x := by
  unfold State.unindexHold Books.unindex Ev.onState; cases x.ticket <;> rfl

@[simp] theorem Ev.indexHold_books (x : Hold) (l : Location) :
    (ev.onState (·.indexHold x l)).books = ev.books.indexHold x l := by
  unfold State.indexHold Books.indexHold indexAt Ev.onState
  cases x.ticket with
  | none => rfl
  | some t =>
    cases x.requester with
    | none => rfl
    | some r =>
      dsimp only
      unfold State.setIndex
      by_cases known : ev.st.index.any (·.ticket == t) = true
      · rw [if_pos known, if_pos (c := ev.books.index.any (·.ticket == t) = true) known]; rfl
      · rw [if_neg known, if_neg (c := ev.books.index.any (·.ticket == t) = true) known]; rfl

@[simp] theorem Ev.setWaitlist_books (f : State → List WaitEntry) :
    (ev.onState (fun s => s.setWaitlist (f s))).books = { ev.books with waitlist := f ev.st } := rfl

end

end Sys2Proof.Machine
end

section
/-!
SUPPORT. The end of an event seen in the books: frames, a recompute over records in order, the delivery of deadlines and
the arbiter's choice leave the books as they are, but that a deadline that is due is delivered.
-/
namespace Sys2Proof.Machine

/-! ## The recompute leaves the books -/

theorem State.bays_books (s : State) {f : Bay → Bay} (book : ∀ y, (f y).book = y.book)
    (cfg : ∀ y, (f y).config = y.config) : ({ s with bays := s.bays.map f } : State).books = s.books := by
  refine State.books_eq (fun b => ?_) rfl rfl rfl rfl ?_
  · simp [State.bay, book]
  · simp only [State.still, Table.map_map]
    congr 2; funext y; exact cfg y

theorem State.modTimer_books_same (s : State) (b : BayIx) (r : Rotation) :
    (s.modTimer b (fun t => { t with rotation := r })).books = s.books :=
  s.modBay_books_same b (fun _ => rfl) (fun _ => rfl)

theorem State.setRotation_books (s : State) (b : BayIx) (v : Time) : (s.setRotation b v).books = s.books := by
  unfold State.setRotation; split
  · exact State.modTimer_books_same s b (.due v)
  · exact State.modTimer_books_same s b (.set v)

theorem State.clearRotation_books (s : State) (b : BayIx) : (s.clearRotation b).books = s.books :=
  s.modTimer_books_same b .clear

theorem State.modAlloc_books (s : State) (b : BayIx) (f : BayAlloc → BayAlloc) : (s.modAlloc b f).books = s.books :=
  s.modBay_books_same b (fun _ => rfl) (fun _ => rfl)

theorem State.modDelivery_books (s : State) (b : BayIx) (f : Delivery → Delivery) :
    (s.modDelivery b f).books = s.books :=
  s.modBay_books_same b (fun _ => rfl) (fun _ => rfl)

theorem State.foldl_books {f : State → α → State} (hf : ∀ s x, (f s x).books = s.books) (l : List α) (s : State) :
    (l.foldl f s).books = s.books := by
  induction l generalizing s with
  | nil => rfl
  | cons x l ih => rw [List.foldl_cons, ih, hf]

theorem State.markAdmitted_books (s : State) (b : BayIx) (v : Bool) : (s.markAdmitted b v).books = s.books := by
  unfold State.markAdmitted; dsimp only
  split
  · split
    · rfl
    · split
      · rw [State.setRotation_books, State.modAlloc_books]
      · rw [State.clearRotation_books, State.modAlloc_books]
  · split
    · rfl
    · rw [State.clearRotation_books, State.modAlloc_books]

theorem State.readmit_books (s : State) (ts : List (BayIx × Nat)) : (s.readmit ts).books = s.books :=
  State.foldl_books (fun s b => s.markAdmitted_books b _) _ _

theorem State.handOver_books (s : State) : s.handOver.books = s.books :=
  State.bays_books s (f := fun y => { y with delivery := y.delivery.handTarget y.alloc.target })
    (fun _ => rfl) (fun _ => rfl)

theorem retargeted_map (t : Table Bay 128) (ts : List (BayIx × Nat)) (f : Bay → γ)
    (h : ∀ (y : Bay) a, f { y with alloc := a } = f y) : (retargeted t ts).map f = t.map f :=
  Table.ext_get fun b => by rw [Table.get_map, Table.get_map, retargeted_get, h]

theorem State.retarget_books (s : State) : s.retarget.books = s.books := by
  rw [State.retarget_eq, State.handOver_books]
  rw [← s.readmit_books s.targets]
  generalize s.readmit s.targets = u
  generalize s.targets = ts
  refine State.books_eq (fun b => ?_) rfl rfl rfl rfl ?_
  · show ((retargeted u.bays ts).get b).book = (u.bays.get b).book
    rw [retargeted_get]; rfl
  · simp only [State.still]
    rw [retargeted_map u.bays ts Bay.config (fun _ _ => rfl)]

theorem State.rotate_books (s : State) (e : ChargeEntry) : (s.rotate e).books = s.books := by
  unfold State.rotate
  rw [State.clearRotation_books, State.modAlloc_books, State.setQueue_books]

theorem State.allOk_iff (s : State) : s.AllOk ↔ s.books.Ok := Iff.rfl

theorem Ev.recomputeFuel_books (n : Nat) (ev : Ev) (ok : ev.books.Ok) : (Ev.recomputeFuel n ev).books = ev.books := by
  induction n generalizing ev with
  | zero => rfl
  | succ n ih =>
    have turn : (ev.compareQueue.onState State.retarget).books = ev.books := by
      rw [Ev.compareQueue_ok _ ok]
      exact (State.retarget_books _).trans ev.flushNotes_books
    unfold Ev.recomputeFuel; dsimp only
    split
    · exact turn
    · next e he =>
      have turned : ((ev.compareQueue.onState State.retarget).onState (·.rotate e)).books = ev.books :=
        (State.rotate_books _ e).trans turn
      rw [ih _ (by rw [turned]; exact ok), turned]

theorem Ev.runRecompute_books (ev : Ev) (ok : ev.recompute = false ∨ ev.books.Ok) :
    ev.runRecompute.books = ev.books := by
  unfold Ev.runRecompute
  split
  · next owed =>
    generalize 130 = n
    exact Ev.recomputeFuel_books n ev (ok.resolve_left (by simp [owed]))
  · rfl

/-! ## The end of an event -/

theorem Ev.foldl_raiseNote_leaves (l : List BayNote) (ev : Ev) :
    (l.foldl Ev.raiseNote ev).scan = ev.scan ∧ (l.foldl Ev.raiseNote ev).recompute = ev.recompute
    ∧ (l.foldl Ev.raiseNote ev).notes = ev.notes := by
  induction l generalizing ev with
  | nil => exact ⟨rfl, rfl, rfl⟩
  | cons n l ih =>
    have one : (ev.raiseNote n).scan = ev.scan ∧ (ev.raiseNote n).recompute = ev.recompute
        ∧ (ev.raiseNote n).notes = ev.notes := by
      unfold Ev.raiseNote; dsimp only; split <;> simp
    obtain ⟨scan, recompute, notes⟩ := ih (ev.raiseNote n)
    obtain ⟨scan1, recompute1, notes1⟩ := one
    rw [List.foldl_cons, scan, recompute, notes, scan1, recompute1, notes1]
    exact ⟨rfl, rfl, rfl⟩

@[simp] theorem Ev.flushNotes_leaves (ev : Ev) :
    ev.flushNotes.scan = ev.scan ∧ ev.flushNotes.recompute = ev.recompute ∧ ev.flushNotes.notes = [] :=
  Ev.foldl_raiseNote_leaves ev.notes { ev with notes := [] }

/-- The end of an event that places nothing and finds every record in order: the state it is left in has the books of
the event (R39, R59, R85, R136). -/
theorem Ev.finish_books (ev : Ev) (scan : ev.scan = false ∨ ev.books.waitlist = [])
    (ok : ev.recompute = false ∨ ev.books.Ok) : ∃ u : State, ev.finish = u.settle ∧ u.books = ev.books := by
  obtain ⟨scanKept, recomputeKept, _⟩ := ev.flushNotes_leaves
  have scanned : ev.flushNotes.runScan = { ev.flushNotes with scan := false } := by
    refine Ev.runScan_empty _ ?_
    rw [scanKept]
    exact scan.imp_right fun h => (congrArg Books.waitlist ev.flushNotes_books).trans h
  refine ⟨_, rfl, ?_⟩
  have recomputed : ev.flushNotes.runScan.runRecompute.books = ev.books := by
    rw [scanned]
    refine (Ev.runRecompute_books { ev.flushNotes with scan := false } ?_).trans ev.flushNotes_books
    exact ok.imp (fun h => recomputeKept.trans h) (fun h => by
      have kept : ev.flushNotes.books = ev.books := ev.flushNotes_books
      show ev.flushNotes.books.Ok
      rw [kept]; exact h)
  exact (Ev.flushNotes_books _).trans recomputed

/-- A state in which an event that leaves the books as `k` has ended. -/
structure State.Shows (x : State) (k : Books) : Prop where
  still : x.still = k.still
  dyn : ∀ b, (x.bay b).dyn = (k.bays b).dyn
  awaits : ∀ b, x.Awaits b (k.bays b).noShow (k.bays b).overstay (k.bays b).check
  index : x.index = k.index
  waits : x.WaitsWith k.waitlist
  cursors : x.cursors = k.cursors
  degraded : x.scrubber.degraded = k.degraded

theorem State.settle_waitsWith (s : State) : s.settle.WaitsWith s.waitlist := by
  have now : s.settle.now = s.now := congrArg Still.now s.settle_still
  refine ⟨by rw [now]; exact s.settle_waitlist, fun e here t ticket v deadline due => ?_⟩
  rw [s.settle_expiries]
  exact State.mem_deliverDue_expiries.2 (.inr (.inr (.inl ⟨e, here, t, v, ticket, deadline, now ▸ due, rfl⟩)))

theorem State.settle_shows (u : State) : u.settle.Shows u.books where
  still := u.settle_still
  dyn := u.settle_sameRecords.dyn
  awaits b := (u.deliverDue_awaits b).arbitrate
  index := u.settle_index
  waits := u.settle_waitsWith
  cursors := u.settle_sameRecords.cursors
  degraded := congrArg Scrubber.degraded u.settle_scrubber

theorem Ev.finish_shows (ev : Ev) (scan : ev.scan = false ∨ ev.books.waitlist = [])
    (ok : ev.recompute = false ∨ ev.books.Ok) : ev.finish.Shows ev.books := by
  obtain ⟨u, finish, books⟩ := ev.finish_books scan ok
  rw [finish, ← books]; exact u.settle_shows

end Sys2Proof.Machine
end

section
/-!
SUPPORT. Beside the books: the notes an event owes (the desk), the frames it has placed (the voice), and whether it has
stirred the Charge Queue (the calm). What each operation of the engine makes of the three.
-/
namespace Sys2Proof.Machine

/-! ## The desk -/

/-- The notes owed, the scan owed, and whether a hold was made arrived. -/
structure Desk where
  notes : List BayNote
  scan : Bool
  captured : Bool

def Ev.desk (ev : Ev) : Desk := ⟨ev.notes, ev.scan, ev.captured⟩

/-- The state before the event is kept at the first touch of a bay (R25). -/
def Desk.touch (k : Desk) (b : BayIx) (before : BayState) : Desk :=
  if k.notes.any (·.bay == b) then k else { k with notes := k.notes ++ [⟨b, before, [], none, none⟩] }

def Desk.modNote (k : Desk) (b : BayIx) (f : BayNote → BayNote) : Desk :=
  { k with notes := k.notes.map (fun n => if n.bay = b then f n else n) }

/-- The note of a bay with one more cause. -/
def BayNote.met (c : BayCause) (n : BayNote) : BayNote := { n with causes := n.causes ++ [c] }

/-- The note of a bay whose active hold has ended. -/
def BayNote.ended (r : EndReason) (n : BayNote) : BayNote := { n with endReason := n.endReason <|> some r }

/-- The note of a bay that a fault cause has reached. -/
def BayNote.failed (c : FaultCause) (n : BayNote) : BayNote := { n with fault := n.fault <|> some c }

/-- The desk of an event that has met nothing. -/
def Desk.clear : Desk := ⟨[], false, false⟩

@[simp] theorem Ev.start_desk (s : State) : (Ev.start s).desk = .clear := rfl

@[simp] theorem Ev.startRequest_desk (s : State) : (Ev.startRequest s).desk = .clear := rfl

@[simp] theorem Ev.onState_desk (ev : Ev) (f : State → State) : (ev.onState f).desk = ev.desk := rfl

section
variable (ev : Ev) (b : BayIx)

@[simp] theorem Ev.modDyn_desk (f : BayDyn → BayDyn) : (ev.modDyn b f).desk = ev.desk := rfl

@[simp] theorem Ev.modTimer_desk (f : BayTimer → BayTimer) : (ev.modTimer b f).desk = ev.desk := rfl

@[simp] theorem Ev.modAlloc_desk (f : BayAlloc → BayAlloc) : (ev.modAlloc b f).desk = ev.desk := rfl

@[simp] theorem Ev.wantScan_desk : ev.wantScan.desk = { ev.desk with scan := true } := rfl

@[simp] theorem Ev.touch_desk : (ev.touch b).desk = ev.desk.touch b (ev.books.bays b).dyn.state := by
  unfold Ev.touch Desk.touch Ev.desk
  by_cases known : (ev.notes.any fun x => x.bay == b) = true
  · rw [if_pos known, if_pos known]
  · rw [if_neg known, if_neg known]; rfl

@[simp] theorem Ev.modNote_desk (f : BayNote → BayNote) : (ev.modNote b f).desk = ev.desk.modNote b f := rfl

@[simp] theorem Ev.note_desk (c : BayCause) :
    (ev.note b c).desk = (ev.desk.touch b (ev.books.bays b).dyn.state).modNote b (.met c) := by
  unfold Ev.note; rw [Ev.modNote_desk, Ev.touch_desk]; rfl

@[simp] theorem Ev.noteEnd_desk (r : EndReason) :
    (ev.noteEnd b r).desk
      = ((ev.desk.touch b (ev.books.bays b).dyn.state).modNote b (.met .holdEnded)).modNote b (.ended r) := by
  unfold Ev.noteEnd; rw [Ev.modNote_desk, Ev.note_desk]; rfl

@[simp] theorem Ev.noteFault_desk (c : FaultCause) :
    (ev.noteFault b c).desk = (ev.desk.touch b (ev.books.bays b).dyn.state).modNote b (.failed c) := by
  unfold Ev.noteFault; rw [Ev.modNote_desk, Ev.touch_desk]; rfl

theorem Ev.desk_eq {ev ev' : Ev} (notes : ev'.notes = ev.notes) (scan : ev'.scan = ev.scan)
    (captured : ev'.captured = ev.captured) : ev'.desk = ev.desk := by
  unfold Ev.desk; rw [notes, scan, captured]

@[simp] theorem Ev.notice_desk (d : Addr) (k : Byte) (p : List Byte) : (ev.notice d k p).desk = ev.desk := by
  have kept := ev.notice_leaves d k p
  exact Ev.desk_eq (by simp) (by simp) (by simp)

@[simp] theorem Ev.log_desk (e : ErrorReport) : (ev.log e).desk = ev.desk := Ev.desk_eq (by simp) (by simp) (by simp)

@[simp] theorem Ev.holdNotice_desk (x : Hold) (e : HoldEvent) (c : HoldNoticeBody) :
    (ev.holdNotice x e c).desk = ev.desk := Ev.desk_eq (by simp) (by simp) (by simp)

@[simp] theorem Ev.answer_desk (f : Option Frame) : (ev.answer f).desk = ev.desk :=
  Ev.desk_eq (by simp) (by simp) (by simp)

@[simp] theorem Ev.syncQueue_desk : (ev.syncQueue b).desk = ev.desk := by
  unfold Ev.syncQueue; split <;> split <;> rfl

@[simp] theorem Ev.reportCharging_desk (v : Bool) : (ev.reportCharging b v).desk = ev.desk := by
  unfold Ev.reportCharging; split
  · rfl
  · dsimp only; rw [Ev.syncQueue_desk]; split
    · rw [Ev.log_desk, Ev.modAlloc_desk]
    · rfl

@[simp] theorem Ev.reportSuspect_desk (v : Bool) : (ev.reportSuspect b v).desk = ev.desk := by
  unfold Ev.reportSuspect; rw [Ev.syncQueue_desk, Ev.modAlloc_desk]

@[simp] theorem Ev.setState_desk (st : BayState) :
    (ev.setState b st).desk = ev.desk.touch b (ev.books.bays b).dyn.state := by
  unfold Ev.setState; rw [Ev.reportCharging_desk, Ev.modDyn_desk, Ev.touch_desk]

end

/-! ## The calm -/

/-- The allocator's copies of CHARGING, and whether a recompute is owed. -/
structure Calm where
  charging : BayIx → Bool
  recompute : Bool

def Ev.calm (ev : Ev) : Calm := ⟨fun b => (ev.bay b).alloc.chargingCopy, ev.recompute⟩

theorem Ev.calm_eq {ev ev' : Ev} (alloc : ∀ b, (ev'.bay b).alloc.chargingCopy = (ev.bay b).alloc.chargingCopy)
    (recompute : ev'.recompute = ev.recompute) : ev'.calm = ev.calm := by
  unfold Ev.calm; rw [recompute]; congr 1; funext b; exact alloc b

section
variable (ev : Ev) (b : BayIx)

theorem Ev.modBay_calm {f : Bay → Bay} (kept : ∀ y, (f y).alloc.chargingCopy = y.alloc.chargingCopy) :
    (ev.onState (·.modBay b f)).calm = ev.calm := by
  refine Ev.calm_eq (fun c => ?_) rfl
  unfold Ev.bay Ev.onState; dsimp only
  rw [State.bay_modBay]; split
  · next same => subst same; exact kept _
  · rfl

@[simp] theorem Ev.modDyn_calm (f : BayDyn → BayDyn) : (ev.modDyn b f).calm = ev.calm :=
  ev.modBay_calm b fun y => by simp

@[simp] theorem Ev.modTimer_calm (f : BayTimer → BayTimer) : (ev.modTimer b f).calm = ev.calm :=
  ev.modBay_calm b fun _ => rfl

@[simp] theorem Ev.wantScan_calm : ev.wantScan.calm = ev.calm := rfl

@[simp] theorem Ev.touch_calm : (ev.touch b).calm = ev.calm := by
  unfold Ev.touch; split <;> rfl

@[simp] theorem Ev.note_calm (c : BayCause) : (ev.note b c).calm = ev.calm := ev.touch_calm b

@[simp] theorem Ev.noteEnd_calm (r : EndReason) : (ev.noteEnd b r).calm = ev.calm := ev.touch_calm b

@[simp] theorem Ev.noteFault_calm (c : FaultCause) : (ev.noteFault b c).calm = ev.calm := ev.touch_calm b

theorem Talks.calm {ev ev' : Ev} (h : Talks ev.st ev'.st) (recompute : ev'.recompute = ev.recompute) :
    ev'.calm = ev.calm := Ev.calm_eq (fun b => by unfold Ev.bay; rw [h]; rfl) recompute

@[simp] theorem Ev.notice_calm (d : Addr) (k : Byte) (p : List Byte) : (ev.notice d k p).calm = ev.calm :=
  (ev.notice_talks d k p).calm (by simp)

@[simp] theorem Ev.log_calm (e : ErrorReport) : (ev.log e).calm = ev.calm := (ev.log_talks e).calm (by simp)

@[simp] theorem Ev.holdNotice_calm (x : Hold) (e : HoldEvent) (c : HoldNoticeBody) :
    (ev.holdNotice x e c).calm = ev.calm := (ev.holdNotice_talks x e c).calm (by simp)

@[simp] theorem Ev.answer_calm (f : Option Frame) : (ev.answer f).calm = ev.calm := (ev.answer_talks f).calm (by simp)

@[simp] theorem Ev.unindexHold_calm (x : Hold) : (ev.onState (·.unindexHold x)).calm = ev.calm := by
  unfold State.unindexHold Ev.onState; cases x.ticket <;> rfl

@[simp] theorem Ev.indexHold_calm (x : Hold) (l : Location) : (ev.onState (·.indexHold x l)).calm = ev.calm := by
  refine Ev.calm_eq (fun c => ?_) rfl
  show ((ev.st.indexHold x l).bay c).alloc.chargingCopy = _
  unfold State.indexHold State.setIndex
  split
  · split <;> rfl
  · rfl

@[simp] theorem Ev.setWaitlist_calm (f : State → List WaitEntry) :
    (ev.onState (fun s => s.setWaitlist (f s))).calm = ev.calm := rfl

/-- A report that changes nothing is none. -/
theorem Ev.reportCharging_same {v : Bool} (same : ev.calm.charging b = v) : ev.reportCharging b v = ev := by
  unfold Ev.reportCharging; exact if_pos same

theorem Ev.setState_calm {st : BayState} (same : ev.calm.charging b = (st == .charging)) :
    (ev.setState b st).calm = ev.calm := by
  unfold Ev.setState
  rw [Ev.reportCharging_same _ _ (by rw [Ev.modDyn_calm, Ev.touch_calm]; exact same), Ev.modDyn_calm, Ev.touch_calm]

end

/-! ## The voice -/

/-- The notice tag, the uplink transmit FIFO, the recorder, and the frames that wait behind the answer. -/
structure Voice where
  tag : Byte
  uplink : UplinkPort
  recorder : Recorder
  buffering : Bool
  buffer : List Frame

def Ev.voice (ev : Ev) : Voice := ⟨ev.st.noticeTag, ev.st.uplink, ev.st.recorder, ev.buffering, ev.buffer⟩

/-- A frame has room: it waits, or the FIFO is not full. -/
def Voice.Room (v : Voice) : Prop := v.buffering = true ∨ v.uplink.fifo.length < 32

/-- A frame joins those that wait, or the FIFO. -/
def Voice.push (v : Voice) (f : Frame) : Voice :=
  if v.buffering then { v with buffer := v.buffer ++ [f] }
  else { v with uplink := { v.uplink with fifo := v.uplink.fifo ++ [f] } }

/-- A notice is built and joins them (R100, R106). -/
def Voice.tell (v : Voice) (own dest : Addr) (kind : Byte) (payload : List Byte) : Voice :=
  if dest = 0 then v else ({ v with tag := v.tag + 1 } : Voice).push ⟨dest, own, kind, v.tag, payload⟩

section
variable (ev : Ev) (b : BayIx)

theorem Ev.onState_voice {f : State → State} (h : ∀ s, (f s).noticeTag = s.noticeTag ∧ (f s).uplink = s.uplink
    ∧ (f s).recorder = s.recorder) : (ev.onState f).voice = ev.voice := by
  obtain ⟨tag, uplink, recorder⟩ := h ev.st
  unfold Ev.voice Ev.onState; rw [tag, uplink, recorder]

@[simp] theorem Ev.modDyn_voice (f : BayDyn → BayDyn) : (ev.modDyn b f).voice = ev.voice := rfl

@[simp] theorem Ev.modTimer_voice (f : BayTimer → BayTimer) : (ev.modTimer b f).voice = ev.voice := rfl

@[simp] theorem Ev.modAlloc_voice (f : BayAlloc → BayAlloc) : (ev.modAlloc b f).voice = ev.voice := rfl

@[simp] theorem Ev.wantScan_voice : ev.wantScan.voice = ev.voice := rfl

@[simp] theorem Ev.touch_voice : (ev.touch b).voice = ev.voice := by unfold Ev.touch; split <;> rfl

@[simp] theorem Ev.note_voice (c : BayCause) : (ev.note b c).voice = ev.voice := ev.touch_voice b

@[simp] theorem Ev.noteEnd_voice (r : EndReason) : (ev.noteEnd b r).voice = ev.voice := ev.touch_voice b

@[simp] theorem Ev.noteFault_voice (c : FaultCause) : (ev.noteFault b c).voice = ev.voice := ev.touch_voice b

@[simp] theorem Ev.unindexHold_voice (x : Hold) : (ev.onState (·.unindexHold x)).voice = ev.voice :=
  ev.onState_voice fun s => by unfold State.unindexHold; cases x.ticket <;> simp

@[simp] theorem Ev.indexHold_voice (x : Hold) (l : Location) : (ev.onState (·.indexHold x l)).voice = ev.voice :=
  ev.onState_voice fun s => by
    unfold State.indexHold State.setIndex
    split
    · split <;> exact ⟨rfl, rfl, rfl⟩
    · exact ⟨rfl, rfl, rfl⟩

@[simp] theorem Ev.setWaitlist_voice (f : State → List WaitEntry) :
    (ev.onState (fun s => s.setWaitlist (f s))).voice = ev.voice := rfl

@[simp] theorem Ev.syncQueue_voice : (ev.syncQueue b).voice = ev.voice := by
  unfold Ev.syncQueue; split <;> split <;> rfl

@[simp] theorem Ev.reportSuspect_voice (v : Bool) : (ev.reportSuspect b v).voice = ev.voice := by
  unfold Ev.reportSuspect; rw [Ev.syncQueue_voice, Ev.modAlloc_voice]

/-- The bay may enter CHARGING without an error (R79): its post maximum is at or above M. -/
def Still.Serves (k : Still) (b : BayIx) : Prop := k.settings.minimum ≤ (k.bays.get b).postMax

theorem Ev.serves_iff : ev.books.still.Serves b ↔ ev.st.allocator.settings.minimum ≤ (ev.bay b).postMax := by
  show ev.st.allocator.settings.minimum ≤ ((ev.st.bays.map Bay.config).get b).postMax ↔ _
  rw [Table.get_map]; rfl

theorem Ev.reportCharging_voice {v : Bool} (quiet : v = true → ev.books.still.Serves b) :
    (ev.reportCharging b v).voice = ev.voice := by
  unfold Ev.reportCharging; split
  · rfl
  · dsimp only; rw [Ev.syncQueue_voice, if_neg, Ev.modAlloc_voice]
    intro fails
    obtain ⟨enters, below⟩ := Bool.and_eq_true_iff.1 fails
    have serves := ((ev.modAlloc b (fun a => { a with chargingCopy := v })).serves_iff b).1
      (by rw [Ev.modAlloc_books]; exact quiet enters)
    exact absurd (of_decide_eq_true below) (Nat.not_lt.2 serves)

theorem Ev.setState_voice {st : BayState} (quiet : st = .charging → ev.books.still.Serves b) :
    (ev.setState b st).voice = ev.voice := by
  unfold Ev.setState
  rw [Ev.reportCharging_voice, Ev.modDyn_voice, Ev.touch_voice]
  intro enters
  rw [Ev.modDyn_books, Books.put_leaves .. |>.2.2.2.2, Ev.touch_books]
  exact quiet (by simpa using enters)

theorem Ev.place_voice {f : Frame} (room : ev.voice.Room) : (ev.place f).voice = ev.voice.push f := by
  unfold Ev.place Voice.push
  by_cases waits : ev.buffering = true
  · rw [if_pos waits, if_pos (c := ev.voice.buffering = true) waits]; rfl
  · rw [if_neg waits, if_neg (c := ev.voice.buffering = true) waits]
    unfold Ev.onState Ev.voice
    dsimp only
    rw [State.placeUplink_room f (room.resolve_left waits)]; rfl

theorem Ev.notice_voice {d : Addr} {k : Byte} {p : List Byte} (room : ev.voice.Room) :
    (ev.notice d k p).voice = ev.voice.tell ev.books.still.controller.own d k p := by
  unfold Ev.notice Voice.tell State.buildNotice
  by_cases nobody : d = 0
  · rw [if_pos nobody, if_pos (c := d = Config.nullAddr) nobody]; rfl
  · rw [if_neg nobody, if_neg (c := d = Config.nullAddr) nobody]
    exact Ev.place_voice { ev with st := { ev.st with noticeTag := ev.st.noticeTag + 1 } } room

theorem Ev.holdNotice_voice {x : Hold} {t : Ticket} {r : Addr} (ticket : x.ticket = some t)
    (requester : x.requester = some r) (e : HoldEvent) (c : HoldNoticeBody) (room : ev.voice.Room) :
    (ev.holdNotice x e c).voice
      = ev.voice.tell ev.books.still.controller.own r Kind.holdNotice (holdNoticePayload ev.st e t c) := by
  unfold Ev.holdNotice; rw [ticket, requester]
  exact Ev.notice_voice ev room

theorem Ev.holdNotice_walkIn {x : Hold} (ticket : x.ticket = none) (e : HoldEvent) (c : HoldNoticeBody) :
    ev.holdNotice x e c = ev := by
  unfold Ev.holdNotice; rw [ticket]

end

end Sys2Proof.Machine
end

section
/-!
SUPPORT. The operations of the Reservation Engine said once: the derivation case by case, the end of an active hold up to
the derivation, the end of a staged hold, the placement of a hold; each by what it makes of books, desk, voice and calm.
-/
namespace Sys2Proof.Machine

/-! ## Books in normal form: the change of a bay outermost -/

@[simp] theorem Books.put_unindex (k : Books) (b : BayIx) (f : BayBook → BayBook) (x : Hold) :
    (k.put b f).unindex x = (k.unindex x).put b f := rfl

@[simp] theorem Books.put_indexHold (k : Books) (b : BayIx) (f : BayBook → BayBook) (x : Hold) (l : Location) :
    (k.put b f).indexHold x l = (k.indexHold x l).put b f := rfl

@[simp] theorem Books.unindex_leaves (k : Books) (x : Hold) :
    (k.unindex x).bays = k.bays ∧ (k.unindex x).waitlist = k.waitlist ∧ (k.unindex x).cursors = k.cursors
    ∧ (k.unindex x).degraded = k.degraded ∧ (k.unindex x).still = k.still := ⟨rfl, rfl, rfl, rfl, rfl⟩

@[simp] theorem Books.indexHold_leaves (k : Books) (x : Hold) (l : Location) :
    (k.indexHold x l).bays = k.bays ∧ (k.indexHold x l).waitlist = k.waitlist ∧ (k.indexHold x l).cursors = k.cursors
    ∧ (k.indexHold x l).degraded = k.degraded ∧ (k.indexHold x l).still = k.still := ⟨rfl, rfl, rfl, rfl, rfl⟩

theorem Books.unindex_index {k : Books} {x : Hold} {t : Ticket} (ticket : x.ticket = some t) :
    (k.unindex x).index = k.index.filter (fun e => e.ticket ≠ t) := by
  unfold Books.unindex; rw [ticket]; dsimp only
  exact List.filter_congr fun e _ => by by_cases same : e.ticket = t <;> simp [same]

@[simp] theorem BayBook.clearActive_fields (y : BayBook) :
    y.clearActive.dyn = y.dyn ∧ y.clearActive.noShow = none ∧ y.clearActive.overstay = none
    ∧ y.clearActive.check = y.check ∧ y.clearActive.ok = y.ok := ⟨rfl, rfl, rfl, rfl, rfl⟩

@[simp] theorem BayBook.await_fields (y : BayBook) (d e : Deadline) (v : Bool) :
    (y.await d e v).dyn = y.dyn ∧ (y.await d e v).noShow = (if v then none else some d)
    ∧ (y.await d e v).overstay = (if v then some e else none) ∧ (y.await d e v).check = y.check
    ∧ (y.await d e v).ok = y.ok := ⟨rfl, rfl, rfl, rfl, rfl⟩

/-! ## Derivation (R7) -/

/-- The state that step 3 of the derivation gives an arrived hold at a bay that is not VACANT. -/
def Still.third (k : Still) (d : BayDyn) (h : Hold) : BayState :=
  if atOrAfter k.now (h.windowEnd + BitVec.ofNat 32 (k.timing.overstay * 60)) then .overstay
  else if d.connector = .finished ∨ (∃ w, h.energyWanted = some w ∧ w ≤ h.energyDelivered) then .done
  else if d.connector = .plugged ∨ d.connector = .charging then .charging
  else .arrived

theorem Connector.isPlug_iff (c : Connector) : c.isPlug = true ↔ c = .plugged ∨ c = .charging := by
  cases c <;> simp [Connector.isPlug]

/-- The class of a bay verifies arrival (R18). -/
def Still.verifies (k : Still) (b : BayIx) : Bool := (k.classes.get (k.bays.get b).cls.ix).verify

theorem Ev.verifies_iff (ev : Ev) (b : BayIx) : ev.books.still.verifies b = (ev.st.classOf (ev.bay b).cls).verify := by
  show (ev.st.classes.get ((ev.st.bays.map Bay.config).get b).cls.ix).verify = _
  rw [Table.get_map]; rfl

section
variable {ev : Ev} {b : BayIx} {h : Hold}

theorem Ev.deriveArrivedWith_eq {onVacant : Ev → Ev} (occupancy : (ev.books.bays b).dyn.occupancy ≠ .vacant) :
    ev.deriveArrivedWith onVacant b h = ev.setState b (ev.books.still.third (ev.books.bays b).dyn h) := by
  unfold Ev.deriveArrivedWith
  dsimp only
  rw [if_neg (c := (ev.bay b).dyn.occupancy = .vacant) occupancy]
  have enough : (h.energyWanted.any (· ≤ h.energyDelivered)) = true
      ↔ ∃ w, h.energyWanted = some w ∧ w ≤ h.energyDelivered := by
    simp [Option.any_eq_true]
  simp only [enough, Connector.isPlug_iff, Still.third, apply_ite (ev.setState b)]
  rfl

theorem Ev.derive_none (active : (ev.books.bays b).dyn.active = none) :
    ev.derive b = ev.setState b (if (ev.books.bays b).dyn.occupancy = .occupied then .unbooked else .free) := by
  unfold Ev.derive deriveFuel; dsimp only
  rw [show (ev.bay b).dyn.active = none from active]; rfl

variable (active : (ev.books.bays b).dyn.active = some h)
include active

theorem Ev.derive_held (arrival : h.arrival = none) (occupancy : (ev.books.bays b).dyn.occupancy ≠ .occupied) :
    ev.derive b = ev.setState b .held := by
  unfold Ev.derive deriveFuel; dsimp only
  rw [show (ev.bay b).dyn.active = some h from active]; dsimp only
  rw [if_neg (by simp [Hold.arrived, arrival]), if_neg (c := (ev.bay b).dyn.occupancy = .occupied) occupancy]

theorem Ev.derive_contested (arrival : h.arrival = none) (occupancy : (ev.books.bays b).dyn.occupancy = .occupied)
    (verify : ev.books.still.verifies b = true) (seen : h.entrySeen = false) :
    ev.derive b = ev.setState b .contested := by
  unfold Ev.derive deriveFuel; dsimp only
  rw [show (ev.bay b).dyn.active = some h from active]; dsimp only
  rw [if_neg (by simp [Hold.arrived, arrival]), if_pos (c := (ev.bay b).dyn.occupancy = .occupied) occupancy,
    if_pos (by rw [← ev.verifies_iff, verify, seen]; rfl)]

theorem Ev.derive_captured (arrival : h.arrival = none) (occupancy : (ev.books.bays b).dyn.occupancy = .occupied)
    (open_ : ev.books.still.verifies b = false ∨ h.entrySeen = true) :
    ev.derive b = (ev.capture b h).setState b (ev.books.still.third (ev.books.bays b).dyn h) := by
  unfold Ev.derive deriveFuel; dsimp only
  rw [show (ev.bay b).dyn.active = some h from active]; dsimp only
  rw [if_neg (by simp [Hold.arrived, arrival]), if_pos (c := (ev.bay b).dyn.occupancy = .occupied) occupancy,
    if_neg (by rw [← ev.verifies_iff]; rcases open_ with h | h <;> simp [h])]
  have books : (ev.capture b h).books = ev.books.put b _ :=
    (Ev.setActive_books _ b _ _ true).trans (by rw [Ev.modDyn_books, Books.put_put])
  have kept : ((ev.capture b h).books.bays b).dyn.occupancy = (ev.books.bays b).dyn.occupancy
      ∧ ((ev.capture b h).books.bays b).dyn.connector = (ev.books.bays b).dyn.connector
      ∧ (ev.capture b h).books.still = ev.books.still := by
    rw [books]; simp
  obtain ⟨occupancyKept, connectorKept, stillKept⟩ := kept
  rw [Ev.deriveArrivedWith_eq (by rw [occupancyKept, occupancy]; simp)]
  unfold Still.third
  rw [connectorKept, stillKept]

theorem Ev.derive_arrived (arrival : h.arrival ≠ none) (occupancy : (ev.books.bays b).dyn.occupancy ≠ .vacant) :
    ev.derive b = ev.setState b (ev.books.still.third (ev.books.bays b).dyn h) := by
  unfold Ev.derive deriveFuel; dsimp only
  rw [show (ev.bay b).dyn.active = some h from active]; dsimp only
  rw [if_pos (c := h.arrived = true) (Option.isSome_iff_ne_none.2 arrival), Ev.deriveArrivedWith_eq occupancy]

theorem Ev.rederive_arrived (arrival : h.arrival ≠ none) (occupancy : (ev.books.bays b).dyn.occupancy ≠ .vacant) :
    ev.rederive b = ev.setState b (ev.books.still.third (ev.books.bays b).dyn h) := by
  unfold Ev.rederive
  rw [show (ev.bay b).dyn.active = some h from active]; dsimp only
  rw [if_pos (c := h.arrived = true) (Option.isSome_iff_ne_none.2 arrival), Ev.deriveArrivedWith_eq occupancy]

end

/-! ## Arrival capture (R18) -/

/-- The overstay deadline of a hold by the settings in force. -/
def Still.overstayAt (k : Still) (h : Hold) : Deadline :=
  ⟨h.ticket, h.windowEnd + BitVec.ofNat 32 (k.timing.overstay * 60)⟩

/-- The displacement check of a hold by the settings in force. -/
def Still.checkAt (k : Still) (h : Hold) : Deadline :=
  ⟨h.ticket, h.windowStart - BitVec.ofNat 32 (k.timing.lead * 60)⟩

theorem State.overstayAt_still (s : State) (h : Hold) : s.overstayAt h = s.still.overstayAt h := rfl

theorem State.checkAt_still (s : State) (h : Hold) : s.checkAt h = s.still.checkAt h := rfl

section
variable (ev : Ev) (b : BayIx) (h : Hold)

@[simp] theorem Ev.capture_books : (ev.capture b h).books = ev.books.put b (fun y =>
    (y.setDyn ({ · with active := some { h with arrival := some ev.books.still.now } })).await
      (noShowOf h) (ev.books.still.overstayAt h) true) :=
  (Ev.setActive_books _ b _ _ true).trans (by rw [Ev.modDyn_books, Books.put_put]; rfl)

@[simp] theorem Ev.capture_desk : (ev.capture b h).desk = { ev.desk with captured := true } := rfl

@[simp] theorem Ev.capture_voice : (ev.capture b h).voice = ev.voice := rfl

@[simp] theorem Ev.capture_calm : (ev.capture b h).calm = ev.calm :=
  (Ev.modTimer_calm (ev.modDyn b _) b _).trans (ev.modDyn_calm b _)

end

/-! ## A hold leaves its slot -/

/-- What a HOLD-NOTICE of a hold that leaves its slot tells (Table 1-7). -/
def Leave.event : Leave → HoldEvent
  | .ended r => endEvent r
  | .relocated _ _ => .relocated
  | .displaced _ => .displaced
  | .lost => .lost

def Leave.body (b : BayIx) (sum : EndReason → HoldNoticeBody) : Leave → HoldNoticeBody
  | .ended r => sum r
  | .relocated b' sl => { bay := bayNo b', slot := sl.code }
  | .displaced p => { bay := bayNo b, position := p }
  | .lost => { bay := bayNo b }

theorem Ev.leaveNotice_eq (ev : Ev) (b : BayIx) (h : Hold) (l : Leave) (sum : EndReason → HoldNoticeBody) :
    ev.leaveNotice b h l sum = ev.holdNotice h l.event (l.body b sum) := by cases l <;> rfl

/-- The index entry of a hold that ends goes (R29). -/
def Books.leave (k : Books) (h : Hold) : Leave → Books
  | .ended _ => k.unindex h
  | _ => k

@[simp] theorem Books.put_leave (k : Books) (b : BayIx) (f : BayBook → BayBook) (h : Hold) (l : Leave) :
    (k.put b f).leave h l = (k.leave h l).put b f := by cases l <;> rfl

@[simp] theorem Books.leave_leaves (k : Books) (h : Hold) (l : Leave) :
    (k.leave h l).bays = k.bays ∧ (k.leave h l).waitlist = k.waitlist ∧ (k.leave h l).cursors = k.cursors
    ∧ (k.leave h l).degraded = k.degraded ∧ (k.leave h l).still = k.still := by
  cases l <;> exact ⟨rfl, rfl, rfl, rfl, rfl⟩

section
variable (ev : Ev) (b : BayIx) (h : Hold) (l : Leave)

@[simp] theorem Ev.leaveIndex_books : (ev.leaveIndex h l).books = ev.books.leave h l := by
  cases l <;> first | rfl | exact ev.unindexHold_books h

@[simp] theorem Ev.leaveIndex_desk : (ev.leaveIndex h l).desk = ev.desk := by cases l <;> rfl

@[simp] theorem Ev.leaveIndex_voice : (ev.leaveIndex h l).voice = ev.voice := by
  cases l <;> first | rfl | exact ev.unindexHold_voice h

@[simp] theorem Ev.leaveIndex_calm : (ev.leaveIndex h l).calm = ev.calm := by
  cases l <;> first | rfl | exact ev.unindexHold_calm h

/-- A staged hold promoted into the active slot of its bay's book (R22 step 3). -/
def BayBook.promote (k : Still) (n : Hold) (y : BayBook) : BayBook :=
  { (y.setDyn ({ · with active := some n, staged := none })).await (noShowOf n) (k.overstayAt n) n.arrived with
    check := none }

@[simp] theorem BayBook.promote_fields (k : Still) (n : Hold) (y : BayBook) :
    (y.promote k n).dyn = { y.dyn with active := some n, staged := none }
    ∧ (y.promote k n).noShow = (if n.arrived then none else some (noShowOf n))
    ∧ (y.promote k n).overstay = (if n.arrived then some (k.overstayAt n) else none)
    ∧ (y.promote k n).check = none
    ∧ (y.promote k n).ok = (y.setDyn ({ · with active := some n, staged := none })).ok := ⟨rfl, rfl, rfl, rfl, rfl⟩

theorem Ev.promote_none {ev : Ev} {b : BayIx} (staged : (ev.books.bays b).dyn.staged = none) :
    ev.promote b = ev.modDyn b ({ · with active := none }) := by
  unfold Ev.promote; rw [show (ev.bay b).dyn.staged = none from staged]

theorem Ev.promote_books {ev : Ev} {b : BayIx} {n : Hold} (staged : (ev.books.bays b).dyn.staged = some n) :
    (ev.promote b).books = (ev.books.indexHold n (.active b)).put b (.promote ev.books.still n) := by
  unfold Ev.promote; rw [show (ev.bay b).dyn.staged = some n from staged]; dsimp only
  rw [Ev.modTimer_books (g := fun y => { y.await (noShowOf n) (ev.st.overstayOf n) n.arrived with check := none })]
  · rw [Ev.indexHold_books, Ev.modDyn_books, Books.put_indexHold, Books.put_put]; rfl
  · intro y
    obtain ⟨noShow, overstay, _⟩ := y.timer.setActive_fields (noShowOf n) (ev.st.overstayOf n) n.arrived
    simp [Bay.book, Bay.checkOk, BayBook.await, noShow, overstay]

@[simp] theorem Ev.promote_desk : (ev.promote b).desk = ev.desk := by
  unfold Ev.promote; split <;> rfl

@[simp] theorem Ev.promote_voice : (ev.promote b).voice = ev.voice := by
  unfold Ev.promote; split
  · rfl
  · dsimp only; rw [Ev.modTimer_voice, Ev.indexHold_voice, Ev.modDyn_voice]

@[simp] theorem Ev.promote_calm : (ev.promote b).calm = ev.calm := by
  unfold Ev.promote; split
  · rw [Ev.modDyn_calm]
  · dsimp only; rw [Ev.modTimer_calm, Ev.indexHold_calm, Ev.modDyn_calm]

/-- The active hold of a bay leaves: everything that R22 does before the bay's state is settled. -/
def Ev.vacate (ev : Ev) (b : BayIx) (h : Hold) (l : Leave) : Ev :=
  let ev := ((ev.touch b).modTimer b BayTimer.clearActive).reportCharging b false
  (((ev.leaveIndex h l).leaveNotice b h l (summary ev.st (bayNo b) h)).promote b).noteEnd b l.reason

theorem Ev.endActive_eq {ev : Ev} {b : BayIx} {h : Hold} (active : (ev.books.bays b).dyn.active = some h) (l : Leave) :
    ev.endActive b l = (ev.vacate b h l).settleEnd (fun b ev => ev.derive b) false b := by
  unfold Ev.endActive Ev.endActiveWith
  rw [show (ev.bay b).dyn.active = some h from active]; rfl

theorem Ev.vacate_books_none {ev : Ev} {b : BayIx} (h : Hold) (l : Leave)
    (staged : (ev.books.bays b).dyn.staged = none) :
    (ev.vacate b h l).books
      = (ev.books.leave h l).put b (fun y => y.clearActive.setDyn ({ · with active := none })) := by
  unfold Ev.vacate; dsimp only
  rw [Ev.noteEnd_books, Ev.promote_none]
  · simp [Ev.leaveNotice_eq]
  · simp [Ev.leaveNotice_eq, staged]

theorem Ev.vacate_books_some {ev : Ev} {b : BayIx} {n : Hold} (h : Hold) (l : Leave)
    (staged : (ev.books.bays b).dyn.staged = some n) :
    (ev.vacate b h l).books
      = ((ev.books.leave h l).indexHold n (.active b)).put b (fun y => y.clearActive.promote ev.books.still n) := by
  unfold Ev.vacate; dsimp only
  rw [Ev.noteEnd_books, Ev.promote_books (n := n)]
  · simp [Ev.leaveNotice_eq]
  · simp [Ev.leaveNotice_eq, staged]

theorem Ev.vacate_desk : (ev.vacate b h l).desk = (((ev.desk.touch b (ev.books.bays b).dyn.state).touch b
    ((ev.vacate b h l).books.bays b).dyn.state).modNote b (.met .holdEnded)).modNote b (.ended l.reason) := by
  unfold Ev.vacate; dsimp only
  rw [Ev.noteEnd_desk, Ev.noteEnd_books, Ev.promote_desk, Ev.leaveNotice_eq, Ev.holdNotice_desk, Ev.leaveIndex_desk,
    Ev.reportCharging_desk, Ev.modTimer_desk, Ev.touch_desk]

theorem Ev.vacate_calm {ev : Ev} {b : BayIx} (same : ev.calm.charging b = false) : (ev.vacate b h l).calm = ev.calm := by
  unfold Ev.vacate; dsimp only
  rw [Ev.noteEnd_calm, Ev.promote_calm, Ev.leaveNotice_eq, Ev.holdNotice_calm, Ev.leaveIndex_calm,
    Ev.reportCharging_same _ _ (by rw [Ev.modTimer_calm, Ev.touch_calm]; exact same), Ev.modTimer_calm, Ev.touch_calm]

end

end Sys2Proof.Machine
end

section
/-!
SUPPORT. The settling of a bay whose active hold has ended, the end of a staged hold, and the frames of an event: the
HOLD-NOTICE of a hold that leaves, the BAY-NOTICEs at the event's end, and the answer with what waited behind it.
-/
namespace Sys2Proof.Machine

/-! ## Settling the bay (R22 steps 4 and 6) -/

section
variable {derive : BayIx → Ev → Ev} {ev : Ev} {b : BayIx}

theorem Ev.settleEnd_faulted (state : (ev.books.bays b).dyn.state = .faulted) :
    ev.settleEnd derive false b = ev := by
  unfold Ev.settleEnd
  exact if_pos ⟨by simp, state⟩

theorem Ev.settleEnd_closing (state : (ev.books.bays b).dyn.state ≠ .faulted)
    (closing : (ev.books.bays b).dyn.closeMode = .closingAtEnd) (active : (ev.books.bays b).dyn.active = none) :
    ev.settleEnd derive false b = ev.closeBay b := by
  unfold Ev.settleEnd; dsimp only
  rw [if_neg (fun h => state h.2), if_pos ⟨closing, active⟩]

theorem Ev.settleEnd_closed (state : (ev.books.bays b).dyn.state = .closed)
    (staying : ¬ ((ev.books.bays b).dyn.closeMode = .closingAtEnd ∧ (ev.books.bays b).dyn.active = none)) :
    ev.settleEnd derive false b = ev.wantScan := by
  unfold Ev.settleEnd; dsimp only
  have other : (ev.bay b).dyn.state ≠ .faulted := by
    intro h; exact absurd (state.symm.trans h) (by simp)
  rw [if_neg (fun h => other h.2), if_neg (c := (ev.bay b).dyn.closeMode = .closingAtEnd ∧ (ev.bay b).dyn.active = none) staying, if_pos ⟨by simp, state⟩]

theorem Ev.settleEnd_derived {ev' : Ev} (notFaulted : (ev.books.bays b).dyn.state ≠ .faulted)
    (notClosed : (ev.books.bays b).dyn.state ≠ .closed)
    (staying : ¬ ((ev.books.bays b).dyn.closeMode = .closingAtEnd ∧ (ev.books.bays b).dyn.active = none))
    (derived : derive b ev = ev') (stays : (ev'.books.bays b).dyn.state ≠ .closed) :
    ev.settleEnd derive false b = ev'.wantScan := by
  unfold Ev.settleEnd; dsimp only
  rw [if_neg (fun h => notFaulted h.2), if_neg (c := (ev.bay b).dyn.closeMode = .closingAtEnd ∧ (ev.bay b).dyn.active = none) staying, if_neg (fun h => notClosed h.2), derived]
  exact if_neg stays

end

section
variable (ev : Ev) (b : BayIx)

/-- A bay out of service in its record (R9). -/
def BayDyn.shut (d : BayDyn) : BayDyn := { d with state := .closed, closeMode := .none }

@[simp] theorem Ev.closeBay_books : (ev.closeBay b).books = ev.books.put b (fun y =>
    (y.setDyn ({ · with state := .closed })).setDyn ({ · with closeMode := .none })) := by
  unfold Ev.closeBay; simp

@[simp] theorem Ev.closeBay_desk : (ev.closeBay b).desk = ev.desk.touch b (ev.books.bays b).dyn.state := by
  unfold Ev.closeBay; rw [Ev.modDyn_desk, Ev.setState_desk]

@[simp] theorem Ev.closeBay_voice : (ev.closeBay b).voice = ev.voice := by
  unfold Ev.closeBay; rw [Ev.modDyn_voice, Ev.setState_voice _ _ (by simp)]

theorem Ev.closeBay_calm {ev : Ev} {b : BayIx} (same : ev.calm.charging b = false) : (ev.closeBay b).calm = ev.calm := by
  unfold Ev.closeBay; rw [Ev.modDyn_calm, Ev.setState_calm _ _ same]

end

/-! ## The end of a staged hold (R23) -/

/-- The staged slot of a bay's book emptied, its check withdrawn. -/
def BayBook.unstage (y : BayBook) : BayBook := { y.setDyn ({ · with staged := none }) with check := none }

@[simp] theorem BayBook.unstage_fields (y : BayBook) :
    y.unstage.dyn = { y.dyn with staged := none } ∧ y.unstage.noShow = y.noShow ∧ y.unstage.overstay = y.overstay
    ∧ y.unstage.check = none := ⟨rfl, rfl, rfl, rfl⟩

/-- The staged hold leaves its slot: everything that R23 does before it triggers the scan. -/
def Ev.vacateStaged (ev : Ev) (b : BayIx) (h : Hold) (l : Leave) : Ev :=
  let ev := (ev.modDyn b (fun d => { d with staged := none })).modTimer b (fun t => { t with displacement := none })
  (ev.leaveIndex h l).leaveNotice b h l (bareSummary ev.st (bayNo b) h)

section
variable {ev : Ev} {b : BayIx} {h : Hold} (l : Leave)

theorem Ev.endStaged_eq (staged : (ev.books.bays b).dyn.staged = some h) (kept : l.reason ≠ .lost) :
    ev.endStaged b l = (ev.vacateStaged b h l).wantScan := by
  unfold Ev.endStaged
  rw [show (ev.bay b).dyn.staged = some h from staged]; exact if_neg kept

theorem Ev.endStaged_lost (staged : (ev.books.bays b).dyn.staged = some h) :
    ev.endStaged b .lost = ev.vacateStaged b h .lost := by
  unfold Ev.endStaged
  rw [show (ev.bay b).dyn.staged = some h from staged]; rfl

variable (ev b h)

@[simp] theorem Ev.vacateStaged_books :
    (ev.vacateStaged b h l).books = (ev.books.leave h l).put b BayBook.unstage := by
  unfold Ev.vacateStaged; dsimp only
  rw [Ev.leaveNotice_eq, Ev.holdNotice_books, Ev.leaveIndex_books, Ev.setCheck_books, Ev.modDyn_books, Books.put_put,
    Books.put_leave]
  rfl

@[simp] theorem Ev.vacateStaged_desk : (ev.vacateStaged b h l).desk = ev.desk := by
  unfold Ev.vacateStaged; dsimp only
  rw [Ev.leaveNotice_eq, Ev.holdNotice_desk, Ev.leaveIndex_desk]; rfl

@[simp] theorem Ev.vacateStaged_calm : (ev.vacateStaged b h l).calm = ev.calm := by
  unfold Ev.vacateStaged; dsimp only
  rw [Ev.leaveNotice_eq, Ev.holdNotice_calm, Ev.leaveIndex_calm, Ev.modTimer_calm, Ev.modDyn_calm]

end

/-! ## What a HOLD-NOTICE tells -/

theorem holdNoticePayload_congr {s t : State} (site : t.siteOffset = s.siteOffset) :
    holdNoticePayload t = holdNoticePayload s := by
  funext e u c
  unfold holdNoticePayload State.site; rw [site]

theorem summary_congr {s t : State} (site : t.siteOffset = s.siteOffset) : summary t = summary s := by
  funext n h r
  unfold summary State.site; rw [site]

theorem bareSummary_bare (s : State) (n : Nat) (h : Hold) : bareSummary s n h = summary s n h.bare := rfl

theorem be32_zero : be32 0 = [0, 0, 0, 0] := rfl

theorem holdNoticePayload_summary (s : State) (e : HoldEvent) (t : Ticket) (n : Nat) (h : Hold) (r : EndReason) :
    holdNoticePayload s e t (summary s n h r) = s.summaryBytes e.code t n r.code h := by
  unfold holdNoticePayload summary State.summaryBytes
  cases h.arrival with
  | none => simp [flagByte, be32w, be32_zero, byteOf, State.site]
  | some a => simp [flagByte, be32w, be32_zero, byteOf, State.site]

theorem holdNoticePayload_moved (s : State) (e : HoldEvent) (t : Ticket) (bay slot position : Nat) :
    holdNoticePayload s e t { bay := bay, slot := slot, position := position }
      = movedBytes e.code t bay slot position := by
  simp [holdNoticePayload, movedBytes, be32_zero, flagByte, byteOf, List.replicate]

/-- The HOLD-NOTICE payload of a hold that leaves its slot (Table 1-7). -/
def State.leaveBytes (s : State) (t : Ticket) (b : BayIx) (h : Hold) : Leave → List Byte
  | .ended r => s.summaryBytes (endEvent r).code t (b.val + 1) r.code h
  | .relocated d sl => movedBytes 1 t (d.val + 1) sl.code 0
  | .displaced p => movedBytes 2 t (b.val + 1) 0 p
  | .lost => movedBytes 5 t (b.val + 1) 0 0

theorem holdNoticePayload_leave (s : State) (t : Ticket) (b : BayIx) (h : Hold) (l : Leave) :
    holdNoticePayload s l.event t (l.body b (summary s (bayNo b) h)) = s.leaveBytes t b h l := by
  cases l with
  | ended r => exact holdNoticePayload_summary s _ t _ h r
  | relocated d sl => exact holdNoticePayload_moved s .relocated t _ _ _
  | displaced p => exact holdNoticePayload_moved s .displaced t _ _ _
  | lost => exact holdNoticePayload_moved s .lost t _ _ _

theorem State.siteOffset_of_still {s t : State} (h : t.still = s.still) : t.siteOffset = s.siteOffset :=
  congrArg Still.siteOffset h

section
variable {ev : Ev} {b : BayIx} {h : Hold} {t : Ticket} {r : Addr} (l : Leave)

theorem Ev.vacate_voice (ticket : h.ticket = some t) (requester : h.requester = some r) (room : ev.voice.Room) :
    (ev.vacate b h l).voice
      = ev.voice.tell ev.books.still.controller.own r Kind.holdNotice (ev.st.leaveBytes t b h l) := by
  unfold Ev.vacate; dsimp only
  rw [Ev.noteEnd_voice, Ev.promote_voice, Ev.leaveNotice_eq]
  have quiet : (((ev.touch b).modTimer b BayTimer.clearActive).reportCharging b false).voice = ev.voice := by
    rw [Ev.reportCharging_voice _ _ (by simp), Ev.modTimer_voice, Ev.touch_voice]
  have still : (((ev.touch b).modTimer b BayTimer.clearActive).reportCharging b false).books.still = ev.books.still := by
    simp
  have index : ((((ev.touch b).modTimer b BayTimer.clearActive).reportCharging b false).leaveIndex h l).books.still
      = ev.books.still := by rw [Ev.leaveIndex_books, (Books.leave_leaves _ _ _).2.2.2.2, still]
  rw [Ev.holdNotice_voice _ ticket requester _ _ (by rw [Ev.leaveIndex_voice, quiet]; exact room),
    Ev.leaveIndex_voice, quiet, index,
    holdNoticePayload_congr (State.siteOffset_of_still index), summary_congr (State.siteOffset_of_still still),
    holdNoticePayload_leave]

theorem Ev.vacate_voice_walkIn (ticket : h.ticket = none) : (ev.vacate b h l).voice = ev.voice := by
  unfold Ev.vacate; dsimp only
  rw [Ev.noteEnd_voice, Ev.promote_voice, Ev.leaveNotice_eq, Ev.holdNotice_walkIn _ ticket, Ev.leaveIndex_voice,
    Ev.reportCharging_voice _ _ (by simp), Ev.modTimer_voice, Ev.touch_voice]

theorem Ev.vacateStaged_voice (ticket : h.ticket = some t) (requester : h.requester = some r) (room : ev.voice.Room) :
    (ev.vacateStaged b h l).voice
      = ev.voice.tell ev.books.still.controller.own r Kind.holdNotice (ev.st.leaveBytes t b h.bare l) := by
  unfold Ev.vacateStaged; dsimp only
  rw [Ev.leaveNotice_eq, bareSummary_bare]
  have still : ((ev.modDyn b (fun d => { d with staged := none })).modTimer b
      (fun t => { t with displacement := none })).books.still = ev.books.still := by simp
  have index : (((ev.modDyn b (fun d => { d with staged := none })).modTimer b
      (fun t => { t with displacement := none })).leaveIndex h l).books.still = ev.books.still := by
    rw [Ev.leaveIndex_books, (Books.leave_leaves _ _ _).2.2.2.2, still]
  rw [Ev.holdNotice_voice _ ticket requester _ _ (by rw [Ev.leaveIndex_voice]; exact room),
    Ev.leaveIndex_voice, index,
    holdNoticePayload_congr (State.siteOffset_of_still index), summary_congr (State.siteOffset_of_still still),
    holdNoticePayload_leave]
  rfl

end

/-! ## Notices, the answer, and the BAY-NOTICEs at the end -/

section
variable {tag : Byte} {up : UplinkPort} {rec : Recorder} {waits : List Frame} {own d : Addr} {k : Byte} {p : List Byte}

theorem Voice.tell_nobody (v : Voice) : v.tell own 0 k p = v := if_pos rfl

theorem Voice.tell_waits (somebody : d ≠ 0) :
    (Voice.mk tag up rec true waits).tell own d k p = ⟨tag + 1, up, rec, true, waits ++ [⟨d, own, k, tag, p⟩]⟩ := by
  unfold Voice.tell; rw [if_neg somebody]; rfl

theorem Voice.tell_placed (somebody : d ≠ 0) :
    (Voice.mk tag up rec false waits).tell own d k p
      = ⟨tag + 1, { up with fifo := up.fifo ++ [⟨d, own, k, tag, p⟩] }, rec, false, waits⟩ := by
  unfold Voice.tell; rw [if_neg somebody]; rfl

end

theorem Ev.foldl_place_voice (l : List Frame) (ev : Ev) (placed : ev.buffering = false)
    (room : ev.st.uplink.fifo.length + l.length ≤ 32) :
    (l.foldl Ev.place ev).voice = { ev.voice with
      uplink := { ev.st.uplink with fifo := ev.st.uplink.fifo ++ l } } := by
  induction l generalizing ev with
  | nil => simp [Ev.voice]
  | cons f l ih =>
    rw [List.length_cons] at room
    have push : ev.place f = ev.onState (·.pushUplink f) := by
      unfold Ev.place
      rw [if_neg (by simp [placed])]
      unfold Ev.onState
      dsimp only
      rw [State.placeUplink_room f (by omega)]
    have length : (ev.st.pushUplink f).uplink.fifo.length = ev.st.uplink.fifo.length + 1 := by simp
    rw [List.foldl_cons, push]
    refine (ih (ev.onState (·.pushUplink f)) placed (by
      show (ev.st.pushUplink f).uplink.fifo.length + l.length ≤ 32
      rw [length]; omega)).trans ?_
    simp [Ev.onState, Ev.voice, State.pushUplink]

/-- The answer is placed, and behind it the frames that waited (R28, R162, R172). -/
theorem Ev.answer_voice (ev : Ev) (f : Frame) (room : ev.st.uplink.fifo.length + (f :: ev.buffer).length ≤ 32) :
    (ev.answer (some f)).voice
      = ⟨ev.st.noticeTag, { ev.st.uplink with fifo := ev.st.uplink.fifo ++ f :: ev.buffer }, ev.st.recorder, false, []⟩ :=
  Ev.foldl_place_voice (f :: ev.buffer) { ev with buffering := false, buffer := [] } rfl room

theorem Ev.raiseNote_voice (ev : Ev) (n : BayNote) (room : ev.voice.Room) :
    (ev.raiseNote n).voice = if n.raised (ev.books.bays n.bay).dyn.state then
        ev.voice.tell ev.books.still.controller.own ev.books.still.controller.noticeDest Kind.bayNotice
          (n.payload (ev.books.bays n.bay).dyn.state)
      else ev.voice := by
  unfold Ev.raiseNote; dsimp only
  split
  · next raised =>
    rw [if_pos (c := n.raised (ev.books.bays n.bay).dyn.state = true) raised]; exact Ev.notice_voice ev room
  · next quiet => rw [if_neg (c := n.raised (ev.books.bays n.bay).dyn.state = true) quiet]

/-- The BAY-NOTICE of one bay added to what an event has placed. -/
def Voice.raise (k : Books) (v : Voice) (n : BayNote) : Voice :=
  if n.raised (k.bays n.bay).dyn.state then
    v.tell k.still.controller.own k.still.controller.noticeDest Kind.bayNotice (n.payload (k.bays n.bay).dyn.state)
  else v

theorem Voice.raise_fifo (k : Books) (v : Voice) (n : BayNote) (placed : v.buffering = false) :
    (v.raise k n).buffering = false ∧ (v.raise k n).uplink.fifo.length ≤ v.uplink.fifo.length + 1 := by
  unfold Voice.raise Voice.tell Voice.push
  split
  · split
    · exact ⟨placed, by omega⟩
    · rw [if_neg (by simp [placed])]; simp [placed]
  · exact ⟨placed, by omega⟩

@[simp] theorem Ev.raiseNote_books (ev : Ev) (n : BayNote) : (ev.raiseNote n).books = ev.books := by
  unfold Ev.raiseNote; dsimp only; split
  · exact Ev.notice_books _ _ _ _
  · rfl

theorem Ev.foldl_raiseNote_voice (l : List BayNote) (ev : Ev) (placed : ev.buffering = false)
    (room : ev.st.uplink.fifo.length + l.length ≤ 32) :
    (l.foldl Ev.raiseNote ev).voice = l.foldl (Voice.raise ev.books) ev.voice := by
  induction l generalizing ev with
  | nil => rfl
  | cons n l ih =>
    rw [List.length_cons] at room
    have one : (ev.raiseNote n).voice = ev.voice.raise ev.books n :=
      ev.raiseNote_voice n (.inr (show ev.st.uplink.fifo.length < 32 by omega))
    obtain ⟨placedOne, length⟩ := Voice.raise_fifo ev.books ev.voice n placed
    rw [← one] at placedOne length
    rw [List.foldl_cons, List.foldl_cons, ih (ev.raiseNote n) placedOne (Nat.le_trans (Nat.add_le_add_right length _)
      (by show ev.st.uplink.fifo.length + 1 + l.length ≤ 32; omega)), one, Ev.raiseNote_books]

/-- The BAY-NOTICEs that the end of an event raises (R25). -/
theorem Ev.flushNotes_voice (ev : Ev) (placed : ev.voice.buffering = false)
    (room : ev.voice.uplink.fifo.length + ev.desk.notes.length ≤ 32) :
    ev.flushNotes.voice = ev.desk.notes.foldl (Voice.raise ev.books) ev.voice :=
  Ev.foldl_raiseNote_voice ev.notes { ev with notes := [] } placed room

theorem Ev.flushNotes_fixed (ev : Ev) (owes : ev.notes = []) : ev.flushNotes = ev := by
  unfold Ev.flushNotes; rw [owes]; cases ev; cases owes; rfl

theorem Ev.finish_flushNotes (ev : Ev) : ev.flushNotes.finish = ev.finish := by
  unfold Ev.finish; rw [Ev.flushNotes_fixed ev.flushNotes ev.flushNotes_leaves.2.2]

/-- What an event has placed when its notes are raised stands first in what it sends (R104). -/
theorem Ev.finish_sends {s : State} {ev : Ev} {fs : List Frame}
    (placed : s.uplink.fifo.length + fs.length ≤ 32 → s.uplink.fifo ++ fs <+: ev.flushNotes.voice.uplink.fifo) :
    s.Sends ev.finish fs := by
  intro room
  rw [← ev.finish_flushNotes]
  exact (placed room).trans (Ev.finish_fifo _)

/-- So does what it has placed before that. -/
theorem Ev.finish_sends_early {s : State} {ev : Ev} {fs : List Frame}
    (placed : s.uplink.fifo.length + fs.length ≤ 32 → s.uplink.fifo ++ fs <+: ev.voice.uplink.fifo) :
    s.Sends ev.finish fs := fun room => (placed room).trans (Ev.finish_fifo _)

end Sys2Proof.Machine
end

section
/-!
SUPPORT. The derivation of the bay state and the session energy figure.
-/
namespace Sys2Proof.Machine

theorem Ev.setState_dyn (ev : Ev) (b : BayIx) (st : BayState) :
    ((ev.setState b st).books.bays b).dyn = { (ev.books.bays b).dyn with state := st } := by
  rw [Ev.setState_books, Books.put_same]; rfl

/-- Settles O22: the derivation ends in one setting of the state, whichever of its branches is taken. -/
theorem derivedState : Obligations.DerivedState := by
  intro ev b
  refine ⟨fun active => ?_, fun h active arrival occupancy => ?_, fun h active arrival occupancy verify seen => ?_,
    fun h active arrival occupancy open_ => ?_, fun h active arrival occupancy => ?_⟩
  · rw [Ev.derive_none active]; exact ev.setState_dyn b _
  · rw [Ev.derive_held active arrival occupancy]; exact ev.setState_dyn b _
  · rw [Ev.derive_contested active arrival occupancy ((ev.verifies_iff b).trans verify) seen]
    exact ev.setState_dyn b _
  · rw [Ev.derive_captured active arrival occupancy (open_.imp_left (ev.verifies_iff b).trans)]
    refine (Ev.setState_dyn _ b _).trans ?_
    rw [Ev.capture_books, Books.put_same]; rfl
  · rw [Ev.derive_arrived active arrival occupancy]; exact ev.setState_dyn b _

/-! ## The session energy figure (R72 to R74) -/

theorem Ev.modDyn_dyn (ev : Ev) (b : BayIx) (f : BayDyn → BayDyn) :
    ((ev.modDyn b f).books.bays b).dyn = f (ev.books.bays b).dyn := by
  rw [Ev.modDyn_books, Books.put_same]; rfl

/-- A hold with a session energy figure taken as its base. -/
def Hold.based (h : Hold) (e : Nat) : Hold := { h with lastPostEnergy := some e }

/-- A hold with a session energy figure taken, the energy delivered risen to `n`. -/
def Hold.fed (h : Hold) (e n : Nat) : Hold := { h with lastPostEnergy := some e, energyDelivered := n }

section
variable {ev : Ev} {b : BayIx} {h : Hold} {e : Nat} {plugIn : Bool}
  (active : (ev.books.bays b).dyn.active = some h) (arrival : h.arrival ≠ none)
  (connector : (ev.books.bays b).dyn.connector ∈ [Connector.plugged, .charging, .finished])
include active arrival connector

/-- The figure of a connected bay with an arrived hold is taken (R72). -/
theorem Ev.energyFigure_taken : ev.energyFigure b e plugIn =
    match (if plugIn || ev.captured then none else h.lastPostEnergy) with
    | none => ev.modDyn b ({ · with active := some (h.based e) })
    | some p =>
      if p ≤ e then
        let n := min Config.counterMax (h.energyDelivered + (e - p))
        let ev' := ev.modDyn b ({ · with active := some (h.fed e n) })
        if h.energyWanted.any (fun w => h.energyDelivered < w && w ≤ n)
            && ((ev.books.bays b).dyn.state == .arrived || (ev.books.bays b).dyn.state == .charging
              || (ev.books.bays b).dyn.state == .done) then
          ((ev'.touch b).rederive b).note b .evidence
        else ev'
      else (ev.log { kind := .energyRegress, bay := some b }).modDyn b ({ · with active := some (h.based e) }) := by
  unfold Ev.energyFigure
  dsimp only
  rw [show (ev.bay b).dyn.active = some h from active]
  dsimp only
  rw [if_pos]
  · rfl
  · have plugged : ((ev.bay b).dyn.connector.isPlug || (ev.bay b).dyn.connector == .finished) = true := by
      have : (ev.bay b).dyn.connector ∈ [Connector.plugged, .charging, .finished] := connector
      revert this; cases (ev.bay b).dyn.connector <;> decide
    rw [plugged, Bool.and_true]; exact Option.isSome_iff_ne_none.2 arrival

theorem Ev.energyFigure_base (base : plugIn = true ∨ ev.captured = true ∨ h.lastPostEnergy = none) :
    ev.energyFigure b e plugIn = ev.modDyn b ({ · with active := some (h.based e) }) := by
  rw [Ev.energyFigure_taken active arrival connector]
  have noLast : (if plugIn || ev.captured then none else h.lastPostEnergy) = none := by
    rcases base with h | h | h <;> simp [h]
  rw [noLast]

variable {p : Nat} (noPlugIn : plugIn = false) (noCapture : ev.captured = false) (last : h.lastPostEnergy = some p)
include noPlugIn noCapture last

theorem Ev.energyFigure_lower (lower : e < p) : ev.energyFigure b e plugIn
    = (ev.log { kind := .energyRegress, bay := some b }).modDyn b ({ · with active := some (h.based e) }) := by
  rw [Ev.energyFigure_taken active arrival connector]
  simp only [noPlugIn, noCapture, last, Bool.or_self, Bool.false_eq_true, if_false]
  exact if_neg (Nat.not_le.2 lower)

theorem Ev.energyFigure_higher (higher : p ≤ e) : ev.energyFigure b e plugIn =
    (let n := min 4294967295 (h.energyDelivered + (e - p))
    let ev' := ev.modDyn b ({ · with active := some (h.fed e n) })
    if h.energyWanted.any (fun w => h.energyDelivered < w && w ≤ n)
        && ((ev.books.bays b).dyn.state == .arrived || (ev.books.bays b).dyn.state == .charging
          || (ev.books.bays b).dyn.state == .done) then
      ((ev'.touch b).rederive b).note b .evidence
    else ev') := by
  rw [Ev.energyFigure_taken active arrival connector]
  simp only [noPlugIn, noCapture, last, Bool.or_self, Bool.false_eq_true, if_false]
  exact if_pos higher

end

theorem Ev.recorder_of_voice {ev ev' : Ev} (h : ev'.voice = ev.voice) : ev'.st.recorder = ev.st.recorder :=
  congrArg Voice.recorder h

/-- The energy wanted is reached by a figure: step 3 of the derivation gives OVERSTAY or DONE (R74). -/
theorem Still.third_reached (k : Still) (d : BayDyn) {h : Hold} {w : Nat} (wanted : h.energyWanted = some w)
    (reached : w ≤ h.energyDelivered) :
    k.third d h = if atOrAfter k.now (h.windowEnd + BitVec.ofNat 32 (k.timing.overstay * 60)) then .overstay
      else .done := by
  unfold Still.third
  rw [if_pos (c := d.connector = .finished ∨ _) (.inr ⟨w, wanted, reached⟩)]

theorem Still.third_ne_charging {k : Still} {d : BayDyn} {h : Hold} {w : Nat} (wanted : h.energyWanted = some w)
    (reached : w ≤ h.energyDelivered) : k.third d h ≠ .charging := by
  rw [Still.third_reached k d wanted reached]; split <;> simp

/-- Settles O24: by the base the figure finds, and for one at or above it by whether it reaches the energy wanted. -/
theorem energyFigure : Obligations.EnergyFigure := by
  intro ev b h e plugIn active arrival occupancy connector
  refine ⟨fun base => ?_, fun p noPlugIn noCapture last higher => ?_, fun p noPlugIn noCapture last lower => ?_⟩
  · rw [Ev.energyFigure_base active arrival connector base]
    exact ⟨Ev.modDyn_dyn ev b _, rfl⟩
  · rw [Ev.energyFigure_higher active arrival connector noPlugIn noCapture last higher]
    dsimp only
    generalize min 4294967295 (h.energyDelivered + (e - p)) = n
    have wants : (h.energyWanted.any (fun w => h.energyDelivered < w && w ≤ n)) = true
        ↔ ∃ w, h.energyWanted = some w ∧ h.energyDelivered < w ∧ w ≤ n := by
      simp [Option.any_eq_true]
    have serves : ((ev.books.bays b).dyn.state == .arrived || (ev.books.bays b).dyn.state == .charging
        || (ev.books.bays b).dyn.state == .done) = true ↔ (ev.bay b).dyn.state ∈ [BayState.arrived, .charging, .done] := by
      rw [show (ev.bay b).dyn.state = (ev.books.bays b).dyn.state from rfl]
      simp [or_assoc]
    have fed : ((ev.modDyn b ({ · with active := some (h.fed e n) })).books.bays b).dyn
        = { (ev.bay b).dyn with active := some (h.fed e n) } := Ev.modDyn_dyn ev b _
    by_cases both : (∃ w, h.energyWanted = some w ∧ h.energyDelivered < w ∧ w ≤ n)
        ∧ (ev.bay b).dyn.state ∈ [BayState.arrived, .charging, .done]
    · rw [if_pos (Bool.and_eq_true_iff.2 ⟨wants.2 both.1, serves.2 both.2⟩)]
      obtain ⟨w, wanted, -, reached⟩ := both.1
      have touched : (((ev.modDyn b ({ · with active := some (h.fed e n) })).touch b).books.bays b).dyn
          = { (ev.bay b).dyn with active := some (h.fed e n) } := by rw [Ev.touch_books]; exact fed
      have derived := Ev.rederive_arrived (ev := (ev.modDyn b ({ · with active := some (h.fed e n) })).touch b)
        (h := h.fed e n) (by rw [touched]) arrival (by rw [touched]; exact occupancy)
      have third := Still.third_reached ev.books.still { (ev.bay b).dyn with active := some (h.fed e n) }
        (h := h.fed e n) wanted reached
      rw [touched, show ((ev.modDyn b _).touch b).books.still = ev.books.still by simp] at derived
      rw [derived]
      refine ⟨Ev.recorder_of_voice ?_, fun _ _ => ?_, fun not => absurd both (fun h => not.elim (· h.1) (· h.2))⟩
      · rw [Ev.note_voice, Ev.setState_voice _ _ (fun enters => absurd enters
          (Still.third_ne_charging (h := h.fed e n) wanted reached)), Ev.touch_voice, Ev.modDyn_voice]
      · show ((Ev.note _ b _).books.bays b).dyn = _
        rw [Ev.note_books, Ev.setState_dyn, touched, third]; rfl
    · rw [if_neg (fun h => both ⟨wants.1 (Bool.and_eq_true_iff.1 h).1, serves.1 (Bool.and_eq_true_iff.1 h).2⟩)]
      exact ⟨rfl, fun h1 h2 => absurd ⟨h1, h2⟩ both, fun _ => fed⟩
  · rw [Ev.energyFigure_lower active arrival connector noPlugIn noCapture last lower]
    refine ⟨?_, ev.log_recorder _⟩
    refine (Ev.modDyn_dyn _ b _).trans ?_
    rw [Ev.log_books]; rfl

end Sys2Proof.Machine
end

section
/-!
SUPPORT. The frames of an event counted from the state it began in: those placed, or those that wait for the answer, with
the notices built so far; and the events of the bookings run on the books.
-/
namespace Sys2Proof.Machine

/-! ## Frames counted from the beginning of the event -/

/-- The voice of an event from `s` that has built `k` notices and placed the frames `fs`. -/
def State.placed (s : State) (k : Nat) (fs : List Frame) : Voice :=
  ⟨s.noticeTag + byteOf k, { s.uplink with fifo := s.uplink.fifo ++ fs }, s.recorder, false, []⟩

/-- The voice of an event from `s` that has built `k` notices and keeps the frames `fs` behind its answer. -/
def State.waits (s : State) (k : Nat) (fs : List Frame) : Voice :=
  ⟨s.noticeTag + byteOf k, s.uplink, s.recorder, true, fs⟩

theorem byteOf_succ (k : Nat) : byteOf (k + 1) = byteOf k + 1 := by
  apply BitVec.eq_of_toNat_eq; simp [byteOf]

section
variable (s : State)

theorem Ev.start_voice : (Ev.start s).voice = s.placed 0 [] := by
  have tag : s.noticeTag + byteOf 0 = s.noticeTag := BitVec.add_zero _
  simp [Ev.start, Ev.voice, State.placed, tag]

theorem Ev.startRequest_voice : (Ev.startRequest s).voice = s.waits 0 [] := by
  have tag : s.noticeTag + byteOf 0 = s.noticeTag := BitVec.add_zero _
  simp [Ev.startRequest, Ev.voice, State.waits, tag]

theorem State.waits_room (k : Nat) (fs : List Frame) : (s.waits k fs).Room := .inl rfl

theorem State.placed_room {k : Nat} {fs : List Frame} (room : s.uplink.fifo.length + fs.length < 32) :
    (s.placed k fs).Room := .inr (by simpa [State.placed] using room)

theorem State.placed_tell (k : Nat) (fs : List Frame) {d : Addr} (kind : Byte) (p : List Byte) (somebody : d ≠ 0) :
    (s.placed k fs).tell s.controller.own d kind p = s.placed (k + 1) (fs ++ [s.noticeAt k d kind p]) := by
  unfold State.placed
  rw [Voice.tell_placed somebody, byteOf_succ, ← BitVec.add_assoc, List.append_assoc]; rfl

theorem State.waits_tell (k : Nat) (fs : List Frame) {d : Addr} (kind : Byte) (p : List Byte) (somebody : d ≠ 0) :
    (s.waits k fs).tell s.controller.own d kind p = s.waits (k + 1) (fs ++ [s.noticeAt k d kind p]) := by
  unfold State.waits
  rw [Voice.tell_waits somebody, byteOf_succ, ← BitVec.add_assoc]; rfl

end

/-- The BAY-NOTICE that a note gives. -/
def State.noteAt (s : State) (k : Nat) (n : BayNote) (after : BayState) : Frame :=
  s.noticeAt k s.controller.noticeDest Kind.bayNotice (n.payload after)

theorem State.placed_raise (s : State) (k : Nat) (fs : List Frame) {books : Books} {n : BayNote} {after : BayState}
    (controller : books.still.controller = s.controller) (state : (books.bays n.bay).dyn.state = after)
    (raised : n.raised after = true) (somebody : s.controller.noticeDest ≠ 0) :
    (s.placed k fs).raise books n = s.placed (k + 1) (fs ++ [s.noteAt k n after]) := by
  unfold Voice.raise
  rw [state, if_pos raised, controller, State.placed_tell _ _ _ _ _ somebody]; rfl

/-- The frames of an event that owes one BAY-NOTICE. -/
theorem Ev.finish_sends_note {s : State} {ev : Ev} {k : Nat} {fs : List Frame} {n : BayNote} {after : BayState}
    (voice : s.uplink.fifo.length + fs.length ≤ 32 → ev.voice = s.placed k fs) (notes : ev.desk.notes = [n])
    (controller : ev.books.still.controller = s.controller) (state : (ev.books.bays n.bay).dyn.state = after)
    (raised : n.raised after = true) (somebody : s.controller.noticeDest ≠ 0) :
    s.Sends ev.finish (fs ++ [s.noteAt k n after]) := by
  refine Ev.finish_sends fun room => ?_
  rw [List.length_append, List.length_singleton] at room
  have now := voice (by omega)
  rw [Ev.flushNotes_voice _ (by rw [now]; rfl) (by rw [now, notes]; simpa [State.placed, Nat.add_assoc] using room), notes,
    now, List.foldl_cons, List.foldl_nil, State.placed_raise s k fs controller state raised somebody]
  exact List.prefix_refl _

/-- The frames of an event that owes two BAY-NOTICEs. -/
theorem Ev.finish_sends_notes {s : State} {ev : Ev} {k : Nat} {fs : List Frame} {n m : BayNote} {after after' : BayState}
    (voice : s.uplink.fifo.length + fs.length ≤ 32 → ev.voice = s.placed k fs) (notes : ev.desk.notes = [n, m])
    (controller : ev.books.still.controller = s.controller) (state : (ev.books.bays n.bay).dyn.state = after)
    (raised : n.raised after = true) (state' : (ev.books.bays m.bay).dyn.state = after')
    (raised' : m.raised after' = true) (somebody : s.controller.noticeDest ≠ 0) :
    s.Sends ev.finish (fs ++ [s.noteAt k n after, s.noteAt (k + 1) m after']) := by
  refine Ev.finish_sends fun room => ?_
  rw [List.length_append, List.length_cons, List.length_singleton] at room
  have now := voice (by omega)
  rw [Ev.flushNotes_voice _ (by rw [now]; rfl) (by rw [now, notes]; simpa [State.placed, Nat.add_assoc] using room), notes,
    now, List.foldl_cons, List.foldl_cons, List.foldl_nil, State.placed_raise s k fs controller state raised somebody,
    State.placed_raise s (k + 1) _ controller state' raised' somebody, List.append_assoc]
  exact List.prefix_refl _

theorem Ev.finish_sends_placed {s : State} {ev : Ev} {k : Nat} {fs : List Frame}
    (voice : s.uplink.fifo.length + fs.length ≤ 32 → ev.voice = s.placed k fs) : s.Sends ev.finish fs :=
  Ev.finish_sends_early fun room => by rw [voice room]; exact List.prefix_refl _

/-- The answer of an event whose frames wait. -/
theorem Ev.answer_placed {s : State} {ev : Ev} {r : Request} {k : Nat} {fs : List Frame} (kind : Byte) (p : List Byte)
    (voice : ev.voice = s.waits k fs) (controller : ev.books.still.controller = s.controller) (src : r.src ≠ 0)
    (room : s.uplink.fifo.length + (s.answerTo r kind p :: fs).length ≤ 32) :
    (ev.answer (ev.st.buildAnswer r.src r.tag kind p)).voice = s.placed k (s.answerTo r kind p :: fs) := by
  have uplink : ev.st.uplink = s.uplink := congrArg Voice.uplink voice
  have buffer : ev.buffer = fs := congrArg Voice.buffer voice
  have tag : ev.st.noticeTag = s.noticeTag + byteOf k := congrArg Voice.tag voice
  have recorder : ev.st.recorder = s.recorder := congrArg Voice.recorder voice
  rw [State.buildAnswer_some _ _ _ _ src, Ev.answer_voice _ _ (by rw [uplink, buffer]; exact room), uplink, buffer, tag,
    recorder]
  rw [show ev.st.controller = s.controller from controller]; rfl

/-! ## The note of a bay -/

@[simp] theorem Desk.clear_touch (b : BayIx) (st : BayState) :
    Desk.clear.touch b st = ⟨[⟨b, st, [], none, none⟩], false, false⟩ := rfl

theorem Desk.touch_known {n : BayNote} {l : List BayNote} {scan captured : Bool} {b : BayIx} (st : BayState)
    (known : n.bay = b) : Desk.touch ⟨n :: l, scan, captured⟩ b st = ⟨n :: l, scan, captured⟩ := by
  unfold Desk.touch; exact if_pos (by simp [known])

theorem Desk.modNote_known {n : BayNote} {scan captured : Bool} {b : BayIx} (f : BayNote → BayNote)
    (known : n.bay = b) : Desk.modNote ⟨[n], scan, captured⟩ b f = ⟨[f n], scan, captured⟩ := by
  simp [Desk.modNote, known]

/-- The note of a bay whose active hold has ended. -/
def endNote (b : BayIx) (before : BayState) (r : EndReason) : BayNote := ⟨b, before, [.holdEnded], some r, none⟩

theorem Ev.vacate_desk_clear {ev : Ev} {b : BayIx} {h : Hold} {l : Leave} (clear : ev.desk = .clear) :
    (ev.vacate b h l).desk = ⟨[endNote b (ev.books.bays b).dyn.state l.reason], false, false⟩ := by
  rw [Ev.vacate_desk, clear, Desk.clear_touch, Desk.touch_known _ rfl, Desk.modNote_known (b := b) _ rfl,
    Desk.modNote_known (b := b) _ rfl]
  rfl

theorem endNote_payload (s : State) (k : Nat) (b : BayIx) (before after : BayState) (r : EndReason) :
    s.noteAt k (endNote b before r) after = s.bayNoticeAt k b before after 4 r.code 0 := rfl

theorem endNote_raised (b : BayIx) (before after : BayState) (r : EndReason) :
    (endNote b before r).raised after = true := by
  simp [endNote, BayNote.raised]

end Sys2Proof.Machine
end

section
/-!
SUPPORT. The end of an active hold with nothing staged, as one change of the books; and the expiries of holds and lists.
-/
namespace Sys2Proof.Machine

/-! ## The end of an active hold with nothing staged (R22) -/

/-- The active slot of a bay's book emptied, its deadlines withdrawn, the bay left in a state. -/
def BayBook.emptied (st : BayState) (y : BayBook) : BayBook :=
  (y.clearActive.setDyn ({ · with active := none })).setDyn ({ · with state := st })

@[simp] theorem BayBook.emptied_fields (st : BayState) (y : BayBook) :
    (y.emptied st).dyn = { y.dyn with active := none, state := st } ∧ (y.emptied st).noShow = none
    ∧ (y.emptied st).overstay = none ∧ (y.emptied st).check = y.check := ⟨rfl, rfl, rfl, rfl⟩

theorem BayBook.emptied_ok (st : BayState) (y : BayBook) (ok : y.ok = true) : (y.emptied st).ok = true :=
  BayBook.setDyn_ok _ (BayBook.setDyn_ok _ ok)

/-- The state of a bay whose active hold has ended with nothing staged (R7). -/
def BayDyn.vacated (d : BayDyn) : BayState := if d.occupancy = .occupied then .unbooked else .free

theorem BayDyn.vacated_cases (d : BayDyn) : d.vacated = .unbooked ∨ d.vacated = .free := by
  unfold BayDyn.vacated; split
  · exact .inl rfl
  · exact .inr rfl

section
variable {ev : Ev} {b : BayIx} {h : Hold} (l : Leave) (active : (ev.books.bays b).dyn.active = some h)
  (staged : (ev.books.bays b).dyn.staged = none)
include active staged

theorem Ev.endActive_derived (notClosed : (ev.books.bays b).dyn.state ≠ .closed)
    (notFaulted : (ev.books.bays b).dyn.state ≠ .faulted) (mode : (ev.books.bays b).dyn.closeMode = .none) :
    ev.endActive b l = ((ev.vacate b h l).setState b (ev.books.bays b).dyn.vacated).wantScan := by
  have dyn : ((ev.vacate b h l).books.bays b).dyn = { (ev.books.bays b).dyn with active := none } := by
    rw [Ev.vacate_books_none h l staged]; simp
  rw [Ev.endActive_eq active]
  refine Ev.settleEnd_derived (by rw [dyn]; exact notFaulted) (by rw [dyn]; exact notClosed) (by rw [dyn, mode]; simp)
    (Ev.derive_none (by rw [dyn]) |>.trans (by rw [dyn]; rfl)) ?_
  rw [Ev.setState_dyn]
  rcases BayDyn.vacated_cases (ev.books.bays b).dyn with h | h <;> rw [h] <;> simp

theorem Ev.endActive_closing (notFaulted : (ev.books.bays b).dyn.state ≠ .faulted)
    (mode : (ev.books.bays b).dyn.closeMode = .closingAtEnd) :
    ev.endActive b l = (ev.vacate b h l).closeBay b := by
  have dyn : ((ev.vacate b h l).books.bays b).dyn = { (ev.books.bays b).dyn with active := none } := by
    rw [Ev.vacate_books_none h l staged]; simp
  rw [Ev.endActive_eq active]
  exact Ev.settleEnd_closing (by rw [dyn]; exact notFaulted) (by rw [dyn]; exact mode) (by rw [dyn])

omit active in
theorem Ev.ended_books (st : BayState) :
    (((ev.vacate b h l).setState b st).wantScan).books = (ev.books.leave h l).put b (.emptied st) := by
  rw [Ev.wantScan_books, Ev.setState_books, Ev.vacate_books_none h l staged, Books.put_put]; rfl

omit active staged in
theorem Ev.ended_desk (st : BayState) (clear : ev.desk = .clear) :
    (((ev.vacate b h l).setState b st).wantScan).desk
      = ⟨[endNote b (ev.books.bays b).dyn.state l.reason], true, false⟩ := by
  rw [Ev.wantScan_desk, Ev.setState_desk, Ev.vacate_desk_clear clear, Desk.touch_known (b := b) _ rfl]

omit active staged in
theorem Ev.ended_voice {st : BayState} (quiet : st ≠ .charging) :
    (((ev.vacate b h l).setState b st).wantScan).voice = (ev.vacate b h l).voice := by
  rw [Ev.wantScan_voice, Ev.setState_voice _ _ (fun enters => absurd enters quiet)]

omit active staged in
theorem Ev.ended_calm {st : BayState} (quiet : st ≠ .charging) (same : ev.calm.charging b = false) :
    (((ev.vacate b h l).setState b st).wantScan).calm = ev.calm := by
  have vacated := Ev.vacate_calm (ev := ev) (b := b) h l same
  rw [Ev.wantScan_calm, Ev.setState_calm _ _ (by rw [vacated, same]; cases st <;> first | rfl | exact absurd rfl quiet),
    vacated]

end

theorem Ev.recompute_of_calm {ev ev' : Ev} (h : ev'.calm = ev.calm) : ev'.recompute = ev.recompute :=
  congrArg Calm.recompute h

theorem Ev.scan_of_desk {ev : Ev} {notes : List BayNote} {scan captured : Bool} (h : ev.desk = ⟨notes, scan, captured⟩) :
    ev.scan = scan := congrArg Desk.scan h

/-! ## Expiries taken from those delivered -/

theorem State.dropExpiry_books (s : State) (x : Expiry) : (s.dropExpiry x).books = s.books := rfl

theorem exec_noShowExpiry (n : Byte) (o : Option Ticket) (v : Time) (s : State) :
    exec (.noShowExpiry n o v) s = execNoShowExpiry n o v s := rfl

theorem exec_overstayExpiry (n : Byte) (o : Option Ticket) (v : Time) (s : State) :
    exec (.overstayExpiry n o v) s = execOverstayExpiry n o v s := rfl

theorem exec_displacementCheck (n : Byte) (t : Ticket) (v : Time) (s : State) :
    exec (.displacementCheck n t v) s = execDisplacementCheck n t v s := rfl

theorem exec_waitlistExpiry (t : Ticket) (v : Time) (s : State) :
    exec (.waitlistExpiry t v) s = execWaitlistExpiry t v s := rfl

theorem exec_earlyArrivalExpiry (t : Ticket) (v : Time) (s : State) :
    exec (.earlyArrivalExpiry t v) s = execEarlyArrivalExpiry t v s := rfl

theorem exec_rotationExpiry (n : Byte) (s : State) : exec (.rotationExpiry n) s = execRotationExpiry n s := rfl

/-- The event of an expiry as it begins. -/
abbrev State.expiring (s : State) (x : Expiry) : Ev := (Ev.start s).onState (·.dropExpiry x)

theorem State.expiring_voice (s : State) (x : Expiry) : (s.expiring x).voice = s.placed 0 [] :=
  Ev.start_voice s

theorem State.expiring_calm (s : State) (x : Expiry) : (s.expiring x).calm = (Ev.start s).calm := rfl

theorem State.takeExpiry_runs {s : State} {x : Expiry} (body : Ev → Ev) (running : s.heldInReset = false)
    (delivered : x ∈ s.expiries) : s.takeExpiry x body = .next (body (s.expiring x)).finish :=
  s.event_runs _ running (List.contains_iff_mem.2 delivered)

/-- An expiry that its owner does not take changes nothing but that it is gone (R60). -/
theorem State.takeExpiry_discarded {s : State} {x : Expiry} {body : Ev → Ev} (running : s.heldInReset = false)
    (delivered : x ∈ s.expiries) (discarded : body (s.expiring x) = s.expiring x) :
    s.takeExpiry x body = .next ({ s with expiries := s.expiries.erase x }).settle := by
  rw [State.takeExpiry_runs body running delivered, discarded]
  exact congrArg Host.Outcome.next (Ev.finish_quiet _ rfl rfl rfl)

/-- A bay whose book an event has not opened. -/
theorem State.Shows.other {s x : State} {k : Books} {b c : BayIx} {f : BayBook → BayBook} (shows_ : x.Shows (k.put b f))
    (kept : k.bays = s.books.bays) (other : c ≠ b) : (x.bay c).dyn = (s.bay c).dyn ∧ s.AwaitsAs x c := by
  have dyn := shows_.dyn c
  have awaits := shows_.awaits c
  rw [Books.put_other _ _ other, kept] at dyn awaits
  exact ⟨dyn, awaits⟩

/-! ## The no-show expiry (R20, R22) -/

theorem execNoShowExpiry_bay (b : BayIx) (o : Option Ticket) (v : Time) (s : State) :
    execNoShowExpiry (byteOf (b.val + 1)) o v s = s.takeExpiry (.noShow b o v) (·.noShow b o v) := by
  unfold execNoShowExpiry; rw [bayOfNo_byteOf]

theorem Ev.noShow_taken {ev : Ev} {b : BayIx} {h : Hold} (active : (ev.books.bays b).dyn.active = some h)
    (arrival : h.arrival = none) : ev.noShow b h.ticket h.graceEnd = ev.endActive b (.ended .expired) := by
  unfold Ev.noShow
  rw [show (ev.bay b).dyn.active = some h from active]
  exact if_pos ⟨rfl, rfl, by simp [Hold.arrived, arrival]⟩

theorem Ev.noShow_discarded {ev : Ev} {b : BayIx} {o : Option Ticket} {v : Time}
    (changed : ∀ h, (ev.books.bays b).dyn.active = some h → h.ticket ≠ o ∨ h.graceEnd ≠ v ∨ h.arrival ≠ none) :
    ev.noShow b o v = ev := by
  unfold Ev.noShow
  split
  · next h active =>
    refine if_neg fun ⟨ticket, grace, arrived⟩ => ?_
    rcases changed h active with no | no | no
    · exact no ticket
    · exact no grace
    · simp [Hold.arrived, no] at arrived
  · rfl

theorem Books.waitlist_eq (s : State) : s.books.waitlist = s.waitlist := rfl

/-- Settles O30: the end of the active hold said in books, note and frames; a changed hold discards the expiry. -/
theorem noShowExpiry : Obligations.NoShowExpiry := by
  refine ⟨fun s b h t r running delivered active ticket requester arrival staged state occupancy mode uncharged empty => ?_,
    fun s b o v running delivered changed => ?_⟩
  · dsimp only
    rw [exec_noShowExpiry, execNoShowExpiry_bay, State.takeExpiry_runs _ running delivered, ← ticket,
      Ev.noShow_taken (ev := s.expiring _) active arrival,
      Ev.endActive_derived (ev := s.expiring _) _ active staged (ne_of_eq_of_ne state (by simp))
        (ne_of_eq_of_ne state (by simp)) mode]
    generalize hx : Expiry.noShow b h.ticket h.graceEnd = x
    have vacated : ((s.expiring x).books.bays b).dyn.vacated = .free := if_neg occupancy
    rw [vacated]
    generalize hev : (((s.expiring x).vacate b h (.ended .expired)).setState b .free).wantScan = ev
    have books : ev.books = (s.books.unindex h).put b (.emptied .free) := by rw [← hev]; exact Ev.ended_books (ev := s.expiring x) _ staged _
    have desk : ev.desk = ⟨[endNote b .held .expired], true, false⟩ := by
      rw [← hev, Ev.ended_desk _ _ rfl, show ((s.expiring x).books.bays b).dyn.state = .held from state]; rfl
    have calm : ev.calm = (Ev.start s).calm := by rw [← hev]; exact Ev.ended_calm (ev := s.expiring x) _ (by simp) uncharged
    have shows_ := Ev.finish_shows ev (.inr (by rw [books]; exact empty)) (.inl (Ev.recompute_of_calm calm))
    rw [books] at shows_
    have dyn := shows_.dyn b
    have awaits := shows_.awaits b
    rw [Books.put_same] at dyn awaits
    refine ⟨_, rfl, shows_.still, ?_, dyn, awaits, fun c other => shows_.other rfl other, ?_, fun somebody => ?_⟩
    · exact shows_.index.trans (Books.unindex_index ticket)
    · rw [shows_.waits.1]; exact List.map_eq_nil_iff.2 empty
    · have told : s.uplink.fifo.length + 1 ≤ 32 →
          ev.voice = s.placed 1 [s.noticeAt 0 r Kind.holdNotice (s.summaryBytes 3 t (b.val + 1) 3 h)] := by
        intro room
        rw [← hev, Ev.ended_voice _ (by simp), Ev.vacate_voice _ ticket requester
          (by rw [s.expiring_voice]; exact s.placed_room (by simpa using room)), s.expiring_voice]
        exact s.placed_tell 0 [] _ _ somebody
      refine ⟨Ev.finish_sends_placed told, fun listener => ?_⟩
      exact Ev.finish_sends_note (n := endNote b .held .expired) (after := .free) (fs := [_]) told (by rw [desk])
        (by rw [books]; rfl) (by rw [books]; exact congrArg (·.dyn.state) (Books.put_same ..)) (endNote_raised ..) listener
  · rw [exec_noShowExpiry, execNoShowExpiry_bay]
    exact State.takeExpiry_discarded running delivered (Ev.noShow_discarded (ev := s.expiring _) changed)

end Sys2Proof.Machine
end

section
/-!
SUPPORT. The overstay expiry, the expiries of the two lists, and the requests that AMEND, FREE and FORCE-END carry out
on a staged hold or a waitlist entry.
-/
namespace Sys2Proof.Machine

/-! ## What the end of an event shows -/

theorem State.Shows.dyns {s x : State} {k : Books} (shows_ : x.Shows k)
    (kept : ∀ b, (k.bays b).dyn = (s.bay b).dyn) : x.dyns = s.dyns := by
  rw [State.dyns_eq, State.dyns_eq]
  exact List.map_congr_left fun b _ => (shows_.dyn b).trans (kept b)

theorem State.Shows.holds {x : State} {k : Books} (shows_ : x.Shows k) : x.waitHolds = k.waitlist.map (·.hold) := by
  unfold State.waitHolds; rw [shows_.waits.1, List.map_map]; rfl

/-- The end of an event that owes nothing, its scan finding the Waitlist empty. -/
theorem Ev.finish_silent (ev : Ev) (notes : ev.notes = []) (scan : ev.scan = false ∨ ev.st.waitlist = [])
    (recompute : ev.recompute = false) : ev.finish = ev.st.settle := by
  have scanned : ev.runScan = { ev with scan := false } := Ev.runScan_empty ev scan
  unfold Ev.finish
  rw [Ev.flushNotes_fixed ev notes, scanned, Ev.runRecompute, if_neg (by simp [recompute]),
    Ev.flushNotes_fixed { ev with scan := false } notes]

/-! ## The overstay expiry (R21) -/

theorem execOverstayExpiry_bay (b : BayIx) (o : Option Ticket) (v : Time) (s : State) :
    execOverstayExpiry (byteOf (b.val + 1)) o v s = s.takeExpiry (.overstay b o v) (·.overstay b o v) := by
  unfold execOverstayExpiry; rw [bayOfNo_byteOf]

section
variable {ev : Ev} {b : BayIx} {h : Hold} (active : (ev.books.bays b).dyn.active = some h) (arrival : h.arrival ≠ none)
include active arrival

theorem Ev.overstay_taken (serves : (ev.books.bays b).dyn.state ∈ [BayState.arrived, .charging, .done]) :
    ev.overstay b h.ticket (ev.st.overstayTime h) = (ev.setState b .overstay).note b .overstay := by
  unfold Ev.overstay
  rw [show (ev.bay b).dyn.active = some h from active]
  dsimp only
  rw [if_pos ⟨rfl, rfl, Option.isSome_iff_ne_none.2 arrival⟩]
  have state : (ev.bay b).dyn.state ∈ [BayState.arrived, .charging, .done] := serves
  generalize (ev.bay b).dyn.state = st at state
  cases st <;> first | rfl | simp at state

theorem Ev.overstay_discarded (serves : (ev.books.bays b).dyn.state ∉ [BayState.arrived, .charging, .done]) :
    ev.overstay b h.ticket (ev.st.overstayTime h) = ev := by
  unfold Ev.overstay
  rw [show (ev.bay b).dyn.active = some h from active]
  dsimp only
  rw [if_pos ⟨rfl, rfl, Option.isSome_iff_ne_none.2 arrival⟩]
  have state : (ev.bay b).dyn.state ∉ [BayState.arrived, .charging, .done] := serves
  generalize (ev.bay b).dyn.state = st at state
  cases st <;> first | rfl | simp at state

end

theorem Books.Ok.setState {k : Books} (ok : k.Ok) (b : BayIx) (f : BayDyn → BayDyn) : (k.put b (·.setDyn f)).Ok :=
  ok.put b fun _ h => BayBook.setDyn_ok f h

/-- Settles O31: a bay in one of the three states is set to OVERSTAY and its note raised; in any other the expiry is
discarded. -/
theorem overstayExpiry : Obligations.OverstayExpiry := by
  intro s b h running v delivered active arrival
  refine ⟨fun serves ok => ?_, fun serves => ?_⟩
  · have run : exec (.overstayExpiry (byteOf (b.val + 1)) h.ticket v) s
        = .next (((s.expiring (.overstay b h.ticket v)).setState b .overstay).note b .overstay).finish := by
      rw [exec_overstayExpiry, execOverstayExpiry_bay, State.takeExpiry_runs _ running delivered]
      exact congrArg (fun e => Host.Outcome.next (Ev.finish e))
        (Ev.overstay_taken (ev := s.expiring _) active arrival serves)
    rw [run]
    generalize Expiry.overstay b h.ticket v = x
    generalize hev : ((s.expiring x).setState b .overstay).note b .overstay = ev
    have books : ev.books = s.books.put b (·.setDyn ({ · with state := .overstay })) := by
      rw [← hev, Ev.note_books, Ev.setState_books]; rfl
    have desk : ev.desk = ⟨[⟨b, (s.bay b).dyn.state, [.overstay], none, none⟩], false, false⟩ := by
      rw [← hev, Ev.note_desk, Ev.setState_desk, Ev.onState_desk, Ev.start_desk, Desk.clear_touch,
        Desk.touch_known (b := b) _ rfl, Desk.modNote_known (b := b) _ rfl]; rfl
    have voice : ev.voice = s.placed 0 [] := by
      rw [← hev, Ev.note_voice, Ev.setState_voice _ _ (by simp)]; exact s.expiring_voice x
    have shows_ := Ev.finish_shows ev (.inl (Ev.scan_of_desk desk))
      (.inr (by rw [books]; exact Books.Ok.setState (k := s.books) ok b _))
    rw [books] at shows_
    have dyn := shows_.dyn b
    rw [Books.put_same] at dyn
    refine ⟨_, rfl, shows_.still, dyn, fun c other => (shows_.other (s := s) rfl other).1, shows_.index, shows_.holds,
      fun listener => ?_⟩
    have changed : (s.bay b).dyn.state ≠ .overstay := by intro h; rw [h] at serves; simp at serves
    exact Ev.finish_sends_note (n := ⟨b, (s.bay b).dyn.state, [.overstay], none, none⟩) (after := .overstay) (k := 0)
      (fs := []) (fun _ => voice) (by rw [desk]) (by rw [books]; rfl)
      (by rw [books]; exact congrArg (·.dyn.state) (Books.put_same ..)) (by simp [BayNote.raised, changed]) listener
  · rw [exec_overstayExpiry, execOverstayExpiry_bay]
    exact State.takeExpiry_discarded running delivered
      (Ev.overstay_discarded (ev := s.expiring _) active arrival serves)

/-! ## The expiries of the lists (R40, R47) -/

theorem State.waiting_ticket {s : State} {t : Ticket} {e : WaitEntry} (h : s.waiting t = some e) :
    e.hold.ticket = some t := by
  have := List.find?_some h
  simpa using this

theorem State.removeWaiting_books (s : State) (e : WaitEntry) :
    (s.removeWaiting e).books = { s.books with waitlist := s.waitlist.erase e }.unindex e.hold :=
  Ev.unindexHold_books (Ev.start (s.setWaitlist (s.waitlist.erase e))) e.hold

theorem State.removeWaiting_voice (ev : Ev) (e : WaitEntry) : (ev.onState (·.removeWaiting e)).voice = ev.voice :=
  (Ev.unindexHold_voice (ev.onState (fun s => s.setWaitlist (s.waitlist.erase e))) e.hold).trans
    (ev.setWaitlist_voice (fun s => s.waitlist.erase e))

theorem State.removeEarly_eq (s : State) (t : Ticket) :
    s.removeEarly t = { s with early := s.early.filter (fun i => i.ticket ≠ t) } := by
  unfold State.removeEarly
  rw [List.filter_congr (q := fun i => decide (i.ticket ≠ t))
    fun i _ => by by_cases same : i.ticket = t <;> simp [same]]

/-- Settles O33: the waitlist expiry takes its entry from list and index and tells the requester; the early one is
tested by the time recorded. -/
theorem listExpiries : Obligations.ListExpiries := by
  refine ⟨fun s t e r running delivered waits requester => ?_, fun s t v e running delivered found => ?_⟩
  · have ticket := State.waiting_ticket waits
    rw [exec_waitlistExpiry, execWaitlistExpiry, State.takeExpiry_runs _ running delivered]
    generalize Expiry.waitlist t e.hold.graceEnd = x
    have taken : (s.expiring x).waitlistExpiry t e.hold.graceEnd
        = ((s.expiring x).onState (·.removeWaiting e)).holdNotice e.hold .expired (bareSummary s 0 e.hold .expired) := by
      unfold Ev.waitlistExpiry
      rw [show (s.expiring x).st.waiting t = some e from waits]; exact if_pos rfl
    rw [taken]
    generalize hev : ((s.expiring x).onState (·.removeWaiting e)).holdNotice e.hold .expired
      (bareSummary s 0 e.hold .expired) = ev
    have books : ev.books = { s.books with waitlist := s.waitlist.erase e }.unindex e.hold := by
      rw [← hev, Ev.holdNotice_books]; exact State.removeWaiting_books _ e
    have quiet : ev.desk = .clear ∧ ev.recompute = false := by
      rw [← hev, Ev.holdNotice_desk]
      exact ⟨rfl, by simp [Ev.onState, Ev.start]⟩
    have shows_ := Ev.finish_shows ev (.inl (Ev.scan_of_desk quiet.1)) (.inl quiet.2)
    rw [books] at shows_
    refine ⟨_, rfl, shows_.still, shows_.holds, ?_, shows_.dyns fun _ => rfl, fun somebody => ?_⟩
    · exact shows_.index.trans (Books.unindex_index ticket)
    · refine Ev.finish_sends_placed (k := 1) fun room => ?_
      have start := (State.removeWaiting_voice (s.expiring x) e).trans (s.expiring_voice x)
      rw [← hev, Ev.holdNotice_voice _ ticket requester _ _
        (by rw [start]; exact s.placed_room (by simpa using room)), start, bareSummary_bare]
      have payload := holdNoticePayload_summary s .expired t 0 e.hold.bare .expired
      have site : ((s.expiring x).onState (·.removeWaiting e)).st.siteOffset = s.siteOffset :=
        congrArg (Still.siteOffset ∘ Books.still) (State.removeWaiting_books (s.dropExpiry x) e)
      have own : ((s.expiring x).onState (·.removeWaiting e)).books.still.controller = s.controller :=
        congrArg (Still.controller ∘ Books.still) (State.removeWaiting_books (s.dropExpiry x) e)
      rw [holdNoticePayload_congr site, payload, own]
      exact s.placed_tell 0 [] _ _ somebody
  · rw [exec_earlyArrivalExpiry, execEarlyArrivalExpiry, State.takeExpiry_runs _ running delivered, Ev.onState_onState,
      Ev.finish_onState]
    refine congrArg Host.Outcome.next (congrArg State.settle ?_)
    unfold State.earlyExpiry
    rw [show (s.dropExpiry (.early t v)).early.find? (fun i => i.ticket == t) = some e from found]
    dsimp only
    by_cases same : e.recorded + 600 = v
    · rw [if_pos (c := e.recorded + secs 600 = v) same, if_pos same, State.removeEarly_eq]; rfl
    · rw [if_neg (c := e.recorded + secs 600 = v) same, if_neg same]; rfl

/-! ## A request of the hold request queue as its event begins -/

/-- The event of a booking request as it begins. -/
abbrev State.serving (s : State) (q : List Request) : Ev := Ev.startRequest { s with requests := q }

/-- The event of a management request as it begins. -/
abbrev State.managing (s : State) (q : List Request) : Ev := Ev.startRequest { s with management := q }

theorem State.serving_voice (s : State) (q : List Request) : (s.serving q).voice = s.waits 0 [] :=
  Ev.startRequest_voice { s with requests := q }

theorem State.managing_voice (s : State) (q : List Request) : (s.managing q).voice = s.waits 0 [] :=
  Ev.startRequest_voice { s with management := q }

theorem exec_amend (s : State) : exec .amend s = execAmend s := rfl
theorem exec_free (s : State) : exec .free s = execFree s := rfl
theorem exec_query (s : State) : exec .query s = execQuery s := rfl
theorem exec_arrive (s : State) : exec .arrive s = execArrive s := rfl
theorem exec_forceEnd (s : State) : exec .forceEnd s = execForceEnd s := rfl

/-- A refusal with nothing waiting and nothing owed. -/
theorem Ev.finish_refuse (s : State) (q : List Request) (r : Request) (t : Ticket) (why : Reason) :
    ((s.serving q).refuse r t why).finish = (({ s with requests := q } : State).sendAnswer r Kind.answer
      ([r.kind] ++ be32w t ++ [2, byteOf why.code, 0, 0, 0] ++ List.replicate 12 0)).settle := by
  have payload : answerPayload r.kind t (refusal why)
      = [r.kind] ++ be32w t ++ [2, byteOf why.code, 0, 0, 0] ++ List.replicate 12 0 :=
    answerPayload_refusal r.kind t why 0 0
  rw [← payload]
  exact Ev.finish_answer _ r _ _ rfl rfl rfl rfl

theorem answerPayload_granted (s : State) (r : Request) (t : Ticket) (bay slot : Nat) (h : Hold) :
    answerPayload r.kind t (grantedAnswer s bay slot h) = s.answerBytes r t 0 bay slot 0 h := by
  simp [answerPayload, grantedAnswer, State.answerBytes, State.windowBytes, State.site, be32w, byteOf]

theorem answerPayload_queued (s : State) (r : Request) (t : Ticket) (position : Nat) (h : Hold) :
    answerPayload r.kind t (queuedAnswer s position h) = s.answerBytes r t 1 0 0 position h := by
  simp [answerPayload, queuedAnswer, State.answerBytes, State.windowBytes, State.site, be32w, byteOf]

/-! ## Ownership (R48, R49) -/

section
variable {s : State} {r : Request} {t : Ticket} (named : ticketField r.payload 0 = t)
include named

theorem State.checkOwned_badTicket (zero : t = 0) : s.checkOwned r = .error .badTicket := by
  unfold State.checkOwned; exact if_pos (named.trans zero)

theorem State.checkOwned_unknown (ticket : t ≠ 0) (unknown : s.lookup t = none) :
    s.checkOwned r = .error .unknownTicket := by
  unfold State.checkOwned; dsimp only
  rw [named, if_neg ticket, unknown]

theorem State.checkOwned_notOwner {e : IndexEntry} (ticket : t ≠ 0) (found : s.lookup t = some e)
    (other : e.requester ≠ r.src) (barred : (s.node r.src).permissions.freeAny = false) :
    s.checkOwned r = .error .notOwner := by
  unfold State.checkOwned; dsimp only
  rw [named, if_neg ticket, found]
  exact if_pos ⟨other, barred⟩

theorem State.checkOwned_ok {e : IndexEntry} (ticket : t ≠ 0) (found : s.lookup t = some e)
    (owner : e.requester = r.src ∨ (s.node r.src).permissions.freeAny = true) : s.checkOwned r = .ok e := by
  unfold State.checkOwned; dsimp only
  rw [named, if_neg ticket, found]
  exact if_neg fun ⟨other, barred⟩ => owner.elim other (by rw [barred]; simp)

end

theorem Ev.ownedRequest_refused {ev : Ev} {r : Request} {act : Ev → Location → Hold → Ev} {why : Reason}
    (fails : ev.st.checkOwned r = .error why) : ev.ownedRequest r act = ev.refuse r (ticketField r.payload 0) why := by
  unfold Ev.ownedRequest; dsimp only; rw [fails]

theorem Ev.ownedRequest_acts {ev : Ev} {r : Request} {act : Ev → Location → Hold → Ev} {e : IndexEntry} {h : Hold}
    (owned : ev.st.checkOwned r = .ok e) (hold : ev.st.holdAt (ticketField r.payload 0) e.location = some h) :
    ev.ownedRequest r act = act ev e.location h := by
  unfold Ev.ownedRequest; dsimp only; rw [owned]; dsimp only; rw [hold]

/-- A request that its ticket's check refuses (R48, R49). -/
theorem ownedRequest_refused {s : State} {r : Request} {q : List Request} {c : Instr} {why : Reason}
    (running : s.heldInReset = false) (head : s.requests = r :: q)
    (mine : r.kind = Kind.amend ∧ c = .amend ∨ r.kind = Kind.free ∧ c = .free)
    (fails : ({ s with requests := q } : State).checkOwned r = .error why) :
    exec c s = .next (({ s with requests := q } : State).sendAnswer r Kind.answer
      ([r.kind] ++ be32w (ticketField r.payload 0) ++ [2, byteOf why.code, 0, 0, 0] ++ List.replicate 12 0)).settle := by
  rcases mine with ⟨kind, rfl⟩ | ⟨kind, rfl⟩
  · rw [exec_amend, execAmend, s.takeRequest_runs Kind.amend _ running head kind]
    rw [Ev.ownedRequest_refused fails, Ev.finish_refuse]
  · rw [exec_free, execFree, s.takeRequest_runs Kind.free _ running head kind]
    rw [Ev.ownedRequest_refused fails, Ev.finish_refuse]

end Sys2Proof.Machine
end

section
/-!
SUPPORT. FREE of a waitlist entry and of a staged hold, and FORCE-END of a staged slot.
-/
namespace Sys2Proof.Machine

/-! ## The answer of an event -/

section
variable {s : State} {ev : Ev} {r : Request} {k : Nat} {fs : List Frame} (kind : Byte) (p : List Byte)

/-- The answer and what waited behind it are the first frames of the event. -/
theorem Ev.answer_sends (voice : ev.voice = s.waits k fs) (controller : ev.books.still.controller = s.controller)
    (src : r.src ≠ 0) : s.Sends (ev.answer (ev.st.buildAnswer r.src r.tag kind p)).finish (s.answerTo r kind p :: fs) :=
  Ev.finish_sends_placed (k := k) fun room => Ev.answer_placed kind p voice controller src room

theorem State.Answers_of_voice (uplink : ev.voice.uplink = s.uplink) (controller : ev.books.still.controller = s.controller) :
    s.Answers (ev.answer (ev.st.buildAnswer r.src r.tag kind p)).finish r kind p :=
  Ev.finish_answers s ev r kind p uplink controller

end

/-- An event that answers a request places nothing before the answer. -/
theorem Moves.voice_uplink {a ev : Ev} (moves : Moves a ev) (waits : a.buffering = true) :
    ev.voice.uplink = a.voice.uplink := moves.uplink waits

/-! ## FREE (R49) -/

section
variable {s : State} {r : Request} {q : List Request} {t : Ticket} {a : Addr} {l : Location} {h : Hold}

/-- A FREE of a ticket by who may free it acts on the hold where the index says. -/
theorem execFree_acts (running : s.heldInReset = false) (head : s.requests = r :: q) (kind : r.kind = Kind.free)
    (named : ticketField r.payload 0 = t) (ticket : t ≠ 0) (found : s.lookup t = some ⟨t, a, l⟩)
    (owner : a = r.src ∨ (s.node r.src).permissions.freeAny = true) (hold : s.holdAt t l = some h) :
    exec .free s = .next (Ev.freeAt r (s.serving q) l h).finish := by
  rw [exec_free, execFree, s.takeRequest_runs Kind.free _ running head kind]
  have owned : ({ s with requests := q } : State).checkOwned r = .ok ⟨t, a, l⟩ :=
    State.checkOwned_ok (s := { s with requests := q }) named ticket found owner
  rw [Ev.ownedRequest_acts (ev := s.serving q) (h := h) owned (by rw [named]; exact hold)]

theorem Ev.freeAt_staged (ev : Ev) (b : BayIx) : Ev.freeAt r ev (.staged b) h
    = (ev.endStaged b (.ended .freed)).reply r (ticketField r.payload 0) (grantedAnswer ev.st (bayNo b) 2 h) := rfl

theorem Ev.freeAt_active (ev : Ev) (b : BayIx) : Ev.freeAt r ev (.active b) h
    = (ev.endActive b (.ended .freed)).reply r (ticketField r.payload 0) (grantedAnswer ev.st (bayNo b) 1 h) := rfl

theorem Ev.freeAt_waitlist {ev : Ev} {e : WaitEntry} (waits : ev.st.waiting (ticketField r.payload 0) = some e) :
    Ev.freeAt r ev .waitlist h
      = ((ev.onState (·.removeWaiting e)).holdNotice h .ended (bareSummary ev.st 0 h .freed)).reply r
          (ticketField r.payload 0) (grantedAnswer ev.st 0 3 h) := by
  unfold Ev.freeAt
  simp only [Ev.onState, waits]
  rfl

end

theorem Ev.reply_desk (ev : Ev) (r : Request) (t : Ticket) (a : AnswerBody) : (ev.reply r t a).desk = ev.desk :=
  ev.answer_desk _

/-- A staged hold ended in an event that answers: what is left when the answer has been placed. -/
theorem State.unstaged_books (s : State) (q : List Request) (b : BayIx) (h : Hold) (l : Leave) :
    ((s.serving q).vacateStaged b h l).books
      = (({ s with requests := q } : State).books.leave h l).put b BayBook.unstage := Ev.vacateStaged_books _ _ _ _

/-- Settles O42: the refusals by `checkOwned`, and the two ends of a hold that is not active on books and frames. -/
theorem free : Obligations.Free := by
  refine ⟨fun s r q c running head mine => ⟨fun zero => ?_, fun ticket unknown => ?_, fun e ticket found other barred => ?_⟩,
    fun s r q t e a running head kind named ticket found owner waits requester => ?_,
    fun s r q t b h a running head kind named ticket found owner staged held requester empty => ?_⟩
  · exact ownedRequest_refused (why := .badTicket) running head mine
      (State.checkOwned_badTicket (s := { s with requests := q }) rfl zero)
  · exact ownedRequest_refused (why := .unknownTicket) running head mine
      (State.checkOwned_unknown (s := { s with requests := q }) rfl ticket unknown)
  · exact ownedRequest_refused (why := .notOwner) running head mine
      (State.checkOwned_notOwner (s := { s with requests := q }) rfl ticket found other barred)
  · have held := State.waiting_ticket waits
    rw [execFree_acts running head kind named ticket found owner (h := e.hold) (by
        show (s.waiting t).map (·.hold) = _
        rw [waits]; rfl),
      Ev.freeAt_waitlist (ev := s.serving q) (by rw [named]; exact waits), named]
    unfold Ev.reply
    have payload : answerPayload r.kind t (grantedAnswer (s.serving q).st 0 3 e.hold) = s.answerBytes r t 0 0 3 0 e.hold :=
      answerPayload_granted _ r t 0 3 e.hold
    rw [payload]
    generalize hev : ((s.serving q).onState (·.removeWaiting e)).holdNotice e.hold .ended
      (bareSummary (s.serving q).st 0 e.hold .freed) = ev
    have books : ev.books = { ({ s with requests := q } : State).books with waitlist := s.waitlist.erase e }.unindex e.hold := by
      rw [← hev, Ev.holdNotice_books]; exact State.removeWaiting_books _ e
    have quiet : ev.desk = .clear ∧ ev.recompute = false := by
      rw [← hev, Ev.holdNotice_desk]; exact ⟨rfl, by simp [Ev.onState, Ev.startRequest]⟩
    have shows_ := Ev.finish_shows (ev.answer (ev.st.buildAnswer r.src r.tag Kind.answer (s.answerBytes r t 0 0 3 0 e.hold)))
      (.inl (Ev.scan_of_desk ((ev.answer_desk _).trans quiet.1))) (.inl (by simp [quiet.2]))
    rw [Ev.answer_books, books] at shows_
    refine ⟨_, rfl, shows_.still, shows_.dyns fun _ => rfl, shows_.holds, shows_.index.trans (Books.unindex_index held),
      fun src somebody => ?_⟩
    refine Ev.answer_sends (k := 1) _ _ ?_ (by rw [books]; rfl) src
    have start := (State.removeWaiting_voice (s.serving q) e).trans (s.serving_voice q)
    have site : ((s.serving q).onState (·.removeWaiting e)).st.siteOffset = s.siteOffset :=
      congrArg (Still.siteOffset ∘ Books.still) (State.removeWaiting_books { s with requests := q } e)
    have own : ((s.serving q).onState (·.removeWaiting e)).books.still.controller = s.controller :=
      congrArg (Still.controller ∘ Books.still) (State.removeWaiting_books { s with requests := q } e)
    rw [← hev, Ev.holdNotice_voice _ held requester _ _ (by rw [start]; exact s.waits_room 0 []), start, bareSummary_bare,
      holdNoticePayload_congr (s := (s.serving q).st) site, holdNoticePayload_summary, own]
    exact s.waits_tell 0 [] _ _ somebody
  · rw [execFree_acts running head kind named ticket found owner (h := h) staged, Ev.freeAt_staged, named,
      Ev.endStaged_eq (ev := s.serving q) _ staged (by simp [Leave.reason])]
    unfold Ev.reply
    have payload : answerPayload r.kind t (grantedAnswer (s.serving q).st (bayNo b) 2 h)
        = s.answerBytes r t 0 (b.val + 1) 2 0 h := answerPayload_granted _ r t _ 2 h
    rw [payload]
    generalize s.answerBytes r t 0 (b.val + 1) 2 0 h = p
    generalize hev : ((s.serving q).vacateStaged b h (.ended .freed)).wantScan = ev
    have books : ev.books = (({ s with requests := q } : State).books.unindex h).put b BayBook.unstage := by
      rw [← hev, Ev.wantScan_books, Ev.vacateStaged_books]; rfl
    have desk : ev.desk = ⟨[], true, false⟩ := by rw [← hev, Ev.wantScan_desk, Ev.vacateStaged_desk]; rfl
    have calm : ev.recompute = false := by
      rw [← hev]; exact Ev.recompute_of_calm (Ev.vacateStaged_calm _ _ _ _)
    have moves : Moves (s.serving q) ev := by
      rw [← hev, ← Ev.endStaged_eq (ev := s.serving q) (.ended .freed) staged (by simp [Leave.reason])]
      exact Moves.refl.endStaged b _
    have controller : ev.books.still.controller = s.controller := by rw [books]; rfl
    have shows_ := Ev.finish_shows (ev.answer (ev.st.buildAnswer r.src r.tag Kind.answer p))
      (.inr (by rw [Ev.answer_books, books]; exact empty)) (.inl (by simp [calm]))
    rw [Ev.answer_books, books] at shows_
    have dyn := shows_.dyn b
    have check := (shows_.awaits b).2.2.1
    rw [Books.put_same] at dyn check
    refine ⟨_, rfl, shows_.still, dyn, check, fun c other => (shows_.other (s := s) rfl other).1, ?_,
      shows_.index.trans (Books.unindex_index held), State.Answers_of_voice _ _ (moves.voice_uplink rfl) controller,
      fun src somebody room => ?_⟩
    · exact shows_.holds.trans (congrArg _ empty)
    · have voice : ev.voice
          = s.waits 1 [s.noticeAt 0 a Kind.holdNotice (s.summaryBytes 6 t (b.val + 1) 2 h.bare)] := by
        rw [← hev, Ev.wantScan_voice, Ev.vacateStaged_voice _ held requester (by
          rw [s.serving_voice]; exact s.waits_room 0 []), s.serving_voice]
        exact s.waits_tell 0 [] _ _ somebody
      have answered := Ev.answer_placed Kind.answer p voice controller src room
      generalize hlast : ev.answer (ev.st.buildAnswer r.src r.tag Kind.answer p) = last at answered
      have silent : last.finish = last.st.settle := by
        refine last.finish_silent ?_ (.inr ?_) ?_
        · rw [← hlast]; exact (ev.answer_leaves _).1.trans (congrArg Desk.notes desk)
        · rw [← hlast]
          exact (congrArg Books.waitlist (Ev.answer_books _ _)).trans ((congrArg Books.waitlist books).trans empty)
        · rw [← hlast]; simp [calm]
      rw [silent, State.settle_recorder, State.settle_uplink]
      exact ⟨congrArg Voice.recorder answered, congrArg (·.uplink.fifo) answered⟩

/-! ## FORCE-END of a staged slot (R157) -/

section
variable {s : State} {r : Request} {q : List Request} {b : BayIx} {n : Byte} {sl : Slot} {w x y z : Byte}

theorem ticketField_four (c m n : Byte) : ticketField [c, m, n, w, x, y, z] 3 = w ++ x ++ y ++ z := by
  have be : field32 [c, m, n, w, x, y, z] 3 = w.toNat * 16777216 + x.toNat * 65536 + y.toNat * 256 + z.toNat := by
    simp only [field32, field16, byteAt, List.getD_cons_succ, List.getD_cons_zero]; omega
  have := w.isLt; have := x.isLt; have := y.isLt; have := z.isLt
  unfold ticketField
  rw [if_neg (by simp), be]
  apply BitVec.eq_of_toNat_eq
  simp only [BitVec.toNat_ofNat, BitVec.toNat_append]
  rw [← Nat.shiftLeft_add_eq_or_of_lt (by omega), ← Nat.shiftLeft_add_eq_or_of_lt (by omega),
    ← Nat.shiftLeft_add_eq_or_of_lt (by omega)]
  simp only [Nat.shiftLeft_eq]
  omega

/-- A FORCE-END of a slot as its event runs. -/
theorem execForceEnd_runs (running : s.heldInReset = false) (head : s.management = r :: q)
    (kind : r.kind = Kind.control) (payload : r.payload = [4, byteOf (b.val + 1), n, w, x, y, z]) :
    exec .forceEnd s = .next (Ev.forceEnd b r (s.managing q)).finish := by
  rw [exec_forceEnd, execForceEnd]
  exact State.takeBayControl_runs s b _ running head kind (by rw [payload]; rfl) (by rw [payload]; rfl)
    (by rw [payload]; simp) (by rw [payload]; simp)

variable {ev : Ev} (payload : r.payload = [4, byteOf (b.val + 1), byteOf sl.code, w, x, y, z])
include payload

theorem Ev.forceEnd_empty (empty : (ev.books.bays b).dyn.slot sl = none) :
    Ev.forceEnd b r ev = ev.status r .badIndex := by
  unfold Ev.forceEnd
  have slot : slotOf? (byteAt r.payload 2) = some sl := by rw [payload]; cases sl <;> rfl
  rw [slot]; dsimp only
  rw [show (ev.bay b).dyn.slot sl = none from empty]

theorem Ev.forceEnd_other {h : Hold} (stands : (ev.books.bays b).dyn.slot sl = some h)
    (named : w ++ x ++ y ++ z ≠ (0 : Ticket)) (other : h.ticket ≠ some (w ++ x ++ y ++ z)) :
    Ev.forceEnd b r ev = ev.status r .badIndex := by
  unfold Ev.forceEnd
  have slot : slotOf? (byteAt r.payload 2) = some sl := by rw [payload]; cases sl <;> rfl
  rw [slot]; dsimp only
  rw [show (ev.bay b).dyn.slot sl = some h from stands]; dsimp only
  rw [payload, ticketField_four]
  exact if_pos ⟨named, other⟩

theorem Ev.forceEnd_acts {h : Hold} (stands : (ev.books.bays b).dyn.slot sl = some h)
    (mine : w ++ x ++ y ++ z = (0 : Ticket) ∨ h.ticket = some (w ++ x ++ y ++ z)) :
    Ev.forceEnd b r ev = (ev.leaveSlot b sl (.ended .forced)).status r .ok := by
  unfold Ev.forceEnd
  have slot : slotOf? (byteAt r.payload 2) = some sl := by rw [payload]; cases sl <;> rfl
  rw [slot]; dsimp only
  rw [show (ev.bay b).dyn.slot sl = some h from stands]; dsimp only
  rw [payload, ticketField_four]
  exact if_neg fun ⟨named, other⟩ => mine.elim named other

end

/-- Settles O54: the two refusals, and the end of the staged hold on books and frames. -/
theorem forceEndStaged : Obligations.ForceEndStaged := by
  intro s r q b w x y z running head kind payload
  have slot : r.payload = [4, byteOf (b.val + 1), byteOf Slot.staged.code, w, x, y, z] := payload
  have run := execForceEnd_runs running head kind payload
  refine ⟨fun empty => ?_, fun h staged named other => ?_, fun h t a staged named held requester empty => ?_⟩
  · rw [run, Ev.forceEnd_empty (ev := s.managing q) slot empty, Ev.finish_status]
  · rw [run, Ev.forceEnd_other (ev := s.managing q) slot staged named other, Ev.finish_status]
  · rw [run, Ev.forceEnd_acts (ev := s.managing q) slot staged (named.imp_right fun n => by rw [held, n])]
    unfold Ev.leaveSlot
    dsimp only
    rw [Ev.endStaged_eq (ev := s.managing q) _ staged (by simp [Leave.reason])]
    generalize hev : ((s.managing q).vacateStaged b h (.ended .forced)).wantScan = ev
    have books : ev.books = (({ s with management := q } : State).books.unindex h).put b BayBook.unstage := by
      rw [← hev, Ev.wantScan_books, Ev.vacateStaged_books]; rfl
    have calm : ev.recompute = false := by
      rw [← hev]; exact Ev.recompute_of_calm (Ev.vacateStaged_calm _ _ _ _)
    have shows_ := Ev.finish_shows (ev.status r .ok)
      (.inr (by rw [Ev.status, Ev.mgmt, Ev.answer_books, books]; exact empty)) (.inl (by simp [Ev.status, Ev.mgmt, calm]))
    rw [Ev.status, Ev.mgmt, Ev.answer_books, books] at shows_
    have dyn := shows_.dyn b
    rw [Books.put_same] at dyn
    refine ⟨_, rfl, shows_.still, dyn, fun c other => (shows_.other (s := s) rfl other).1,
      shows_.index.trans (Books.unindex_index held), fun src somebody => ?_⟩
    refine Ev.answer_sends (k := 1) Kind.mgmtAnswer [r.kind, 0] ?_ (by rw [books]; rfl) src
    rw [← hev, Ev.wantScan_voice, Ev.vacateStaged_voice _ held requester (by
      rw [s.managing_voice]; exact s.waits_room 0 []), s.managing_voice]
    exact s.waits_tell 0 [] _ _ somebody

end Sys2Proof.Machine
end

section
/-!
SUPPORT. The placement search (R32 to R34) over records in order: it finds the bay that `State.Finds` names, or none.
-/
namespace Sys2Proof.Machine

/-! ## The slot in which a bay fits (R33) -/

/-- The slot that a bay the search may read offers. -/
def State.slotFor (s : State) (b : BayIx) (ws : Time) : Option Slot :=
  if (s.bay b).searchable = true then s.fit b ws else none

theorem Bay.searchable_iff (y : Bay) : y.searchable = true ↔
    y.dyn.state ≠ .closed ∧ y.dyn.state ≠ .faulted ∧ y.dyn.closeMode = .none ∧ y.dyn.suspect = false := by
  unfold Bay.searchable
  simp only [Bool.and_eq_true, bne_iff_ne, beq_iff_eq, Bool.not_eq_true', and_assoc]

theorem State.fit_iff (s : State) (b : BayIx) (ws : Time) (sl : Slot) : s.fit b ws = some sl ↔
    (sl = .active ∧ (s.bay b).dyn.state = .free
      ∨ sl = .staged ∧ (s.bay b).dyn.state ≠ .free ∧ (s.bay b).dyn.staged = none ∧ s.scrubber.degraded = false
        ∧ laterThan (ws - BitVec.ofNat 32 (s.timing.lead * 60)) s.now = true
        ∧ ∃ a ∈ (s.bay b).dyn.active,
            atOrAfter ws (a.windowEnd + BitVec.ofNat 32 (s.timing.turnover * 60)) = true) := by
  unfold State.fit; dsimp only
  by_cases free : (s.bay b).dyn.state = .free
  · rw [if_pos free]
    constructor
    · intro h; cases h; exact .inl ⟨rfl, free⟩
    · rintro (⟨rfl, _⟩ | ⟨_, taken, _⟩)
      · rfl
      · exact absurd free taken
  · rw [if_neg free]
    cases active : (s.bay b).dyn.active with
    | none => simp [free]
    | some a =>
      cases staged : (s.bay b).dyn.staged with
      | some n => simp [free]
      | none =>
        dsimp only
        rw [Option.ite_none_right_eq_some]
        simp only [Bool.and_eq_true, Bool.not_eq_true', Option.mem_some_iff, exists_eq_left', Option.some.injEq]
        constructor
        · rintro ⟨⟨⟨fits, ahead⟩, normal⟩, rfl⟩
          exact .inr ⟨rfl, free, trivial, normal, ahead, fits⟩
        · rintro (⟨_, h⟩ | ⟨rfl, _, _, normal, ahead, fits⟩)
          · exact absurd h free
          · exact ⟨⟨⟨fits, ahead⟩, normal⟩, rfl⟩

theorem State.slotFor_iff (s : State) (b : BayIx) (ws : Time) (sl : Slot) :
    s.slotFor b ws = some sl ↔ s.Fits b ws sl := by
  unfold State.slotFor State.Fits
  rw [Option.ite_none_right_eq_some, Bay.searchable_iff, s.fit_iff, and_assoc, and_assoc, and_assoc]

theorem State.slotFor_none_iff (s : State) (b : BayIx) (ws : Time) :
    s.slotFor b ws = none ↔ ¬ s.FitsSome b ws := by
  unfold State.FitsSome
  rw [← s.slotFor_iff, ← s.slotFor_iff]
  cases s.slotFor b ws with
  | none => simp
  | some sl => cases sl <;> simp

/-- A bay that fits may be read by the search. -/
theorem State.Fits.searchable {s : State} {b : BayIx} {ws : Time} {sl : Slot} (h : s.Fits b ws sl) :
    (s.bay b).searchable = true := by
  obtain ⟨closed, faulted, mode, suspect, _⟩ := h
  exact (Bay.searchable_iff _).2 ⟨closed, faulted, mode, suspect⟩

/-! ## One bay, and a list of bays -/

/-- A bay whose record the search may read and that agrees with its check word is examined without effect. -/
theorem Ev.examine_agrees {ev : Ev} {b : BayIx} (ok : (ev.bay b).searchable = true → (ev.bay b).checkOk = true)
    (ws : Time) : ev.examine b ws = (ev, ev.st.slotFor b ws) := by
  unfold Ev.examine State.slotFor
  by_cases may : (ev.bay b).searchable = true
  · obtain ⟨_, _, _, suspect⟩ := (Bay.searchable_iff _).1 may
    rw [if_pos may, if_pos (c := (ev.st.bay b).searchable = true) may, Ev.compareRecord_agrees (.inl (ok may))]
    exact if_neg (by rw [suspect]; simp)
  · rw [if_neg may, if_neg (c := (ev.st.bay b).searchable = true) may]

/-- The first bay of a list that fits, with its slot. -/
def State.firstFit (s : State) (ws : Time) (l : List BayIx) : Option (BayIx × Slot) :=
  l.findSome? (fun b => (s.slotFor b ws).map (fun sl => (b, sl)))

theorem Ev.examineAll_agrees {ev : Ev} (ws : Time) (l : List BayIx)
    (ok : ∀ b ∈ l, (ev.bay b).searchable = true → (ev.bay b).checkOk = true) :
    ev.examineAll ws l = (ev, ev.st.firstFit ws l) := by
  induction l with
  | nil => rfl
  | cons b l ih =>
    unfold Ev.examineAll State.firstFit
    rw [Ev.examine_agrees (ok b List.mem_cons_self), List.findSome?_cons]
    cases ev.st.slotFor b ws with
    | some sl => rfl
    | none => exact ih fun c h => ok c (List.mem_cons_of_mem _ h)

theorem State.firstFit_none {s : State} {ws : Time} {l : List BayIx} (none : ∀ b ∈ l, ¬ s.FitsSome b ws) :
    s.firstFit ws l = Option.none := by
  unfold State.firstFit
  rw [List.findSome?_eq_none_iff]
  intro b here
  rw [(s.slotFor_none_iff b ws).2 (none b here)]; rfl

/-- In a list that goes up by a distance, the first bay that fits is the nearest. -/
theorem State.firstFit_nearest {s : State} {ws : Time} {l : List BayIx} {b : BayIx} {sl : Slot} {d : BayIx → Nat}
    (order : l.Pairwise (fun e f => d e < d f)) (here : b ∈ l) (fits : s.Fits b ws sl)
    (nearest : ∀ e ∈ l, s.FitsSome e ws → d b ≤ d e) : s.firstFit ws l = some (b, sl) := by
  obtain ⟨before, behind, rfl⟩ := List.append_of_mem here
  unfold State.firstFit
  rw [List.findSome?_append, List.findSome?_eq_none_iff.2, Option.none_or, List.findSome?_cons,
    (s.slotFor_iff b ws sl).2 fits]
  · rfl
  · intro e early
    have closer : d e < d b := (List.pairwise_append.1 order).2.2 e early b List.mem_cons_self
    have out : ¬ s.FitsSome e ws := fun fits => by
      have := nearest e (List.mem_append_left _ early) fits; omega
    rw [(s.slotFor_none_iff e ws).2 out]; rfl

/-! ## The bays of a class (R34 step 1) -/

/-- The bays of a class that a search may examine. -/
def State.classBays (s : State) (c : BayClass) (excluded : Option BayIx) : List BayIx :=
  (s.classOrder c).filter (fun b => some b != excluded)

theorem State.mem_classBays {s : State} {c : BayClass} {excluded : Option BayIx} {b : BayIx} :
    b ∈ s.classBays c excluded ↔ (s.bay b).cls = c ∧ some b ≠ excluded := by
  unfold State.classBays State.classOrder
  simp only [List.mem_filter, List.mem_append, allBays, List.mem_finRange, true_and, decide_eq_true_eq, beq_iff_eq,
    bne_iff_ne]
  constructor
  · exact fun ⟨⟨_, cls⟩, other⟩ => ⟨cls, other⟩
  · exact fun ⟨cls, other⟩ => ⟨⟨le_or_gt _ _, cls⟩, other⟩

theorem State.classBays_order (s : State) (c : BayClass) (excluded : Option BayIx) :
    (s.classBays c excluded).Pairwise
      (fun e f => (e - s.cursors.get c.ix).val < (f - s.cursors.get c.ix).val) := by
  unfold State.classBays State.classOrder; dsimp only
  generalize s.cursors.get c.ix = cur
  have distance (p : BayIx) : (p - cur).val = (128 - cur.val + p.val) % 128 := rfl
  have up := List.pairwise_lt_finRange 128
  refine List.Pairwise.filter _ (List.Pairwise.filter _ (List.pairwise_append.2 ⟨?_, ?_, ?_⟩))
  · refine List.Pairwise.imp_of_mem ?_ (up.filter _)
    intro p p' hp hp' lt
    have near : cur.val ≤ p.val := of_decide_eq_true (List.mem_filter.1 hp).2
    have near' : cur.val ≤ p'.val := of_decide_eq_true (List.mem_filter.1 hp').2
    have lt : p.val < p'.val := lt
    rw [distance, distance]; omega
  · refine List.Pairwise.imp_of_mem ?_ (up.filter _)
    intro p p' hp hp' lt
    have far : p.val < cur.val := of_decide_eq_true (List.mem_filter.1 hp).2
    have far' : p'.val < cur.val := of_decide_eq_true (List.mem_filter.1 hp').2
    have lt : p.val < p'.val := lt
    rw [distance, distance]; omega
  · intro p hp p' hp'
    have near : cur.val ≤ p.val := of_decide_eq_true (List.mem_filter.1 hp).2
    have far : p'.val < cur.val := of_decide_eq_true (List.mem_filter.1 hp').2
    rw [distance, distance]; omega

/-! ## The search list (R32) -/

theorem mem_foldl_once {α : Type} [DecidableEq α] (xs acc : List α) (y : α) :
    y ∈ xs.foldl (fun l x => if l.contains x then l else l ++ [x]) acc ↔ y ∈ acc ∨ y ∈ xs := by
  induction xs generalizing acc with
  | nil => simp
  | cons x xs ih =>
    rw [List.foldl_cons, ih, List.mem_cons]
    by_cases known : acc.contains x = true
    · rw [if_pos known]
      have : x ∈ acc := List.contains_iff_mem.1 known
      constructor
      · rintro (h | h)
        · exact .inl h
        · exact .inr (.inr h)
      · rintro (h | rfl | h)
        · exact .inl h
        · exact .inl this
        · exact .inr h
    · rw [if_neg known]; simp [or_assoc]

/-- Repeats skipped, the first places of what is left go up. -/
theorem foldl_once_order {α : Type} [DecidableEq α] (all : List α) :
    ∀ (before xs acc : List α), all = before ++ xs → (∀ y, y ∈ acc ↔ y ∈ before) →
      acc.Pairwise (fun x y => all.idxOf x < all.idxOf y) →
      (xs.foldl (fun l x => if l.contains x then l else l ++ [x]) acc).Pairwise
        (fun x y => all.idxOf x < all.idxOf y)
  | _, [], _, _, _, order => order
  | before, x :: xs, acc, split, same, order => by
    rw [List.foldl_cons]
    have step : all = (before ++ [x]) ++ xs := by rw [split]; simp
    by_cases known : x ∈ acc
    · rw [if_pos (List.contains_iff_mem.2 known)]
      refine foldl_once_order all (before ++ [x]) xs acc step (fun y => ?_) order
      rw [same, List.mem_append, List.mem_singleton]
      exact ⟨.inl, fun h => h.elim id (fun h => h ▸ (same x).1 known)⟩
    · rw [if_neg (by simpa using known)]
      have fresh : x ∉ before := fun h => known ((same x).2 h)
      refine foldl_once_order all (before ++ [x]) xs (acc ++ [x]) step (fun y => ?_) ?_
      · rw [List.mem_append, List.mem_append, same]
      · refine List.pairwise_append.2 ⟨order, List.pairwise_singleton _ _, fun y early z last => ?_⟩
        obtain rfl := List.mem_singleton.1 last
        have placeY : all.idxOf y < before.length := by
          rw [split, List.idxOf_append_of_mem ((same y).1 early)]
          exact List.idxOf_lt_length_iff.2 ((same y).1 early)
        have placeX : all.idxOf z = before.length := by
          rw [split, List.idxOf_append_of_notMem fresh, List.idxOf_cons_self]; rfl
        omega

theorem State.mem_searchList (s : State) (c x : BayClass) : x ∈ s.searchList c ↔ x ∈ s.acceptable c := by
  unfold State.searchList State.acceptable
  rw [mem_foldl_once, List.mem_singleton, List.mem_cons]; rfl

theorem State.searchList_order (s : State) (c : BayClass) :
    (s.searchList c).Pairwise (fun x y => (s.acceptable c).idxOf x < (s.acceptable c).idxOf y) :=
  foldl_once_order (s.acceptable c) [c] (s.substitutes c) [c] rfl (fun _ => Iff.rfl) (List.pairwise_singleton _ _)

/-! ## The search in class order (R34 step 2) -/

theorem Ev.searchClasses_none {ev : Ev} {excluded : Option BayIx} {ws : Time} (cs : List BayClass)
    (none : ∀ e, some e ≠ excluded → (ev.bay e).cls ∈ cs → (ev.bay e).searchable = true →
      (ev.bay e).checkOk = true ∧ ¬ ev.st.FitsSome e ws) :
    ev.searchClasses excluded ws cs = (ev, Option.none) := by
  induction cs with
  | nil => rfl
  | cons c cs ih =>
    have bays {e : BayIx} (here : e ∈ ev.st.classBays c excluded) (may : (ev.bay e).searchable = true) :=
      none e (State.mem_classBays.1 here).2 (List.mem_cons.2 (.inl (State.mem_classBays.1 here).1)) may
    unfold Ev.searchClasses; dsimp only
    rw [show (ev.st.classOrder c).filter _ = ev.st.classBays c excluded from rfl,
      Ev.examineAll_agrees ws _ (fun e here may => (bays here may).1), State.firstFit_none]
    · exact ih fun e other cls may => none e other (List.mem_cons_of_mem _ cls) may
    · intro e here fits
      have may : (ev.bay e).searchable = true := fits.elim State.Fits.searchable State.Fits.searchable
      exact (bays here may).2 fits

/-- The classes before the first in which a bay fits are passed over. -/
theorem Ev.searchClasses_skip {ev : Ev} {excluded : Option BayIx} {ws : Time} (passed cs : List BayClass)
    (none : ∀ e, some e ≠ excluded → (ev.bay e).cls ∈ passed → (ev.bay e).searchable = true →
      (ev.bay e).checkOk = true ∧ ¬ ev.st.FitsSome e ws) :
    ev.searchClasses excluded ws (passed ++ cs) = ev.searchClasses excluded ws cs := by
  induction passed with
  | nil => rfl
  | cons c passed ih =>
    have bays {e : BayIx} (here : e ∈ ev.st.classBays c excluded) (may : (ev.bay e).searchable = true) :=
      none e (State.mem_classBays.1 here).2 (List.mem_cons.2 (.inl (State.mem_classBays.1 here).1)) may
    rw [List.cons_append]
    conv_lhs => unfold Ev.searchClasses
    dsimp only
    rw [show (ev.st.classOrder c).filter _ = ev.st.classBays c excluded from rfl,
      Ev.examineAll_agrees ws _ (fun e here may => (bays here may).1), State.firstFit_none]
    · exact ih fun e other cls may => none e other (List.mem_cons_of_mem _ cls) may
    · intro e here fits
      have may : (ev.bay e).searchable = true := fits.elim State.Fits.searchable State.Fits.searchable
      exact (bays here may).2 fits

/-- The cursor of a class passes on to the bay after one. -/
def State.passCursor (s : State) (b : BayIx) : State := { s with cursors := s.cursors.set (s.bay b).cls.ix (nextBay b) }

/-- The search finds the bay of `State.Finds`, and its class's cursor passes on (R34). -/
theorem Ev.searchClasses_finds {ev : Ev} {c : BayClass} {excluded : Option BayIx} {ws : Time} {b : BayIx} {sl : Slot}
    (finds : ev.st.Finds c excluded ws b sl)
    (ok : ∀ e, some e ≠ excluded → (ev.bay e).cls ∈ ev.st.acceptable c → (ev.bay e).searchable = true →
      (ev.bay e).checkOk = true) :
    ev.searchClasses excluded ws (ev.st.searchList c) = (ev.onState (·.passCursor b), some (b, sl)) := by
  obtain ⟨cls, other, fits, first⟩ := finds
  obtain ⟨passed, rest, split⟩ := List.append_of_mem ((ev.st.mem_searchList c _).2 cls)
  have order := ev.st.searchList_order c
  have listed (x : BayClass) : x ∈ passed ++ (ev.st.bay b).cls :: rest → x ∈ ev.st.acceptable c := by
    rw [← split]; exact (ev.st.mem_searchList c x).1
  rw [split] at order ⊢
  have earlier := (List.pairwise_append.1 order).2.2
  rw [Ev.searchClasses_skip]
  · unfold Ev.searchClasses; dsimp only
    have here : b ∈ ev.st.classBays (ev.st.bay b).cls excluded := State.mem_classBays.2 ⟨rfl, other⟩
    have bays {e : BayIx} (h : e ∈ ev.st.classBays (ev.st.bay b).cls excluded) := State.mem_classBays.1 h
    rw [show (ev.st.classOrder _).filter _ = ev.st.classBays (ev.st.bay b).cls excluded from rfl,
      Ev.examineAll_agrees ws _ (fun e h => ok e (bays h).2 (by
        rw [show (ev.bay e).cls = _ from (bays h).1]; exact cls)),
      State.firstFit_nearest (ev.st.classBays_order _ excluded) here fits]
    · rfl
    · intro e h fitsToo
      have same := (bays h).1
      rcases first e (bays h).2 (by rw [same]; exact cls) fitsToo with before | ⟨_, near⟩
      · have before : (ev.st.acceptable c).idxOf (ev.st.bay b).cls < (ev.st.acceptable c).idxOf (ev.st.bay e).cls := before
        rw [same] at before; exact absurd before (lt_irrefl _)
      · exact near
  · intro e apart passedClass may
    have acceptable := listed _ (List.mem_append_left _ passedClass)
    refine ⟨ok e apart acceptable may, fun fitsToo => ?_⟩
    have before : (ev.st.acceptable c).idxOf (ev.st.bay e).cls < (ev.st.acceptable c).idxOf (ev.st.bay b).cls :=
      earlier _ passedClass _ List.mem_cons_self
    have notBefore : (ev.st.acceptable c).idxOf (ev.st.bay b).cls ≤ (ev.st.acceptable c).idxOf (ev.st.bay e).cls :=
      (first e apart acceptable fitsToo).elim Nat.le_of_lt fun h => Nat.le_of_eq h.1
    omega

theorem Ev.searchClasses_findsNone {ev : Ev} {c : BayClass} {excluded : Option BayIx} {ws : Time}
    (none : ev.st.FindsNone c excluded ws) :
    ev.searchClasses excluded ws (ev.st.searchList c) = (ev, Option.none) :=
  Ev.searchClasses_none _ fun e other cls may => none e other ((ev.st.mem_searchList c _).1 cls) may

/-! ## The search of a relocation (R41) -/

theorem Ev.relocationSearch_eq (ev : Ev) (b : BayIx) (h : Hold) :
    ev.relocationSearch b h
      = ev.searchClasses (some b) h.windowStart (ev.st.searchList (ev.bay b).cls) := rfl

@[simp] theorem Ev.passCursor_books (ev : Ev) (b : BayIx) : (ev.onState (·.passCursor b)).books
    = { ev.books with cursors := ev.books.cursors.set (ev.books.still.bays.get b).cls.ix (nextBay b) } := by
  show (ev.st.passCursor b).books = { ev.st.books with
    cursors := ev.st.cursors.set ((ev.st.bays.map Bay.config).get b).cls.ix (nextBay b) }
  rw [Table.get_map]; rfl

@[simp] theorem Ev.passCursor_voice (ev : Ev) (b : BayIx) : (ev.onState (·.passCursor b)).voice = ev.voice := rfl

@[simp] theorem Ev.passCursor_calm (ev : Ev) (b : BayIx) : (ev.onState (·.passCursor b)).calm = ev.calm := rfl

/-! ## States that a search cannot tell apart -/

theorem Still.cls {s t : State} (h : (t.bays.map Bay.config) = s.bays.map Bay.config) (b : BayIx) :
    (t.bay b).cls = (s.bay b).cls := by
  have := congrArg (fun x => (Table.get x b).cls) h
  rw [Table.get_map, Table.get_map] at this
  exact this

/-- `t` shows a search, which leaves out `excluded`, what `s` shows it. -/
structure State.SearchSame (s t : State) (excluded : Option BayIx) : Prop where
  dyn : ∀ e, some e ≠ excluded → (t.bay e).dyn = (s.bay e).dyn
  check : ∀ e, some e ≠ excluded → (t.bay e).checkOk = (s.bay e).checkOk
  cls : ∀ e, (t.bay e).cls = (s.bay e).cls
  classes : t.classes = s.classes
  timing : t.timing = s.timing
  now : t.now = s.now
  cursors : t.cursors = s.cursors
  degraded : t.scrubber.degraded = s.scrubber.degraded

section
variable {s t : State} {excluded : Option BayIx} (same : s.SearchSame t excluded)
include same

theorem State.SearchSame.fits {e : BayIx} (other : some e ≠ excluded) (ws : Time) (sl : Slot) :
    t.Fits e ws sl ↔ s.Fits e ws sl := by
  unfold State.Fits
  rw [same.dyn e other, same.timing, same.now, same.degraded]

theorem State.SearchSame.acceptable (c : BayClass) : t.acceptable c = s.acceptable c := by
  unfold State.acceptable State.classOf; rw [same.classes]

theorem State.SearchSame.searchable {e : BayIx} (other : some e ≠ excluded) :
    (t.bay e).searchable = (s.bay e).searchable := by
  unfold Bay.searchable; rw [same.dyn e other]

theorem State.SearchSame.finds {c : BayClass} {ws : Time} {b : BayIx} {sl : Slot} (finds : s.Finds c excluded ws b sl) :
    t.Finds c excluded ws b sl := by
  obtain ⟨cls, other, fits, first⟩ := finds
  unfold State.Finds; dsimp only
  rw [same.acceptable, same.cursors, same.cls]
  refine ⟨cls, other, (same.fits other _ _).2 fits, fun e apart acceptable fitsToo => ?_⟩
  rw [same.cls] at acceptable ⊢
  exact first e apart acceptable (fitsToo.imp (same.fits apart _ _).1 (same.fits apart _ _).1)

theorem State.SearchSame.findsNone {c : BayClass} {ws : Time} (none : s.FindsNone c excluded ws) :
    t.FindsNone c excluded ws := by
  intro e apart acceptable may
  rw [same.acceptable, same.cls] at acceptable
  rw [same.searchable apart] at may
  obtain ⟨ok, out⟩ := none e apart acceptable may
  exact ⟨(same.check e apart).trans ok, fun fits => out (fits.imp (same.fits apart _ _).1 (same.fits apart _ _).1)⟩

end

end Sys2Proof.Machine
end

section
/-!
SUPPORT. A hold takes a slot, joins the Waitlist, or is displaced to it; the Ticket Index as it is read by ticket.
-/
namespace Sys2Proof.Machine

/-! ## The Ticket Index read by ticket (R29) -/

/-- The index entry of a ticket in the books. -/
def Books.lookup (k : Books) (t : Ticket) : Option IndexEntry := k.index.find? (fun e => e.ticket == t)

theorem State.Shows.lookup {x : State} {k : Books} (shows_ : x.Shows k) (t : Ticket) : x.lookup t = k.lookup t := by
  unfold State.lookup Books.lookup; rw [shows_.index]

theorem Books.unindex_none {k : Books} {x : Hold} (ticket : x.ticket = none) : k.unindex x = k := by
  unfold Books.unindex; rw [ticket]

section
variable {k : Books} {x : Hold} {t u : Ticket} {r : Addr} {l : Location} {e : IndexEntry}

theorem Books.lookup_unindex_same (ticket : x.ticket = some t) : (k.unindex x).lookup t = none := by
  unfold Books.lookup
  rw [Books.unindex_index ticket, List.find?_eq_none]
  intro e here
  simpa using (List.mem_filter.1 here).2

theorem Books.lookup_unindex_other (ticket : x.ticket = some t) (other : u ≠ t) :
    (k.unindex x).lookup u = k.lookup u := by
  unfold Books.lookup
  rw [Books.unindex_index ticket, List.find?_filter]
  refine congrArg (fun p => List.find? p k.index) (funext fun e => ?_)
  by_cases same : e.ticket = u
  · simp [same, other]
  · simp [same]

@[simp] theorem Books.lookup_put (b : BayIx) (f : BayBook → BayBook) : (k.put b f).lookup t = k.lookup t := rfl

theorem indexAt_eq (l : List IndexEntry) (ticket : x.ticket = some t) (requester : x.requester = some r)
    (at_ : Location) : indexAt l x at_ =
      if l.any (·.ticket == t) then l.map (fun e => if e.ticket = t then { e with location := at_ } else e)
      else l ++ [⟨t, r, at_⟩] := by
  unfold indexAt; rw [ticket, requester]

theorem find?_relocated (entries : List IndexEntry) (t u : Ticket) (at_ : Location) :
    (entries.map (fun e => if e.ticket = t then { e with location := at_ } else e)).find? (fun e => e.ticket == u)
      = (entries.find? (fun e => e.ticket == u)).map (fun e => if e.ticket = t then { e with location := at_ } else e) := by
  rw [List.find?_map]
  congr 2
  funext e
  by_cases same : e.ticket = t <;> simp [same]

/-- A ticket that stands in the index is found at the place it has taken, with the requester it had. -/
theorem Books.lookup_indexHold_known (ticket : x.ticket = some t) (requester : x.requester = some r)
    (known : k.lookup t = some e) : (k.indexHold x l).lookup t = some { e with location := l } := by
  have mem := List.mem_of_find?_eq_some known
  have same : e.ticket = t := by simpa using List.find?_some known
  unfold Books.lookup Books.indexHold
  rw [indexAt_eq _ ticket requester, if_pos (List.any_eq_true.2 ⟨e, mem, by simpa using same⟩)]
  dsimp only
  rw [find?_relocated, show List.find? _ k.index = some e from known, Option.map_some, if_pos same]

/-- A ticket new to the index is found at the place it has taken. -/
theorem Books.lookup_indexHold_new (ticket : x.ticket = some t) (requester : x.requester = some r)
    (new : k.lookup t = none) : (k.indexHold x l).lookup t = some ⟨t, r, l⟩ := by
  have absent : ¬ k.index.any (·.ticket == t) = true := by
    intro h
    obtain ⟨e, mem, same⟩ := List.any_eq_true.1 h
    exact absurd same (List.find?_eq_none.1 new e mem)
  unfold Books.lookup Books.indexHold
  rw [indexAt_eq _ ticket requester, if_neg absent]
  dsimp only
  rw [List.find?_append, show List.find? _ k.index = none from new]
  simp

theorem Books.lookup_indexHold_other (ticket : x.ticket = some t) (requester : x.requester = some r) (other : u ≠ t) :
    (k.indexHold x l).lookup u = k.lookup u := by
  unfold Books.lookup Books.indexHold
  rw [indexAt_eq _ ticket requester]
  dsimp only
  split
  · rw [find?_relocated]
    cases found : List.find? (fun e => e.ticket == u) k.index with
    | none => rfl
    | some e =>
      have same : e.ticket = u := by simpa using List.find?_some found
      rw [Option.map_some, if_neg (by rw [same]; exact other)]
  · rw [List.find?_append]
    have notIt : List.find? (fun e => e.ticket == u) [(⟨t, r, l⟩ : IndexEntry)] = none := by simp [other.symm]
    rw [notIt, Option.or_none]

end

/-! ## A hold takes a slot (R5, R29, R61, R63) -/

/-- The active slot of a FREE bay's book taken. -/
def BayBook.takeActive (k : Still) (h : Hold) (y : BayBook) : BayBook :=
  ((y.setDyn ({ · with active := some h })).await (noShowOf h) (k.overstayAt h) h.arrived).setDyn
    ({ · with state := .held })

/-- The staged slot of a bay's book taken. -/
def BayBook.takeStaged (k : Still) (h : Hold) (y : BayBook) : BayBook :=
  { y.setDyn ({ · with staged := some h }) with check := some (k.checkAt h) }

@[simp] theorem BayBook.takeActive_fields (k : Still) (h : Hold) (y : BayBook) :
    (y.takeActive k h).dyn = { y.dyn with active := some h, state := .held }
    ∧ (y.takeActive k h).noShow = (if h.arrived then none else some (noShowOf h))
    ∧ (y.takeActive k h).overstay = (if h.arrived then some (k.overstayAt h) else none)
    ∧ (y.takeActive k h).check = y.check := ⟨rfl, rfl, rfl, rfl⟩

@[simp] theorem BayBook.takeStaged_fields (k : Still) (h : Hold) (y : BayBook) :
    (y.takeStaged k h).dyn = { y.dyn with staged := some h } ∧ (y.takeStaged k h).noShow = y.noShow
    ∧ (y.takeStaged k h).overstay = y.overstay ∧ (y.takeStaged k h).check = some (k.checkAt h) := ⟨rfl, rfl, rfl, rfl⟩

theorem BayBook.takeActive_ok (k : Still) (h : Hold) (y : BayBook) (ok : y.ok = true) : (y.takeActive k h).ok = true := by
  have placed : (y.setDyn ({ · with active := some h })).ok = true := BayBook.setDyn_ok _ ok
  exact BayBook.setDyn_ok (y := (y.setDyn ({ · with active := some h })).await (noShowOf h) (k.overstayAt h) h.arrived)
    _ placed

theorem BayBook.takeStaged_ok (k : Still) (h : Hold) (y : BayBook) (ok : y.ok = true) : (y.takeStaged k h).ok = true := by
  have placed : (y.setDyn ({ · with staged := some h })).ok = true := BayBook.setDyn_ok _ ok
  exact placed

/-- The change of a bay's book by a hold that takes one of its slots. -/
def BayBook.take (k : Still) (h : Hold) : Slot → BayBook → BayBook
  | .active => .takeActive k h
  | .staged => .takeStaged k h

/-- The location of a slot of a bay. -/
def Slot.at (b : BayIx) : Slot → Location
  | .active => .active b
  | .staged => .staged b

/-- The note of a bay that a hold has been placed in. -/
def placeNote (b : BayIx) : BayNote := ⟨b, .free, [.placed], none, none⟩

section
variable {ev : Ev} {b : BayIx} {sl : Slot} (h : Hold) (free : sl = .active → (ev.books.bays b).dyn.state = .free)

theorem Ev.placeHold_active (free : (ev.books.bays b).dyn.state = .free) : ev.placeHold b .active h =
    (((((ev.touch b).modDyn b ({ · with active := some h })).onState (·.indexHold h (.active b))).modTimer b
      (fun t => t.setActive (noShowOf h) (ev.st.overstayOf h) h.arrived)).setState b .held).note b .placed := by
  unfold Ev.placeHold; dsimp only
  refine if_pos ?_
  rw [Ev.bay_dyn]
  simpa using free

theorem Ev.placeHold_staged (ev : Ev) (b : BayIx) : ev.placeHold b .staged h =
    ((ev.modDyn b ({ · with staged := some h })).onState (·.indexHold h (.staged b))).modTimer b
      (fun t => { t with displacement := some (ev.st.checkOf h) }) := rfl

include free in
theorem Ev.placeHold_books :
    (ev.placeHold b sl h).books = (ev.books.indexHold h (sl.at b)).put b (.take ev.books.still h sl) := by
  cases sl with
  | active =>
    rw [Ev.placeHold_active h (free rfl)]
    rw [Ev.note_books, Ev.setState_books, Ev.setActive_books, Ev.indexHold_books, Ev.modDyn_books, Ev.touch_books,
      Books.put_indexHold, Books.put_put, Books.put_put]
    rfl
  | staged =>
    rw [Ev.placeHold_staged, Ev.setCheck_books, Ev.indexHold_books, Ev.modDyn_books, Books.put_indexHold,
      Books.put_put]
    rfl

include free in
theorem Ev.placeHold_voice : (ev.placeHold b sl h).voice = ev.voice := by
  cases sl with
  | active =>
    rw [Ev.placeHold_active h (free rfl), Ev.note_voice, Ev.setState_voice _ _ (by simp), Ev.modTimer_voice,
      Ev.indexHold_voice, Ev.modDyn_voice, Ev.touch_voice]
  | staged => rw [Ev.placeHold_staged, Ev.modTimer_voice, Ev.indexHold_voice, Ev.modDyn_voice]

include free in
theorem Ev.placeHold_calm (uncharged : sl = .active → ev.calm.charging b = false) :
    (ev.placeHold b sl h).calm = ev.calm := by
  cases sl with
  | active =>
    have before : ((((ev.touch b).modDyn b ({ · with active := some h })).onState
        (·.indexHold h (.active b))).modTimer b
          (fun t => t.setActive (noShowOf h) (ev.st.overstayOf h) h.arrived)).calm = ev.calm := by
      rw [Ev.modTimer_calm, Ev.indexHold_calm, Ev.modDyn_calm, Ev.touch_calm]
    rw [Ev.placeHold_active h (free rfl), Ev.note_calm, Ev.setState_calm _ _ (by rw [before]; exact uncharged rfl), before]
  | staged => rw [Ev.placeHold_staged, Ev.modTimer_calm, Ev.indexHold_calm, Ev.modDyn_calm]

theorem Ev.placeHold_staged_desk (ev : Ev) (b : BayIx) : (ev.placeHold b .staged h).desk = ev.desk := rfl

theorem Ev.placeHold_active_desk (free : (ev.books.bays b).dyn.state = .free)
    (untouched : ev.desk.notes.any (·.bay == b) = false) :
    (ev.placeHold b .active h).desk = { ev.desk with notes := ev.desk.notes ++ [placeNote b] } := by
  have touched : ev.desk.touch b (ev.books.bays b).dyn.state
      = { ev.desk with notes := ev.desk.notes ++ [⟨b, .free, [], none, none⟩] } := by
    unfold Desk.touch; rw [if_neg (by rw [untouched]; simp), free]
  have again (st : BayState) (l : List BayNote) (n : BayNote) (here : n.bay = b) (scan captured : Bool) :
      (Desk.mk (l ++ [n]) scan captured).touch b st = ⟨l ++ [n], scan, captured⟩ := by
    unfold Desk.touch; exact if_pos (by simp [here])
  have others : ∀ n ∈ ev.desk.notes, (if n.bay = b then n.met .placed else n) = n := by
    intro n here
    refine if_neg fun same => ?_
    have := (List.any_eq_false.1 untouched) n here
    simp [same] at this
  rw [Ev.placeHold_active h free, Ev.note_desk, Ev.setState_desk, Ev.modTimer_desk, Ev.onState_desk, Ev.modDyn_desk,
    Ev.touch_desk, touched, again _ _ _ rfl, again _ _ _ rfl]
  unfold Desk.modNote
  dsimp only
  rw [List.map_append, List.map_congr_left others, List.map_id']
  simp [BayNote.met, placeNote]

end

/-! ## The Waitlist (R37, R38) -/

/-- The books with the last entry of the Waitlist evicted where it is full. -/
def Books.room (k : Books) : Books :=
  if k.waitlist.length < 32 then k
  else match k.waitlist.getLast? with
    | none => k
    | some e => { k with waitlist := k.waitlist.dropLast }.unindex e.hold

/-- The books with an entry joined to the Waitlist. -/
def Books.joined (k : Books) (insert : WaitEntry → List WaitEntry → List WaitEntry) (e : WaitEntry) : Books :=
  { k with waitlist := insert e k.waitlist }.indexHold e.hold .waitlist

section
variable (ev : Ev)

theorem Ev.evictLast_books : ev.evictLast.books = match ev.books.waitlist.getLast? with
    | none => ev.books
    | some e => { ev.books with waitlist := ev.books.waitlist.dropLast }.unindex e.hold := by
  unfold Ev.evictLast
  cases last : ev.st.waitlist.getLast? with
  | none => rw [show ev.books.waitlist.getLast? = none from last]
  | some e =>
    rw [show ev.books.waitlist.getLast? = some e from last]; dsimp only
    rw [Ev.holdNotice_books, Ev.unindexHold_books, Ev.setWaitlist_books]; rfl

@[simp] theorem Ev.makeRoom_books : ev.makeRoom.books = ev.books.room := by
  unfold Ev.makeRoom Books.room
  by_cases room : ev.st.waitlist.length < 32
  · rw [if_pos (c := ev.st.waitlist.length < Config.waitlist) room, if_pos (c := ev.books.waitlist.length < 32) room]
  · rw [if_neg (c := ev.st.waitlist.length < Config.waitlist) room, if_neg (c := ev.books.waitlist.length < 32) room]
    exact ev.evictLast_books

theorem Ev.makeRoom_kept : ev.makeRoom.desk = ev.desk ∧ ev.makeRoom.calm = ev.calm := by
  unfold Ev.makeRoom Ev.evictLast
  split
  · exact ⟨rfl, rfl⟩
  · split
    · exact ⟨rfl, rfl⟩
    · exact ⟨by rw [Ev.holdNotice_desk]; rfl, by rw [Ev.holdNotice_calm, Ev.unindexHold_calm, Ev.setWaitlist_calm]⟩

variable (insert : WaitEntry → List WaitEntry → List WaitEntry) (h : Hold) (c : BayClass) (preferred : Option BayIx)

theorem Ev.joinWaitlist_books : (ev.joinWaitlist insert h c preferred).books
    = ev.books.room.joined insert ⟨h, c, preferred, some h.graceEnd⟩ := by
  unfold Ev.joinWaitlist
  rw [Ev.indexHold_books, Ev.setWaitlist_books, Ev.makeRoom_books]
  unfold Books.joined
  rw [← ev.makeRoom_books]; rfl

theorem Ev.joinWaitlist_kept :
    (ev.joinWaitlist insert h c preferred).desk = ev.desk ∧ (ev.joinWaitlist insert h c preferred).calm = ev.calm := by
  unfold Ev.joinWaitlist
  rw [Ev.onState_desk, Ev.onState_desk, Ev.indexHold_calm, Ev.setWaitlist_calm]
  exact ev.makeRoom_kept

theorem Ev.joinWaitlist_voice : (ev.joinWaitlist insert h c preferred).voice = ev.makeRoom.voice := by
  unfold Ev.joinWaitlist
  rw [Ev.indexHold_voice, Ev.setWaitlist_voice]

theorem Ev.makeRoom_voice_room {ev : Ev} (room : ev.books.waitlist.length < 32) : ev.makeRoom = ev :=
  if_pos (show ev.st.waitlist.length < Config.waitlist from room)

/-- An eviction tells the requester by the ticket alone (log 13). -/
theorem Ev.makeRoom_voice_full {ev : Ev} {w : WaitEntry} {u : Ticket} {a : Addr} (full : 32 ≤ ev.books.waitlist.length)
    (last : ev.books.waitlist.getLast? = some w) (ticket : w.hold.ticket = some u) (requester : w.hold.requester = some a)
    (room : ev.voice.Room) : ev.makeRoom.voice
      = ev.voice.tell ev.books.still.controller.own a Kind.holdNotice (movedBytes 4 u 0 0 0) := by
  unfold Ev.makeRoom
  rw [if_neg (c := ev.st.waitlist.length < Config.waitlist) (Nat.not_lt.2 full)]
  unfold Ev.evictLast
  rw [show ev.st.waitlist.getLast? = some w from last]; dsimp only
  have quiet : ((ev.onState (fun s => s.setWaitlist s.waitlist.dropLast)).onState (·.unindexHold w.hold)).voice = ev.voice := by
    rw [Ev.unindexHold_voice, Ev.setWaitlist_voice ev (fun s => s.waitlist.dropLast)]
  rw [Ev.holdNotice_voice _ ticket requester _ _ (by rw [quiet]; exact room), quiet, holdNoticePayload_moved]
  rw [Ev.unindexHold_books, Ev.setWaitlist_books ev (fun s => s.waitlist.dropLast)]
  rfl

theorem Books.room_of_room {k : Books} (room : k.waitlist.length < 32) : k.room = k := if_pos room

theorem Books.room_of_full {k : Books} {w : WaitEntry} (full : 32 ≤ k.waitlist.length)
    (last : k.waitlist.getLast? = some w) : k.room = { k with waitlist := k.waitlist.dropLast }.unindex w.hold := by
  unfold Books.room; rw [if_neg (Nat.not_lt.2 full), last]

end

/-! ## Displacement (R38) -/

theorem State.admitsHead_room {s : State} {p : Fin 4} (room : s.waitlist.length < 32) : s.admitsHead p = true := by
  have : s.waitlist.length < Config.waitlist := room
  simp [State.admitsHead, this]

theorem State.admitsHead_full {s : State} {p : Fin 4} {w : WaitEntry} (full : 32 ≤ s.waitlist.length)
    (last : s.waitlist.getLast? = some w) : s.admitsHead p = decide (w.hold.priority ≤ p) := by
  have : ¬ s.waitlist.length < Config.waitlist := Nat.not_lt.2 full
  simp [State.admitsHead, this, last]

theorem State.admitsTail_room {s : State} {p : Fin 4} (room : s.waitlist.length < 32) : s.admitsTail p = true := by
  have : s.waitlist.length < Config.waitlist := room
  simp [State.admitsTail, this]

theorem State.admitsTail_full {s : State} {p : Fin 4} {w : WaitEntry} (full : 32 ≤ s.waitlist.length)
    (last : s.waitlist.getLast? = some w) : s.admitsTail p = decide (w.hold.priority < p) := by
  have : ¬ s.waitlist.length < Config.waitlist := Nat.not_lt.2 full
  simp [State.admitsTail, this, last]

theorem Ev.displace_joins {ev : Ev} {h : Hold} (c : BayClass) (admits : ev.st.admitsHead h.priority = true) :
    ev.displace h c = (ev.joinWaitlist insertHead h c none,
      .displaced (waitPosition (ev.joinWaitlist insertHead h c none).st.waitlist h.ticket)) := by
  unfold Ev.displace; exact if_pos admits

theorem Ev.displace_lost {ev : Ev} {h : Hold} (c : BayClass) (admits : ev.st.admitsHead h.priority = false) :
    ev.displace h c = (ev.onState (·.unindexHold h), .lost) := by
  unfold Ev.displace; exact if_neg (by rw [admits]; simp)

end Sys2Proof.Machine
end

section
/-!
SUPPORT. A HOLD that has passed its checks: the bay its search finds, or the Waitlist.
-/
namespace Sys2Proof.Machine

/-! ## The search of a HOLD (R34) -/

theorem bayOfNo_iff (n : Nat) (e : BayIx) : bayOfNo n = some e ↔ n = e.val + 1 := by
  unfold bayOfNo
  by_cases range : 1 ≤ n ∧ n ≤ 128
  · rw [dif_pos range, Option.some.injEq, Fin.ext_iff]
    constructor
    · intro h; simp only at h; omega
    · intro h; simp only; omega
  · rw [dif_neg range]
    constructor
    · exact fun h => absurd h (by simp)
    · intro h; have := e.isLt; exact absurd ⟨by omega, by omega⟩ range

section
variable {ev : Ev} {c : BayClass} {n : Nat} {ws : Time}

/-- A preferred bay of an acceptable class that fits is taken (R34 step 1). -/
theorem Ev.search_preferred {b : BayIx} {sl : Slot} (named : n = b.val + 1) (cls : (ev.bay b).cls ∈ ev.st.acceptable c)
    (fits : ev.st.Fits b ws sl) (ok : (ev.bay b).checkOk = true) :
    ev.search c (bayOfNo n) none ws = (ev, some (b, sl)) := by
  unfold Ev.search
  rw [(bayOfNo_iff n b).2 named]; dsimp only
  rw [if_pos (List.contains_iff_mem.2 ((ev.st.mem_searchList c _).2 cls)), Ev.examine_agrees (fun _ => ok),
    (ev.st.slotFor_iff b ws sl).2 fits]

/-- A preferred bay that does not fit, or is of another class, gives way to the search in class order. -/
theorem Ev.search_classOrder
    (unfit : ∀ e : BayIx, n = e.val + 1 → (ev.bay e).cls ∈ ev.st.acceptable c → ¬ ev.st.FitsSome e ws)
    (ok : ∀ e, (ev.bay e).cls ∈ ev.st.acceptable c → (ev.bay e).searchable = true → (ev.bay e).checkOk = true) :
    ev.search c (bayOfNo n) none ws = ev.searchClasses none ws (ev.st.searchList c) := by
  unfold Ev.search
  cases named : bayOfNo n with
  | none => rfl
  | some e =>
    dsimp only
    by_cases cls : (ev.st.searchList c).contains (ev.bay e).cls = true
    · have acceptable := (ev.st.mem_searchList c _).1 (List.contains_iff_mem.1 cls)
      rw [if_pos cls, Ev.examine_agrees (ok e acceptable),
        (ev.st.slotFor_none_iff e ws).2 (unfit e ((bayOfNo_iff n e).1 named) acceptable)]
    · rw [if_neg cls]

end

/-! ## The record formed (R31) and the Early Arrival List (R47) -/

/-- The record that a HOLD is formed into. -/
def State.heldFor (s : State) (r : Request) (c : BayClass) : Hold :=
  s.formHold r c (s.early.any (fun e => e.ticket == ticketField r.payload 0))

/-- What no end of an event changes, without a ticket's entry in the Early Arrival List. -/
def Still.forget (k : Still) (t : Ticket) : Still := { k with early := k.early.filter (fun e => e.1 ≠ t) }

@[simp] theorem Ev.removeEarly_books (ev : Ev) (t : Ticket) :
    (ev.onState (·.removeEarly t)).books = { ev.books with still := ev.books.still.forget t } := by
  have early : (ev.st.removeEarly t).still.early = ev.st.still.early.filter (fun e => e.1 ≠ t) := by
    show ((ev.st.removeEarly t).early.map fun e => (e.ticket, e.recorded)) = _
    rw [State.removeEarly_eq]
    show (ev.st.early.filter _).map _ = (ev.st.early.map _).filter _
    rw [List.filter_map]; rfl
  show ({ ev.st.books with still := (ev.st.removeEarly t).still } : Books) = _
  have still : (ev.st.removeEarly t).still = ev.st.still.forget t := by
    show ({ ev.st.still with early := (ev.st.removeEarly t).still.early } : Still) = _
    rw [early]; rfl
  rw [still]; rfl

@[simp] theorem Ev.removeEarly_voice (ev : Ev) (t : Ticket) : (ev.onState (·.removeEarly t)).voice = ev.voice := rfl

@[simp] theorem Ev.removeEarly_calm (ev : Ev) (t : Ticket) : (ev.onState (·.removeEarly t)).calm = ev.calm := rfl

theorem checkHold_new {s : State} {r : Request} {c : BayClass} (checked : s.checkHold r = .ok c) :
    s.lookup (ticketField r.payload 0) = none := by
  unfold State.checkHold at checked
  dsimp only at checked
  split at checked
  · cases checked
  · split at checked
    · cases checked
    · split at checked
      · cases checked
      · next new => exact new

theorem execHold_placing {s : State} {r : Request} {q : List Request} {c : BayClass} (running : s.heldInReset = false)
    (head : s.requests = r :: q) (kind : r.kind = Kind.hold) (checked : s.checkHold r = .ok c) :
    exec .hold s = .next ((s.serving q).placeRequest r c).finish := by
  rw [exec_hold, execHold, s.takeRequest_runs Kind.hold _ running head kind]
  have same : (s.serving q).st.checkHold r = .ok c := checked
  unfold Ev.holdRequest
  rw [same]

/-! ## A HOLD that is placed (R35) -/

section
variable {s : State} {r : Request} {q : List Request} {c : BayClass} {b : BayIx} {sl : Slot} {ev : Ev}

theorem Ev.placeRequest_found (found : (s.serving q).search c (bayOfNo (byteAt r.payload 5)) none
      (s.heldFor r c).windowStart = (ev, some (b, sl))) :
    (s.serving q).placeRequest r c = ((ev.placeHold b sl (s.heldFor r c)).onState
      (·.removeEarly (ticketField r.payload 0))).reply r (ticketField r.payload 0)
        (grantedAnswer ((ev.placeHold b sl (s.heldFor r c)).onState
          (·.removeEarly (ticketField r.payload 0))).st (bayNo b) sl.code (s.heldFor r c)) := by
  unfold Ev.placeRequest; dsimp only
  rw [show (s.serving q).st.formHold r c ((s.serving q).st.early.any fun e => e.ticket == ticketField r.payload 0)
    = s.heldFor r c from rfl, found]

/-- The books when a HOLD has been placed. -/
def State.placedBooks (s : State) (q : List Request) (t : Ticket) (cursors : Table BayIx 4) (b : BayIx) (sl : Slot)
    (h : Hold) : Books :=
  { (({ s with requests := q } : State).books.indexHold h (sl.at b)).put b (.take s.still h sl) with
    cursors := cursors, still := ({ s.still with requests := q } : Still).forget t }

theorem State.placedBooks_here (s : State) (q : List Request) (t : Ticket) (cursors : Table BayIx 4) (b : BayIx)
    (sl : Slot) (h : Hold) : (s.placedBooks q t cursors b sl h).bays b = .take s.still h sl (s.bay b).book := if_pos rfl

theorem State.placedBooks_other (s : State) (q : List Request) (t : Ticket) (cursors : Table BayIx 4) {b e : BayIx}
    (sl : Slot) (h : Hold) (other : e ≠ b) : (s.placedBooks q t cursors b sl h).bays e = (s.bay e).book := if_neg other

/-- The answer, and behind it the BAY-NOTICE of a FREE bay that the hold takes. -/
def State.placedFrames (s : State) (b : BayIx) (answer : Frame) : Slot → List Frame
  | .active => [answer, s.bayNoticeAt 0 b .free .held 3 0 0]
  | .staged => [answer]

variable {cursors : Table BayIx 4}
  (found : (s.serving q).search c (bayOfNo (byteAt r.payload 5)) none (s.heldFor r c).windowStart = (ev, some (b, sl)))
  (books : ev.books = { ({ s with requests := q } : State).books with cursors := cursors })
  (voice : ev.voice = s.waits 0 []) (desk : ev.desk = .clear) (calm : ev.calm = (s.serving q).calm)
  (free : sl = .active → (s.bay b).dyn.state = .free) (uncharged : sl = .active → (s.bay b).alloc.chargingCopy = false)

include found books voice desk calm free uncharged in
/-- A HOLD for which the search has found a bay: books, frames and answer of the state its event ends in. -/
theorem holdPlaced (running : s.heldInReset = false) (head : s.requests = r :: q) (kind : r.kind = Kind.hold)
    (checked : s.checkHold r = .ok c) :
    let t := ticketField r.payload 0
    let h := s.heldFor r c
    let p := s.answerBytes r t 0 (b.val + 1) sl.code 0 h
    ∃ x, exec .hold s = .next x ∧ x.Shows (s.placedBooks q t cursors b sl h) ∧ s.Answers x r Kind.answer p
      ∧ (r.src ≠ 0 → s.controller.noticeDest ≠ 0 →
          s.Sends x (s.placedFrames b (s.answerTo r Kind.answer p) sl)) := by
  intro t h p
  have freeNow : sl = .active → (ev.books.bays b).dyn.state = .free := by rw [books]; exact free
  generalize hev : (ev.placeHold b sl h).onState (·.removeEarly t) = ev'
  have books' : ev'.books = s.placedBooks q t cursors b sl h := by
    rw [← hev, Ev.removeEarly_books, Ev.placeHold_books h freeNow, books]; rfl
  have voice' : ev'.voice = s.waits 0 [] := by
    rw [← hev, Ev.removeEarly_voice, Ev.placeHold_voice h freeNow, voice]
  have calm' : ev'.calm = (s.serving q).calm := by
    rw [← hev, Ev.removeEarly_calm, Ev.placeHold_calm h freeNow (by rw [calm]; exact uncharged), calm]
  have controller : ev'.books.still.controller = s.controller := by rw [books']; rfl
  have scan : ev'.desk.scan = false := by
    rw [← hev, Ev.onState_desk]
    cases sl with
    | active =>
      rw [Ev.placeHold_active_desk h (freeNow rfl) (by rw [desk]; rfl), desk]; rfl
    | staged => rw [Ev.placeHold_staged_desk, desk]; rfl
  have payload : answerPayload r.kind t (grantedAnswer ev'.st (bayNo b) sl.code h) = p := by
    rw [answerPayload_granted]
    show _ = s.answerBytes r t 0 (b.val + 1) sl.code 0 h
    unfold State.answerBytes State.windowBytes
    rw [show ev'.st.siteOffset = s.siteOffset from (congrArg (Still.siteOffset ∘ Books.still) books')]; rfl
  have run : exec .hold s = .next (ev'.answer (ev'.st.buildAnswer r.src r.tag Kind.answer p)).finish := by
    rw [execHold_placing running head kind checked, Ev.placeRequest_found found]
    show Host.Outcome.next (Ev.finish (Ev.reply ((ev.placeHold b sl h).onState (·.removeEarly t)) r t _)) = _
    rw [hev]
    unfold Ev.reply; rw [payload]
  have shows_ := Ev.finish_shows (ev'.answer (ev'.st.buildAnswer r.src r.tag Kind.answer p))
    (.inl ((ev'.answer_leaves _).2.1.trans scan)) (.inl ((ev'.answer_leaves _).2.2.1.trans (Ev.recompute_of_calm calm')))
  rw [Ev.answer_books, books'] at shows_
  refine ⟨_, run, shows_, State.Answers_of_voice _ _ (by rw [voice']; rfl) controller, fun src listener => ?_⟩
  cases sl with
  | staged => exact Ev.answer_sends (k := 0) _ _ voice' controller src
  | active =>
    have notes : ev'.desk.notes = [placeNote b] := by
      rw [← hev, Ev.onState_desk, Ev.placeHold_active_desk h (freeNow rfl) (by rw [desk]; rfl), desk]; rfl
    exact Ev.finish_sends_note (n := placeNote b) (after := .held) (fs := [_])
      (fun room => Ev.answer_placed (fs := []) Kind.answer p voice' controller src room)
      (by rw [Ev.answer_desk, notes]) (by rw [Ev.answer_books]; exact controller)
      (by rw [Ev.answer_books, books']; exact congrArg (fun y : BayBook => y.dyn.state) (s.placedBooks_here ..))
      rfl listener

end

/-- Settles O39: the search finds the preferred bay or the one of `State.Finds`; what follows is the placement. -/
theorem holdGranted : Obligations.HoldGranted := by
  intro s r q c b sl running head kind checked okb p t start h d timer named granted placed uncharged
  have closing (cursors : Table BayIx 4) (ev : Ev) (fits : s.Fits b start sl)
      (found : (s.serving q).search c (bayOfNo (byteAt r.payload 5)) none (s.heldFor r c).windowStart = (ev, some (b, sl)))
      (books : ev.books = { ({ s with requests := q } : State).books with cursors := cursors })
      (voice : ev.voice = s.waits 0 []) (desk : ev.desk = .clear) (calm : ev.calm = (s.serving q).calm) :
      placed cursors := by
    have free : sl = .active → (s.bay b).dyn.state = .free := by
      obtain ⟨_, _, _, _, ⟨_, free⟩ | ⟨staged, _⟩⟩ := fits
      · exact fun _ => free
      · intro active; rw [active] at staged; cases staged
    obtain ⟨x, run, shows_, answers, sends⟩ := holdPlaced found books voice desk calm free uncharged running head kind checked
    have dyn := shows_.dyn b
    have awaits := shows_.awaits b
    rw [State.placedBooks_here, show s.heldFor r c = h from rfl] at dyn awaits
    have ticket : h.ticket = some t := rfl
    have requester : h.requester = some r.src := rfl
    refine ⟨x, run, shows_.still, ?_, ?_, fun e other => ?_, shows_.waits, shows_.cursors, ?_, fun u other => ?_, answers,
      fun src listener => ?_⟩
    · cases sl <;> exact dyn
    · cases sl <;> exact awaits
    · have dyn := shows_.dyn e
      have awaits := shows_.awaits e
      rw [State.placedBooks_other _ _ _ _ _ _ other] at dyn awaits
      exact ⟨dyn, awaits⟩
    · rw [shows_.lookup]
      have found := Books.lookup_indexHold_new (k := ({ s with requests := q } : State).books) (l := sl.at b) ticket requester
        (checkHold_new checked)
      cases sl <;> exact found
    · rw [shows_.lookup]
      exact Books.lookup_indexHold_other (k := ({ s with requests := q } : State).books) (l := sl.at b) ticket requester other
    · have told := sends src listener
      cases sl <;> exact told
  refine ⟨fun mine fits => ?_, fun unfit finds ok => ?_⟩
  · exact closing s.cursors (s.serving q) fits (Ev.search_preferred (ev := s.serving q) mine.1 mine.2 fits okb) rfl
      (s.serving_voice q) rfl rfl
  · have found : (s.serving q).search c (bayOfNo (byteAt r.payload 5)) none (s.heldFor r c).windowStart
        = ((s.serving q).onState (·.passCursor b), some (b, sl)) := by
      have ordered := Ev.search_classOrder (ev := s.serving q) (c := c) (n := byteAt r.payload 5) (ws := start)
        (fun e name cls => unfit e ⟨name, cls⟩) ok
      exact ordered.trans (Ev.searchClasses_finds (ev := s.serving q) finds (fun e _ => ok e))
    refine closing _ _ finds.2.2.1 found ?_ (s.serving_voice q) rfl rfl
    rw [Ev.passCursor_books]
    show _ = { ({ s with requests := q } : State).books with cursors := s.cursors.set (s.bay b).cls.ix (b + 1) }
    rw [show (((s.serving q).books.still.bays.get b).cls) = (s.bay b).cls from
      congrArg BayConfig.cls (Table.get_map s.bays Bay.config b)]
    rfl

end Sys2Proof.Machine
end

section
/-!
SUPPORT. A HOLD for which no bay fits: it joins the Waitlist, is refused, or makes room by an eviction.
-/
namespace Sys2Proof.Machine

/-- An entry stands behind those of its priority and above, before the first of a lower one (R37). -/
theorem insertTail_split (e : WaitEntry) (w : List WaitEntry) : ∃ front back, w = front ++ back
    ∧ insertTail e w = front ++ e :: back ∧ (∀ f ∈ front, e.hold.priority ≤ f.hold.priority)
    ∧ (∀ f ∈ back.head?, f.hold.priority < e.hold.priority) := by
  induction w with
  | nil => exact ⟨[], [], rfl, rfl, by simp, by simp⟩
  | cons f w ih =>
    by_cases higher : e.hold.priority ≤ f.hold.priority
    · obtain ⟨front, back, split, joined, ahead, behind⟩ := ih
      refine ⟨f :: front, back, by rw [split]; rfl, ?_, ?_, behind⟩
      · unfold insertTail; rw [if_pos higher, joined]; rfl
      · intro g here
        rcases List.mem_cons.1 here with rfl | here
        · exact higher
        · exact ahead g here
    · refine ⟨[], f :: w, rfl, ?_, by simp, ?_⟩
      · unfold insertTail; rw [if_neg higher]; rfl
      · intro g here
        rw [List.head?_cons, Option.mem_some_iff] at here
        rw [← here]; exact lt_of_not_ge higher

section
variable {s : State} {r : Request} {q : List Request} {c : BayClass}

theorem Ev.placeRequest_none {ev : Ev} (found : (s.serving q).search c (bayOfNo (byteAt r.payload 5)) none
      (s.heldFor r c).windowStart = (ev, none)) :
    (s.serving q).placeRequest r c =
      if ev.st.admitsTail (s.heldFor r c).priority then
        let ev' := (ev.joinWaitlist insertTail (s.heldFor r c) c (bayOfNo (byteAt r.payload 5))).onState
          (·.removeEarly (ticketField r.payload 0))
        ev'.reply r (ticketField r.payload 0)
          (queuedAnswer ev'.st (waitPosition ev'.st.waitlist (s.heldFor r c).ticket) (s.heldFor r c))
      else ev.refuse r (ticketField r.payload 0) .waitlistFull := by
  unfold Ev.placeRequest; dsimp only
  rw [show (s.serving q).st.formHold r c ((s.serving q).st.early.any fun e => e.ticket == ticketField r.payload 0)
    = s.heldFor r c from rfl, found]

/-- The search of a HOLD for which no bay fits. -/
theorem State.search_findsNone (none : s.FindsNone c Option.none (s.heldFor r c).windowStart) :
    (s.serving q).search c (bayOfNo (byteAt r.payload 5)) Option.none (s.heldFor r c).windowStart
      = (s.serving q, Option.none) := by
  have ordered := Ev.search_classOrder (ev := s.serving q) (c := c) (n := byteAt r.payload 5)
    (ws := (s.heldFor r c).windowStart)
    (fun e _ cls fits => (none e (by simp) cls (fits.elim State.Fits.searchable State.Fits.searchable)).2 fits)
    (fun e cls may => (none e (by simp) cls may).1)
  exact ordered.trans (Ev.searchClasses_findsNone (ev := s.serving q) none)

/-- The entry of a HOLD on the Waitlist. -/
def State.entryFor (s : State) (r : Request) (c : BayClass) : WaitEntry :=
  ⟨s.heldFor r c, c, bayOfNo (byteAt r.payload 5), some (s.heldFor r c).graceEnd⟩

/-- The books when a HOLD has been queued. -/
def State.queuedBooks (s : State) (r : Request) (q : List Request) (c : BayClass) : Books :=
  let k := ({ s with requests := q } : State).books.room.joined insertTail (s.entryFor r c)
  { k with still := ({ s.still with requests := q } : Still).forget (ticketField r.payload 0) }

theorem Books.room_still (k : Books) : k.room.still = k.still ∧ k.room.bays = k.bays ∧ k.room.cursors = k.cursors := by
  unfold Books.room
  split
  · exact ⟨rfl, rfl, rfl⟩
  · split <;> exact ⟨rfl, rfl, rfl⟩

/-- A HOLD for which no bay fits and that the Waitlist admits. -/
theorem holdQueued_joins (running : s.heldInReset = false) (head : s.requests = r :: q) (kind : r.kind = Kind.hold)
    (checked : s.checkHold r = .ok c) (none : s.FindsNone c Option.none (s.heldFor r c).windowStart)
    (admits : s.admitsTail (s.heldFor r c).priority = true) :
    let t := ticketField r.payload 0
    let h := s.heldFor r c
    let p := s.answerBytes r t 1 0 0 (waitPosition (s.queuedBooks r q c).waitlist (some t)) h
    ∃ ev : Ev, exec .hold s = .next (ev.answer (ev.st.buildAnswer r.src r.tag Kind.answer p)).finish
      ∧ (ev.answer (ev.st.buildAnswer r.src r.tag Kind.answer p)).finish.Shows (s.queuedBooks r q c)
      ∧ ev.voice = (s.serving q).makeRoom.voice ∧ ev.books = s.queuedBooks r q c
      ∧ s.Answers (ev.answer (ev.st.buildAnswer r.src r.tag Kind.answer p)).finish r Kind.answer p := by
  intro t h p
  generalize hev : ((s.serving q).joinWaitlist insertTail h c (bayOfNo (byteAt r.payload 5))).onState (·.removeEarly t) = ev
  have books : ev.books = s.queuedBooks r q c := by
    rw [← hev, Ev.removeEarly_books, Ev.joinWaitlist_books]
    unfold State.queuedBooks
    dsimp only
    rw [show ((s.serving q).books.room.joined insertTail ⟨h, c, bayOfNo (byteAt r.payload 5), some h.graceEnd⟩).still
      = (s.serving q).books.still from (Books.room_still _).1]
    rfl
  have kept := Ev.joinWaitlist_kept (s.serving q) insertTail h c (bayOfNo (byteAt r.payload 5))
  have voice : ev.voice = (s.serving q).makeRoom.voice := by
    rw [← hev, Ev.removeEarly_voice, Ev.joinWaitlist_voice]
  have controller : ev.books.still.controller = s.controller := by rw [books]; rfl
  have quiet : ev.scan = false ∧ ev.recompute = false := by
    rw [← hev]
    exact ⟨congrArg Desk.scan kept.1, congrArg Calm.recompute kept.2⟩
  have moves : Moves (s.serving q) ((s.serving q).joinWaitlist insertTail h c (bayOfNo (byteAt r.payload 5))) :=
    Moves.refl.joinWaitlist length_insertTail (fun y _ ordered => insertTail_ordered y ordered) h c _
  have payload : answerPayload r.kind t (queuedAnswer ev.st (waitPosition ev.st.waitlist h.ticket) h) = p := by
    rw [answerPayload_queued]
    show _ = s.answerBytes r t 1 0 0 (waitPosition (s.queuedBooks r q c).waitlist (some t)) h
    rw [← books]
    unfold State.answerBytes State.windowBytes
    rw [show ev.st.siteOffset = s.siteOffset from (congrArg (Still.siteOffset ∘ Books.still) books)]; rfl
  refine ⟨ev, ?_, ?_, voice, books, State.Answers_of_voice _ _ ?_ controller⟩
  · rw [execHold_placing running head kind checked, Ev.placeRequest_none (State.search_findsNone none),
      if_pos (c := (s.serving q).st.admitsTail (s.heldFor r c).priority = true) admits]
    dsimp only
    show Host.Outcome.next (Ev.finish (Ev.reply (((s.serving q).joinWaitlist insertTail h c
      (bayOfNo (byteAt r.payload 5))).onState (·.removeEarly t)) r t _)) = _
    rw [hev]
    unfold Ev.reply
    exact congrArg (fun p => Host.Outcome.next (ev.answer (ev.st.buildAnswer r.src r.tag Kind.answer p)).finish) payload
  · have shows_ := Ev.finish_shows (ev.answer (ev.st.buildAnswer r.src r.tag Kind.answer p))
      (.inl ((ev.answer_leaves _).2.1.trans quiet.1)) (.inl ((ev.answer_leaves _).2.2.1.trans quiet.2))
    rw [Ev.answer_books, books] at shows_
    exact shows_
  · rw [← hev, Ev.removeEarly_voice]
    exact moves.voice_uplink rfl

end

/-- Settles O40: no bay is found, and the Waitlist's length and its last entry decide. -/
theorem holdQueued : Obligations.HoldQueued := by
  intro s r q c running head kind checked p t start none h e queued joins
  have new := checkHold_new checked
  have ticket : h.ticket = some t := rfl
  have requester : h.requester = some r.src := rfl
  have joining (l : List WaitEntry) (admits : s.admitsTail h.priority = true)
      (list : (s.queuedBooks r q c).waitlist = l)
      (found : (s.queuedBooks r q c).lookup t = some ⟨t, r.src, .waitlist⟩) :
      ∃ x, joins x l ∧ x.Shows (s.queuedBooks r q c) ∧
        ∃ ev : Ev, x = (ev.answer (ev.st.buildAnswer r.src r.tag Kind.answer (queued l))).finish
          ∧ ev.voice = (s.serving q).makeRoom.voice ∧ ev.books = s.queuedBooks r q c := by
    obtain ⟨ev, run, shows_, voice, books, answers⟩ := holdQueued_joins running head kind checked none admits
    rw [list] at run shows_ answers
    have bays : (s.queuedBooks r q c).bays = s.books.bays := (Books.room_still _).2.1
    refine ⟨_, ⟨run, ?_, shows_.dyns fun b => by rw [bays]; rfl, fun b => ?_, ?_, (shows_.lookup t).trans found,
      shows_.still, answers⟩, shows_, ev, rfl, voice, books⟩
    · have waits := shows_.waits; rw [list] at waits; exact waits
    · have awaits := shows_.awaits b; rw [bays] at awaits; exact awaits
    · exact shows_.cursors.trans (Books.room_still _).2.2
  refine ⟨fun w => insertTail_split e w, fun room => ?_, fun w full last lower => ?_,
    fun w u a full last higher evicted owner other => ?_⟩
  · have fits : ({ s with requests := q } : State).books.room = ({ s with requests := q } : State).books :=
      Books.room_of_room room
    obtain ⟨x, joined, _⟩ := joining (insertTail e s.waitlist) (State.admitsTail_room room)
      (by unfold State.queuedBooks; rw [fits]; rfl)
      (by
        unfold State.queuedBooks; rw [fits]
        exact Books.lookup_indexHold_new (k := { s.books with waitlist := insertTail e s.waitlist }) ticket requester new)
    exact ⟨x, joined⟩
  · rw [execHold_placing running head kind checked, Ev.placeRequest_none (State.search_findsNone none), if_neg]
    · exact congrArg Host.Outcome.next (Ev.finish_refuse s q r t .waitlistFull)
    · have admits := State.admitsTail_full (p := h.priority) full last
      rw [show (s.serving q).st.admitsTail (s.heldFor r c).priority = _ from admits, decide_eq_true_iff]
      exact not_lt.2 lower
  · have fits : ({ s with requests := q } : State).books.room
        = { ({ s with requests := q } : State).books with waitlist := s.waitlist.dropLast }.unindex w.hold :=
      Books.room_of_full full last
    have apart : t ≠ u := fun h => other h.symm
    obtain ⟨x, joined, shows_, ev, rfl, voice, books⟩ := joining (insertTail e s.waitlist.dropLast)
      (by rw [State.admitsTail_full full last]; exact decide_eq_true higher)
      (by unfold State.queuedBooks; rw [fits]; rfl)
      (by
        unfold State.queuedBooks; rw [fits]
        refine Books.lookup_indexHold_new (k := Books.mk _ _ _ _ _ _) ticket requester ?_
        exact (Books.lookup_unindex_other (k := { s.books with waitlist := s.waitlist.dropLast }) evicted apart).trans new)
    refine ⟨_, joined, ?_, fun src somebody => ?_⟩
    · rw [shows_.lookup]
      unfold State.queuedBooks; rw [fits]
      refine (Books.lookup_indexHold_other (k := Books.mk _ _ _ _ _ _) ticket requester other).trans ?_
      exact Books.lookup_unindex_same (k := { s.books with waitlist := s.waitlist.dropLast }) evicted
    · refine Ev.answer_sends (k := 1) _ _ ?_ (by rw [books]; rfl) src
      rw [voice, Ev.makeRoom_voice_full (ev := s.serving q) full last evicted owner
        (by rw [s.serving_voice]; exact s.waits_room 0 []), s.serving_voice]
      exact s.waits_tell 0 [] _ _ somebody

end Sys2Proof.Machine
end

section
/-!
SUPPORT. The end of an active hold in each case of its bay (R22), and the waitlist scan that a freed bay serves (R39).
-/
namespace Sys2Proof.Machine

/-! ## The end of an active hold, by the state of its bay -/

section
variable {ev : Ev} {b : BayIx} {h n : Hold} (l : Leave) (active : (ev.books.bays b).dyn.active = some h)

theorem Ev.vacate_dyn_none (staged : (ev.books.bays b).dyn.staged = none) :
    ((ev.vacate b h l).books.bays b).dyn = { (ev.books.bays b).dyn with active := none } := by
  rw [Ev.vacate_books_none h l staged]; simp

theorem Ev.vacate_dyn_some (staged : (ev.books.bays b).dyn.staged = some n) :
    ((ev.vacate b h l).books.bays b).dyn = { (ev.books.bays b).dyn with active := some n, staged := none } := by
  rw [Ev.vacate_books_some h l staged]; simp

theorem Ev.vacate_state : ((ev.vacate b h l).books.bays b).dyn.state = (ev.books.bays b).dyn.state := by
  cases staged : (ev.books.bays b).dyn.staged with
  | none => rw [Ev.vacate_dyn_none l staged]
  | some n => rw [Ev.vacate_dyn_some l staged]

theorem Ev.vacate_still : (ev.vacate b h l).books.still = ev.books.still := by
  cases staged : (ev.books.bays b).dyn.staged with
  | none => rw [Ev.vacate_books_none h l staged]; simp
  | some n => rw [Ev.vacate_books_some h l staged]; simp

include active

theorem Ev.endActive_faulted (state : (ev.books.bays b).dyn.state = .faulted) : ev.endActive b l = ev.vacate b h l := by
  rw [Ev.endActive_eq active]
  exact Ev.settleEnd_faulted ((Ev.vacate_state l).trans state)

theorem Ev.endActive_closed (state : (ev.books.bays b).dyn.state = .closed)
    (staged : (ev.books.bays b).dyn.staged = none) (mode : (ev.books.bays b).dyn.closeMode = .none) :
    ev.endActive b l = (ev.vacate b h l).wantScan := by
  rw [Ev.endActive_eq active]
  exact Ev.settleEnd_closed ((Ev.vacate_state l).trans state) (by rw [Ev.vacate_dyn_none l staged, mode]; simp)

section
variable (notClosed : (ev.books.bays b).dyn.state ≠ .closed) (notFaulted : (ev.books.bays b).dyn.state ≠ .faulted)
  (staged : (ev.books.bays b).dyn.staged = some n) (arrival : n.arrival = none)
include notClosed notFaulted staged

/-- A staged hold is promoted, and the bay is derived with it. -/
theorem Ev.endActive_promoted {ev' : Ev} (derived : (ev.vacate b h l).derive b = ev')
    (stays : (ev'.books.bays b).dyn.state ≠ .closed) : ev.endActive b l = ev'.wantScan := by
  rw [Ev.endActive_eq active]
  exact Ev.settleEnd_derived (by rw [Ev.vacate_state]; exact notFaulted) (by rw [Ev.vacate_state]; exact notClosed)
    (by rw [Ev.vacate_dyn_some l staged]; simp) derived stays

include arrival

theorem Ev.endActive_held (occupancy : (ev.books.bays b).dyn.occupancy ≠ .occupied) :
    ev.endActive b l = ((ev.vacate b h l).setState b .held).wantScan := by
  have dyn := Ev.vacate_dyn_some (h := h) l staged
  exact Ev.endActive_promoted l active notClosed notFaulted staged
    (Ev.derive_held (h := n) (by rw [dyn]) arrival (by rw [dyn]; exact occupancy)) (by rw [Ev.setState_dyn]; simp)

theorem Ev.endActive_contested (occupancy : (ev.books.bays b).dyn.occupancy = .occupied)
    (verify : ev.books.still.verifies b = true) (seen : n.entrySeen = false) :
    ev.endActive b l = ((ev.vacate b h l).setState b .contested).wantScan := by
  have dyn := Ev.vacate_dyn_some (h := h) l staged
  exact Ev.endActive_promoted l active notClosed notFaulted staged
    (Ev.derive_contested (h := n) (by rw [dyn]) arrival (by rw [dyn]; exact occupancy)
      (by rw [Ev.vacate_still]; exact verify) seen) (by rw [Ev.setState_dyn]; simp)

omit active notClosed notFaulted staged arrival in
theorem Still.third_open (k : Still) (d : BayDyn) (h : Hold) : k.third d h ≠ .closed := by
  unfold Still.third
  split
  · simp
  · split
    · simp
    · split <;> simp

omit active notClosed notFaulted staged arrival in
theorem Still.third_congr (k : Still) {d d' : BayDyn} (connector : d'.connector = d.connector) (h : Hold) :
    k.third d' h = k.third d h := by
  unfold Still.third; rw [connector]

theorem Ev.endActive_captured (occupancy : (ev.books.bays b).dyn.occupancy = .occupied)
    (open_ : ev.books.still.verifies b = false ∨ n.entrySeen = true) :
    ev.endActive b l = (((ev.vacate b h l).capture b n).setState b
      (ev.books.still.third (ev.books.bays b).dyn n)).wantScan := by
  have dyn := Ev.vacate_dyn_some (h := h) l staged
  refine Ev.endActive_promoted l active notClosed notFaulted staged
    ((Ev.derive_captured (h := n) (by rw [dyn]) arrival (by rw [dyn]; exact occupancy)
      (by rw [Ev.vacate_still]; exact open_)).trans ?_) ?_
  · rw [Ev.vacate_still, Still.third_congr _ (d := (ev.books.bays b).dyn) (by rw [dyn])]
  · rw [Ev.setState_dyn]; exact Still.third_open _ _ _

end

end

/-! ## A request that ends an active hold -/

/-- The request behind `State.EndsActive`: the event as it begins, and the answer that follows the end of the hold. -/
structure Ending (s : State) (b : BayIx) (c : Instr) (answer : Frame) (after : Still) where
  begin : Ev
  request : Request
  why : EndReason
  kind : Byte
  payload : List Byte
  books : begin.books = { s.books with still := after }
  voice : begin.voice = s.waits 0 []
  desk : begin.desk = .clear
  src : request.src ≠ 0
  answered : answer = s.answerTo request kind payload
  event : (endEvent why).code = 6
  controller : after.controller = s.controller
  settings : after.settings = s.allocator.settings
  bays : after.bays = s.bays.map Bay.config
  now : after.now = s.now
  site : begin.st.siteOffset = s.siteOffset
  timing : after.timing = s.timing
  classes : after.classes = s.classes
  runs : exec c s = .next ((begin.endActive b (.ended why)).answer
    ((begin.endActive b (.ended why)).st.buildAnswer request.src request.tag kind payload)).finish

theorem State.EndsActive.ending {s : State} {b : BayIx} {h : Hold} {t : Ticket} {a : Addr} {c : Instr} {reason : Nat}
    {answer : Frame} {after : Still} (running : s.heldInReset = false) (active : (s.bay b).dyn.active = some h)
    (held : h.ticket = some t) (ends : s.EndsActive b h t a c reason answer after) :
    ∃ e : Ending s b c answer after, e.why.code = reason := by
  rcases ends with ⟨r, q, head, kind, named, ticket, found, owner, src, rfl, rfl, rfl, rfl⟩
    | ⟨r, q, w, x, y, z, head, kind, payload, named, src, rfl, rfl, rfl, rfl⟩
  · refine ⟨⟨s.serving q, r, .freed, Kind.answer, s.answerBytes r t 0 (b.val + 1) 1 0 h, rfl, s.serving_voice q, rfl, src, rfl,
      rfl, rfl, rfl, rfl, rfl, rfl, rfl, rfl, ?_⟩, rfl⟩
    rw [execFree_acts running head kind named ticket found owner active, Ev.freeAt_active, named]
    unfold Ev.reply
    rw [answerPayload_granted]; rfl
  · refine ⟨⟨s.managing q, r, .forced, Kind.mgmtAnswer, [r.kind, 0], rfl, s.managing_voice q, rfl, src, rfl,
      rfl, rfl, rfl, rfl, rfl, rfl, rfl, rfl, ?_⟩, rfl⟩
    have slot : r.payload = [4, byteOf (b.val + 1), byteOf Slot.active.code, w, x, y, z] := payload
    rw [execForceEnd_runs running head kind payload,
      Ev.forceEnd_acts (ev := s.managing q) slot active (named.imp_right fun n => by rw [held, n])]
    rfl

section
variable {s : State} {b : BayIx} {c : Instr} {answer : Frame} {after : Still} (e : Ending s b c answer after)

/-- The HOLD-NOTICE ENDED of a request that ends an active hold. -/
def Ending.told (a : Addr) (t : Ticket) (h : Hold) : Frame :=
  s.noticeAt 0 a Kind.holdNotice (s.summaryBytes 6 t (b.val + 1) e.why.code h)

theorem Ending.vacate_voice {a : Addr} {t : Ticket} {h : Hold} (ticket : h.ticket = some t)
    (requester : h.requester = some a) (somebody : a ≠ 0) :
    (e.begin.vacate b h (.ended e.why)).voice = s.waits 1 [e.told a t h] := by
  rw [Ev.vacate_voice _ ticket requester (by rw [e.voice]; exact s.waits_room 0 []), e.voice, e.books]
  dsimp only
  rw [e.controller]
  refine (s.waits_tell 0 [] _ _ somebody).trans ?_
  unfold Ending.told State.leaveBytes State.summaryBytes
  dsimp only [Leave.event]
  rw [e.event, e.site]; rfl

theorem Ending.vacate_desk (h : Hold) : (e.begin.vacate b h (.ended e.why)).desk
    = ⟨[endNote b (s.bay b).dyn.state e.why], false, false⟩ := by
  rw [Ev.vacate_desk_clear e.desk, e.books]; rfl

/-- What a request that ends an active hold shows and sends, from books, desk and voice at its answer. -/
theorem Ending.closes {k : Books} {fs : List Frame} {m : Nat} {scan captured : Bool} {st : BayState}
    (books : (e.begin.endActive b (.ended e.why)).books = k)
    (voice : (e.begin.endActive b (.ended e.why)).voice = s.waits m fs)
    (desk : (e.begin.endActive b (.ended e.why)).desk = ⟨[endNote b (s.bay b).dyn.state e.why], scan, captured⟩)
    (still : k.still = after) (state : (k.bays b).dyn.state = st) (noScan : scan = false ∨ k.waitlist = []) (ok : k.Ok) :
    ∃ x, exec c s = .next x ∧ x.Shows k ∧ s.Sends x (answer :: fs)
      ∧ (s.controller.noticeDest ≠ 0 →
          s.Sends x (answer :: fs ++ [s.bayNoticeAt m b (s.bay b).dyn.state st 4 e.why.code 0])) := by
  have run := e.runs
  have controller : (e.begin.endActive b (.ended e.why)).books.still.controller = s.controller := by
    rw [books, still]; exact e.controller
  generalize e.begin.endActive b (.ended e.why) = ev at books voice desk run controller
  have shows_ := Ev.finish_shows (ev.answer (ev.st.buildAnswer e.request.src e.request.tag e.kind e.payload))
    (noScan.imp (fun no => (Ev.scan_of_desk ((ev.answer_desk _).trans desk)).trans no)
      (fun empty => by rw [Ev.answer_books, books]; exact empty))
    (.inr (by rw [Ev.answer_books, books]; exact ok))
  rw [Ev.answer_books, books] at shows_
  have answered := e.answered
  have src := e.src
  generalize e.begin = ev0, e.request = r, e.kind = kd, e.payload = pl at *
  subst answered
  refine ⟨_, run, shows_, ?_, fun listener => ?_⟩
  · exact Ev.answer_sends _ _ voice controller src
  · exact Ev.finish_sends_note (n := endNote b (s.bay b).dyn.state e.why) (after := st)
      (fun room => Ev.answer_placed _ _ voice controller src room) (by rw [Ev.answer_desk, desk])
      (by rw [Ev.answer_books]; exact controller)
      (by rw [Ev.answer_books, books]; exact state) (endNote_raised ..) listener

end

end Sys2Proof.Machine
end

section
/-!
SUPPORT. The waitlist scan that one waiting entry is served by, and the end of an active hold as its request shows it.
-/
namespace Sys2Proof.Machine

/-! ## A scan of one entry (R39) -/

/-- Where only one bay may be searched, and it is FREE and of the class wanted, the search finds it, with its class's
cursor as it stood or passed on. -/
theorem Ev.search_only {ev : Ev} {b : BayIx} {c : BayClass} {preferred : Option BayIx} {ws : Time}
    (cls : (ev.bay b).cls = c) (fits : ev.st.Fits b ws .active) (ok : (ev.bay b).checkOk = true)
    (only : ∀ f, f ≠ b → (ev.bay f).searchable = false) :
    ∃ ev', ev.search c preferred none ws = (ev', some (b, .active)) ∧ (ev' = ev ∨ ev' = ev.onState (·.passCursor b)) := by
  have alone {f : BayIx} (may : (ev.bay f).searchable = true) : f = b := by
    by_contra other
    exact absurd may (by rw [only f other]; simp)
  have okAll (f : BayIx) (may : (ev.bay f).searchable = true) : (ev.bay f).checkOk = true := alone may ▸ ok
  have acceptable : (ev.st.bay b).cls ∈ ev.st.acceptable c := List.mem_cons.2 (.inl cls)
  have finds : ev.st.Finds c none ws b .active :=
    ⟨acceptable, by simp, fits, fun e _ _ fitsToo => .inr (by
      rw [alone (fitsToo.elim State.Fits.searchable State.Fits.searchable)]; exact ⟨rfl, le_rfl⟩)⟩
  have ordered := Ev.searchClasses_finds finds (fun e _ _ => okAll e)
  unfold Ev.search
  cases preferred with
  | none => exact ⟨_, ordered, .inr rfl⟩
  | some p =>
    dsimp only
    by_cases listed : (ev.st.searchList c).contains (ev.bay p).cls = true
    · rw [if_pos listed, Ev.examine_agrees (okAll p)]
      by_cases same : p = b
      · rw [same, (ev.st.slotFor_iff b ws .active).2 fits]
        exact ⟨ev, rfl, .inl rfl⟩
      · rw [show ev.st.slotFor p ws = none from if_neg (by rw [show (ev.st.bay p).searchable = false from only p same]; simp)]
        exact ⟨_, ordered, .inr rfl⟩
    · rw [if_neg listed]
      exact ⟨_, ordered, .inr rfl⟩

theorem holdNoticePayload_granted (s : State) (t : Ticket) (b : BayIx) (h : Hold) :
    holdNoticePayload s .granted t (grantedBody s b .active h)
      = [0] ++ be32w t ++ [byteOf (b.val + 1), 1, 0, 0, 0] ++ s.windowBytes h ++ List.replicate 16 0 := by
  simp [holdNoticePayload, grantedBody, State.windowBytes, flagByte, be32w, be32_zero, byteOf, List.replicate, bayNo,
    State.site, HoldEvent.code, Slot.code]

section
variable {ev ev' : Ev} {w : WaitEntry} {b : BayIx} {sl : Slot}

/-- The event as its scan takes an entry for which a bay has been found. -/
def Ev.serve (ev : Ev) (w : WaitEntry) (b : BayIx) (sl : Slot) : Ev :=
  let ev := (ev.onState (fun s => s.setWaitlist (s.waitlist.erase w))).placeHold b sl w.hold
  ev.holdNotice w.hold .granted (grantedBody ev.st b sl w.hold)

theorem Ev.finish_scan_one (scan : ev.scan = true) (waiting : ev.st.waitlist = [w])
    (found : ({ ev.flushNotes with scan := false } : Ev).search w.classWanted w.preferred none w.hold.windowStart
      = (ev', some (b, sl))) (owes : ev'.notes = []) (scanned : (ev'.serve w b sl).scan = false) :
    ev.finish = (ev'.serve w b sl).finish := by
  obtain ⟨scanKept, _, _⟩ := ev.flushNotes_leaves
  have waitingKept : ev.flushNotes.st.waitlist = [w] :=
    (congrArg Books.waitlist ev.flushNotes_books).trans waiting
  have run : ev.flushNotes.runScan = (ev'.serve w b sl).flushNotes := by
    unfold Ev.runScan
    rw [if_pos (scanKept.trans scan), waitingKept, List.foldl_cons, List.foldl_nil]
    unfold Ev.scanEntry
    rw [found]; dsimp only
    rw [Ev.flushNotes_fixed ev' owes]; rfl
  have calm : (ev'.serve w b sl).flushNotes.runScan = (ev'.serve w b sl).flushNotes := by
    unfold Ev.runScan
    exact if_neg (by rw [(Ev.flushNotes_leaves _).1, scanned]; simp)
  unfold Ev.finish
  rw [run, calm]

variable (free : (ev.books.bays b).dyn.state = .free)
include free

theorem Ev.serve_books : (ev.serve w b .active).books
    = (({ ev.books with waitlist := ev.books.waitlist.erase w } : Books).indexHold w.hold (.active b)).put b
        (.takeActive ev.books.still w.hold) := by
  unfold Ev.serve; dsimp only
  rw [Ev.holdNotice_books, Ev.placeHold_books (sl := .active) _ (fun _ => by
    rw [Ev.setWaitlist_books ev (fun s => s.waitlist.erase w)]; exact free),
    Ev.setWaitlist_books ev (fun s => s.waitlist.erase w)]
  rfl

theorem Ev.serve_desk (owes : ev.desk.notes = []) :
    (ev.serve w b .active).desk = { ev.desk with notes := [placeNote b] } := by
  unfold Ev.serve; dsimp only
  rw [Ev.holdNotice_desk, Ev.placeHold_active_desk _ (by
    rw [Ev.setWaitlist_books ev (fun s => s.waitlist.erase w)]; exact free) (by rw [Ev.onState_desk, owes]; rfl),
    Ev.onState_desk, owes]
  rfl

/-- The HOLD-NOTICE GRANTED of a waitlist entry, with the stored window (R39). -/
theorem Ev.serve_voice {u : Ticket} {e : Addr} (ticket : w.hold.ticket = some u) (requester : w.hold.requester = some e)
    (room : ev.voice.Room) : (ev.serve w b .active).voice = ev.voice.tell ev.books.still.controller.own e Kind.holdNotice
      ([0] ++ be32w u ++ [byteOf (b.val + 1), 1, 0, 0, 0] ++ ev.st.windowBytes w.hold ++ List.replicate 16 0) := by
  have before := Ev.setWaitlist_books ev (fun s => s.waitlist.erase w)
  have freeToo : Slot.active = .active →
      ((ev.onState (fun s => s.setWaitlist (s.waitlist.erase w))).books.bays b).dyn.state = .free := fun _ => by
    rw [before]; exact free
  have voice : ((ev.onState (fun s => s.setWaitlist (s.waitlist.erase w))).placeHold b .active w.hold).voice = ev.voice := by
    rw [Ev.placeHold_voice _ freeToo, Ev.setWaitlist_voice ev (fun s => s.waitlist.erase w)]
  have still : ((ev.onState (fun s => s.setWaitlist (s.waitlist.erase w))).placeHold b .active w.hold).books.still
      = ev.books.still := by
    rw [Ev.placeHold_books _ freeToo, before]; rfl
  unfold Ev.serve; dsimp only
  generalize (ev.onState (fun s => s.setWaitlist (s.waitlist.erase w))).placeHold b .active w.hold = placed at voice still
  have site : placed.st.siteOffset = ev.st.siteOffset := congrArg Still.siteOffset still
  rw [Ev.holdNotice_voice _ ticket requester _ _ (by rw [voice]; exact room), voice, still,
    holdNoticePayload_granted placed.st]
  unfold State.windowBytes
  rw [site]

theorem Ev.serve_calm (uncharged : ev.calm.charging b = false) : (ev.serve w b .active).calm = ev.calm := by
  have before := Ev.setWaitlist_calm ev (fun s => s.waitlist.erase w)
  unfold Ev.serve; dsimp only
  rw [Ev.holdNotice_calm, Ev.placeHold_calm _ (fun _ => by
    rw [Ev.setWaitlist_books ev (fun s => s.waitlist.erase w)]; exact free) (fun _ => by rw [before]; exact uncharged), before]

end

end Sys2Proof.Machine
end

section
/-!
SUPPORT. What a request that ends an active hold shows and sends, and the end of an active hold by FREE and FORCE-END.
-/
namespace Sys2Proof.Machine

theorem BayBook.promote_ok (k : Still) (n : Hold) {y : BayBook} (ok : y.ok = true) : (y.clearActive.promote k n).ok = true := by
  have kept : (y.clearActive.setDyn ({ · with active := some n, staged := none })).ok = true := BayBook.setDyn_ok _ ok
  exact kept

section
variable {s : State} {b : BayIx} {c : Instr} {answer : Frame} {after : Still} (e : Ending s b c answer after)

/-- What a request that ends an active hold leaves, in the terms of `Obligations.ActiveHoldEnds`. -/
theorem Ending.leaves {k : Books} {f : BayBook → BayBook} {ended : Frame} {scan captured : Bool} {d : BayDyn} {t : Ticket}
    (books : (e.begin.endActive b (.ended e.why)).books = k.put b f)
    (voice : (e.begin.endActive b (.ended e.why)).voice = s.waits 1 [ended])
    (desk : (e.begin.endActive b (.ended e.why)).desk = ⟨[endNote b (s.bay b).dyn.state e.why], scan, captured⟩)
    (kept : k.bays = s.books.bays) (still : k.still = after) (gone : k.lookup t = none)
    (dyn : (f (s.bay b).book).dyn = d) (agrees : (f (s.bay b).book).ok = true) (ok : ∀ c, (s.bay c).checkOk = true)
    (noScan : scan = false ∨ k.waitlist = []) :
    ∃ x, exec c s = .next x ∧ x.Shows (k.put b f) ∧ x.still = after ∧ (x.bay b).dyn = d
      ∧ (∀ c, c ≠ b → (x.bay c).dyn = (s.bay c).dyn ∧ s.AwaitsAs x c) ∧ x.WaitsWith k.waitlist ∧ x.lookup t = none
      ∧ s.Sends x [answer, ended]
      ∧ (s.controller.noticeDest ≠ 0 →
          s.Sends x [answer, ended, s.bayNoticeAt 1 b (s.bay b).dyn.state d.state 4 e.why.code 0]) := by
  have here : (k.put b f).bays b = f (s.bay b).book := by rw [Books.put_same, kept]; rfl
  have agree : (k.put b f).Ok := by
    intro c
    by_cases same : c = b
    · rw [same, here]; exact agrees
    · rw [Books.put_other _ _ same, kept]; exact ok c
  obtain ⟨x, run, shows_, early, sends⟩ := e.closes books voice desk (st := d.state) still (by rw [here, dyn]) noScan agree
  refine ⟨x, run, shows_, shows_.still.trans still, (shows_.dyn b).trans (by rw [here, dyn]),
    fun c other => shows_.other kept other, shows_.waits, (shows_.lookup t).trans gone, early, sends⟩

/-- The books of the request when the hold's index entry has gone. -/
def Ending.ended (_ : Ending s b c answer after) (h : Hold) : Books := ({ s.books with still := after } : Books).unindex h

theorem Ending.ended_leaves (h : Hold) : (e.ended h).bays = s.books.bays ∧ (e.ended h).waitlist = s.waitlist
    ∧ (e.ended h).still = after := by
  obtain ⟨bays, waitlist, _, _, still⟩ := Books.leave_leaves ({ s.books with still := after } : Books) h (.ended .freed)
  exact ⟨bays, waitlist, still⟩

theorem Ending.ended_index {h : Hold} {t : Ticket} (held : h.ticket = some t) :
    (e.ended h).index = s.index.filter (fun i => i.ticket ≠ t) := Books.unindex_index held

theorem Ending.bay : (e.begin.books.bays b).dyn = (s.bay b).dyn := by rw [e.books]; rfl

theorem Ending.leaves_index (h : Hold) : e.begin.books.leave h (.ended e.why) = e.ended h := by rw [e.books]; rfl

theorem Ending.holds {h : Hold} (active : (s.bay b).dyn.active = some h) : (e.begin.books.bays b).dyn.active = some h := by
  rw [e.bay]; exact active

include e in
theorem Ending.verifies : after.verifies b = s.still.verifies b := by
  unfold Still.verifies; rw [e.classes, e.bays]; rfl

include e in
theorem Ending.third : after.third = s.still.third := by
  funext d h; unfold Still.third; rw [e.now, e.timing]; rfl

include e in
theorem Ending.overstay (h : Hold) : after.overstayAt h = s.overstayAt h := by
  unfold Still.overstayAt; rw [e.timing]; rfl

include e in
theorem Ending.serves (serves : s.still.Serves b) : after.Serves b := by
  unfold Still.Serves; rw [e.settings, e.bays]; exact serves

/-- What the request's event leaves of the bay, the Waitlist and the ticket, and sends, with something more. -/
def Ending.Becomes (t : Ticket) (ended : Frame) (d : BayDyn) (waits : List WaitEntry) (fs : List Frame)
    (more : State → Prop) (_ : Ending s b c answer after) : Prop :=
  ∃ x, exec c s = .next x ∧ x.still = after ∧ (x.bay b).dyn = d
    ∧ (∀ c, c ≠ b → (x.bay c).dyn = (s.bay c).dyn ∧ s.AwaitsAs x c) ∧ x.WaitsWith waits ∧ x.lookup t = none
    ∧ s.Sends x [answer, ended]
    ∧ (s.controller.noticeDest ≠ 0 → s.Sends x (answer :: ended :: fs)) ∧ more x

/-- The BAY-NOTICE HOLD-ENDED of the request. -/
def Ending.notice (e : Ending s b c answer after) (st : BayState) : Frame :=
  s.bayNoticeAt 1 b (s.bay b).dyn.state st 4 e.why.code 0

/-- Of a hold that ends with nothing staged, the index entry and the bay's two deadlines go. -/
def State.Gone (s : State) (b : BayIx) (t : Ticket) (x : State) : Prop :=
  x.index = s.index.filter (fun i => i.ticket ≠ t) ∧ x.Awaits b none none (s.bay b).timer.displacement

section
variable {h : Hold} {t : Ticket} {a : Addr} (active : (s.bay b).dyn.active = some h) (held : h.ticket = some t)
  (requester : h.requester = some a) (somebody : a ≠ 0) (ok : ∀ c, (s.bay c).checkOk = true)

section
include held ok

/-- The end of an active hold with nothing staged behind it. -/
theorem Ending.becomes_gone {f : BayBook → BayBook} {scan captured : Bool} {d : BayDyn} {st : BayState}
    (books : (e.begin.endActive b (.ended e.why)).books = (e.ended h).put b f)
    (voice : (e.begin.endActive b (.ended e.why)).voice = s.waits 1 [e.told a t h])
    (desk : (e.begin.endActive b (.ended e.why)).desk = ⟨[endNote b (s.bay b).dyn.state e.why], scan, captured⟩)
    (dyn : (f (s.bay b).book).dyn = d) (state : d.state = st) (agrees : (f (s.bay b).book).ok = true)
    (timers : (f (s.bay b).book).noShow = none ∧ (f (s.bay b).book).overstay = none
      ∧ (f (s.bay b).book).check = (s.bay b).timer.displacement)
    (noScan : scan = false ∨ s.waitlist = []) :
    e.Becomes t (e.told a t h) d s.waitlist [e.notice st] (s.Gone b t) := by
  obtain ⟨keptBays, keptWaits, keptStill⟩ := e.ended_leaves h
  obtain ⟨x, run, shows_, still, here, other, waits, unknown, early, sends⟩ := e.leaves (t := t) books voice desk keptBays
    keptStill (Books.lookup_unindex_same held) dyn agrees ok (keptWaits ▸ noScan)
  have awaits := shows_.awaits b
  rw [Books.put_same, keptBays] at awaits
  obtain ⟨noShow, overstay, standing⟩ := timers
  rw [show (s.books.bays b) = (s.bay b).book from rfl, noShow, overstay, standing] at awaits
  exact ⟨x, run, still, here, other, keptWaits ▸ waits, unknown, early, state ▸ sends,
    shows_.index.trans (e.ended_index held), awaits⟩

end

include active held requester somebody ok

section
variable (staged : (s.bay b).dyn.staged = none)
include staged

omit active held requester somebody ok in
theorem Ending.unstaged : (e.begin.books.bays b).dyn.staged = none := by rw [e.bay]; exact staged

theorem Ending.derived (notClosed : (s.bay b).dyn.state ≠ .closed) (notFaulted : (s.bay b).dyn.state ≠ .faulted)
    (mode : (s.bay b).dyn.closeMode = .none) (empty : s.waitlist = []) :
    e.Becomes t (e.told a t h) { (s.bay b).dyn with active := none, state := (s.bay b).dyn.vacated } s.waitlist
      [e.notice (s.bay b).dyn.vacated] (s.Gone b t) := by
  have stagedNow := e.unstaged staged
  have bay := e.bay
  have ends := Ev.endActive_derived (.ended e.why) (e.holds active) stagedNow (by rw [bay]; exact notClosed)
    (by rw [bay]; exact notFaulted) (by rw [bay]; exact mode)
  have quiet : (e.begin.books.bays b).dyn.vacated ≠ .charging := by
    rcases BayDyn.vacated_cases (e.begin.books.bays b).dyn with h | h <;> rw [h] <;> simp
  refine e.becomes_gone held ok (scan := true) (captured := false) (f := .emptied (s.bay b).dyn.vacated) ?_ ?_ ?_ rfl rfl (BayBook.emptied_ok _ _ (ok b))
    ⟨rfl, rfl, rfl⟩ (.inr empty)
  · rw [ends, Ev.ended_books _ stagedNow, e.leaves_index, bay]
  · rw [ends, Ev.ended_voice _ quiet, e.vacate_voice held requester somebody]
  · rw [ends, Ev.ended_desk _ _ e.desk, bay]; rfl

theorem Ending.closed (notFaulted : (s.bay b).dyn.state ≠ .faulted) (mode : (s.bay b).dyn.closeMode = .closingAtEnd) :
    e.Becomes t (e.told a t h) { (s.bay b).dyn with active := none, state := .closed, closeMode := .none } s.waitlist
      [e.notice .closed] (s.Gone b t) := by
  have bay := e.bay
  have ends := Ev.endActive_closing (.ended e.why) (e.holds active) (e.unstaged staged) (by rw [bay]; exact notFaulted)
    (by rw [bay]; exact mode)
  refine e.becomes_gone held ok (scan := false) (captured := false) (f := fun y => ((y.clearActive.setDyn ({ · with active := none })).setDyn
      ({ · with state := .closed })).setDyn ({ · with closeMode := .none })) ?_ ?_ ?_ rfl rfl
    (BayBook.setDyn_ok _ (BayBook.setDyn_ok _ (BayBook.setDyn_ok _ (ok b)))) ⟨rfl, rfl, rfl⟩ (.inl rfl)
  · rw [ends, Ev.closeBay_books, Ev.vacate_books_none h _ (e.unstaged staged), e.leaves_index, Books.put_put]
  · rw [ends, Ev.closeBay_voice, e.vacate_voice held requester somebody]
  · rw [ends, Ev.closeBay_desk, e.vacate_desk, Desk.touch_known (b := b) _ rfl]

theorem Ending.faulted (faulted : (s.bay b).dyn.state = .faulted) :
    e.Becomes t (e.told a t h) { (s.bay b).dyn with active := none } s.waitlist [e.notice .faulted] (s.Gone b t) := by
  have ends := Ev.endActive_faulted (.ended e.why) (e.holds active) (by rw [e.bay]; exact faulted)
  refine e.becomes_gone held ok (scan := false) (captured := false) (f := fun y => y.clearActive.setDyn ({ · with active := none })) ?_ ?_ ?_ rfl faulted
    (BayBook.setDyn_ok _ (ok b)) ⟨rfl, rfl, rfl⟩ (.inl rfl)
  · rw [ends, Ev.vacate_books_none h _ (e.unstaged staged), e.leaves_index]
  · rw [ends, e.vacate_voice held requester somebody]
  · rw [ends, e.vacate_desk]

theorem Ending.stays (closed : (s.bay b).dyn.state = .closed) (mode : (s.bay b).dyn.closeMode = .none)
    (empty : s.waitlist = []) :
    e.Becomes t (e.told a t h) { (s.bay b).dyn with active := none } s.waitlist [e.notice .closed] (s.Gone b t) := by
  have ends := Ev.endActive_closed (.ended e.why) (e.holds active) (by rw [e.bay]; exact closed) (e.unstaged staged)
    (by rw [e.bay]; exact mode)
  refine e.becomes_gone held ok (scan := true) (captured := false) (f := fun y => y.clearActive.setDyn ({ · with active := none })) ?_ ?_ ?_ rfl closed
    (BayBook.setDyn_ok _ (ok b)) ⟨rfl, rfl, rfl⟩ (.inr empty)
  · rw [ends, Ev.wantScan_books, Ev.vacate_books_none h _ (e.unstaged staged), e.leaves_index]
  · rw [ends, Ev.wantScan_voice, e.vacate_voice held requester somebody]
  · rw [ends, Ev.wantScan_desk, e.vacate_desk]

end

/-! ### A staged hold behind it -/

/-- The books with the staged hold's index entry at the active slot. -/
def Ending.promoted (e : Ending s b c answer after) (h n : Hold) : Books := (e.ended h).indexHold n (.active b)

section
variable {n : Hold} {u : Ticket} {r : Addr} (staged : (s.bay b).dyn.staged = some n) (ticket : n.ticket = some u)
  (placed : n.requester = some r) (other : u ≠ t) (known : s.lookup u = some ⟨u, r, .staged b⟩)

section
include held ok ticket placed other known
omit active requester somebody

/-- The end of an active hold whose staged hold takes the slot. -/
theorem Ending.becomes_promoted {f : BayBook → BayBook} {scan captured : Bool} {d : BayDyn} {st : BayState}
    {noShow overstay : Option Deadline}
    (books : (e.begin.endActive b (.ended e.why)).books = (e.promoted h n).put b f)
    (voice : (e.begin.endActive b (.ended e.why)).voice = s.waits 1 [e.told a t h])
    (desk : (e.begin.endActive b (.ended e.why)).desk = ⟨[endNote b (s.bay b).dyn.state e.why], scan, captured⟩)
    (dyn : (f (s.bay b).book).dyn = d) (state : d.state = st) (agrees : (f (s.bay b).book).ok = true)
    (timers : (f (s.bay b).book).noShow = noShow ∧ (f (s.bay b).book).overstay = overstay
      ∧ (f (s.bay b).book).check = none)
    (noScan : scan = false ∨ s.waitlist = []) :
    e.Becomes t (e.told a t h) d s.waitlist [e.notice st] (fun x =>
      x.lookup u = some ⟨u, r, .active b⟩ ∧ x.Awaits b noShow overstay none) := by
  obtain ⟨keptBays, keptWaits, keptStill⟩ := e.ended_leaves h
  have lost : (e.promoted h n).lookup t = none :=
    (Books.lookup_indexHold_other ticket placed other.symm).trans (Books.lookup_unindex_same held)
  have found : (e.promoted h n).lookup u = some ⟨u, r, .active b⟩ :=
    Books.lookup_indexHold_known (e := ⟨u, r, .staged b⟩) ticket placed ((Books.lookup_unindex_other held other).trans known)
  obtain ⟨x, run, shows_, still, here, rest, waits, unknown, early, sends⟩ := e.leaves (k := e.promoted h n) (t := t) books
    voice desk keptBays keptStill lost dyn agrees ok (noScan.imp_right (keptWaits.trans ·))
  have awaits := shows_.awaits b
  rw [Books.put_same, show (e.promoted h n).bays b = (s.bay b).book from congrFun keptBays b, timers.1, timers.2.1,
    timers.2.2] at awaits
  have waiting : x.WaitsWith s.waitlist := keptWaits ▸ waits
  exact ⟨x, run, still, here, rest, waiting, unknown, early, state ▸ sends, (shows_.lookup u).trans found, awaits⟩

end

include staged ticket placed other known

omit active held requester somebody ok ticket placed other known in
theorem Ending.behind : (e.begin.books.bays b).dyn.staged = some n := by rw [e.bay]; exact staged

omit held requester somebody ok ticket placed other known active in
theorem Ending.promotes (h : Hold) : (e.begin.vacate b h (.ended e.why)).books
    = (e.promoted h n).put b (fun y => y.clearActive.promote after n) := by
  rw [Ev.vacate_books_some h _ (e.behind staged), e.leaves_index, e.books]; rfl

theorem Ending.faulted_promotes (arrival : n.arrival = none) (faulted : (s.bay b).dyn.state = .faulted) :
    e.Becomes t (e.told a t h) { (s.bay b).dyn with active := some n, staged := none } s.waitlist [e.notice .faulted]
      (fun x => x.lookup u = some ⟨u, r, .active b⟩ ∧ x.Awaits b (some ⟨some u, n.graceEnd⟩) none none) := by
  have ends := Ev.endActive_faulted (.ended e.why) (e.holds active) (by rw [e.bay]; exact faulted)
  refine e.becomes_promoted held ok ticket placed other known (scan := false) (captured := false) (f := fun y => y.clearActive.promote after n) ?_ ?_ ?_ rfl
    faulted (BayBook.promote_ok _ _ (ok b)) ?_ (.inl rfl)
  · rw [ends, e.promotes staged]
  · rw [ends, e.vacate_voice held requester somebody]
  · rw [ends, e.vacate_desk]
  · simp [Hold.arrived, arrival, noShowOf, ticket]

section
variable (arrival : n.arrival = none) (notClosed : (s.bay b).dyn.state ≠ .closed)
  (notFaulted : (s.bay b).dyn.state ≠ .faulted) (empty : s.waitlist = [])
include arrival notClosed notFaulted empty

omit active notClosed notFaulted in
/-- A promoted hold whose bay is derived HELD or CONTESTED. -/
theorem Ending.waits_promotes {st : BayState} (quiet : st ≠ .charging)
    (ends : e.begin.endActive b (.ended e.why) = ((e.begin.vacate b h (.ended e.why)).setState b st).wantScan) :
    e.Becomes t (e.told a t h) { (s.bay b).dyn with active := some n, staged := none, state := st } s.waitlist
      [e.notice st]
      (fun x => x.lookup u = some ⟨u, r, .active b⟩ ∧ x.Awaits b (some ⟨some u, n.graceEnd⟩) none none) := by
  refine e.becomes_promoted held ok ticket placed other known (scan := true) (captured := false)
    (f := fun y => (y.clearActive.promote after n).setDyn ({ · with state := st })) ?_ ?_ ?_ rfl
    rfl (BayBook.setDyn_ok _ (BayBook.promote_ok _ _ (ok b))) ?_ (.inr empty)
  · rw [ends, Ev.wantScan_books, Ev.setState_books, e.promotes staged, Books.put_put]
  · rw [ends, Ev.ended_voice _ quiet, e.vacate_voice held requester somebody]
  · rw [ends, Ev.ended_desk _ _ e.desk, e.bay]; rfl
  · simp [Hold.arrived, arrival, noShowOf, ticket]

/-- A promoted hold whose arrival is captured. -/
theorem Ending.captured_promotes (occupancy : (s.bay b).dyn.occupancy = .occupied)
    (open_ : s.still.verifies b = false ∨ n.entrySeen = true) (serves : s.still.Serves b) :
    e.Becomes t (e.told a t h) { (s.bay b).dyn with
        active := some { n with arrival := some s.now }, staged := none, state := s.still.third (s.bay b).dyn n } s.waitlist
      [e.notice (s.still.third (s.bay b).dyn n)]
      (fun x => x.lookup u = some ⟨u, r, .active b⟩ ∧ x.Awaits b none (some (s.overstayAt n)) none) := by
  have still : e.begin.books.still = after := by rw [e.books]
  have ends := Ev.endActive_captured (.ended e.why) (e.holds active) (by rw [e.bay]; exact notClosed)
    (by rw [e.bay]; exact notFaulted) (e.behind staged) arrival (by rw [e.bay]; exact occupancy)
    (by rw [still, e.verifies]; exact open_)
  rw [still, e.third, e.bay] at ends
  have kept : (e.promoted h n).still = after := (e.ended_leaves h).2.2
  refine e.becomes_promoted held ok ticket placed other known (scan := true) (captured := true)
    (f := fun y => (((y.clearActive.promote after n).setDyn ({ · with active := some { n with arrival := some s.now } })).await
      (noShowOf n) (s.overstayAt n) true).setDyn ({ · with state := s.still.third (s.bay b).dyn n })) ?_ ?_ ?_ rfl
    rfl ?_ ⟨rfl, rfl, rfl⟩ (.inr empty)
  · rw [ends, Ev.wantScan_books, Ev.setState_books, Ev.capture_books, e.promotes staged, Books.put_put, Books.put_put]
    rw [(Books.put_leaves ..).2.2.2.2, kept, e.now, e.overstay]
  · rw [ends, Ev.wantScan_voice, Ev.setState_voice, Ev.capture_voice, e.vacate_voice held requester somebody]
    intro _
    rw [Ev.capture_books, e.promotes staged, Books.put_put, (Books.put_leaves ..).2.2.2.2, kept]
    exact e.serves serves
  · rw [ends, Ev.wantScan_desk, Ev.setState_desk, Ev.capture_desk, e.vacate_desk, Desk.touch_known (b := b) _ rfl]
  · have placed : (((s.bay b).book.clearActive.promote after n).setDyn
        ({ · with active := some { n with arrival := some s.now } })).ok = true :=
      BayBook.setDyn_ok _ (BayBook.promote_ok _ _ (ok b))
    exact BayBook.setDyn_ok (y := (((s.bay b).book.clearActive.promote after n).setDyn
      ({ · with active := some { n with arrival := some s.now } })).await (noShowOf n) (s.overstayAt n) true) _ placed

end

end

end

end

end Sys2Proof.Machine
end

section
/-!
SUPPORT. A freed bay that serves the one waiting entry, and the obligation of the end of an active hold.
-/
namespace Sys2Proof.Machine

theorem Ev.bay_cls (ev : Ev) (b : BayIx) : (ev.bay b).cls = (ev.books.still.bays.get b).cls :=
  (congrArg BayConfig.cls (Table.get_map ev.st.bays Bay.config b)).symm

/-- A scan of one entry whose class only one bay can serve: that bay takes it. -/
theorem Ev.finish_serves_one {ev : Ev} {w : WaitEntry} {b : BayIx} (scan : ev.scan = true) (waiting : ev.books.waitlist = [w])
    (cls : (ev.books.still.bays.get b).cls = w.classWanted) (state : (ev.books.bays b).dyn.state = .free)
    (mode : (ev.books.bays b).dyn.closeMode = .none) (suspect : (ev.books.bays b).dyn.suspect = false)
    (ok : (ev.books.bays b).ok = true) (only : ∀ f, f ≠ b → (ev.bay f).searchable = false) :
    ∃ (ev' : Ev) (cursors : _), ev.finish = (ev'.serve w b .active).finish ∧ ev'.books = { ev.books with cursors := cursors }
      ∧ ev'.voice = ev.flushNotes.voice ∧ ev'.desk.notes = [] ∧ ev'.desk.scan = false := by
  have books : ({ ev.flushNotes with scan := false } : Ev).books = ev.books := ev.flushNotes_books
  have owes : ({ ev.flushNotes with scan := false } : Ev).notes = [] := ev.flushNotes_leaves.2.2
  have run := fun ev' => Ev.finish_scan_one (ev := ev) (ev' := ev') (b := b) (sl := .active) scan waiting
  have voice : ({ ev.flushNotes with scan := false } : Ev).voice = ev.flushNotes.voice := rfl
  have scanned : ({ ev.flushNotes with scan := false } : Ev).scan = false := rfl
  generalize ({ ev.flushNotes with scan := false } : Ev) = ev₀ at books owes run voice scanned
  have dyn (f : BayIx) : (ev₀.bay f).dyn = (ev.bay f).dyn := congrArg (fun k : Books => (k.bays f).dyn) books
  have fits : ev₀.st.Fits b w.hold.windowStart .active := by
    unfold State.Fits; dsimp only
    rw [show (ev₀.st.bay b).dyn = (ev.books.bays b).dyn from dyn b, state, mode, suspect]
    simp
  obtain ⟨ev', found, which⟩ := Ev.search_only (c := w.classWanted) (preferred := w.preferred)
    (by rw [ev₀.bay_cls, books]; exact cls) fits
    (show (ev₀.books.bays b).ok = true by rw [books]; exact ok)
    (fun f apart => by unfold Bay.searchable; rw [dyn f]; exact only f apart)
  have kept : ∃ cursors, ev'.books = { ev.books with cursors := cursors } := by
    rcases which with rfl | rfl
    · exact ⟨_, books⟩
    · exact ⟨_, (Ev.passCursor_books _ _).trans (by rw [books])⟩
  have quiet : ev'.voice = ev.flushNotes.voice ∧ ev'.desk.notes = [] ∧ ev'.desk.scan = false := by
    rcases which with rfl | rfl
    · exact ⟨voice, owes, scanned⟩
    · exact ⟨voice, owes, scanned⟩
  obtain ⟨cursors, books'⟩ := kept
  obtain ⟨voice', owes', scanned'⟩ := quiet
  have free : (ev'.books.bays b).dyn.state = .free := by rw [books']; exact state
  refine ⟨ev', cursors, run ev' found owes' ?_, books', voice', owes', scanned'⟩
  exact (congrArg Desk.scan (Ev.serve_desk free owes')).trans scanned'

section
variable {s : State} {b : BayIx} {c : Instr} {answer : Frame} {after : Still} (e : Ending s b c answer after)
  {h : Hold} {t : Ticket} {a : Addr} (active : (s.bay b).dyn.active = some h) (held : h.ticket = some t)
  (requester : h.requester = some a) (somebody : a ≠ 0) (ok : ∀ c, (s.bay c).checkOk = true)
  {w : WaitEntry} {u : Ticket} {r : Addr}

include e in
theorem Ending.site_kept : after.siteOffset = s.siteOffset := by
  have begins := e.site
  rwa [show e.begin.st.siteOffset = e.begin.books.still.siteOffset from rfl, e.books] at begins

theorem Ending.answer_sends {ev : Ev} {k : Nat} {fs : List Frame} (voice : ev.voice = s.waits k fs)
    (controller : ev.books.still.controller = s.controller) :
    s.Sends (ev.answer (ev.st.buildAnswer e.request.src e.request.tag e.kind e.payload)).finish (answer :: fs) := by
  have sends := Ev.answer_sends e.kind e.payload voice controller e.src
  rw [← e.answered] at sends
  exact sends

theorem Ending.answer_placed {ev : Ev} {k : Nat} {fs : List Frame} (voice : ev.voice = s.waits k fs)
    (controller : ev.books.still.controller = s.controller) (room : s.uplink.fifo.length + (answer :: fs).length ≤ 32) :
    (ev.answer (ev.st.buildAnswer e.request.src e.request.tag e.kind e.payload)).voice = s.placed k (answer :: fs) := by
  have placed := Ev.answer_placed e.kind e.payload voice controller e.src (by rw [← e.answered]; exact room)
  rw [← e.answered] at placed
  exact placed

/-- The books when the waiting entry's hold stands in the index at the freed bay. -/
def Ending.served (e : Ending s b c answer after) (h : Hold) (w : WaitEntry) (cursors : Table BayIx 4) : Books :=
  ({ e.ended h with cursors := cursors, waitlist := [] } : Books).indexHold w.hold (.active b)

include active held requester somebody ok

/-- The bay left FREE serves the one waiting entry, whose class it is of. -/
theorem Ending.serves_waiting (notClosed : (s.bay b).dyn.state ≠ .closed) (notFaulted : (s.bay b).dyn.state ≠ .faulted)
    (staged : (s.bay b).dyn.staged = none) (mode : (s.bay b).dyn.closeMode = .none) (suspect : (s.bay b).dyn.suspect = false)
    (vacant : (s.bay b).dyn.occupancy ≠ .occupied) (only : ∀ f, f ≠ b → (s.bay f).searchable = false)
    (waiting : s.waitlist = [w]) (cls : w.classWanted = (s.bay b).cls) (ticket : w.hold.ticket = some u)
    (placed : w.hold.requester = some r) (owner : r ≠ 0) (arrival : w.hold.arrival = none) (other : u ≠ t)
    (known : s.lookup u = some ⟨u, r, .waitlist⟩) (listener : s.controller.noticeDest ≠ 0) :
    e.Becomes t (e.told a t h) { (s.bay b).dyn with active := some w.hold, state := .held } []
      [e.notice .free,
        s.noticeAt 2 r Kind.holdNotice ([0] ++ be32w u ++ [byteOf (b.val + 1), 1, 0, 0, 0] ++ s.windowBytes w.hold
          ++ List.replicate 16 0),
        s.bayNoticeAt 3 b .free .held 3 0 0]
      (fun x => x.lookup u = some ⟨u, r, .active b⟩
        ∧ x.Awaits b (some ⟨some u, w.hold.graceEnd⟩) none (s.bay b).timer.displacement) := by
  have bay := e.bay
  have stagedNow := e.unstaged staged
  obtain ⟨keptBays, keptWaits, keptStill⟩ := e.ended_leaves h
  have becomesFree : (s.bay b).dyn.vacated = .free := if_neg vacant
  have ends := Ev.endActive_derived (.ended e.why) (e.holds active) stagedNow (by rw [bay]; exact notClosed)
    (by rw [bay]; exact notFaulted) (by rw [bay]; exact mode)
  have books : (e.begin.endActive b (.ended e.why)).books = (e.ended h).put b (.emptied .free) := by
    rw [ends, Ev.ended_books _ stagedNow, e.leaves_index, bay, becomesFree]
  have voice : (e.begin.endActive b (.ended e.why)).voice = s.waits 1 [e.told a t h] := by
    rw [ends, Ev.ended_voice _ (by rw [bay, becomesFree]; simp), e.vacate_voice held requester somebody]
  have desk : (e.begin.endActive b (.ended e.why)).desk = ⟨[endNote b (s.bay b).dyn.state e.why], true, false⟩ := by
    rw [ends, Ev.ended_desk _ _ e.desk, bay]; rfl
  have controller : (e.begin.endActive b (.ended e.why)).books.still.controller = s.controller := by
    rw [books, (Books.put_leaves ..).2.2.2.2, keptStill, e.controller]
  have run := e.runs
  have early := e.answer_sends voice controller
  have answered := e.answer_placed voice controller
  have books' := Ev.answer_books (e.begin.endActive b (.ended e.why))
    ((e.begin.endActive b (.ended e.why)).st.buildAnswer e.request.src e.request.tag e.kind e.payload)
  have desk' := Ev.answer_desk (e.begin.endActive b (.ended e.why))
    ((e.begin.endActive b (.ended e.why)).st.buildAnswer e.request.src e.request.tag e.kind e.payload)
  rw [books] at books'
  rw [desk] at desk'
  generalize (e.begin.endActive b (.ended e.why)).answer _ = ev at run early answered books' desk'
  have bayOf (f : BayIx) : (ev.bay f).dyn = (((e.ended h).put b (.emptied .free)).bays f).dyn :=
    congrArg (fun k : Books => (k.bays f).dyn) books'
  have here : ev.books.bays b = .emptied .free (s.bay b).book := by rw [books', Books.put_same, keptBays]; rfl
  have still : ev.books.still = after := by rw [books', (Books.put_leaves ..).2.2.2.2, keptStill]
  obtain ⟨ev', cursors, serves, booksKept, voice', owes, scanned⟩ := Ev.finish_serves_one (ev := ev) (w := w) (b := b)
    (Ev.scan_of_desk desk') (by rw [books', (Books.put_leaves ..).2.1, keptWaits, waiting])
    (by rw [still, e.bays, cls]; exact congrArg BayConfig.cls (Table.get_map s.bays Bay.config b))
    (by rw [here]; rfl) (by rw [here]; exact mode) (by rw [here]; exact suspect)
    (by rw [here]; exact BayBook.emptied_ok _ _ (ok b)) (fun f apart => by
      unfold Bay.searchable
      rw [bayOf, Books.put_other _ _ apart, keptBays]
      exact only f apart)
  have free : (ev'.books.bays b).dyn.state = .free := by rw [booksKept, here]; rfl
  have erased : ev'.books.waitlist.erase w = [] := by
    rw [booksKept, books', (Books.put_leaves ..).2.1, keptWaits, waiting]; simp
  have final : (ev'.serve w b .active).books = (e.served h w cursors).put b (fun y => (y.emptied .free).takeActive after w.hold) := by
    rw [Ev.serve_books free, erased, booksKept, still, books']
    exact Books.put_put (e.served h w cursors) b (.emptied .free) (.takeActive after w.hold)
  have placedHere : ((e.served h w cursors).put b (fun y => (y.emptied .free).takeActive after w.hold)).bays b
      = ((s.bay b).book.emptied .free).takeActive after w.hold := by
    rw [Books.put_same, show (e.served h w cursors).bays = s.books.bays from keptBays]; rfl
  have shows_ := Ev.finish_shows (ev'.serve w b .active) (.inl ((congrArg Desk.scan (Ev.serve_desk free owes)).trans scanned))
    (.inr (by
      rw [final]; intro f
      by_cases same : f = b
      · rw [same, placedHere]; exact BayBook.takeActive_ok _ _ _ (BayBook.emptied_ok _ _ (ok b))
      · rw [Books.put_other _ _ same, show (e.served h w cursors).bays = s.books.bays from keptBays]; exact ok f))
  rw [final] at shows_
  rw [serves] at run early
  have awaits := shows_.awaits b
  have dyn := shows_.dyn b
  rw [placedHere] at awaits dyn
  refine ⟨_, run, shows_.still.trans keptStill, dyn, fun f apart => shows_.other keptBays apart, shows_.waits, ?_, early,
    fun _ => ?_, ?_, ?_⟩
  · exact (shows_.lookup t).trans ((Books.lookup_indexHold_other (k := ({ e.ended h with cursors := cursors, waitlist := [] } : Books)) ticket placed other.symm).trans
      (Books.lookup_unindex_same (k := ({ s.books with still := after } : Books)) held))
  · have flushed (room : s.uplink.fifo.length + 3 ≤ 32) :
        ev'.voice = s.placed 2 [answer, e.told a t h, e.notice .free] := by
      have now := answered (by simpa using Nat.le_of_succ_le room)
      rw [voice', Ev.flushNotes_voice _ (by rw [now]; rfl) (by
          rw [now, desk']; simp only [State.placed, List.length_append, List.length_cons, List.length_nil]; omega), desk', now,
        List.foldl_cons, List.foldl_nil, State.placed_raise s 1 _ (after := .free) (by rw [still, e.controller])
          (by rw [show (endNote b (s.bay b).dyn.state e.why).bay = b from rfl, here]; rfl) (endNote_raised ..) listener]
      rfl
    have site : ev'.st.windowBytes w.hold = s.windowBytes w.hold := by
      unfold State.windowBytes
      rw [show ev'.st.siteOffset = ev'.books.still.siteOffset from rfl, booksKept, still, e.site_kept]
    have own : ev'.books.still.controller.own = s.controller.own := by rw [booksKept, still, e.controller]
    have controlled : (ev'.serve w b .active).books.still.controller = s.controller := by
      rw [final, (Books.put_leaves ..).2.2.2.2]
      exact (congrArg Still.controller keptStill).trans e.controller
    have taken : ((ev'.serve w b .active).books.bays b).dyn.state = .held := by rw [final, placedHere]; rfl
    refine Ev.finish_sends_note (k := 3) (n := placeNote b) (after := .held) (fs := [answer, e.told a t h, e.notice .free, _])
      (fun room => ?_) (congrArg Desk.notes (Ev.serve_desk free owes)) controlled taken rfl listener
    simp only [List.length_cons, List.length_nil] at room
    have now := flushed (by omega)
    rw [Ev.serve_voice free ticket placed (by rw [now]; exact s.placed_room (by simp only [List.length_cons, List.length_nil]; omega)), now, own, site]
    exact s.placed_tell 2 _ _ _ owner
  · exact (shows_.lookup u).trans (Books.lookup_indexHold_known (k := ({ e.ended h with cursors := cursors, waitlist := [] } : Books))
      (e := ⟨u, r, .waitlist⟩) ticket placed ((Books.lookup_unindex_other (k := ({ s.books with still := after } : Books)) held other).trans known))
  · have standing : (s.bay b).book.check = (s.bay b).timer.displacement := rfl
    simpa [Hold.arrived, arrival, noShowOf, ticket, standing] using awaits

end

/-- A FORCE-END of an active slot that names the null ticket ends a walk-in hold without a HOLD-NOTICE (R156). -/
theorem forceEnd_walkIn {s : State} {r : Request} {q : List Request} {b : BayIx} {w x y z : Byte} {h : Hold}
    (running : s.heldInReset = false) (head : s.management = r :: q) (kind : r.kind = Kind.control)
    (payload : r.payload = [4, byteOf (b.val + 1), 1, w, x, y, z]) (active : (s.bay b).dyn.active = some h)
    (walkIn : h.ticket = none) (named : w ++ x ++ y ++ z = (0 : Ticket)) (notClosed : (s.bay b).dyn.state ≠ .closed)
    (notFaulted : (s.bay b).dyn.state ≠ .faulted) (staged : (s.bay b).dyn.staged = none)
    (mode : (s.bay b).dyn.closeMode = .none) (empty : s.waitlist = []) (ok : ∀ e, (s.bay e).checkOk = true) :
    ∃ t, exec .forceEnd s = .next t ∧ t.still = { s.still with management := q }
      ∧ (t.bay b).dyn = { (s.bay b).dyn with active := none, state := (s.bay b).dyn.vacated }
      ∧ (∀ e, e ≠ b → (t.bay e).dyn = (s.bay e).dyn ∧ s.AwaitsAs t e) ∧ t.index = s.index
      ∧ t.Awaits b none none (s.bay b).timer.displacement
      ∧ s.Answers t r Kind.mgmtAnswer [r.kind, 0]
      ∧ (r.src ≠ 0 → s.controller.noticeDest ≠ 0 →
          s.Sends t [s.answerTo r Kind.mgmtAnswer [r.kind, 0], s.bayNoticeAt 0 b (s.bay b).dyn.state (s.bay b).dyn.vacated 4 4 0]) := by
  have slot : r.payload = [4, byteOf (b.val + 1), byteOf Slot.active.code, w, x, y, z] := payload
  have run := execForceEnd_runs running head kind payload
  rw [Ev.forceEnd_acts (ev := s.managing q) slot active (.inl named)] at run
  have ends := Ev.endActive_derived (ev := s.managing q) (.ended .forced) active staged notClosed notFaulted mode
  have quiet : (s.bay b).dyn.vacated ≠ .charging := by
    rcases BayDyn.vacated_cases (s.bay b).dyn with h | h <;> rw [h] <;> simp
  generalize hev : (s.managing q).endActive b (.ended .forced) = ev at run ends
  have books : ev.books = ({ s with management := q } : State).books.put b (.emptied (s.bay b).dyn.vacated) := by
    rw [ends]
    refine (Ev.ended_books (ev := s.managing q) (.ended .forced) staged _).trans ?_
    exact congrArg (fun k : Books => k.put b _) (Books.unindex_none (k := ({ s with management := q } : State).books) walkIn)
  have voice : ev.voice = s.waits 0 [] := by
    rw [ends]
    refine (Ev.ended_voice (ev := s.managing q) (.ended .forced) quiet).trans ?_
    exact (Ev.vacate_voice_walkIn (ev := s.managing q) (.ended .forced) walkIn).trans (s.managing_voice q)
  have desk : ev.desk = ⟨[endNote b (s.bay b).dyn.state .forced], true, false⟩ := by
    rw [ends]
    exact Ev.ended_desk (ev := s.managing q) (.ended .forced) _ rfl
  have run' : exec .forceEnd s = .next (ev.answer (ev.st.buildAnswer r.src r.tag Kind.mgmtAnswer [r.kind, 0])).finish :=
    run.trans (by rw [← hev]; rfl)
  have controller : ev.books.still.controller = s.controller := by rw [books]; rfl
  have here : ev.books.bays b = .emptied (s.bay b).dyn.vacated (s.bay b).book := by rw [books]; exact Books.put_same ..
  have shows_ := Ev.finish_shows (ev.answer (ev.st.buildAnswer r.src r.tag Kind.mgmtAnswer [r.kind, 0]))
    (.inr (by rw [Ev.answer_books, books]; exact empty)) (.inr (by
      rw [Ev.answer_books]; intro f
      by_cases same : f = b
      · rw [same, here]; exact BayBook.emptied_ok _ _ (ok b)
      · rw [books, Books.put_other _ _ same]; exact ok f))
  rw [Ev.answer_books, books] at shows_
  have dyn := shows_.dyn b
  have awaits := shows_.awaits b
  rw [Books.put_same] at dyn awaits
  refine ⟨_, run', shows_.still, dyn, fun f apart => shows_.other rfl apart, shows_.index, awaits,
    State.Answers_of_voice _ _ (by rw [voice]; rfl) controller, fun src listener => ?_⟩
  exact Ev.finish_sends_note (k := 0) (n := endNote b (s.bay b).dyn.state .forced) (after := (s.bay b).dyn.vacated) (fs := [_])
    (fun room => Ev.answer_placed (fs := []) Kind.mgmtAnswer [r.kind, 0] voice controller src room)
    (by rw [Ev.answer_desk, desk]) (by rw [Ev.answer_books]; exact controller)
    (by rw [Ev.answer_books]; exact congrArg (fun y : BayBook => y.dyn.state) here) (endNote_raised ..) listener

/-- Settles O43: the end of an active hold is followed through `Ending` for FREE and FORCE-END alike. -/
theorem activeHoldEnds : Obligations.ActiveHoldEnds := by
  refine ⟨?_, ?_⟩
  · intro s b h t a c reason answer after running ends active held requester somebody ok
    obtain ⟨e, rfl⟩ := ends.ending running active held
    refine ⟨fun notClosed notFaulted staged mode empty => ?_, fun notClosed notFaulted staged mode => ?_,
      fun faulted staged => ?_, fun closed staged mode empty => ?_, ?_, ?_, ?_⟩
    · have done := e.derived active held requester somebody ok staged notClosed notFaulted mode empty
      rw [empty] at done; exact done
    · exact e.closed active held requester somebody ok staged notFaulted mode
    · exact e.faulted active held requester somebody ok staged faulted
    · have done := e.stays active held requester somebody ok staged closed mode empty
      rw [empty] at done; exact done
    · intro n u r faulted staged ticket placed arrival other known
      exact e.faulted_promotes active held requester somebody ok staged ticket placed other known arrival faulted
    · intro n u r notClosed notFaulted staged ticket placed arrival other known empty serves verify third promoted
      have serves' : s.still.Serves b := ((Ev.start s).serves_iff b).2 serves
      have verifies : s.still.verifies b = verify := (Ev.start s).verifies_iff b
      have stagedNow := e.behind staged
      have waits {st : BayState} (quiet : st ≠ .charging)
          (ends : e.begin.endActive b (.ended e.why) = ((e.begin.vacate b h (.ended e.why)).setState b st).wantScan) :
          promoted n st := by
        have done := e.waits_promotes held requester somebody ok staged ticket placed other known arrival empty quiet ends
        rw [empty] at done
        obtain ⟨x, run, still, here, rest, waits, unknown, early, sends, found, awaits⟩ := done
        exact ⟨x, run, still, here, rest, waits, unknown, early, sends, found, by
          rw [if_pos arrival, if_pos arrival]; exact awaits⟩
      have open_ : (e.begin.books.bays b).dyn.state ≠ .closed := by rw [e.bay]; exact notClosed
      have sound : (e.begin.books.bays b).dyn.state ≠ .faulted := by rw [e.bay]; exact notFaulted
      refine ⟨fun occupancy => ?_, fun occupancy checks unseen => ?_, fun occupancy trusted => ?_⟩
      · exact waits (by simp) (Ev.endActive_held _ (e.holds active) open_ sound stagedNow arrival (by rw [e.bay]; exact occupancy))
      · exact waits (by simp) (Ev.endActive_contested _ (e.holds active) open_ sound stagedNow arrival
          (by rw [e.bay]; exact occupancy) (by rw [e.books]; exact e.verifies.trans (verifies.trans checks)) unseen)
      · have done := e.captured_promotes active held requester somebody ok staged ticket placed other known arrival notClosed
          notFaulted empty occupancy (by rw [verifies]; exact trusted) serves'
        rw [empty] at done
        exact done
    · intro w u r notClosed notFaulted staged mode suspect vacant only waiting cls ticket placed owner arrival other known listener
      exact e.serves_waiting active held requester somebody ok notClosed notFaulted staged mode suspect vacant only waiting cls
        ticket placed owner arrival other known listener
  · intro s r q b w x y z running head kind payload d named
    refine ⟨fun refused => ?_, fun h active walkIn null notClosed notFaulted staged mode empty ok => ?_⟩
    · have slot : r.payload = [4, byteOf (b.val + 1), byteOf Slot.active.code, w, x, y, z] := payload
      have run := execForceEnd_runs running head kind payload
      rcases refused with vacant | ⟨somebody, h, active, other⟩
      · rw [run, Ev.forceEnd_empty (ev := s.managing q) slot vacant, Ev.finish_status]
      · rw [run, Ev.forceEnd_other (ev := s.managing q) slot active somebody other, Ev.finish_status]
    · exact forceEnd_walkIn running head kind payload active walkIn null notClosed notFaulted staged mode empty ok

end Sys2Proof.Machine
end

section
/-!
SUPPORT. A management operation on one bay, answered OK: what it shows and sends; OPEN, CLOSE-NOW and CLOSE-AT-END.
-/
namespace Sys2Proof.Machine

/-! ## An operation on the book of one bay -/

section
variable {s : State} {r : Request} {q : List Request} {b : BayIx} {ev : Ev} {f : BayBook → BayBook} {d : BayDyn}

/-- The answer OK of a management operation. -/
abbrev State.okFrame (s : State) (r : Request) : Frame := s.answerTo r Kind.mgmtAnswer [r.kind, 0]

theorem Ev.status_ok (ev : Ev) (r : Request) :
    ev.status r .ok = ev.answer (ev.st.buildAnswer r.src r.tag Kind.mgmtAnswer [r.kind, 0]) := rfl

/-- What an operation on the book of one bay leaves. -/
structure State.Operated (s : State) (r : Request) (q : List Request) (b : BayIx) (d : BayDyn) (t : State) : Prop where
  still : t.still = { s.still with management := q }
  here : (t.bay b).dyn = d
  other : ∀ e, e ≠ b → (t.bay e).dyn = (s.bay e).dyn
  index : t.index = s.index
  holds : t.waitHolds = s.waitHolds
  answers : s.Answers t r Kind.mgmtAnswer [r.kind, 0]

variable (books : ev.books = ({ s with management := q } : State).books.put b f) (voice : ev.voice = s.waits 0 [])
include books voice

theorem Ev.operated (scan : ev.scan = false ∨ s.waitlist = [])
    (kept : ∀ y : BayBook, y.ok = true → (f y).ok = true)
    (agrees : ev.recompute = false ∨ ∀ e, (s.bay e).checkOk = true)
    (dyn : (f (s.bay b).book).dyn = d) : s.Operated r q b d (ev.status r .ok).finish := by
  have shows_ := Ev.finish_shows (ev.status r .ok)
    (scan.imp (fun no => (ev.answer_leaves _).2.1.trans no)
      (fun empty => by rw [Ev.status_ok, Ev.answer_books, books]; exact empty))
    (agrees.imp (fun no => (ev.answer_leaves _).2.2.1.trans no) (fun ok => by
      rw [Ev.status_ok, Ev.answer_books, books]
      exact Books.Ok.put (k := ({ s with management := q } : State).books) ok b kept))
  rw [Ev.status_ok, Ev.answer_books, books] at shows_
  exact ⟨shows_.still, (shows_.dyn b).trans ((congrArg (·.dyn) (Books.put_same ..)).trans dyn),
    fun e other => (shows_.other (s := s) rfl other).1, shows_.index, shows_.holds,
    State.Answers_of_voice _ _ (by rw [voice]; rfl) (by rw [books]; rfl)⟩

theorem Ev.operated_sends (src : r.src ≠ 0) : s.Sends (ev.status r .ok).finish [s.okFrame r] :=
  Ev.answer_sends (k := 0) _ _ voice (by rw [books]; rfl) src

theorem Ev.operated_sends_note {n : BayNote} (notes : ev.desk.notes = [n]) (bay : n.bay = b)
    (dyn : (f (s.bay b).book).dyn = d) (raised : n.raised d.state = true) (src : r.src ≠ 0)
    (listener : s.controller.noticeDest ≠ 0) :
    s.Sends (ev.status r .ok).finish [s.okFrame r, s.noteAt 0 n d.state] :=
  Ev.finish_sends_note (k := 0) (n := n) (after := d.state) (fs := [_])
    (fun room => Ev.answer_placed (fs := []) Kind.mgmtAnswer [r.kind, 0] voice (by rw [books]; rfl) src room)
    (by rw [Ev.status_ok, Ev.answer_desk, notes]) (by rw [Ev.status_ok, Ev.answer_books, books]; rfl)
    (by
      rw [Ev.status_ok, Ev.answer_books, books, bay, Books.put_same]
      exact congrArg BayDyn.state dyn) raised listener

end

/-! ## OPEN (R155) -/

theorem exec_openBay (s : State) : exec .openBay s = execOpen s := rfl

theorem exec_closeNow (s : State) : exec .closeNow s = execCloseNow s := rfl

theorem exec_closeAtEnd (s : State) : exec .closeAtEnd s = execCloseAtEnd s := rfl

/-- The note of a bay that an operation opens or closes, with the cause it meets. -/
def causeNote (b : BayIx) (before : BayState) (c : BayCause) (fault : Option FaultCause) : BayNote :=
  ⟨b, before, [c], none, fault⟩

section
variable {s : State} {r : Request} {q : List Request} {b : BayIx} (running : s.heldInReset = false)
  (head : s.management = r :: q) (kind : r.kind = Kind.control)

include running head kind

theorem execOpen_runs (payload : r.payload = [1, byteOf (b.val + 1)]) :
    exec .openBay s = .next (Ev.openAt b r (s.managing q)).finish := by
  rw [exec_openBay, execOpen]
  exact State.takeBayControl_runs s b _ running head kind (by rw [payload]; rfl) (by rw [payload]; rfl)
    (by rw [payload]; simp) (by rw [payload]; simp)

theorem execCloseNow_runs (payload : r.payload = [2, byteOf (b.val + 1)]) :
    exec .closeNow s = .next (((s.managing q).closeNow b).status r .ok).finish := by
  rw [exec_closeNow, execCloseNow]
  exact State.takeBayControl_runs s b _ running head kind (by rw [payload]; rfl) (by rw [payload]; rfl)
    (by rw [payload]; simp) (by rw [payload]; simp)

theorem execCloseAtEnd_runs (payload : r.payload = [3, byteOf (b.val + 1)]) :
    exec .closeAtEnd s = .next (((s.managing q).closeAtEnd b).status r .ok).finish := by
  rw [exec_closeAtEnd, execCloseAtEnd]
  exact State.takeBayControl_runs s b _ running head kind (by rw [payload]; rfl) (by rw [payload]; rfl)
    (by rw [payload]; simp) (by rw [payload]; simp)

end

/-! ## The closing of a bay (R153, R154) -/

section
variable (ev : Ev) (b : BayIx)

/-- A bay's book closed. -/
def BayBook.closed (y : BayBook) : BayBook :=
  (y.setDyn ({ · with state := .closed })).setDyn ({ · with closeMode := .none })

theorem Ev.closeEmpty_books : (ev.closeEmpty b).books = ev.books.put b .closed := by
  unfold Ev.closeEmpty; rw [Ev.note_books, Ev.closeBay_books, Ev.touch_books]; rfl

theorem Ev.closeEmpty_voice : (ev.closeEmpty b).voice = ev.voice := by
  unfold Ev.closeEmpty; rw [Ev.note_voice, Ev.closeBay_voice, Ev.touch_voice]

theorem Ev.closeEmpty_calm {ev : Ev} {b : BayIx} (same : ev.calm.charging b = false) : (ev.closeEmpty b).calm = ev.calm := by
  unfold Ev.closeEmpty
  rw [Ev.note_calm, Ev.closeBay_calm (by rw [Ev.touch_calm]; exact same), Ev.touch_calm]

theorem Ev.closeEmpty_desk {ev : Ev} {b : BayIx} (clear : ev.desk = .clear) :
    (ev.closeEmpty b).desk = ⟨[causeNote b (ev.books.bays b).dyn.state .closed none], false, false⟩ := by
  unfold Ev.closeEmpty
  rw [Ev.note_desk, Ev.closeBay_desk, Ev.touch_desk, clear, Desk.clear_touch, Desk.touch_known (b := b) _ rfl,
    Desk.touch_known (b := b) _ rfl, Desk.modNote_known (b := b) _ rfl]
  rfl

theorem Ev.startClosing_books : (ev.startClosing b).books
    = ev.books.put b (.setDyn · ({ · with closeMode := .closingAtEnd })) := by
  unfold Ev.startClosing; rw [Ev.modDyn_books, Ev.touch_books]

theorem Ev.startClosing_voice : (ev.startClosing b).voice = ev.voice := by
  unfold Ev.startClosing; rw [Ev.modDyn_voice, Ev.touch_voice]

theorem Ev.startClosing_calm : (ev.startClosing b).calm = ev.calm := by
  unfold Ev.startClosing; rw [Ev.modDyn_calm, Ev.touch_calm]

theorem Ev.startClosing_scan : (ev.startClosing b).scan = ev.scan := by
  unfold Ev.startClosing Ev.touch; split <;> rfl

variable {ev : Ev} {b : BayIx}

theorem Ev.closeAtEnd_closed (closed : (ev.books.bays b).dyn.state = .closed) : ev.closeAtEnd b = ev := by
  unfold Ev.closeAtEnd; exact if_pos closed

theorem Ev.closeAtEnd_empty (open_ : (ev.books.bays b).dyn.state ≠ .closed) (active : (ev.books.bays b).dyn.active = none) :
    ev.closeAtEnd b = ev.closeEmpty b := by
  unfold Ev.closeAtEnd; dsimp only
  rw [if_neg (c := (ev.bay b).dyn.state = .closed) open_, if_pos (c := (ev.bay b).dyn.active = none) active]

theorem Ev.closeAtEnd_held {h : Hold} (open_ : (ev.books.bays b).dyn.state ≠ .closed)
    (active : (ev.books.bays b).dyn.active = some h) : ev.closeAtEnd b = ev.startClosing b := by
  unfold Ev.closeAtEnd; dsimp only
  rw [if_neg (c := (ev.bay b).dyn.state = .closed) open_,
    if_neg (c := (ev.bay b).dyn.active = none) (fun none => by
      have := active.symm.trans none; cases this)]

theorem Ev.closeNow_idle (idle : (ev.books.bays b).dyn.state = .closed ∨ (ev.books.bays b).dyn.active = none) :
    ev.closeNow b = ev.closeAtEnd b := by
  unfold Ev.closeNow; exact if_pos idle

theorem Ev.closeNow_held {h : Hold} (open_ : (ev.books.bays b).dyn.state ≠ .closed)
    (active : (ev.books.bays b).dyn.active = some h) :
    ev.closeNow b = ((ev.startClosing b).relocateOrDisplace b .staged).relocateActive b := by
  unfold Ev.closeNow
  refine if_neg fun idle => ?_
  rcases idle with closed | none
  · exact open_ closed
  · have := active.symm.trans none; cases this

theorem Ev.relocateOrDisplace_none {sl : Slot} (empty : (ev.books.bays b).dyn.slot sl = none) :
    ev.relocateOrDisplace b sl = ev := by
  unfold Ev.relocateOrDisplace
  rw [show (ev.bay b).dyn.slot sl = none from empty]

theorem Ev.relocateActive_arrived {h : Hold} (active : (ev.books.bays b).dyn.active = some h) (arrival : h.arrival ≠ none) :
    ev.relocateActive b = ev := by
  unfold Ev.relocateActive
  rw [show (ev.bay b).dyn.active = some h from active]
  exact if_pos (Option.isSome_iff_ne_none.2 arrival)

theorem Ev.relocateActive_waiting {h : Hold} (active : (ev.books.bays b).dyn.active = some h) (arrival : h.arrival = none) :
    ev.relocateActive b = ev.relocateOrDisplace b .active := by
  unfold Ev.relocateActive
  rw [show (ev.bay b).dyn.active = some h from active]
  exact if_neg (by simp [Hold.arrived, arrival])

theorem Ev.closeNow_arrived {h : Hold} (open_ : (ev.books.bays b).dyn.state ≠ .closed)
    (active : (ev.books.bays b).dyn.active = some h) (arrival : h.arrival ≠ none)
    (staged : (ev.books.bays b).dyn.staged = none) : ev.closeNow b = ev.startClosing b := by
  have closing : ((ev.startClosing b).books.bays b).dyn = { (ev.books.bays b).dyn with closeMode := .closingAtEnd } := by
    rw [Ev.startClosing_books, Books.put_same]; rfl
  rw [Ev.closeNow_held open_ active, Ev.relocateOrDisplace_none (by rw [closing]; exact staged),
    Ev.relocateActive_arrived (by rw [closing]; exact active) arrival]

end

/-! ## A CLOSED bay opened (R155) -/

section
variable {ev : Ev} {b : BayIx}

theorem Ev.openClosed_sound (causes : ev.st.faultCauses b = []) (active : (ev.books.bays b).dyn.active = none) :
    ev.openClosed b = ((((ev.touch b).setState b (ev.books.bays b).dyn.vacated).note b .opened)).wantScan := by
  unfold Ev.openClosed
  rw [causes]; dsimp only
  rw [Ev.derive_none (by rw [Ev.touch_books]; exact active), Ev.touch_books]
  rfl

theorem Ev.openClosed_failed {c : FaultCause} {cs : List FaultCause} (causes : ev.st.faultCauses b = c :: cs) :
    ev.openClosed b = ((ev.noteFault b c).setState b .faulted).note b .opened := by
  unfold Ev.openClosed
  rw [causes]

theorem Ev.openAt_closed {r : Request} (closed : (ev.books.bays b).dyn.state = .closed) (post : ev.st.post b ≠ none) :
    Ev.openAt b r ev = (ev.openClosed b).status r .ok := by
  unfold Ev.openAt; dsimp only
  rw [if_pos (c := (ev.bay b).dyn.state = .closed) closed, if_neg (by simpa using post)]

theorem Ev.openAt_noPost {r : Request} (closed : (ev.books.bays b).dyn.state = .closed) (post : ev.st.post b = none) :
    Ev.openAt b r ev = ev.status r .badIndex := by
  unfold Ev.openAt; dsimp only
  rw [if_pos (c := (ev.bay b).dyn.state = .closed) closed, if_pos (by rw [post]; rfl)]

theorem Ev.openAt_closing {r : Request} (open_ : (ev.books.bays b).dyn.state ≠ .closed)
    (mode : (ev.books.bays b).dyn.closeMode = .closingAtEnd) :
    Ev.openAt b r ev = ((ev.modDyn b ({ · with closeMode := .none })).wantScan).status r .ok := by
  unfold Ev.openAt; dsimp only
  rw [if_neg (c := (ev.bay b).dyn.state = .closed) open_, if_pos (c := (ev.bay b).dyn.closeMode = .closingAtEnd) mode]

theorem Ev.openAt_open {r : Request} (open_ : (ev.books.bays b).dyn.state ≠ .closed)
    (mode : (ev.books.bays b).dyn.closeMode = .none) : Ev.openAt b r ev = ev.status r .ok := by
  unfold Ev.openAt; dsimp only
  rw [if_neg (c := (ev.bay b).dyn.state = .closed) open_,
    if_neg (c := (ev.bay b).dyn.closeMode = .closingAtEnd) (by rw [show (ev.bay b).dyn.closeMode = .none from mode]; simp)]

end

section
variable {s : State} {r : Request} {q : List Request} {b : BayIx}

/-- A bay taken from CLOSED to another state, with its note. -/
theorem Ev.opened_ends {ev : Ev} {st : BayState} {cause : Option FaultCause} (moved : st ≠ .closed)
    (books : ev.books = ({ s with management := q } : State).books.put b (.setDyn · ({ · with state := st })))
    (voice : ev.voice = s.waits 0 []) (notes : ev.desk.notes = [causeNote b .closed .opened cause])
    (scan : ev.scan = false ∨ s.waitlist = [])
    (agrees : ev.recompute = false ∨ ∀ e, (s.bay e).checkOk = true) :
    s.Operated r q b { (s.bay b).dyn with state := st } (ev.status r .ok).finish
    ∧ (r.src ≠ 0 → s.controller.noticeDest ≠ 0 → s.Sends (ev.status r .ok).finish
        [s.okFrame r, s.bayNoticeAt 0 b .closed st 10 0 (cause.elim 0 FaultCause.code)]) := by
  refine ⟨Ev.operated books voice scan (fun _ ok => BayBook.setDyn_ok _ ok) agrees rfl, fun src listener => ?_⟩
  have sends := Ev.operated_sends_note books voice (n := causeNote b .closed .opened cause) notes rfl
    (d := { (s.bay b).dyn with state := st }) rfl (by simpa [BayNote.raised, causeNote] using moved.symm) src listener
  cases cause <;> exact sends

end

/-- Settles O53: each case is one operation on the book of the bay, answered OK. -/
theorem openAndClose : Obligations.OpenAndClose := by
  refine ⟨?_, ?_⟩
  · intro s r q b running head kind payload d uncharged becomes
    have run := execOpen_runs running head kind payload
    have start : (s.managing q).voice = s.waits 0 [] := s.managing_voice q
    have closing {ev : Ev} {fs : List Frame} {d' : BayDyn} (run : exec .openBay s = .next (ev.status r .ok).finish)
        (left : s.Operated r q b d' (ev.status r .ok).finish)
        (sends : r.src ≠ 0 → s.controller.noticeDest ≠ 0 → s.Sends (ev.status r .ok).finish (s.okFrame r :: fs)) :
        becomes d' fs :=
      ⟨_, run, left.still, left.here, left.other, left.index, left.holds, left.answers, sends⟩
    refine ⟨fun closed post => ?_, fun closed post causes active h empty => ?_, fun c cs closed post causes h => ?_,
      fun open_ mode empty => ?_, fun open_ mode => ?_⟩
    · rw [run, Ev.openAt_noPost (ev := s.managing q) closed post, Ev.finish_status]
    · rw [Ev.openAt_closed (ev := s.managing q) closed post, Ev.openClosed_sound (ev := s.managing q) causes active] at run
      have shown : ((s.managing q).books.bays b).dyn.vacated = .unbooked ∨ ((s.managing q).books.bays b).dyn.vacated = .free :=
        BayDyn.vacated_cases _
      have ends := Ev.opened_ends (s := s) (r := r) (q := q) (b := b) (st := ((s.managing q).books.bays b).dyn.vacated)
        (cause := none)
        (ev := ((((s.managing q).touch b).setState b ((s.managing q).books.bays b).dyn.vacated).note b .opened).wantScan)
        (by rcases shown with h | h <;> rw [h] <;> simp)
        (by rw [Ev.wantScan_books, Ev.note_books, Ev.setState_books, Ev.touch_books]; rfl)
        (by rw [Ev.wantScan_voice, Ev.note_voice, Ev.setState_voice _ _ (by rcases shown with h | h <;> rw [h] <;> simp),
          Ev.touch_voice, start])
        ?_ (.inr empty) (h.imp_left fun none => ?_)
      · exact closing run ends.1 ends.2
      · rw [Ev.wantScan_desk, Ev.note_desk, Ev.setState_desk, Ev.touch_desk, show (s.managing q).desk = .clear from rfl,
          Desk.clear_touch, Desk.touch_known (b := b) _ rfl, Desk.touch_known (b := b) _ rfl, Desk.modNote_known (b := b) _ rfl,
          show ((s.managing q).books.bays b).dyn.state = .closed from closed]
        rfl
      · refine Ev.recompute_of_calm (ev := s.managing q) ?_
        rw [Ev.wantScan_calm, Ev.note_calm, Ev.setState_calm _ _ (by
          rw [Ev.touch_calm, show (s.managing q).calm.charging b = false from none]
          rcases shown with h | h <;> rw [h] <;> rfl), Ev.touch_calm]
    · rw [Ev.openAt_closed (ev := s.managing q) closed post, Ev.openClosed_failed (ev := s.managing q) causes] at run
      have desk : ((((s.managing q).noteFault b c).setState b .faulted).note b .opened).desk
          = ⟨[causeNote b .closed .opened (some c)], false, false⟩ := by
        rw [Ev.note_desk, Ev.setState_desk, Ev.noteFault_desk, show (s.managing q).desk = .clear from rfl,
          Desk.clear_touch, Desk.modNote_known (b := b) _ rfl, Desk.touch_known (b := b) _ rfl, Desk.touch_known (b := b) _ rfl,
          Desk.modNote_known (b := b) _ rfl, show ((s.managing q).books.bays b).dyn.state = .closed from closed]
        rfl
      have ends := Ev.opened_ends (s := s) (r := r) (q := q) (b := b) (st := .faulted) (cause := some c)
        (ev := (((s.managing q).noteFault b c).setState b .faulted).note b .opened) (by simp)
        (by rw [Ev.note_books, Ev.setState_books, Ev.noteFault_books]; rfl)
        (by rw [Ev.note_voice, Ev.setState_voice _ _ (by simp), Ev.noteFault_voice, start])
        (congrArg Desk.notes desk) (.inl (Ev.scan_of_desk desk)) (h.imp_left fun none =>
          Ev.recompute_of_calm (ev := s.managing q) (by
            rw [Ev.note_calm, Ev.setState_calm _ _ (by
              rw [Ev.noteFault_calm, show (s.managing q).calm.charging b = false from none]; rfl), Ev.noteFault_calm]))
      exact closing run ends.1 ends.2
    · rw [Ev.openAt_closing (ev := s.managing q) open_ mode] at run
      have books : (((s.managing q).modDyn b ({ · with closeMode := .none })).wantScan).books
          = ({ s with management := q } : State).books.put b (.setDyn · ({ · with closeMode := .none })) := by
        rw [Ev.wantScan_books, Ev.modDyn_books]; rfl
      have voice : (((s.managing q).modDyn b ({ · with closeMode := .none })).wantScan).voice = s.waits 0 [] := by
        rw [Ev.wantScan_voice, Ev.modDyn_voice, start]
      exact closing run (Ev.operated books voice (.inr empty) (fun _ ok => BayBook.setDyn_ok _ ok) (.inl rfl) rfl)
        (fun src _ => Ev.operated_sends books voice src)
    · rw [run, Ev.openAt_open (ev := s.managing q) open_ mode, Ev.finish_status]
  · intro s r q b c code running head kind payload which d becomes
    have start : (s.managing q).voice = s.waits 0 [] := s.managing_voice q
    have idle (rest : (s.bay b).dyn.state = .closed ∨ (s.bay b).dyn.active = none) :
        exec c s = .next (((s.managing q).closeAtEnd b).status r .ok).finish := by
      rcases which with ⟨rfl, rfl⟩ | ⟨rfl, rfl⟩
      · rw [execCloseNow_runs running head kind payload, Ev.closeNow_idle (ev := s.managing q) rest]
      · exact execCloseAtEnd_runs running head kind payload
    have closing {ev : Ev} {fs : List Frame} {d' : BayDyn} (run : exec c s = .next (ev.status r .ok).finish)
        (left : s.Operated r q b d' (ev.status r .ok).finish)
        (sends : r.src ≠ 0 → s.controller.noticeDest ≠ 0 → s.Sends (ev.status r .ok).finish (s.okFrame r :: fs)) :
        becomes d' fs :=
      ⟨_, run, left.still, left.here, left.other, left.index, left.holds, left.answers, sends⟩
    refine ⟨fun closed => ?_, fun open_ active h => ?_, fun h open_ active arrival staged => ?_⟩
    · have run := idle (.inl closed)
      rw [Ev.closeAtEnd_closed (ev := s.managing q) closed] at run
      have books : (s.managing q).books = ({ s with management := q } : State).books.put b id := (Books.put_id rfl).symm
      exact closing run (Ev.operated books start (.inl rfl) (fun _ ok => ok) (.inl rfl) rfl)
        (fun src _ => Ev.operated_sends books start src)
    · have run := idle (.inr active)
      rw [Ev.closeAtEnd_empty (ev := s.managing q) open_ active] at run
      have books : ((s.managing q).closeEmpty b).books = ({ s with management := q } : State).books.put b .closed :=
        Ev.closeEmpty_books ..
      have voice := (Ev.closeEmpty_voice (s.managing q) b).trans start
      have desk := Ev.closeEmpty_desk (ev := s.managing q) (b := b) rfl
      have raised (other : d.state ≠ .closed) : (causeNote b d.state .closed none).raised .closed = true := by
        simpa [BayNote.raised, causeNote] using other
      refine closing run (Ev.operated (d := { d with state := .closed, closeMode := .none }) books voice
        (.inl (Ev.scan_of_desk desk)) (fun _ ok => BayBook.setDyn_ok _ (BayBook.setDyn_ok _ ok))
        (h.imp_left fun none => Ev.recompute_of_calm (ev := s.managing q) (Ev.closeEmpty_calm none)) rfl) (fun src listener => ?_)
      exact Ev.operated_sends_note books voice (congrArg Desk.notes desk) rfl (d := { d with state := .closed, closeMode := .none }) rfl
        (raised open_) src listener
    · have run : exec c s = .next (((s.managing q).startClosing b).status r .ok).finish := by
        rcases which with ⟨rfl, rfl⟩ | ⟨rfl, rfl⟩
        · rw [execCloseNow_runs running head kind payload, Ev.closeNow_arrived (ev := s.managing q) open_ active arrival staged]
        · rw [execCloseAtEnd_runs running head kind payload, Ev.closeAtEnd_held (ev := s.managing q) open_ active]
      have books := Ev.startClosing_books (s.managing q) b
      have voice := (Ev.startClosing_voice (s.managing q) b).trans start
      exact closing run (Ev.operated (d := { d with closeMode := .closingAtEnd }) books voice
        (.inl (Ev.startClosing_scan (s.managing q) b)) (fun _ ok => BayBook.setDyn_ok _ ok)
        (.inl (Ev.recompute_of_calm (ev := s.managing q) (Ev.startClosing_calm (s.managing q) b))) rfl)
        (fun src _ => Ev.operated_sends books voice src)

end Sys2Proof.Machine
end

section
/-!
SUPPORT. AMEND: the window end it stores, and its effect at each place where a hold can stand (R48).
-/
namespace Sys2Proof.Machine

/-! ## An event that is answered -/

/-- What an answered event shows, from the books at its answer. -/
theorem Ev.answer_shows {ev : Ev} {k : Books} (r : Request) (kind : Byte) (p : List Byte) (books : ev.books = k)
    (scan : ev.scan = false ∨ k.waitlist = []) (agrees : ev.recompute = false ∨ k.Ok) :
    (ev.answer (ev.st.buildAnswer r.src r.tag kind p)).finish.Shows k := by
  have shows_ := Ev.finish_shows (ev.answer (ev.st.buildAnswer r.src r.tag kind p))
    (scan.imp (fun no => (ev.answer_leaves _).2.1.trans no) (fun empty => by rw [Ev.answer_books, books]; exact empty))
    (agrees.imp (fun no => (ev.answer_leaves _).2.2.1.trans no) (fun ok => by rw [Ev.answer_books, books]; exact ok))
  rw [Ev.answer_books, books] at shows_
  exact shows_

/-! ## The window end of an AMEND (R48, log 17) -/

theorem amendedEnd_length (now start : Time) (n : Nat) :
    900 ≤ (amendedEnd now start n - start).toNat ∧ (amendedEnd now start n - start).toNat ≤ 28800 := by
  unfold amendedEnd; dsimp only
  generalize (now + mins (clamp 1 480 n) - start).toInt = length
  have range : 900 ≤ (max 900 (min 28800 length)).toNat ∧ (max 900 (min 28800 length)).toNat ≤ 28800 := by omega
  generalize (max 900 (min 28800 length)).toNat = seconds at range
  have kept : (start + secs seconds - start).toNat = seconds := by
    rw [BitVec.add_comm, BitVec.add_sub_cancel]
    simp only [secs, BitVec.toNat_ofNat]; omega
  rw [kept]; exact range

/-- A hold with the window end of an AMEND. -/
def State.amended (s : State) (r : Request) (h : Hold) : Hold :=
  { h with windowEnd := amendedEnd s.now h.windowStart (field16 r.payload 4) }

section
variable {ev : Ev} {r : Request} {b : BayIx} {h n : Hold}

/-- The active hold's window end would run into the staged hold. -/
def Ev.conflicts (ev : Ev) (b : BayIx) (h : Hold) : Bool :=
  match (ev.books.bays b).dyn.staged with
  | some n => laterThan (h.windowEnd + BitVec.ofNat 32 (ev.books.still.timing.turnover * 60)) n.windowStart
  | none => false

theorem Ev.amendAt_conflict (conflict : ev.conflicts b (ev.st.amended r h) = true) :
    Ev.amendAt r ev (.active b) h = ev.refuse r (ticketField r.payload 0) .conflict := by
  unfold Ev.amendAt; exact if_pos conflict

theorem Ev.amendAt_staged : Ev.amendAt r ev (.staged b) h
    = (ev.modDyn b ({ · with staged := some (ev.st.amended r h) })).reply r (ticketField r.payload 0)
        (grantedAnswer (ev.modDyn b ({ · with staged := some (ev.st.amended r h) })).st (bayNo b) 2 (ev.st.amended r h)) := rfl

theorem Ev.amendAt_waitlist : Ev.amendAt r ev .waitlist h
    = let ev' := ev.onState (fun s => s.setWaitlist (s.waitlist.map (fun e =>
        if e.hold.ticket = some (ticketField r.payload 0) then
          { e with hold := { e.hold with windowEnd := (ev.st.amended r h).windowEnd } } else e)))
      ev'.reply r (ticketField r.payload 0) (queuedAnswer ev'.st
        (waitPosition ev'.st.waitlist (some (ticketField r.payload 0))) (ev.st.amended r h)) := rfl

/-- The active hold with its new window end, in an event that has opened its bay's record. -/
def Ev.amendActive (ev : Ev) (b : BayIx) (h : Hold) : Ev := (ev.touch b).modDyn b ({ · with active := some h })

/-- The active hold's deadline moved with its window end, where it has arrived. -/
def Ev.moveOverstay (ev : Ev) (b : BayIx) (h : Hold) : Ev :=
  if h.arrived then ev.modTimer b (fun x => { x with overstay := some (ev.st.overstayOf h) }) else ev

/-- The bay in service derived again. -/
def Ev.amendState (ev : Ev) (b : BayIx) : Ev :=
  let st := (ev.bay b).dyn.state
  if st = .faulted ∨ st = .closed then ev else (ev.rederive b).note b .amended

theorem Ev.amendAt_active (clear : ev.conflicts b (ev.st.amended r h) = false) :
    let ev' := ((ev.amendActive b (ev.st.amended r h)).moveOverstay b (ev.st.amended r h)).amendState b
    Ev.amendAt r ev (.active b) h
      = ev'.reply r (ticketField r.payload 0) (grantedAnswer ev'.st (bayNo b) 1 (ev.st.amended r h)) := by
  unfold Ev.amendAt
  exact if_neg (c := ev.conflicts b (ev.st.amended r h) = true) (by rw [clear]; simp)

variable {h' : Hold}

theorem Ev.amendActive_books : (ev.amendActive b h').books = ev.books.put b (.setDyn · ({ · with active := some h' })) := by
  unfold Ev.amendActive; rw [Ev.modDyn_books, Ev.touch_books]

theorem Ev.amendActive_active : ((ev.amendActive b h').books.bays b).dyn.active = some h' := by
  rw [Ev.amendActive_books, Books.put_same]; rfl

/-- An active hold that has not arrived: the window end alone, whatever the bay's state. -/
theorem Ev.amendWaiting (arrival : h'.arrival = none) :
    ((ev.amendActive b h').moveOverstay b h').amendState b = ev.amendActive b h'
    ∨ ((ev.amendActive b h').moveOverstay b h').amendState b = (ev.amendActive b h').note b .amended := by
  have notArrived : h'.arrived = false := by simp [Hold.arrived, arrival]
  have same : (ev.amendActive b h').rederive b = ev.amendActive b h' := by
    unfold Ev.rederive
    rw [show ((ev.amendActive b h').bay b).dyn.active = some h' from Ev.amendActive_active]
    exact if_neg (by rw [notArrived]; simp)
  unfold Ev.moveOverstay
  rw [if_neg (by rw [notArrived]; simp)]
  unfold Ev.amendState; dsimp only
  split
  · exact .inl rfl
  · exact .inr (by rw [same])

theorem Ev.note_scan (ev : Ev) (b : BayIx) (c : BayCause) : (ev.note b c).scan = ev.scan := by
  unfold Ev.note Ev.modNote Ev.touch; split <;> rfl

theorem Ev.amendWaiting_keeps (arrival : h'.arrival = none) :
    let ev' := ((ev.amendActive b h').moveOverstay b h').amendState b
    ev'.books = ev.books.put b (.setDyn · ({ · with active := some h' })) ∧ ev'.voice = ev.voice ∧ ev'.calm = ev.calm
    ∧ ev'.scan = ev.scan := by
  have voice : (ev.amendActive b h').voice = ev.voice := by
    unfold Ev.amendActive; rw [Ev.modDyn_voice, Ev.touch_voice]
  have calm : (ev.amendActive b h').calm = ev.calm := by
    unfold Ev.amendActive; rw [Ev.modDyn_calm, Ev.touch_calm]
  have scan : (ev.amendActive b h').scan = ev.scan := by
    unfold Ev.amendActive Ev.touch; split <;> rfl
  dsimp only
  rcases Ev.amendWaiting (ev := ev) (b := b) arrival with same | same
  · rw [same]; exact ⟨Ev.amendActive_books, voice, calm, scan⟩
  · rw [same, Ev.note_books, Ev.note_voice, Ev.note_calm, Ev.note_scan]
    exact ⟨Ev.amendActive_books, voice, calm, scan⟩

/-- An active hold that has arrived, at a bay in service: the overstay deadline moves, and step 3 runs again. -/
theorem Ev.amendArrived (arrival : h'.arrival ≠ none)
    (open_ : (ev.books.bays b).dyn.state ≠ .closed) (sound : (ev.books.bays b).dyn.state ≠ .faulted)
    (present : (ev.books.bays b).dyn.occupancy ≠ .vacant) :
    ((ev.amendActive b h').moveOverstay b h').amendState b
      = (((ev.amendActive b h').moveOverstay b h').setState b (ev.books.still.third (ev.books.bays b).dyn h')).note b .amended
    ∧ ((ev.amendActive b h').moveOverstay b h').books = ev.books.put b (fun y =>
        { y.setDyn ({ · with active := some h' }) with overstay := some (ev.books.still.overstayAt h') }) := by
  have arrived : h'.arrived = true := Option.isSome_iff_ne_none.2 arrival
  have books : ((ev.amendActive b h').moveOverstay b h').books = ev.books.put b (fun y =>
        { y.setDyn ({ · with active := some h' }) with overstay := some (ev.books.still.overstayAt h') }) := by
    unfold Ev.moveOverstay
    rw [if_pos arrived, Ev.modTimer_books (g := ({ · with overstay := some ((ev.amendActive b h').st.overstayOf h') })) _ _
      (fun _ => rfl), Ev.amendActive_books, Books.put_put]
    have still : (ev.amendActive b h').st.still = ev.books.still := by
      rw [show (ev.amendActive b h').st.still = (ev.amendActive b h').books.still from rfl, Ev.amendActive_books]; rfl
    rw [show (ev.amendActive b h').st.overstayOf h' = (ev.amendActive b h').st.still.overstayAt h' from rfl, still]
  have dyn : (((ev.amendActive b h').moveOverstay b h').books.bays b).dyn = { (ev.books.bays b).dyn with active := some h' } := by
    rw [books, Books.put_same]; rfl
  have still : ((ev.amendActive b h').moveOverstay b h').books.still = ev.books.still := by rw [books]; rfl
  refine ⟨?_, books⟩
  unfold Ev.amendState; dsimp only
  have state : (((ev.amendActive b h').moveOverstay b h').bay b).dyn.state = (ev.books.bays b).dyn.state :=
    (congrArg BayDyn.state dyn :)
  rw [if_neg (by rw [state]; exact fun h => h.elim sound open_)]
  rw [Ev.rederive_arrived (h := h') (by rw [dyn]) arrival (by rw [dyn]; exact present), still,
    Still.third_congr _ (d := (ev.books.bays b).dyn) (by rw [dyn])]

end

/-! ## What an AMEND leaves beside its hold -/

section
variable {s : State} {r : Request} {q : List Request} {t : Ticket} {b : BayIx} {h : Hold} {l : Location}

theorem exec_amend_acts (running : s.heldInReset = false) (head : s.requests = r :: q) (kind : r.kind = Kind.amend)
    (named : ticketField r.payload 0 = t) (ticket : t ≠ 0) (found : s.lookup t = some ⟨t, r.src, l⟩)
    (hold : s.holdAt t l = some h) : exec .amend s = .next (Ev.amendAt r (s.serving q) l h).finish := by
  rw [exec_amend, execAmend, s.takeRequest_runs Kind.amend _ running head kind]
  have owned : ({ s with requests := q } : State).checkOwned r = .ok ⟨t, r.src, l⟩ :=
    State.checkOwned_ok (s := { s with requests := q }) named ticket found (.inl rfl)
  rw [Ev.ownedRequest_acts (ev := s.serving q) (h := h) owned (by rw [named]; exact hold)]

/-- What an AMEND that is answered leaves of everything but its hold. -/
structure State.AmendedBeside (s : State) (r : Request) (q : List Request) (t : Ticket) (b : BayIx) (h : Hold)
    (outcome bay slot position : Nat) (x : State) : Prop where
  runs : exec .amend s = .next x
  still : x.still = { s.still with requests := q }
  other : ∀ c, c ≠ b → (x.bay c).dyn = (s.bay c).dyn ∧ s.AwaitsAs x c
  index : x.index = s.index
  answers : s.Answers x r Kind.answer (s.answerBytes r t outcome bay slot position (s.amended r h))

theorem Ev.amends {ev : Ev} {k : Books} {f : BayBook → BayBook} {a : AnswerBody} {outcome bay slot position : Nat}
    (run : exec .amend s = .next (ev.reply r t a).finish) (books : ev.books = k.put b f) (bays : k.bays = s.books.bays)
    (still : k.still = { s.still with requests := q }) (index : k.index = s.index) (uplink : ev.voice.uplink = s.uplink)
    (scan : ev.scan = false) (agrees : ev.recompute = false ∨ (k.put b f).Ok)
    (payload : answerPayload r.kind t a = s.answerBytes r t outcome bay slot position (s.amended r h)) :
    ∃ x, s.AmendedBeside r q t b h outcome bay slot position x ∧ x.Shows (k.put b f) ∧ x = (ev.reply r t a).finish := by
  have shows_ := Ev.answer_shows r Kind.answer (answerPayload r.kind t a) books (.inl scan) agrees
  refine ⟨_, ⟨run, shows_.still.trans still, fun c other => shows_.other bays other, shows_.index.trans index, ?_⟩, shows_, rfl⟩
  rw [← payload]
  exact State.Answers_of_voice _ _ uplink (by rw [books, (Books.put_leaves ..).2.2.2.2, still]; rfl)

end

theorem waitPosition_amended (l : List WaitEntry) (t : Ticket) (w : Time) :
    waitPosition (l.map (fun e => if e.hold.ticket = some t then { e with hold := { e.hold with windowEnd := w } } else e))
      (some t) = waitPosition l (some t) := by
  unfold waitPosition
  rw [List.findIdx?_map]
  have same : (fun e : WaitEntry => e.hold.ticket == some t) ∘
      (fun e => if e.hold.ticket = some t then { e with hold := { e.hold with windowEnd := w } } else e)
      = fun e => e.hold.ticket == some t := by
    funext e
    by_cases mine : e.hold.ticket = some t <;> simp [mine]
  rw [same]

/-- Settles O41: the window end is stored where the hold stands, and only an arrived active hold moves its bay. -/
theorem amend : Obligations.Amend := by
  intro s r q t b l running head kind named ticket found asked newEnd amended clear kept
  have start : (s.serving q).voice = s.waits 0 [] := s.serving_voice q
  have closing {h : Hold} {outcome bay slot position : Nat} {x : State}
      (left : s.AmendedBeside r q t b h outcome bay slot position x) : kept x h outcome bay slot position :=
    ⟨left.runs, left.still, left.other, left.index, (amendedEnd_length s.now h.windowStart _).1,
      (amendedEnd_length s.now h.windowStart _).2, left.answers⟩
  have granted (ev : Ev) (slot : Nat) (h : Hold) (site : ev.st.siteOffset = s.siteOffset) :
      answerPayload r.kind t (grantedAnswer ev.st (bayNo b) slot h) = s.answerBytes r t 0 (b.val + 1) slot 0 h := by
    rw [answerPayload_granted]
    unfold State.answerBytes State.windowBytes
    rw [site]; rfl
  have unconflicted {h : Hold} (free : clear h) : (s.serving q).conflicts b (s.amended r h) = false := by
    unfold Ev.conflicts
    cases staged : ((s.serving q).books.bays b).dyn.staged with
    | none => rfl
    | some n => exact free n staged
  refine ⟨fun h at_ staged => ?_, fun h at_ active arrival free => ?_, fun h at_ active arrival free open_ sound present ok => ?_,
    fun e at_ waiting => ?_, fun h n at_ active staged runsInto => ?_⟩
  · subst at_
    have run := exec_amend_acts running head kind named ticket found (h := h) staged
    rw [Ev.amendAt_staged, named] at run
    obtain ⟨x, left, shows_, _⟩ := Ev.amends (k := ({ s with requests := q } : State).books) run (Ev.modDyn_books (s.serving q) b _)
      rfl rfl rfl (congrArg Voice.uplink start) rfl (.inl rfl) (granted _ 2 _ rfl)
    have dyn := shows_.dyn b
    have awaits := shows_.awaits b
    rw [Books.put_same] at dyn awaits
    exact ⟨x, closing left, shows_.waits, awaits, dyn⟩
  · subst at_
    have run := exec_amend_acts running head kind named ticket found (h := h) active
    have ends := Ev.amendAt_active (unconflicted free)
    dsimp only at ends
    rw [ends, named] at run
    obtain ⟨books, voice, calm, scan⟩ := Ev.amendWaiting_keeps (ev := s.serving q) (b := b) (h' := s.amended r h) arrival
    rw [show (s.serving q).st.amended r h = s.amended r h from rfl] at run
    obtain ⟨x, left, shows_, _⟩ := Ev.amends (k := ({ s with requests := q } : State).books) run books rfl rfl rfl
      (by rw [voice, start]; rfl) scan (.inl (Ev.recompute_of_calm calm)) (granted _ 1 _ (by
        exact congrArg (fun k : Books => k.still.siteOffset) books))
    have dyn := shows_.dyn b
    have awaits := shows_.awaits b
    rw [Books.put_same] at dyn awaits
    exact ⟨x, closing left, shows_.waits, awaits, dyn⟩
  · subst at_
    have run := exec_amend_acts running head kind named ticket found (h := h) active
    have ends := Ev.amendAt_active (unconflicted free)
    dsimp only at ends
    obtain ⟨same, moved⟩ := Ev.amendArrived (ev := s.serving q) (b := b) (h' := s.amended r h) arrival open_ sound present
    rw [ends, named, show (s.serving q).st.amended r h = s.amended r h from rfl, same] at run
    have stands : ((((s.serving q).amendActive b (s.amended r h)).moveOverstay b (s.amended r h)).voice = s.waits 0 [])
        ∧ (((s.serving q).amendActive b (s.amended r h)).moveOverstay b (s.amended r h)).desk
          = ⟨[⟨b, (s.bay b).dyn.state, [], none, none⟩], false, false⟩ := by
      unfold Ev.moveOverstay Ev.amendActive
      rw [if_pos (c := (s.amended r h).arrived = true) (Option.isSome_iff_ne_none.2 arrival), Ev.modTimer_voice, Ev.modDyn_voice, Ev.touch_voice, Ev.modTimer_desk,
        Ev.modDyn_desk, Ev.touch_desk]
      exact ⟨start, rfl⟩
    obtain ⟨voice, desk⟩ := stands
    generalize ((s.serving q).amendActive b (s.amended r h)).moveOverstay b (s.amended r h) = ev at run moved voice desk
    generalize hthird : (s.serving q).books.still.third ((s.serving q).books.bays b).dyn (s.amended r h) = third at run
    have books : ((ev.setState b third).note b .amended).books = ({ s with requests := q } : State).books.put b (fun y =>
        ({ y.setDyn ({ · with active := some (s.amended r h) }) with overstay := some (s.overstayAt (s.amended r h)) } : BayBook).setDyn
          ({ · with state := third })) := by
      rw [Ev.note_books, Ev.setState_books, moved, Books.put_put]; rfl
    have ok' : (({ s with requests := q } : State).books.put b (fun y =>
        ({ y.setDyn ({ · with active := some (s.amended r h) }) with overstay := some (s.overstayAt (s.amended r h)) } : BayBook).setDyn
          ({ · with state := third }))).Ok := by
      refine Books.Ok.put (k := ({ s with requests := q } : State).books) ok b fun y good => BayBook.setDyn_ok _ ?_
      have once : (y.setDyn ({ · with active := some (s.amended r h) })).ok = true := BayBook.setDyn_ok _ good
      exact once
    have uplink : ((ev.setState b third).note b .amended).voice.uplink = s.uplink := by
      have moves := ((Moves.refl (ev₀ := ev)).setState b third).note b .amended
      exact (moves.voice_uplink (congrArg Voice.buffering voice)).trans (congrArg Voice.uplink voice)
    have desk' : ((ev.setState b third).note b .amended).desk = ⟨[causeNote b (s.bay b).dyn.state .amended none], false, false⟩ := by
      rw [Ev.note_desk, Ev.setState_desk, desk, Desk.touch_known (b := b) _ rfl, Desk.touch_known (b := b) _ rfl,
        Desk.modNote_known (b := b) _ rfl]; rfl
    obtain ⟨x, left, shows_, ends⟩ := Ev.amends (k := ({ s with requests := q } : State).books) run books rfl rfl rfl
      uplink (Ev.scan_of_desk desk') (.inr ok') (granted _ 1 _ (by
        exact congrArg (fun k : Books => k.still.siteOffset) books))
    have dyn := shows_.dyn b
    have awaits := shows_.awaits b
    rw [Books.put_same] at dyn awaits
    refine ⟨x, closing left, shows_.waits, awaits, dyn.trans (by rw [← hthird]; rfl), fun src listener moves serves => ?_⟩
    have serving : ev.books.still.Serves b := by
      rw [moved]; exact ((s.serving q).serves_iff b).2 serves
    have voice' : ((ev.setState b third).note b .amended).voice = s.waits 0 [] := by
      rw [Ev.note_voice, Ev.setState_voice _ _ (fun _ => serving), voice]
    have payload := granted ((ev.setState b third).note b .amended) 1 (s.amended r h)
      (congrArg (fun k : Books => k.still.siteOffset) books)
    have state : ((((ev.setState b third).note b .amended).books.bays b).dyn).state = third := by
      rw [books, Books.put_same]; rfl
    have controller : ((ev.setState b third).note b .amended).books.still.controller = s.controller := by rw [books]; rfl
    have raised : (causeNote b (s.bay b).dyn.state .amended none).raised third = true := by
      have other : third ≠ (s.bay b).dyn.state := by rw [← hthird]; exact moves
      simpa [BayNote.raised, causeNote] using other.symm
    rw [ends]
    unfold Ev.reply
    have sends := Ev.finish_sends_note (k := 0) (n := causeNote b (s.bay b).dyn.state .amended none) (after := third)
      (fs := [_]) (fun room => Ev.answer_placed (fs := []) Kind.answer
        (answerPayload r.kind t (grantedAnswer ((ev.setState b third).note b .amended).st (bayNo b) 1 (s.amended r h)))
        voice' controller src room)
      (by rw [Ev.answer_desk, desk']) (by rw [Ev.answer_books]; exact controller) (by rw [Ev.answer_books]; exact state)
      raised listener
    rw [payload, ← hthird] at sends
    rw [payload, ← hthird]
    exact sends
  · subst at_
    have run := exec_amend_acts running head kind named ticket found (h := e.hold) (by
      show (s.waiting t).map (·.hold) = _
      rw [waiting]; rfl)
    rw [Ev.amendAt_waitlist] at run
    dsimp only at run
    rw [named] at run
    have books := (Ev.setWaitlist_books (s.serving q) (fun u => u.waitlist.map (fun w =>
      if w.hold.ticket = some t then { w with hold := { w.hold with windowEnd := (s.amended r e.hold).windowEnd } } else w))).trans
        (Books.put_id (b := b) (f := id) rfl).symm
    obtain ⟨x, left, shows_, _⟩ := Ev.amends (h := e.hold) run books rfl rfl rfl (congrArg Voice.uplink start) rfl (.inl rfl)
      ((answerPayload_queued _ r t _ _).trans (congrArg (fun n => s.answerBytes r t 1 0 0 n (s.amended r e.hold))
        (waitPosition_amended s.waitlist t _)))
    have awaits := shows_.awaits b
    rw [Books.put_same] at awaits
    refine ⟨x, closing left, shows_.dyns fun c => ?_, awaits, shows_.waits⟩
    rw [Books.put_id rfl]; rfl
  · subst at_
    have run := exec_amend_acts running head kind named ticket found (h := h) active
    have conflict : (s.serving q).conflicts b ((s.serving q).st.amended r h) = true := by
      unfold Ev.conflicts
      rw [show ((s.serving q).books.bays b).dyn.staged = some n from staged]; exact runsInto
    rw [run, Ev.amendAt_conflict conflict, named]
    exact congrArg Host.Outcome.next (Ev.finish_refuse s q r t .conflict)

end Sys2Proof.Machine
end

section
/-!
SUPPORT. A scan that places nothing, a note that raises nothing, and the relocation of a hold: to a bay found, to the
Waitlist, or lost (R38, R41, R42).
-/
namespace Sys2Proof.Machine

/-! ## A scan that places nothing (R39) -/

/-- A search for which no bay of an acceptable class fits, the preferred one included (R34). -/
theorem Ev.search_findsNone {ev : Ev} {c : BayClass} {ws : Time} (preferred : Option BayIx)
    (none : ev.st.FindsNone c Option.none ws) : ev.search c preferred Option.none ws = (ev, Option.none) := by
  have ordered := Ev.searchClasses_findsNone none
  unfold Ev.search
  cases preferred with
  | none => exact ordered
  | some p =>
    dsimp only
    by_cases listed : (ev.st.searchList c).contains (ev.bay p).cls = true
    · have acceptable := (ev.st.mem_searchList c _).1 (List.contains_iff_mem.1 listed)
      rw [if_pos listed, Ev.examine_agrees (fun may => (none p (by simp) acceptable may).1),
        (ev.st.slotFor_none_iff p ws).2 (fun fits =>
          (none p (by simp) acceptable (fits.elim State.Fits.searchable State.Fits.searchable)).2 fits)]
      exact ordered
    · rw [if_neg listed]; exact ordered

/-- No entry of the Waitlist finds a bay. -/
def State.Unserved (s : State) : Prop := ∀ w ∈ s.waitlist, s.FindsNone w.classWanted none w.hold.windowStart

theorem Ev.foldl_scanEntry_unserved {ev : Ev} (l : List WaitEntry) (owes : ev.notes = [])
    (unserved : ∀ w ∈ l, ev.st.FindsNone w.classWanted none w.hold.windowStart) : l.foldl Ev.scanEntry ev = ev := by
  induction l with
  | nil => rfl
  | cons w l ih =>
    have one : ev.scanEntry w = ev := by
      unfold Ev.scanEntry
      rw [Ev.search_findsNone w.preferred (unserved w List.mem_cons_self)]
      exact Ev.flushNotes_fixed ev owes
    rw [List.foldl_cons, one]
    exact ih fun w' here => unserved w' (List.mem_cons_of_mem _ here)

theorem Ev.finish_unserved {ev : Ev} (unserved : ev.flushNotes.st.Unserved) :
    ev.finish = ({ ev.flushNotes with scan := false } : Ev).finish := by
  have owes : ({ ev.flushNotes with scan := false } : Ev).notes = [] := ev.flushNotes_leaves.2.2
  have scanned : ev.flushNotes.runScan = { ev.flushNotes with scan := false } := by
    unfold Ev.runScan
    by_cases scan : ev.flushNotes.scan = true
    · rw [if_pos scan]; exact Ev.foldl_scanEntry_unserved _ owes unserved
    · rw [if_neg scan]
      have off : ev.flushNotes.scan = false := by simpa using scan
      rw [← off]
  have again : ({ ev.flushNotes with scan := false } : Ev).flushNotes.runScan = { ev.flushNotes with scan := false } := by
    rw [Ev.flushNotes_fixed _ owes]; rfl
  unfold Ev.finish
  rw [scanned, again]

/-- What an event shows whose scan, where it has triggered one, places nothing. -/
theorem Ev.finish_shows_unserved {ev : Ev} (unserved : ev.flushNotes.st.Unserved)
    (agrees : ev.recompute = false ∨ ev.books.Ok) : ev.finish.Shows ev.books := by
  have books : ({ ev.flushNotes with scan := false } : Ev).books = ev.books := ev.flushNotes_books
  have shows_ := Ev.finish_shows ({ ev.flushNotes with scan := false } : Ev) (.inl rfl)
    (agrees.imp (fun no => ev.flushNotes_leaves.2.1.trans no) (fun ok => by rw [books]; exact ok))
  rw [books] at shows_
  rw [Ev.finish_unserved unserved]
  exact shows_

/-- A note that raises no BAY-NOTICE. -/
theorem Ev.finish_silentNote {ev : Ev} {n : BayNote} {l : List BayNote} (notes : ev.notes = n :: l)
    (quiet : n.raised (ev.books.bays n.bay).dyn.state = false) : ev.finish = ({ ev with notes := l } : Ev).finish := by
  have raises : ({ ev with notes := [] } : Ev).raiseNote n = { ev with notes := [] } := by
    unfold Ev.raiseNote; dsimp only
    exact if_neg (by rw [show (({ ev with notes := [] } : Ev).bay n.bay).dyn = (ev.books.bays n.bay).dyn from rfl, quiet]; simp)
  have flushed : ev.flushNotes = ({ ev with notes := l } : Ev).flushNotes := by
    unfold Ev.flushNotes; rw [notes, List.foldl_cons, raises]
  unfold Ev.finish
  rw [flushed]

/-! ## Searches over books -/

/-- Two states whose books differ only in what a search does not read. -/
theorem State.searchSame_of_books {s t : State} {excluded : Option BayIx}
    (bays : ∀ e, some e ≠ excluded → t.books.bays e = s.books.bays e) (cursors : t.books.cursors = s.books.cursors)
    (degraded : t.books.degraded = s.books.degraded) (config : t.still.bays = s.still.bays)
    (classes : t.still.classes = s.still.classes) (timing : t.still.timing = s.still.timing)
    (now : t.still.now = s.still.now) : s.SearchSame t excluded where
  dyn e other := congrArg BayBook.dyn (bays e other)
  check e other := congrArg BayBook.ok (bays e other)
  cls := Still.cls config
  classes := classes
  timing := timing
  now := now
  cursors := cursors
  degraded := degraded

theorem State.findsNone_of_unsearchable {s : State} (none : ∀ e, (s.bay e).searchable = false) (c : BayClass)
    (excluded : Option BayIx) (ws : Time) : s.FindsNone c excluded ws := by
  intro e _ _ may
  rw [none e] at may; cases may

/-! ## Relocation (R41, R42) -/

section
variable {ev ev' : Ev} {b d : BayIx} {sl sl' : Slot} {h : Hold}

theorem Ev.relocateOrDisplace_found (held : (ev.books.bays b).dyn.slot sl = some h)
    (found : ev.relocationSearch b h = (ev', some (d, sl'))) : ev.relocateOrDisplace b sl = ev'.relocateTo b sl h d sl' := by
  unfold Ev.relocateOrDisplace
  rw [show (ev.bay b).dyn.slot sl = some h from held]
  dsimp only; rw [found]

theorem Ev.relocateOrDisplace_displaced (held : (ev.books.bays b).dyn.slot sl = some h)
    (none : ev.relocationSearch b h = (ev, Option.none)) : ev.relocateOrDisplace b sl
      = (ev.displace h (ev.bay b).cls).1.leaveSlot b sl (ev.displace h (ev.bay b).cls).2 := by
  unfold Ev.relocateOrDisplace
  rw [show (ev.bay b).dyn.slot sl = some h from held]
  dsimp only; rw [none]

theorem Ev.displacement_taken {t : Ticket} {v : Time} (staged : (ev.books.bays b).dyn.staged = some h)
    (ticket : h.ticket = some t) (due : ev.st.checkTime h = v) : ev.displacement b t v = ev.relocateOrDisplace b .staged := by
  unfold Ev.displacement
  rw [show (ev.bay b).dyn.staged = some h from staged]
  exact if_pos ⟨ticket, due⟩

/-- An entry joins at the head of its priority group. -/
theorem insertHead_split (e : WaitEntry) (w : List WaitEntry) : ∃ front back, w = front ++ back
    ∧ insertHead e w = front ++ e :: back ∧ (∀ f ∈ front, e.hold.priority < f.hold.priority)
    ∧ (∀ f ∈ back.head?, f.hold.priority ≤ e.hold.priority) := by
  induction w with
  | nil => exact ⟨[], [], rfl, rfl, by simp, by simp⟩
  | cons f w ih =>
    by_cases higher : e.hold.priority < f.hold.priority
    · obtain ⟨front, back, split, joined, ahead, behind⟩ := ih
      refine ⟨f :: front, back, by rw [split]; rfl, ?_, ?_, behind⟩
      · unfold insertHead; rw [if_pos higher, joined]; rfl
      · intro g here
        rcases List.mem_cons.1 here with rfl | here
        · exact higher
        · exact ahead g here
    · refine ⟨[], f :: w, rfl, ?_, by simp, ?_⟩
      · unfold insertHead; rw [if_neg higher]; rfl
      · intro g here
        rw [List.head?_cons, Option.mem_some_iff] at here
        rw [← here]; exact le_of_not_gt higher

end

/-! ## The relocation of a staged hold -/

section
variable {ev : Ev} {b d : BayIx} {sl : Slot} {h : Hold} (other : d ≠ b) (staged : (ev.books.bays b).dyn.staged = some h)
  (free : sl = .active → (ev.books.bays d).dyn.state = .free)

include staged in
theorem Ev.relocateTo_staged : ev.relocateTo b .staged h d sl
    = (((ev.touch b).vacateStaged b h (.relocated d sl)).wantScan).placeHold d sl h := by
  unfold Ev.relocateTo Ev.leaveSlot; dsimp only
  rw [Ev.endStaged_eq (h := h) _ (by rw [Ev.touch_books]; exact staged) (by simp [Leave.reason])]

include other staged free

theorem Ev.relocateTo_books : (ev.relocateTo b .staged h d sl).books
    = ((ev.books.put b .unstage).indexHold h (sl.at d)).put d (.take ev.books.still h sl) := by
  have books : ((((ev.touch b).vacateStaged b h (.relocated d sl)).wantScan)).books = ev.books.put b .unstage := by
    rw [Ev.wantScan_books, Ev.vacateStaged_books, Ev.touch_books]; rfl
  rw [Ev.relocateTo_staged staged, Ev.placeHold_books h (by
    rw [books, Books.put_other _ _ other]; exact free), books, (Books.put_leaves ..).2.2.2.2]

theorem Ev.relocateTo_voice {t : Ticket} {r : Addr} (ticket : h.ticket = some t) (requester : h.requester = some r)
    (room : ev.voice.Room) : (ev.relocateTo b .staged h d sl).voice
      = ev.voice.tell ev.books.still.controller.own r Kind.holdNotice (movedBytes 1 t (d.val + 1) sl.code 0) := by
  have books : ((((ev.touch b).vacateStaged b h (.relocated d sl)).wantScan)).books = ev.books.put b .unstage := by
    rw [Ev.wantScan_books, Ev.vacateStaged_books, Ev.touch_books]; rfl
  rw [Ev.relocateTo_staged staged, Ev.placeHold_voice h (by
    rw [books, Books.put_other _ _ other]; exact free), Ev.wantScan_voice,
    Ev.vacateStaged_voice _ ticket requester (by rw [Ev.touch_voice]; exact room), Ev.touch_voice, Ev.touch_books]
  rfl

theorem Ev.relocateTo_calm (uncharged : sl = .active → ev.calm.charging d = false) :
    (ev.relocateTo b .staged h d sl).calm = ev.calm := by
  have books : ((((ev.touch b).vacateStaged b h (.relocated d sl)).wantScan)).books = ev.books.put b .unstage := by
    rw [Ev.wantScan_books, Ev.vacateStaged_books, Ev.touch_books]; rfl
  have calm : ((((ev.touch b).vacateStaged b h (.relocated d sl)).wantScan)).calm = ev.calm := by
    rw [Ev.wantScan_calm, Ev.vacateStaged_calm, Ev.touch_calm]
  rw [Ev.relocateTo_staged staged, Ev.placeHold_calm h (by
    rw [books, Books.put_other _ _ other]; exact free) (by rw [calm]; exact uncharged), calm]

/-- The notes of a relocation: the bay that is left, which raises nothing, and the FREE bay that takes the hold. -/
theorem Ev.relocateTo_notes (clear : ev.desk = .clear) : (ev.relocateTo b .staged h d sl).desk.notes
    = ⟨b, (ev.books.bays b).dyn.state, [], none, none⟩ :: (match sl with | .active => [placeNote d] | .staged => []) := by
  have books : ((((ev.touch b).vacateStaged b h (.relocated d sl)).wantScan)).books = ev.books.put b .unstage := by
    rw [Ev.wantScan_books, Ev.vacateStaged_books, Ev.touch_books]; rfl
  have desk : ((((ev.touch b).vacateStaged b h (.relocated d sl)).wantScan)).desk
      = ⟨[⟨b, (ev.books.bays b).dyn.state, [], none, none⟩], true, false⟩ := by
    rw [Ev.wantScan_desk, Ev.vacateStaged_desk, Ev.touch_desk, clear]; rfl
  rw [Ev.relocateTo_staged staged]
  cases sl with
  | staged => rw [Ev.placeHold_staged_desk, desk]
  | active =>
    rw [Ev.placeHold_active_desk h (by rw [books, Books.put_other _ _ other]; exact free rfl)
      (by rw [desk]; simpa using other.symm), desk]
    rfl

end

end Sys2Proof.Machine
end

section
/-!
SUPPORT. The displacement check and CLOSE-NOW: a hold relocated to a bay, displaced to the Waitlist, or lost.
-/
namespace Sys2Proof.Machine

theorem execDisplacementCheck_bay (b : BayIx) (t : Ticket) (v : Time) (s : State) :
    execDisplacementCheck (byteOf (b.val + 1)) t v s = s.takeExpiry (.displacement b (some t) v) (·.displacement b t v) := by
  unfold execDisplacementCheck; rw [bayOfNo_byteOf]

theorem laterThan_past {t u : Time} (h : atOrAfter t u = true) : laterThan u t = false := by
  unfold atOrAfter at h
  unfold laterThan atOrAfter
  by_contra later
  simp only [Bool.not_eq_false, Bool.and_eq_true, decide_eq_true_eq, bne_iff_ne] at h later
  bv_omega

/-! ## The displacement check of a staged hold (R43) -/

section
variable {s : State} {b : BayIx} {h : Hold} {t : Ticket} {r : Addr}

/-- The displacement check as its event begins. -/
abbrev State.checking (s : State) (b : BayIx) (t : Ticket) (h : Hold) : Ev :=
  s.expiring (.displacement b (some t) (s.checkAt h).due)

theorem displacementCheck_runs (running : s.heldInReset = false)
    (delivered : .displacement b (some t) (s.checkAt h).due ∈ s.expiries) (staged : (s.bay b).dyn.staged = some h)
    (ticket : h.ticket = some t) : exec (.displacementCheck (byteOf (b.val + 1)) t (s.checkAt h).due) s
      = .next ((s.checking b t h).relocateOrDisplace b .staged).finish := by
  rw [exec_displacementCheck, execDisplacementCheck_bay, State.takeExpiry_runs _ running delivered]
  exact congrArg (fun ev : Ev => Host.Outcome.next ev.finish)
    (Ev.displacement_taken (ev := s.checking b t h) staged ticket rfl)

/-- What is left of a bay whose staged hold has gone. -/
def State.Unstaged (s : State) (b : BayIx) (x : State) : Prop :=
  (x.bay b).dyn = { (s.bay b).dyn with staged := none } ∧ x.Awaits b (s.bay b).timer.noShow (s.bay b).timer.overstay none

theorem State.Shows.unstaged {x : State} {k : Books} (shows_ : x.Shows k) (gone : k.bays b = (s.bay b).book.unstage) :
    s.Unstaged b x := by
  have dyn := shows_.dyn b
  have awaits := shows_.awaits b
  rw [gone] at dyn awaits
  exact ⟨dyn, awaits⟩

section
variable (staged : (s.bay b).dyn.staged = some h)
include staged

/-- The staged hold displaced to the Waitlist: the books before the scan. -/
theorem displaced_event (none : s.FindsNone (s.bay b).cls (some b) h.windowStart) (admits : s.admitsHead h.priority = true) :
    ∃ (ev : Ev) (p : Nat), (s.checking b t h).relocateOrDisplace b .staged = (ev.vacateStaged b h (.displaced p)).wantScan
      ∧ ev.books = s.books.room.joined insertHead ⟨h, (s.bay b).cls, Option.none, some h.graceEnd⟩
      ∧ p = waitPosition ev.books.waitlist h.ticket ∧ ev.voice = (s.checking b t h).makeRoom.voice
      ∧ ev.desk = .clear ∧ ev.recompute = false := by
  have searched := Ev.searchClasses_findsNone (ev := s.checking b t h) none
  have ends := Ev.relocateOrDisplace_displaced (ev := s.checking b t h) (sl := .staged) staged searched
  have joins := Ev.displace_joins (ev := s.checking b t h) (h := h) (s.bay b).cls admits
  have room := Ev.joinWaitlist_books (s.checking b t h) insertHead h (s.bay b).cls Option.none
  obtain ⟨desk, calm⟩ := Ev.joinWaitlist_kept (s.checking b t h) insertHead h (s.bay b).cls Option.none
  refine ⟨_, _, ?_, room, rfl, Ev.joinWaitlist_voice .., desk, Ev.recompute_of_calm calm⟩
  rw [ends, show (s.checking b t h).displace h ((s.checking b t h).bay b).cls = _ from joins]
  refine Ev.endStaged_eq (h := h) _ ?_ (by simp [Leave.reason])
  rw [room]
  show ((s.books.room.bays b)).dyn.staged = some h
  rw [(Books.room_still _).2.1]; exact staged

end

/-- A search that leaves out a bay and finds none finds none with that bay either, where it does not fit. -/
theorem State.SearchSame.findsNone_with {s x : State} {b : BayIx} {c : BayClass} {ws : Time} (same : s.SearchSame x (some b))
    (none : s.FindsNone c (some b) ws)
    (here : (x.bay b).searchable = true → (x.bay b).checkOk = true ∧ ¬ x.FitsSome b ws) : x.FindsNone c Option.none ws := by
  intro e _ acceptable may
  by_cases this : e = b
  · rw [this] at may ⊢; exact here may
  · exact same.findsNone none e (by simpa using this) acceptable may

variable (running : s.heldInReset = false) (delivered : .displacement b (some t) (s.checkAt h).due ∈ s.expiries)
  (staged : (s.bay b).dyn.staged = some h) (ticket : h.ticket = some t) (requester : h.requester = some r)
include running delivered staged ticket requester

/-- The one hold of an empty Waitlist: displaced, and not served by the scan. -/
theorem displacementCheck_displaced (due : atOrAfter s.now (s.checkAt h).due = true)
    (taken : (s.bay b).dyn.state ≠ .free) (ok : (s.bay b).checkOk = true)
    (none : s.FindsNone (s.bay b).cls (some b) h.windowStart) (empty : s.waitlist = [])
    (known : s.lookup t = some ⟨t, r, .staged b⟩) :
    ∃ x, exec (.displacementCheck (byteOf (b.val + 1)) t (s.checkAt h).due) s = .next x ∧ x.still = s.still
      ∧ s.Unstaged b x ∧ (∀ c, c ≠ b → (x.bay c).dyn = (s.bay c).dyn ∧ s.AwaitsAs x c)
      ∧ x.WaitsWith [⟨h, (s.bay b).cls, Option.none, some h.graceEnd⟩] ∧ x.cursors = s.cursors
      ∧ x.lookup t = some ⟨t, r, .waitlist⟩
      ∧ (r ≠ 0 → s.Sends x [s.noticeAt 0 r Kind.holdNotice (movedBytes 2 t (b.val + 1) 0 1)]) := by
  have room : s.waitlist.length < 32 := by rw [empty]; simp
  obtain ⟨ev, p, ends, joined, place, voice, desk, calm⟩ :=
    displaced_event (t := t) staged none (State.admitsHead_room room)
  have same : s.books.room = s.books := Books.room_of_room room
  rw [same] at joined
  have waits : ev.books.waitlist = [⟨h, (s.bay b).cls, Option.none, some h.graceEnd⟩] := by
    rw [joined]; show insertHead _ s.waitlist = _; rw [empty]; rfl
  have position : p = 1 := by rw [place, waits]; simp [waitPosition]
  subst position
  have voice' : ev.voice = s.placed 0 [] := by
    rw [voice, Ev.makeRoom_voice_room (ev := s.checking b t h) room]; exact s.expiring_voice _
  have bays : ev.books.bays = s.books.bays := by rw [joined]; rfl
  have still : ev.books.still = s.still := by rw [joined]; rfl
  generalize hlast : (ev.vacateStaged b h (.displaced 1)).wantScan = last at ends
  have books : last.books = ev.books.put b .unstage := by
    rw [← hlast, Ev.wantScan_books, Ev.vacateStaged_books]; rfl
  have gone : last.books.bays b = (s.bay b).book.unstage := by rw [books, Books.put_same, bays]; rfl
  have unserved : last.flushNotes.st.Unserved := by
    have flushed : last.flushNotes.st.books = last.books := last.flushNotes_books
    have searches : s.SearchSame last.flushNotes.st (some b) := by
      have kept : last.flushNotes.st.still = s.still := by
        rw [show last.flushNotes.st.still = last.flushNotes.st.books.still from rfl, flushed, books,
          (Books.put_leaves ..).2.2.2.2, still]
      refine State.searchSame_of_books (fun e other => ?_) ?_ ?_ (by rw [kept]) (by rw [kept]) (by rw [kept]) (by rw [kept])
      · rw [flushed, books, Books.put_other _ _ (by simpa using other), bays]
      · rw [flushed, books, joined]; rfl
      · rw [flushed, books, joined]; rfl
    have here : (last.flushNotes.st.bay b).dyn = { (s.bay b).dyn with staged := Option.none } := by
      rw [show (last.flushNotes.st.bay b).dyn = (last.flushNotes.st.books.bays b).dyn from rfl, flushed, gone]; rfl
    intro w listed
    rw [show last.flushNotes.st.waitlist = last.flushNotes.st.books.waitlist from rfl, flushed, books,
      (Books.put_leaves ..).2.1, waits, List.mem_singleton] at listed
    rw [listed]
    refine searches.findsNone_with none fun _ => ⟨?_, fun fits => ?_⟩
    · rw [show (last.flushNotes.st.bay b).checkOk = (last.flushNotes.st.books.bays b).ok from rfl, flushed, gone]
      have kept : ((s.bay b).book.setDyn ({ · with staged := Option.none })).ok = true := BayBook.setDyn_ok _ ok
      exact kept
    · rcases fits with ⟨_, _, _, _, fits⟩ | ⟨_, _, _, _, fits⟩
      · rcases fits with ⟨_, free⟩ | ⟨wrong, _⟩
        · rw [here] at free; exact taken free
        · cases wrong
      · rcases fits with ⟨wrong, _⟩ | ⟨_, _, _, _, ahead, _⟩
        · cases wrong
        · rw [searches.timing, searches.now] at ahead
          exact Bool.noConfusion (ahead.symm.trans (laterThan_past due))
  have quiet : last.recompute = false := by
    rw [← hlast]
    exact (Ev.recompute_of_calm (Ev.vacateStaged_calm ..)).trans calm
  have shows_ := Ev.finish_shows_unserved unserved (.inl quiet)
  rw [books] at shows_
  refine ⟨_, ?_, shows_.still.trans still, (books ▸ shows_ : last.finish.Shows last.books).unstaged gone,
    fun c other => shows_.other bays other, waits ▸ shows_.waits, ?_, ?_, fun somebody => ?_⟩
  · rw [displacementCheck_runs running delivered staged ticket, ends]
  · exact shows_.cursors.trans (by rw [(Books.put_leaves ..).2.2.1, joined]; rfl)
  · rw [shows_.lookup, Books.lookup_put, joined]
    exact Books.lookup_indexHold_known (k := { s.books with waitlist := _ }) (e := ⟨t, r, .staged b⟩) ticket requester known
  · refine Ev.finish_sends_placed (k := 1) fun room => ?_
    rw [← hlast, Ev.wantScan_voice, Ev.vacateStaged_voice _ ticket requester (by
      rw [voice']; exact s.placed_room (by simpa using room)), voice', still]
    exact s.placed_tell 0 [] _ _ somebody

/-- A hold that the full Waitlist does not take is lost with its index entry, and nothing is scanned (log 28). -/
theorem displacementCheck_lost {w : WaitEntry} (none : s.FindsNone (s.bay b).cls (some b) h.windowStart)
    (full : 32 ≤ s.waitlist.length) (last : s.waitlist.getLast? = some w) (lower : h.priority < w.hold.priority) :
    ∃ x, exec (.displacementCheck (byteOf (b.val + 1)) t (s.checkAt h).due) s = .next x ∧ x.still = s.still
      ∧ s.Unstaged b x ∧ (∀ c, c ≠ b → (x.bay c).dyn = (s.bay c).dyn ∧ s.AwaitsAs x c)
      ∧ x.WaitsWith s.waitlist ∧ x.index = s.index.filter (fun i => i.ticket ≠ t)
      ∧ (r ≠ 0 → s.Sends x [s.noticeAt 0 r Kind.holdNotice (movedBytes 5 t (b.val + 1) 0 0)]) := by
  have searched := Ev.searchClasses_findsNone (ev := s.checking b t h) none
  have run := displacementCheck_runs running delivered staged ticket
  have barred : (s.checking b t h).st.admitsHead h.priority = false :=
    (State.admitsHead_full (s := s) full last).trans (decide_eq_false (not_le.2 lower))
  have gone : (s.checking b t h).displace h ((s.checking b t h).bay b).cls = _ := Ev.displace_lost _ barred
  rw [Ev.relocateOrDisplace_displaced (ev := s.checking b t h) (sl := .staged) staged searched, gone] at run
  dsimp only [Ev.leaveSlot] at run
  have index := Ev.unindexHold_books (s.checking b t h) h
  have voice := (Ev.unindexHold_voice (s.checking b t h) h).trans (s.expiring_voice _)
  have calm := Ev.unindexHold_calm (s.checking b t h) h
  have desk : ((s.checking b t h).onState (·.unindexHold h)).desk = .clear := rfl
  generalize (s.checking b t h).onState (·.unindexHold h) = ev at run index voice calm desk
  have kept : ev.books = s.books.unindex h := index
  have leaves := Books.leave_leaves s.books h (.ended .freed)
  have unindexed : s.books.leave h (.ended .freed) = s.books.unindex h := rfl
  rw [unindexed] at leaves
  obtain ⟨bays, waitlist, _, _, still⟩ := leaves
  rw [Ev.endStaged_lost (h := h) (by rw [kept, bays]; exact staged)] at run
  have books : (ev.vacateStaged b h .lost).books = (s.books.unindex h).put b .unstage := by
    rw [Ev.vacateStaged_books, kept]; rfl
  have shows_ := Ev.finish_shows (ev.vacateStaged b h .lost) (.inl (by
    exact (congrArg Desk.scan (Ev.vacateStaged_desk ..)).trans (congrArg Desk.scan desk)))
    (.inl ((Ev.recompute_of_calm (Ev.vacateStaged_calm ..)).trans (Ev.recompute_of_calm calm)))
  rw [books] at shows_
  refine ⟨_, run, shows_.still.trans still, shows_.unstaged (by rw [Books.put_same, bays]; rfl),
    fun c other => shows_.other bays other, ?_, shows_.index.trans (Books.unindex_index ticket),
    fun somebody => ?_⟩
  · have waits := shows_.waits
    rw [(Books.put_leaves ..).2.1, waitlist] at waits
    exact waits
  refine Ev.finish_sends_placed (k := 1) fun room => ?_
  rw [Ev.vacateStaged_voice _ ticket requester (by rw [voice]; exact s.placed_room (by simpa using room)), voice, kept, still]
  exact s.placed_tell 0 [] _ _ somebody

/-- At a full Waitlist the last entry is evicted, and the hold joins at the head of its group; no bay can be searched. -/
theorem displacementCheck_evicts {w : WaitEntry} {u : Ticket} {e : Addr} (none : ∀ c, (s.bay c).searchable = false)
    (full : 32 ≤ s.waitlist.length) (last : s.waitlist.getLast? = some w) (admits : w.hold.priority ≤ h.priority)
    (evicted : w.hold.ticket = some u) (owner : w.hold.requester = some e) (other : u ≠ t)
    (known : s.lookup t = some ⟨t, r, .staged b⟩) :
    let joined := insertHead ⟨h, (s.bay b).cls, Option.none, some h.graceEnd⟩ s.waitlist.dropLast
    ∃ x, exec (.displacementCheck (byteOf (b.val + 1)) t (s.checkAt h).due) s = .next x ∧ x.still = s.still
      ∧ s.Unstaged b x ∧ (∀ c, c ≠ b → (x.bay c).dyn = (s.bay c).dyn ∧ s.AwaitsAs x c)
      ∧ x.WaitsWith joined ∧ x.lookup t = some ⟨t, r, .waitlist⟩ ∧ x.lookup u = Option.none
      ∧ (r ≠ 0 → e ≠ 0 → s.Sends x [s.noticeAt 0 e Kind.holdNotice (movedBytes 4 u 0 0 0),
          s.noticeAt 1 r Kind.holdNotice (movedBytes 2 t (b.val + 1) 0 (waitPosition joined (some t)))]) := by
  intro joined
  have unsearchable := State.findsNone_of_unsearchable none
  obtain ⟨ev, p, ends, books, place, voice, desk, calm⟩ := displaced_event (t := t) staged (unsearchable _ _ _)
    ((State.admitsHead_full full last).trans (decide_eq_true admits))
  have room : s.books.room = { s.books with waitlist := s.waitlist.dropLast }.unindex w.hold := Books.room_of_full full last
  have kept := Books.leave_leaves ({ s.books with waitlist := s.waitlist.dropLast } : Books) w.hold (.ended .freed)
  rw [show ({ s.books with waitlist := s.waitlist.dropLast } : Books).leave w.hold (.ended .freed) = s.books.room from room.symm] at kept
  obtain ⟨bays, waitlist, _, _, still⟩ := kept
  have waits : ev.books.waitlist = joined := by
    rw [books]; show insertHead _ s.books.room.waitlist = _; rw [waitlist]
  have bays' : ev.books.bays = s.books.bays := by rw [books]; exact bays
  have still' : ev.books.still = s.still := by rw [books]; exact still
  generalize hlast : (ev.vacateStaged b h (.displaced p)).wantScan = final at ends
  have final_ : final.books = ev.books.put b .unstage := by
    rw [← hlast, Ev.wantScan_books, Ev.vacateStaged_books]; rfl
  have gone : final.books.bays b = (s.bay b).book.unstage := by rw [final_, Books.put_same, bays']; rfl
  have unserved : final.flushNotes.st.Unserved := by
    refine fun w _ => State.findsNone_of_unsearchable (fun c => ?_) _ _ _
    have dyn : (final.flushNotes.st.bay c).dyn = (final.books.bays c).dyn :=
      congrArg (fun k : Books => (k.bays c).dyn) final.flushNotes_books
    unfold Bay.searchable
    rw [dyn]
    by_cases same : c = b
    · rw [same, gone]; exact none b
    · rw [final_, Books.put_other _ _ same, bays']; exact none c
  have shows_ := Ev.finish_shows_unserved unserved (.inl (by
    rw [← hlast]; exact (Ev.recompute_of_calm (Ev.vacateStaged_calm ..)).trans calm))
  rw [final_] at shows_
  refine ⟨_, ?_, shows_.still.trans still', shows_.unstaged (by rw [Books.put_same, bays']; rfl),
    fun c other => shows_.other bays' other, waits ▸ shows_.waits, ?_, ?_, fun somebody told => ?_⟩
  · rw [displacementCheck_runs running delivered staged ticket, ends]
  · rw [shows_.lookup, Books.lookup_put, books, room]
    exact Books.lookup_indexHold_known (e := ⟨t, r, .staged b⟩) (k := { ({ s.books with waitlist := s.waitlist.dropLast } : Books).unindex w.hold with waitlist := _ })
      ticket requester ((Books.lookup_unindex_other (k := { s.books with waitlist := s.waitlist.dropLast }) evicted other.symm).trans known)
  · rw [shows_.lookup, Books.lookup_put, books, room]
    exact (Books.lookup_indexHold_other (k := { ({ s.books with waitlist := s.waitlist.dropLast } : Books).unindex w.hold with waitlist := _ })
      ticket requester other).trans (Books.lookup_unindex_same (k := { s.books with waitlist := s.waitlist.dropLast }) evicted)
  · refine Ev.finish_sends_placed (k := 2) fun room => ?_
    rw [List.length_cons, List.length_singleton] at room
    have start := s.expiring_voice (.displacement b (some t) (s.checkAt h).due)
    have first : ev.voice = s.placed 1 [s.noticeAt 0 e Kind.holdNotice (movedBytes 4 u 0 0 0)] := by
      rw [voice, Ev.makeRoom_voice_full (ev := s.checking b t h) full last evicted owner (by
        rw [start]; exact s.placed_room (by simp only [List.length_nil]; omega)), start]
      exact s.placed_tell 0 [] _ _ told
    rw [← hlast, Ev.wantScan_voice, Ev.vacateStaged_voice _ ticket requester (by
      rw [first]; exact s.placed_room (by simp only [List.length_singleton]; omega)), first, still', place, waits, ticket]
    exact s.placed_tell 1 _ _ _ somebody

/-- The bay that the search finds takes the staged hold. -/
theorem displacementCheck_relocates {d : BayIx} {sl : Slot} (finds : s.Finds (s.bay b).cls (some b) h.windowStart d sl)
    (ok : ∀ c, c ≠ b → (s.bay c).searchable = true → (s.bay c).checkOk = true)
    (uncharged : sl = .active → (s.bay d).alloc.chargingCopy = false) (empty : s.waitlist = []) :
    ∃ x, exec (.displacementCheck (byteOf (b.val + 1)) t (s.checkAt h).due) s = .next x
      ∧ x.Shows ((({ s.books with cursors := s.cursors.set (s.bay d).cls.ix (d + 1) } : Books).put b .unstage).indexHold h
          (sl.at d) |>.put d (.take s.still h sl))
      ∧ (r ≠ 0 → s.Sends x [s.noticeAt 0 r Kind.holdNotice (movedBytes 1 t (d.val + 1) sl.code 0)]
        ∧ (sl = .active → s.controller.noticeDest ≠ 0 →
            s.Sends x [s.noticeAt 0 r Kind.holdNotice (movedBytes 1 t (d.val + 1) sl.code 0),
              s.bayNoticeAt 1 d .free .held 3 0 0])) := by
  have other : d ≠ b := by
    obtain ⟨_, other, _⟩ := finds
    simpa using other
  have free : sl = .active → (s.bay d).dyn.state = .free := by
    obtain ⟨_, _, ⟨_, _, _, _, ⟨_, free⟩ | ⟨wrong, _⟩⟩, _⟩ := finds
    · exact fun _ => free
    · intro active; rw [active] at wrong; cases wrong
  have searched := Ev.searchClasses_finds (ev := s.checking b t h) finds (fun e apart _ => ok e (by simpa using apart))
  have run := displacementCheck_runs running delivered staged ticket
  rw [Ev.relocateOrDisplace_found (ev := s.checking b t h) (sl := .staged) staged searched] at run
  have passed : ((s.checking b t h).onState (·.passCursor d)).books
      = { s.books with cursors := s.cursors.set (s.bay d).cls.ix (d + 1) } := by
    rw [Ev.passCursor_books]
    rw [show ((s.checking b t h).books.still.bays.get d).cls = (s.bay d).cls from
      congrArg BayConfig.cls (Table.get_map s.bays Bay.config d)]
    rfl
  have voice := (Ev.passCursor_voice (s.checking b t h) d).trans (s.expiring_voice _)
  have calm := Ev.passCursor_calm (s.checking b t h) d
  have desk : ((s.checking b t h).onState (·.passCursor d)).desk = .clear := rfl
  generalize (s.checking b t h).onState (·.passCursor d) = ev at run passed voice calm desk
  have staged' : (ev.books.bays b).dyn.staged = some h := by rw [passed]; exact staged
  have free' : sl = .active → (ev.books.bays d).dyn.state = .free := by rw [passed]; exact free
  have books := Ev.relocateTo_books other staged' free'
  have notes := Ev.relocateTo_notes other staged' free' desk
  have quiet := Ev.recompute_of_calm (Ev.relocateTo_calm other staged' free' (by rw [calm]; exact uncharged))
  have told := fun room => Ev.relocateTo_voice (ev := ev) other staged' free' ticket requester room
  rw [passed] at books told notes
  generalize ev.relocateTo b .staged h d sl = last at run books notes quiet told
  have shows_ := Ev.finish_shows last (.inr (by rw [books]; exact empty)) (.inl (quiet.trans (Ev.recompute_of_calm calm)))
  rw [books] at shows_
  have placed (somebody : r ≠ 0) (room : s.uplink.fifo.length + 1 ≤ 32) :
      last.voice = s.placed 1 [s.noticeAt 0 r Kind.holdNotice (movedBytes 1 t (d.val + 1) sl.code 0)] := by
    rw [told (by rw [voice]; exact s.placed_room (by simpa using room)), voice]
    exact s.placed_tell 0 [] _ _ somebody
  refine ⟨_, run, shows_, fun somebody => ⟨Ev.finish_sends_placed (placed somebody), fun active listener => ?_⟩⟩
  subst active
  have silent : (⟨b, (s.bay b).dyn.state, [], Option.none, Option.none⟩ : BayNote).raised (last.books.bays b).dyn.state = false := by
    have here : (last.books.bays b).dyn.state = (s.bay b).dyn.state := by
      rw [books, Books.put_other _ _ other.symm]
      exact congrArg (fun y : BayBook => y.dyn.state) (Books.put_same ({ s.books with cursors := _ } : Books) b .unstage)
    rw [here]; simp [BayNote.raised]
  rw [Ev.finish_silentNote (n := ⟨b, (s.bay b).dyn.state, [], Option.none, Option.none⟩) notes silent]
  refine Ev.finish_sends_note (k := 1) (n := placeNote d) (after := .held) (fs := [_]) (placed somebody) rfl ?_ ?_ rfl listener
  · show last.books.still.controller = s.controller
    rw [books]; rfl
  · show (last.books.bays d).dyn.state = .held
    rw [books, Books.put_same]; rfl

end

end Sys2Proof.Machine
end

section
/-!
SUPPORT. CLOSE-NOW at a bay whose active hold has not arrived and finds no other bay (R44, R154); the obligation of
relocation.
-/
namespace Sys2Proof.Machine

section
variable {s : State} {r : Request} {q : List Request} {b : BayIx} {h : Hold} {t : Ticket} {a : Addr}

/-- The book of a closed bay whose active hold has been displaced. -/
def BayBook.displaced (y : BayBook) : BayBook :=
  (((y.setDyn ({ · with closeMode := .closingAtEnd })).clearActive.setDyn ({ · with active := none })).setDyn
    ({ · with state := .closed })).setDyn ({ · with closeMode := .none })

/-- The books of CLOSE-NOW when the displaced hold waits at the head of its group. -/
def State.closedBooks (s : State) (q : List Request) (b : BayIx) (h : Hold) : Books :=
  (({ s with management := q } : State).books.joined insertHead ⟨h, (s.bay b).cls, none, some h.graceEnd⟩).put b
    .displaced

variable (running : s.heldInReset = false) (head : s.management = r :: q) (kind : r.kind = Kind.control)
  (payload : r.payload = [2, byteOf (b.val + 1)])
  (waiting : (s.bay b).dyn.state = .held ∨ (s.bay b).dyn.state = .contested) (active : (s.bay b).dyn.active = some h)
  (arrival : h.arrival = none) (staged : (s.bay b).dyn.staged = none)
  (ticket : h.ticket = some t) (requester : h.requester = some a) (uncharged : (s.bay b).alloc.chargingCopy = false)
  (none : s.FindsNone (s.bay b).cls (some b) h.windowStart) (empty : s.waitlist = [])

include running head kind payload waiting active arrival staged ticket requester uncharged none empty in
/-- CLOSE-NOW as its event stands at the answer. -/
theorem closeNow_displaces : ∃ ev : Ev, exec .closeNow s = .next (ev.status r .ok).finish ∧ ev.books = s.closedBooks q b h
    ∧ ev.desk = ⟨[endNote b (s.bay b).dyn.state .relocated], false, false⟩ ∧ ev.recompute = false
    ∧ (a ≠ 0 → ev.voice = s.waits 1 [s.noticeAt 0 a Kind.holdNotice (movedBytes 2 t (b.val + 1) 0 1)])
    ∧ ev.voice.uplink = s.uplink := by
  have open_ : (s.bay b).dyn.state ≠ .closed := by rcases waiting with h | h <;> rw [h] <;> simp
  have sound : (s.bay b).dyn.state ≠ .faulted := by rcases waiting with h | h <;> rw [h] <;> simp
  have run := execCloseNow_runs running head kind payload
  rw [Ev.closeNow_held (ev := s.managing q) open_ active] at run
  have books := Ev.startClosing_books (s.managing q) b
  have voice := (Ev.startClosing_voice (s.managing q) b).trans (s.managing_voice q)
  have calm := Ev.startClosing_calm (s.managing q) b
  have desk : ((s.managing q).startClosing b).desk = ⟨[⟨b, (s.bay b).dyn.state, [], Option.none, Option.none⟩], false, false⟩ := by
    unfold Ev.startClosing; rw [Ev.modDyn_desk, Ev.touch_desk]; rfl
  generalize (s.managing q).startClosing b = ev₁ at run books voice calm desk
  have here : (ev₁.books.bays b).dyn = { (s.bay b).dyn with closeMode := .closingAtEnd } := by
    rw [books, Books.put_same]; rfl
  have searched : ev₁.relocationSearch b h = (ev₁, Option.none) := by
    have same : s.SearchSame ev₁.st (some b) := by
      have still : ev₁.st.still = (s.managing q).st.still := by
        rw [show ev₁.st.still = ev₁.books.still from rfl, books]; rfl
      refine State.searchSame_of_books (fun e other => ?_) ?_ ?_ (by rw [still]; rfl) (by rw [still]; rfl) (by rw [still]; rfl)
        (by rw [still]; rfl)
      · rw [show ev₁.st.books = ev₁.books from rfl, books, Books.put_other _ _ (by simpa using other)]; rfl
      · rw [show ev₁.st.books = ev₁.books from rfl, books]; rfl
      · rw [show ev₁.st.books = ev₁.books from rfl, books]; rfl
    rw [Ev.relocationSearch_eq, show (ev₁.bay b).cls = (s.bay b).cls from same.cls b]
    exact Ev.searchClasses_findsNone (same.findsNone none)
  rw [Ev.relocateOrDisplace_none (by rw [here]; exact staged), Ev.relocateActive_waiting (by rw [here]; exact active) arrival,
    Ev.relocateOrDisplace_displaced (sl := .active) (by rw [here]; exact active) searched,
    show (ev₁.bay b).cls = (s.bay b).cls from (ev₁.bay_cls b).trans (by
      rw [books]; exact congrArg BayConfig.cls (Table.get_map s.bays Bay.config b))] at run
  have waits : ev₁.books.waitlist = [] := by rw [books]; exact empty
  have room : ev₁.books.waitlist.length < 32 := by rw [waits]; simp
  rw [Ev.displace_joins _ (State.admitsHead_room room)] at run
  dsimp only [Ev.leaveSlot] at run
  have joined := Ev.joinWaitlist_books ev₁ insertHead h (s.bay b).cls Option.none
  have kept := Ev.joinWaitlist_kept ev₁ insertHead h (s.bay b).cls Option.none
  have quiet := Ev.joinWaitlist_voice ev₁ insertHead h (s.bay b).cls Option.none
  rw [Ev.makeRoom_voice_room room] at quiet
  rw [Books.room_of_room room] at joined
  generalize ev₁.joinWaitlist insertHead h (s.bay b).cls Option.none = ev₂ at run joined kept quiet
  have position : waitPosition ev₂.st.waitlist h.ticket = 1 := by
    have list : ev₂.st.waitlist = [⟨h, (s.bay b).cls, Option.none, some h.graceEnd⟩] := by
      rw [show ev₂.st.waitlist = ev₂.books.waitlist from rfl, joined]
      show insertHead _ ev₁.books.waitlist = _
      rw [waits]; rfl
    rw [list]; simp [waitPosition]
  rw [position] at run
  have here₂ : (ev₂.books.bays b).dyn = { (s.bay b).dyn with closeMode := .closingAtEnd } := by
    rw [joined]; exact here
  have charging : ev₂.calm.charging b = false := by rw [kept.2, calm]; exact uncharged
  rw [Ev.endActive_closing (h := h) (.displaced 1) (by rw [here₂]; exact active) (by rw [here₂]; exact staged)
    (by rw [here₂]; exact sound) (by rw [here₂])] at run
  have told : ((ev₂.vacate b h (.displaced 1)).closeBay b).voice
      = (s.waits 0 []).tell s.controller.own a Kind.holdNotice (movedBytes 2 t (b.val + 1) 0 1) := by
    rw [Ev.closeBay_voice, Ev.vacate_voice _ ticket requester (by rw [quiet, voice]; exact s.waits_room 0 []), quiet, voice,
      joined, books]
    rfl
  refine ⟨_, run, ?_, ?_, ?_, fun somebody => ?_, ?_⟩
  · rw [Ev.closeBay_books, Ev.vacate_books_none h _ (by rw [here₂]; exact staged), joined, books, Books.put_put]
    exact Books.put_put (({ s with management := q } : State).books.joined insertHead
      ⟨h, (s.bay b).cls, Option.none, some h.graceEnd⟩) b (.setDyn · ({ · with closeMode := .closingAtEnd })) _
  · rw [Ev.closeBay_desk, Ev.vacate_desk, kept.1, desk, Desk.touch_known (b := b) _ rfl, Desk.touch_known (b := b) _ rfl,
      Desk.modNote_known (b := b) _ rfl, Desk.modNote_known (b := b) _ rfl, Desk.touch_known (b := b) _ rfl]
    rfl
  · refine (Ev.recompute_of_calm (ev := s.managing q) ?_)
    rw [Ev.closeBay_calm (by rw [Ev.vacate_calm _ _ charging]; exact charging), Ev.vacate_calm _ _ charging, kept.2, calm]
  · rw [told]; exact s.waits_tell 0 [] _ _ somebody
  · rw [told]
    by_cases nobody : a = 0
    · rw [nobody, Voice.tell_nobody]; rfl
    · rw [s.waits_tell 0 [] _ _ nobody]; rfl

end

/-- Settles O32: the displacement check by the search and the room on the Waitlist, and CLOSE-NOW. -/
theorem relocation : Obligations.Relocation := by
  refine ⟨?_, ?_⟩
  · intro s b a h t r running v delivered staged ticket requester run timer emptied same entry told
    refine ⟨fun due active taken ok none empty known => ?_, fun d sl finds ok uncharged empty known => ?_,
      fun w none full last lower => ?_, fun w u e none full last admits evicted owner other known => ?_⟩
    · exact displacementCheck_displaced running delivered staged ticket requester due taken ok none empty known
    · obtain ⟨x, ran, shows_, sends⟩ :=
        displacementCheck_relocates running delivered staged ticket requester finds ok uncharged empty
      have other : d ≠ b := by
        obtain ⟨_, other, _⟩ := finds
        simpa using other
      have leftDyn := shows_.dyn b
      have leftAwaits := shows_.awaits b
      have takenDyn := shows_.dyn d
      have takenAwaits := shows_.awaits d
      have found := shows_.lookup t
      rw [Books.lookup_put, Books.lookup_indexHold_known (k := ({ s.books with cursors := _ } : Books).put b .unstage)
        (e := ⟨t, r, .staged b⟩) ticket requester known] at found
      have left (f : BayBook → BayBook) (cursors : Table BayIx 4) :
          (((({ s.books with cursors := cursors } : Books).put b .unstage).indexHold h (sl.at d)).put d f).bays b
            = (s.bay b).book.unstage :=
        (Books.put_other _ _ other.symm).trans (Books.put_same ({ s.books with cursors := cursors } : Books) b .unstage)
      rw [left] at leftDyn leftAwaits
      have taken (f : BayBook → BayBook) (cursors : Table BayIx 4) :
          (((({ s.books with cursors := cursors } : Books).put b .unstage).indexHold h (sl.at d)).put d f).bays d
            = f (s.bay d).book :=
        (Books.put_same _ _ _).trans (congrArg f (Books.put_other ({ s.books with cursors := cursors } : Books) .unstage other))
      rw [taken] at takenDyn takenAwaits
      refine ⟨x, ran, shows_.still, ⟨leftDyn, leftAwaits⟩, ?_, ?_, fun c notB notD => ?_, ?_, ?_, shows_.cursors, sends⟩
      · cases sl <;> exact takenDyn
      · cases sl with
        | active =>
          have noShow : ((s.bay d).book.takeActive s.still h).noShow
              = if h.arrival = none then some ⟨some t, h.graceEnd⟩ else none := by
            cases arrival : h.arrival <;> simp [Hold.arrived, arrival, noShowOf, ticket]
          have overstay : ((s.bay d).book.takeActive s.still h).overstay
              = if h.arrival = none then none else some (s.overstayAt h) := by
            cases arrival : h.arrival <;> simp [Hold.arrived, arrival, State.overstayAt_still]
          rw [BayBook.take, noShow, overstay] at takenAwaits
          exact takenAwaits
        | staged => exact takenAwaits
      · have dyn := shows_.dyn c
        have awaits := shows_.awaits c
        rw [Books.put_other _ _ notD] at dyn awaits
        have rest : ((({ s.books with cursors := s.cursors.set (s.bay d).cls.ix (d + 1) } : Books).put b .unstage).indexHold h
            (sl.at d)).bays c = (s.bay c).book := Books.put_other ({ s.books with cursors := _ } : Books) .unstage notB
        rw [rest] at dyn awaits
        exact ⟨dyn, awaits⟩
      · rw [shows_.waits.1]; exact List.map_eq_nil_iff.2 empty
      · cases sl <;> exact found
    · exact displacementCheck_lost running delivered staged ticket requester none full last lower
    · exact ⟨insertHead_split entry s.waitlist.dropLast,
        displacementCheck_evicts running delivered staged ticket requester none full last admits evicted owner other known⟩
  · intro s r q b h t a running head kind payload waiting active arrival staged ticket requester known uncharged none empty
    obtain ⟨ev, run, books, desk, calm, voice, uplink⟩ := closeNow_displaces running head kind payload waiting active arrival
      staged ticket requester uncharged none empty
    have shows_ := Ev.answer_shows r Kind.mgmtAnswer [r.kind, 0] books (.inl (Ev.scan_of_desk desk)) (.inl calm)
    have here : (s.closedBooks q b h).bays b = (s.bay b).book.displaced := Books.put_same ..
    have dyn := shows_.dyn b
    have awaits := shows_.awaits b
    rw [here] at dyn awaits
    have controller : ev.books.still.controller = s.controller := by rw [books]; rfl
    refine ⟨_, run, shows_.still, dyn, awaits, fun c other => shows_.other rfl other, ?_, ?_,
      State.Answers_of_voice _ _ uplink controller, fun src somebody listener => ?_⟩
    · have waits := shows_.waits
      rw [show (s.closedBooks q b h).waitlist = insertHead ⟨h, (s.bay b).cls, Option.none, some h.graceEnd⟩ s.waitlist from rfl,
        empty] at waits
      exact waits
    · exact (shows_.lookup t).trans (Books.lookup_indexHold_known (k := { ({ s with management := q } : State).books with waitlist := _ })
        (e := ⟨t, a, .active b⟩) ticket requester known)
    · exact Ev.finish_sends_note (k := 1) (n := endNote b (s.bay b).dyn.state .relocated) (after := .closed) (fs := [_, _])
        (fun room => Ev.answer_placed Kind.mgmtAnswer [r.kind, 0] (voice somebody) controller src room)
        (by rw [Ev.status_ok, Ev.answer_desk, desk]) (by rw [Ev.status_ok, Ev.answer_books]; exact controller)
        (by rw [Ev.status_ok, Ev.answer_books, books, show (endNote b (s.bay b).dyn.state .relocated).bay = b from rfl, here]; rfl)
        (endNote_raised ..) listener

end Sys2Proof.Machine
end

section
/-!
SUPPORT. HOLD-STATE as QUERY and ARRIVE answer it (R50, Table 11-2).
-/
namespace Sys2Proof.Machine

theorem flagByte_seen (seen arrived : Bool) :
    flagByte [seen, arrived] = byteOf ((if seen then 1 else 0) + (if arrived then 2 else 0)) := by
  cases seen <;> cases arrived <;> rfl

theorem flagByte_active (walkIn arrived : Bool) :
    flagByte [true, walkIn, arrived] = byteOf (1 + (if walkIn then 2 else 0) + (if arrived then 4 else 0)) := by
  cases walkIn <;> cases arrived <;> rfl

theorem holdStatePayload_eq (s : State) (t : Ticket) (location bay state position : Nat) (h : Hold) :
    holdStatePayload s t location bay state position h = s.holdStateBytes t location bay state position h := by
  unfold holdStatePayload State.holdStateBytes State.windowBytes State.site
  rw [flagByte_seen]
  cases arrival : h.arrival <;> simp [Hold.arrived, arrival, be32_zero]

/-- The record of a hold in HOLD-STATE, its three site times one by one. -/
theorem State.holdStateBytes_times (s : State) (t : Ticket) (location bay state position : Nat) (h : Hold) :
    s.holdStateBytes t location bay state position h
      = [0] ++ be32w t ++ [byteOf location, byteOf bay, byteOf state, byteOf position, byteOf h.priority.val,
          byteOf ((if h.entrySeen then 1 else 0) + (if h.arrival = none then 0 else 2))]
        ++ be32w (h.windowStart + s.siteOffset) ++ be32w (h.windowEnd + s.siteOffset) ++ be32w (h.graceEnd + s.siteOffset)
        ++ (match h.arrival with | some a => be32w (a + s.siteOffset) | none => [0, 0, 0, 0])
        ++ be32 h.occupiedSeconds ++ be32 h.chargedSeconds ++ be32 h.energyDelivered := by
  unfold State.holdStateBytes State.windowBytes
  simp only [List.append_assoc] <;> rfl

theorem waitPosition_behind {front back : List WaitEntry} {e : WaitEntry} {t : Ticket}
    (ahead : ∀ f ∈ front, f.hold.ticket ≠ some t) (here : e.hold.ticket = some t) :
    waitPosition (front ++ e :: back) (some t) = front.length + 1 := by
  unfold waitPosition
  have found : (front ++ e :: back).findIdx? (fun e => e.hold.ticket == some t) = some front.length := by
    rw [List.findIdx?_append, List.findIdx?_eq_none_iff.2 (by simpa using ahead)]
    simp [List.findIdx?_cons, here]
  rw [found]

theorem State.waiting_behind {s : State} {front back : List WaitEntry} {e : WaitEntry} {t : Ticket}
    (list : s.waitlist = front ++ e :: back) (ahead : ∀ f ∈ front, f.hold.ticket ≠ some t) (here : e.hold.ticket = some t) :
    s.waiting t = some e := by
  unfold State.waiting
  rw [list, List.find?_append, List.find?_eq_none.2 (by simpa using ahead)]
  simp [here]

/-! ## HOLD-STATE by ticket -/

section
variable {s : State} {t : Ticket} {a : Addr} {b : BayIx} {h : Hold} (ticket : t ≠ 0)
include ticket

theorem State.stateByTicket_active (found : s.lookup t = some ⟨t, a, .active b⟩) (active : (s.bay b).dyn.active = some h) :
    s.stateByTicket t = s.holdStateBytes t 1 (b.val + 1) (s.bay b).dyn.state.code 0 h := by
  unfold State.stateByTicket
  rw [if_neg ticket, found]; dsimp only
  rw [show s.holdAt t (.active b) = some h from active]
  exact holdStatePayload_eq ..

theorem State.stateByTicket_staged (found : s.lookup t = some ⟨t, a, .staged b⟩) (staged : (s.bay b).dyn.staged = some h) :
    s.stateByTicket t = s.holdStateBytes t 2 (b.val + 1) (s.bay b).dyn.state.code 0 h := by
  unfold State.stateByTicket
  rw [if_neg ticket, found]; dsimp only
  rw [show s.holdAt t (.staged b) = some h from staged]
  exact holdStatePayload_eq ..

theorem State.stateByTicket_waiting {e : WaitEntry} (found : s.lookup t = some ⟨t, a, .waitlist⟩)
    (waiting : s.waiting t = some e) :
    s.stateByTicket t = s.holdStateBytes t 3 0 0 (waitPosition s.waitlist (some t)) e.hold := by
  unfold State.stateByTicket
  rw [if_neg ticket, found]; dsimp only
  rw [show s.holdAt t .waitlist = some e.hold from by
    show (s.waiting t).map (·.hold) = _
    rw [waiting]; rfl]
  exact holdStatePayload_eq ..

theorem State.stateByTicket_early {e : EarlyEntry} (unknown : s.lookup t = none)
    (early : s.early.find? (fun e => e.ticket == t) = some e) : s.stateByTicket t
      = [0] ++ be32w t ++ [4, 0, 0, 0, 0, 0] ++ be32w (e.recorded + s.siteOffset) ++ List.replicate 24 0 := by
  unfold State.stateByTicket
  rw [if_neg ticket, unknown]; dsimp only
  rw [early]; rfl

theorem State.stateByTicket_none (unknown : s.lookup t = none) (absent : s.early.find? (fun e => e.ticket == t) = none) :
    s.stateByTicket t = [0] ++ be32w t ++ [0] := by
  unfold State.stateByTicket
  rw [if_neg ticket, unknown]; dsimp only
  rw [absent]; rfl

end

/-- One slot of HOLD-STATE by bay. -/
theorem slotBytes_eq (s : State) (x : Option Hold) : slotBytes s x = match x with
    | none => List.replicate 12 (0 : Byte)
    | some h => be32w (match h.ticket with | some t => t | none => 0) ++ be32w (h.windowStart + s.siteOffset)
        ++ be32w (h.windowEnd + s.siteOffset) := by
  cases x with
  | none => rfl
  | some h => cases ticket : h.ticket <;> simp [slotBytes, ticket, State.site]

theorem State.stateByBay_eq (s : State) (b : BayIx) : s.stateByBay (b.val + 1)
    = [1, byteOf (b.val + 1), byteOf (s.bay b).dyn.state.code, byteOf (s.bay b).dyn.occupancy.code,
        byteOf (s.bay b).dyn.connector.code,
        byteOf (match (s.bay b).dyn.active with
          | none => 0
          | some h => 1 + (if h.ticket = none then 2 else 0) + (if h.arrival = none then 0 else 4))]
      ++ slotBytes s (s.bay b).dyn.active ++ slotBytes s (s.bay b).dyn.staged := by
  unfold State.stateByBay
  rw [(bayOfNo_iff _ b).2 rfl]; dsimp only
  cases active : (s.bay b).dyn.active with
  | none => rfl
  | some h =>
    dsimp only
    rw [flagByte_active]
    cases ticket : h.ticket <;> cases arrival : h.arrival <;> simp [Hold.arrived, arrival]

theorem State.stateByBay_outside (s : State) {n : Nat} (outside : n = 0 ∨ 128 < n) : s.stateByBay n = [1, byteOf n] := by
  unfold State.stateByBay
  have none : bayOfNo n = none := by unfold bayOfNo; rw [dif_neg (by omega)]
  rw [none]

/-- Settles O44: the request's event answers and changes nothing, so what counts is the payload. -/
theorem query : Obligations.Query := by
  intro s r q running head kind answered site slot record
  have run : exec .query s = answered (({ s with requests := q } : State).queryState r.payload) := by
    rw [exec_query, execQuery, s.takeRequest_runs Kind.query _ running head kind]
    exact congrArg Host.Outcome.next (Ev.finish_answer (Ev.startRequest { s with requests := q }) r _ _ rfl rfl rfl rfl)
  have byTicket (form : byteAt r.payload 0 = 0) :
      ({ s with requests := q } : State).queryState r.payload = s.stateByTicket (ticketField r.payload 1) := by
    unfold State.queryState
    rw [if_neg (by rw [form]; simp), if_pos form]; rfl
  have byBay (form : byteAt r.payload 0 = 1) :
      ({ s with requests := q } : State).queryState r.payload = s.stateByBay (byteAt r.payload 5) := by
    unfold State.queryState
    rw [if_pos form]; rfl
  refine ⟨fun b form bay => ?_, fun form outside => ?_, fun t form named => ⟨fun zero => ?_, fun ticket =>
    ⟨fun a b h found active => ?_, fun a b h found staged => ?_, fun a l e l' found list ahead here => ?_,
      fun unknown => ⟨fun e early => ?_, fun absent => ?_⟩⟩⟩⟩
  · rw [run, byBay form, bay, s.stateByBay_eq b, slotBytes_eq, slotBytes_eq] <;> rfl
  · rw [run, byBay form, s.stateByBay_outside outside]
  · rw [run, byTicket form, named, zero]; rfl
  · rw [run, byTicket form, named, State.stateByTicket_active ticket found active, State.holdStateBytes_times] <;> rfl
  · rw [run, byTicket form, named, State.stateByTicket_staged ticket found staged, State.holdStateBytes_times] <;> rfl
  · rw [run, byTicket form, named, State.stateByTicket_waiting ticket found (State.waiting_behind list ahead here), list,
      waitPosition_behind ahead here, State.holdStateBytes_times] <;> rfl
  · rw [run, byTicket form, named, State.stateByTicket_early ticket unknown early]
  · rw [run, byTicket form, named, State.stateByTicket_none ticket unknown absent]

end Sys2Proof.Machine
end

section
/-!
SUPPORT. ARRIVE: the Early Arrival List, entry seen of a hold, and the relocation of a CONTESTED one (R45 to R47).
-/
namespace Sys2Proof.Machine

/-! ## The request (R46) -/

section
variable {s : State} {r : Request} {q : List Request} {t : Ticket}

/-- The event of an ARRIVE that is carried out, and its HOLD-STATE. -/
theorem execArrive_runs (running : s.heldInReset = false) (head : s.requests = r :: q) (kind : r.kind = Kind.arrive)
    (named : ticketField r.payload 0 = t) (permitted : (s.node r.src).permissions.arrive = true) (ticket : t ≠ 0)
    {ev : Ev} (arrives : (s.serving q).arriveAt t = ev) :
    exec .arrive s = .next (ev.answer (ev.st.buildAnswer r.src r.tag Kind.holdState (ev.st.stateByTicket t))).finish := by
  rw [exec_arrive, execArrive, s.takeRequest_runs Kind.arrive _ running head kind]
  unfold Ev.arriveRequest; dsimp only
  have may : (({ s with requests := q } : State).node r.src).permissions.arrive = true := permitted
  rw [show (Ev.startRequest { s with requests := q }).st.node r.src = ({ s with requests := q } : State).node r.src from rfl, may,
    if_neg (by simp), named, if_neg ticket, ← arrives]
  rfl

theorem arrive_refused (running : s.heldInReset = false) (head : s.requests = r :: q) (kind : r.kind = Kind.arrive)
    {why : Reason} (fails : (s.serving q).arriveRequest r = (s.serving q).refuse r (ticketField r.payload 0) why) :
    exec .arrive s = .next ({ s with requests := q }.sendAnswer r Kind.answer
      ([r.kind] ++ be32w (ticketField r.payload 0) ++ [2, byteOf why.code, 0, 0, 0] ++ List.replicate 12 0)).deliverDue.arbitrate := by
  rw [exec_arrive, execArrive, s.takeRequest_runs Kind.arrive _ running head kind]
  exact (congrArg (fun ev : Ev => Host.Outcome.next ev.finish) fails).trans
    (congrArg Host.Outcome.next (Ev.finish_refuse s q r _ why))

end

/-! ## The Early Arrival List (R47) -/

section
variable {s : State} {t : Ticket}

/-- What stays of the Early Arrival List when a ticket joins it. -/
def State.earlierArrivals (s : State) (t : Ticket) : List EarlyEntry :=
  if s.early.any (fun e => e.ticket == t) ∨ s.early.length < 8 then s.early.filter (fun e => e.ticket ≠ t) else s.early.tail

theorem State.recordEarly_eq (length : s.early.length ≤ 8) : s.recordEarly t
    = { s with early := s.earlierArrivals t ++ [⟨t, s.now, some (s.now + 600)⟩] } := by
  have others : s.early.filter (fun e => e.ticket != t) = s.early.filter (fun e => e.ticket ≠ t) := by
    refine List.filter_congr fun e _ => ?_
    by_cases same : e.ticket = t <;> simp [same]
  have kept : (if 8 ≤ (s.early.filter (fun e => e.ticket ≠ t)).length then (s.early.filter (fun e => e.ticket ≠ t)).tail
      else s.early.filter (fun e => e.ticket ≠ t)) = s.earlierArrivals t := by
    unfold State.earlierArrivals
    by_cases known : s.early.any (fun e => e.ticket == t) = true
    · have shorter : (s.early.filter (fun e => e.ticket ≠ t)).length < s.early.length := by
        obtain ⟨e, here, same⟩ := List.any_eq_true.1 known
        refine List.length_filter_lt_length_iff_exists.2 ⟨e, here, by simpa using same⟩
      rw [if_neg (by omega), if_pos (.inl known)]
    · have all : s.early.filter (fun e => e.ticket ≠ t) = s.early := by
        refine List.filter_eq_self.2 fun e here => ?_
        have absent : s.early.any (fun e => e.ticket == t) = false := by simpa using known
        simpa using (List.any_eq_false.1 absent) e here
      rw [all]
      by_cases room : s.early.length < 8
      · rw [if_neg (by omega), if_pos (.inr room)]
      · rw [if_pos (by omega), if_neg (not_or.2 ⟨known, room⟩)]
  unfold State.recordEarly
  rw [others]
  exact congrArg (fun l => ({ s with early := l ++ [⟨t, s.now, some (s.now + 600)⟩] } : State)) kept

theorem State.recordEarly_early (unknown : s.lookup t = none) (length : s.early.length ≤ 8) (ticket : t ≠ 0) :
    (s.recordEarly t).stateByTicket t
      = [0] ++ be32w t ++ [4, 0, 0, 0, 0, 0] ++ be32w (s.now + s.siteOffset) ++ List.replicate 24 0 := by
  rw [State.recordEarly_eq length]
  have first : (s.earlierArrivals t ++ [(⟨t, s.now, some (s.now + 600)⟩ : EarlyEntry)]).find? (fun e => e.ticket == t)
      = some ⟨t, s.now, some (s.now + 600)⟩ := by
    have none : ∀ e ∈ s.earlierArrivals t, e.ticket ≠ t := by
      intro e here
      unfold State.earlierArrivals at here
      split at here
      · simpa using (List.mem_filter.1 here).2
      · next outside =>
        have absent : s.early.any (fun e => e.ticket == t) = false := by simpa using fun h => outside (.inl h)
        simpa using (List.any_eq_false.1 absent) e (List.mem_of_mem_tail here)
    rw [List.find?_append, List.find?_eq_none.2 (by simpa using none)]
    simp
  exact State.stateByTicket_early (s := { s with early := s.earlierArrivals t ++ [⟨t, s.now, some (s.now + 600)⟩] })
    (e := ⟨t, s.now, some (s.now + 600)⟩) ticket unknown first

end

/-! ## The relocation of an active hold (R41, R45) -/

theorem State.holdStateBytes_congr {s x : State} (site : x.siteOffset = s.siteOffset) : x.holdStateBytes = s.holdStateBytes := by
  funext t location bay state position h
  unfold State.holdStateBytes State.windowBytes; rw [site]

/-- The desk of an event that has opened one bay's record and met no cause there. -/
def Desk.opened (b : BayIx) (before : BayState) : Desk := ⟨[⟨b, before, [], none, none⟩], false, false⟩

theorem Ev.vacate_desk_opened {ev : Ev} {b : BayIx} {st : BayState} {h : Hold} {l : Leave} (desk : ev.desk = .opened b st) :
    (ev.vacate b h l).desk = ⟨[endNote b st l.reason], false, false⟩ := by
  rw [Ev.vacate_desk, desk]
  unfold Desk.opened
  rw [Desk.touch_known (b := b) _ rfl, Desk.touch_known (b := b) _ rfl, Desk.modNote_known (b := b) _ rfl,
    Desk.modNote_known (b := b) _ rfl]
  rfl

section
variable {ev : Ev} {b d : BayIx} {sl : Slot} {h : Hold} (other : d ≠ b) (active : (ev.books.bays b).dyn.active = some h)
  (staged : (ev.books.bays b).dyn.staged = none) (open_ : (ev.books.bays b).dyn.state ≠ .closed)
  (sound : (ev.books.bays b).dyn.state ≠ .faulted) (mode : (ev.books.bays b).dyn.closeMode = .none)
  (free : sl = .active → (ev.books.bays d).dyn.state = .free)

include active staged open_ sound mode in
/-- The bay that the hold leaves, before the hold is placed. -/
theorem Ev.relocateTo_active : ∃ left : Ev, ev.relocateTo b .active h d sl = left.placeHold d sl h
    ∧ left.books = ev.books.put b (.emptied (ev.books.bays b).dyn.vacated)
    ∧ (∀ st, ev.desk = .opened b st → left.desk = ⟨[endNote b st .relocated], true, false⟩)
    ∧ (∀ t r, h.ticket = some t → h.requester = some r → ev.voice.Room → left.voice
        = ev.voice.tell ev.books.still.controller.own r Kind.holdNotice (movedBytes 1 t (d.val + 1) sl.code 0)) := by
  have touched := ev.touch_books b
  have quiet : (ev.books.bays b).dyn.vacated ≠ .charging := by
    rcases BayDyn.vacated_cases (ev.books.bays b).dyn with h | h <;> rw [h] <;> simp
  have ends := Ev.endActive_derived (ev := ev.touch b) (h := h) (.relocated d sl) (by rw [touched]; exact active)
    (by rw [touched]; exact staged) (by rw [touched]; exact open_) (by rw [touched]; exact sound) (by rw [touched]; exact mode)
  rw [touched] at ends
  refine ⟨(ev.touch b).endActive b (.relocated d sl), rfl, ?_, fun st desk => ?_, fun t r ticket requester room => ?_⟩
  · rw [ends, Ev.ended_books (ev := ev.touch b) _ (by rw [touched]; exact staged), touched]; rfl
  · have opened : (ev.touch b).desk = .opened b st := by
      rw [Ev.touch_desk, desk]; exact Desk.touch_known (b := b) _ rfl
    rw [ends, Ev.wantScan_desk, Ev.setState_desk, Ev.vacate_desk_opened opened, Desk.touch_known (b := b) _ rfl]
    rfl
  · rw [ends, Ev.ended_voice (ev := ev.touch b) _ quiet, Ev.vacate_voice _ ticket requester (by rw [Ev.touch_voice]; exact room),
      Ev.touch_voice, touched]
    rfl

end

/-! ## Entry seen (R46) -/

section
variable {s : State} {r : Request} {q : List Request} {t : Ticket} {b : BayIx} {h : Hold}

/-- What an ARRIVE leaves that changes one record alone. -/
theorem arrive_seen {ev : Ev} {f : BayDyn → BayDyn} {p : List Byte} (run : exec .arrive s
      = .next (ev.answer (ev.st.buildAnswer r.src r.tag Kind.holdState p)).finish)
    (books : ev.books = ({ s with requests := q } : State).books.put b (.setDyn · f)) (uplink : ev.voice.uplink = s.uplink)
    (scan : ev.scan = false) (calm : ev.recompute = false) :
    ∃ x, exec .arrive s = .next x ∧ x.still = { s.still with requests := q } ∧ (x.bay b).dyn = f (s.bay b).dyn
      ∧ (∀ e, e ≠ b → (x.bay e).dyn = (s.bay e).dyn) ∧ x.index = s.index ∧ x.waitHolds = s.waitHolds
      ∧ s.Answers x r Kind.holdState p := by
  have shows_ := Ev.answer_shows r Kind.holdState p books (.inl scan) (.inl calm)
  have dyn := shows_.dyn b
  rw [Books.put_same] at dyn
  exact ⟨_, run, shows_.still, dyn, fun e other => (shows_.other (s := s) rfl other).1, shows_.index, shows_.holds,
    State.Answers_of_voice _ _ uplink (by rw [books]; rfl)⟩

end

/-! ## A CONTESTED hold seen (R45) -/

section
variable {s : State} {r : Request} {q : List Request} {t : Ticket} {b : BayIx} {h : Hold} {a : Addr}

/-- The event of an ARRIVE with entry seen set in the active hold. -/
theorem Ev.arriveAt_active (found : s.lookup t = some ⟨t, a, .active b⟩) (active : (s.bay b).dyn.active = some h) :
    (s.serving q).arriveAt t = (s.serving q).arriveActive b h := by
  unfold Ev.arriveAt
  rw [show (s.serving q).st.lookup t = some ⟨t, a, .active b⟩ from found]; dsimp only
  rw [show (s.serving q).st.holdAt t (.active b) = some h from active]

theorem Ev.arriveAt_staged (found : s.lookup t = some ⟨t, a, .staged b⟩) (staged : (s.bay b).dyn.staged = some h) :
    (s.serving q).arriveAt t = (s.serving q).modDyn b ({ · with staged := some h.seen }) := by
  unfold Ev.arriveAt
  rw [show (s.serving q).st.lookup t = some ⟨t, a, .staged b⟩ from found]; dsimp only
  rw [show (s.serving q).st.holdAt t (.staged b) = some h from staged]

theorem Ev.arriveAt_waiting {e : WaitEntry} (found : s.lookup t = some ⟨t, a, .waitlist⟩) (waiting : s.waiting t = some e) :
    (s.serving q).arriveAt t = (s.serving q).onState (fun s => s.setWaitlist
      (s.waitlist.map (fun w => if w.hold.ticket = some t then { w with hold := w.hold.seen } else w))) := by
  unfold Ev.arriveAt
  rw [show (s.serving q).st.lookup t = some ⟨t, a, .waitlist⟩ from found]; dsimp only
  rw [show (s.serving q).st.holdAt t .waitlist = some e.hold from by
    show (s.waiting t).map (·.hold) = _
    rw [waiting]; rfl]

theorem Ev.arriveAt_new (unknown : s.lookup t = none) : (s.serving q).arriveAt t = (s.serving q).onState (·.recordEarly t) := by
  unfold Ev.arriveAt
  rw [show (s.serving q).st.lookup t = none from unknown]

/-- The event with the bay opened and entry seen set in its active hold. -/
def State.seen (s : State) (q : List Request) (b : BayIx) (h : Hold) : Ev :=
  ((s.serving q).touch b).modDyn b ({ · with active := some h.seen })

theorem State.seen_books : (s.seen q b h).books
    = ({ s with requests := q } : State).books.put b (.setDyn · ({ · with active := some h.seen })) := by
  unfold State.seen; rw [Ev.modDyn_books, Ev.touch_books]; rfl

theorem State.seen_voice : (s.seen q b h).voice = s.waits 0 [] := by
  unfold State.seen; rw [Ev.modDyn_voice, Ev.touch_voice, s.serving_voice]

theorem State.seen_calm : (s.seen q b h).calm = (s.serving q).calm := by
  unfold State.seen; rw [Ev.modDyn_calm, Ev.touch_calm]

theorem State.seen_desk : (s.seen q b h).desk = .opened b (s.bay b).dyn.state := by
  unfold State.seen; rw [Ev.modDyn_desk, Ev.touch_desk]; rfl

theorem State.seen_dyn : ((s.seen q b h).books.bays b).dyn = { (s.bay b).dyn with active := some h.seen } := by
  rw [State.seen_books, Books.put_same]; rfl

theorem State.seen_search : s.SearchSame (s.seen q b h).st (some b) := by
  have books : (s.seen q b h).st.books = _ := State.seen_books
  have still : (s.seen q b h).st.still = { s.still with requests := q } :=
    (congrArg Books.still State.seen_books).trans ((Books.put_leaves ..).2.2.2.2)
  refine State.searchSame_of_books (fun e other => ?_) ?_ ?_ (by rw [still]) (by rw [still]) (by rw [still]) (by rw [still])
  · rw [books, Books.put_other _ _ (by simpa using other)]; rfl
  · rw [books]; rfl
  · rw [books]; rfl

theorem Ev.arriveActive_other (notContested : (s.bay b).dyn.state ≠ .contested) :
    (s.serving q).arriveActive b h = s.seen q b h := by
  unfold Ev.arriveActive; dsimp only
  exact if_neg (c := ((s.seen q b h).bay b).dyn.state = .contested) (by
    rw [show ((s.seen q b h).bay b).dyn = _ from State.seen_dyn]; exact notContested)

theorem Ev.arriveActive_stays (contested : (s.bay b).dyn.state = .contested)
    (none : s.FindsNone (s.bay b).cls (some b) h.windowStart) :
    (s.serving q).arriveActive b h = (s.seen q b h).note b .holderWaiting := by
  have searched : (s.seen q b h).relocationSearch b h.seen = (s.seen q b h, Option.none) := by
    rw [Ev.relocationSearch_eq, show ((s.seen q b h).bay b).cls = (s.bay b).cls from State.seen_search.cls b]
    exact Ev.searchClasses_findsNone (State.seen_search.findsNone none)
  unfold Ev.arriveActive; dsimp only
  refine (if_pos (c := ((s.seen q b h).bay b).dyn.state = .contested) (by
    rw [show ((s.seen q b h).bay b).dyn = _ from State.seen_dyn]; exact contested)).trans ?_
  unfold State.seen at searched ⊢
  rw [searched]

theorem Ev.arriveActive_moves {d : BayIx} {sl : Slot} (contested : (s.bay b).dyn.state = .contested)
    (finds : s.Finds (s.bay b).cls (some b) h.windowStart d sl) (ok : ∀ e, (s.bay e).checkOk = true) :
    (s.serving q).arriveActive b h = ((s.seen q b h).onState (·.passCursor d)).relocateTo b .active h.seen d sl := by
  have searched : (s.seen q b h).relocationSearch b h.seen = ((s.seen q b h).onState (·.passCursor d), some (d, sl)) := by
    rw [Ev.relocationSearch_eq, show ((s.seen q b h).bay b).cls = (s.bay b).cls from State.seen_search.cls b]
    exact Ev.searchClasses_finds (State.seen_search.finds finds) (fun e other _ _ => (State.seen_search.check e other).trans (ok e))
  unfold Ev.arriveActive; dsimp only
  refine (if_pos (c := ((s.seen q b h).bay b).dyn.state = .contested) (by
    rw [show ((s.seen q b h).bay b).dyn = _ from State.seen_dyn]; exact contested)).trans ?_
  unfold State.seen at searched ⊢
  rw [searched]

end

section
variable {s : State} {r : Request} {q : List Request} {t : Ticket} {b d : BayIx} {sl : Slot} {h : Hold} {a : Addr}

/-- The books when a CONTESTED hold has been relocated. -/
def State.arrivedBooks (s : State) (q : List Request) (b d : BayIx) (sl : Slot) (h : Hold) : Books :=
  ((({ ({ s with requests := q } : State).books with cursors := s.cursors.set (s.bay d).cls.ix (d + 1) } : Books).put b
    (fun y => (y.setDyn ({ · with active := some h.seen })).emptied (s.bay b).dyn.vacated)).indexHold h.seen (sl.at d)).put d
      (.take s.still h.seen sl)

/-- The event of an ARRIVE that relocates the hold, as it stands at its answer. -/
theorem arrive_relocates (contested : (s.bay b).dyn.state = .contested)
    (finds : s.Finds (s.bay b).cls (some b) h.windowStart d sl) (mode : (s.bay b).dyn.closeMode = .none)
    (staged : (s.bay b).dyn.staged = none) (ok : ∀ e, (s.bay e).checkOk = true)
    (ticket : h.ticket = some t) (requester : h.requester = some a) :
    ∃ ev : Ev, (s.serving q).arriveActive b h = ev ∧ ev.books = s.arrivedBooks q b d sl h
      ∧ ev.desk.notes = endNote b .contested .relocated :: (match (generalizing := false) sl with | .active => [placeNote d] | .staged => [])
      ∧ ev.voice.uplink = s.uplink
      ∧ (a ≠ 0 → ev.voice = s.waits 1 [s.noticeAt 0 a Kind.holdNotice (movedBytes 1 t (d.val + 1) sl.code 0)]) := by
  have other : d ≠ b := by
    obtain ⟨_, other, _⟩ := finds
    simpa using other
  have free : sl = .active → (s.bay d).dyn.state = .free := by
    obtain ⟨_, _, ⟨_, _, _, _, ⟨_, free⟩ | ⟨wrong, _⟩⟩, _⟩ := finds
    · exact fun _ => free
    · intro active; rw [active] at wrong; cases wrong
  have moves := Ev.arriveActive_moves (q := q) contested finds ok
  have passed : ((s.seen q b h).onState (·.passCursor d)).books
      = { (s.seen q b h).books with cursors := s.cursors.set (s.bay d).cls.ix (d + 1) } := by
    rw [Ev.passCursor_books]
    have cls : ((s.seen q b h).books.still.bays.get d).cls = (s.bay d).cls := by
      rw [State.seen_books]; exact congrArg BayConfig.cls (Table.get_map s.bays Bay.config d)
    rw [cls, State.seen_books]; rfl
  have voice := (Ev.passCursor_voice (s.seen q b h) d).trans State.seen_voice
  have desk : ((s.seen q b h).onState (·.passCursor d)).desk = .opened b .contested := by
    rw [← contested]; exact State.seen_desk (h := h)
  have dyn : (((s.seen q b h).onState (·.passCursor d)).books.bays b).dyn = { (s.bay b).dyn with active := some h.seen } := by
    rw [passed]; exact State.seen_dyn
  generalize (s.seen q b h).onState (·.passCursor d) = ev at moves passed voice desk dyn
  obtain ⟨left, ends, books, notes, told⟩ := Ev.relocateTo_active (ev := ev) (b := b) (d := d) (sl := sl) (h := h.seen)
    (by rw [dyn]) (by rw [dyn]; exact staged) (by rw [dyn, contested]; simp) (by rw [dyn, contested]; simp) (by rw [dyn]; exact mode)
  have freeLeft : sl = .active → (left.books.bays d).dyn.state = .free := fun active => by
    rw [books, Books.put_other _ _ other, passed, State.seen_books]
    exact (congrArg (fun y : BayBook => y.dyn.state) (Books.put_other ({ s with requests := q } : State).books
      (.setDyn · ({ · with active := some h.seen })) other)).trans (free active)
  have leftBooks : left.books = ({ ({ s with requests := q } : State).books with
      cursors := s.cursors.set (s.bay d).cls.ix (d + 1) } : Books).put b
        (fun y => (y.setDyn ({ · with active := some h.seen })).emptied (s.bay b).dyn.vacated) := by
    rw [books, dyn, passed, State.seen_books]
    exact Books.put_put ({ ({ s with requests := q } : State).books with
      cursors := s.cursors.set (s.bay d).cls.ix (d + 1) } : Books) b (.setDyn · ({ · with active := some h.seen }))
        (.emptied (s.bay b).dyn.vacated)
  have moved := told t a ticket requester (by rw [voice]; exact s.waits_room 0 [])
  rw [voice, passed, State.seen_books] at moved
  have uttered : (left.placeHold d sl h.seen).voice
      = (s.waits 0 []).tell s.controller.own a Kind.holdNotice (movedBytes 1 t (d.val + 1) sl.code 0) :=
    (Ev.placeHold_voice h.seen freeLeft).trans moved
  refine ⟨_, moves.trans ends, ?_, ?_, ?_, fun somebody => uttered.trans (s.waits_tell 0 [] _ _ somebody)⟩
  · rw [Ev.placeHold_books h.seen freeLeft, leftBooks]; rfl
  · have before := notes .contested desk
    cases sl with
    | staged => rw [Ev.placeHold_staged_desk, before]
    | active =>
      rw [Ev.placeHold_active_desk h.seen (freeLeft rfl) (by rw [before]; simpa [endNote] using other.symm), before]
      rfl
  · rw [uttered]
    by_cases nobody : a = 0
    · rw [nobody, Voice.tell_nobody]; rfl
    · rw [s.waits_tell 0 [] _ _ nobody]; rfl

end

/-- An ARRIVE that changes the Early Arrival List alone. -/
theorem arrive_early {s : State} {r : Request} {q : List Request} {ev : Ev} {l : List EarlyEntry} {p : List Byte}
    (recorded : ev.st = { s with requests := q, early := l }) (quiet : ev.notes = [] ∧ ev.scan = false ∧ ev.recompute = false)
    (run : exec .arrive s = .next (ev.answer (ev.st.buildAnswer r.src r.tag Kind.holdState p)).finish) :
    ∃ x, exec .arrive s = .next x
      ∧ x.still = { s.still with requests := q, early := l.map (fun e => (e.ticket, e.recorded)) }
      ∧ x.early = l.map (fun e => { e with deadline := e.deadline.filter (fun v => !atOrAfter s.now v) })
      ∧ x.dyns = s.dyns ∧ x.index = s.index ∧ x.waitHolds = s.waitHolds ∧ s.Answers x r Kind.holdState p := by
  obtain ⟨notes, scan, calm⟩ := quiet
  have books : ev.books = { s.books with
      still := { s.still with requests := q, early := l.map (fun e => (e.ticket, e.recorded)) } } := by
    show ev.st.books = _
    rw [recorded]; rfl
  have shows_ := Ev.answer_shows r Kind.holdState p books (.inl scan) (.inl calm)
  refine ⟨_, run, shows_.still, ?_, shows_.dyns fun _ => rfl, shows_.index, shows_.holds,
    State.Answers_of_voice _ _ (by show ev.st.uplink = _; rw [recorded]) (by rw [books]; rfl)⟩
  have leaves := ev.answer_leaves (ev.st.buildAnswer r.src r.tag Kind.holdState p)
  have talks := ev.answer_talks (ev.st.buildAnswer r.src r.tag Kind.holdState p)
  rw [Ev.finish_silent _ (leaves.1.trans notes) (.inl (leaves.2.1.trans scan)) (leaves.2.2.1.trans calm), State.settle_early,
    talks, recorded]
  rfl

section
variable {s : State} {q : List Request} {b d : BayIx} {sl : Slot} {h : Hold}

/-- The books of the bay that a hold seen at a CONTESTED bay leaves. -/
theorem State.arrivedBooks_left (other : d ≠ b) : (s.arrivedBooks q b d sl h).bays b
    = ((s.bay b).book.setDyn ({ · with active := some h.seen })).emptied (s.bay b).dyn.vacated :=
  (Books.put_other _ _ other.symm).trans (Books.put_same
    ({ ({ s with requests := q } : State).books with cursors := s.cursors.set (s.bay d).cls.ix (d + 1) } : Books) b
    (fun y => (y.setDyn ({ · with active := some h.seen })).emptied (s.bay b).dyn.vacated))

theorem State.arrivedBooks_rest {e : BayIx} (notB : e ≠ b) (notD : e ≠ d) :
    (s.arrivedBooks q b d sl h).bays e = (s.bay e).book :=
  (Books.put_other _ _ notD).trans (Books.put_other
    ({ ({ s with requests := q } : State).books with cursors := s.cursors.set (s.bay d).cls.ix (d + 1) } : Books)
    (fun y => (y.setDyn ({ · with active := some h.seen })).emptied (s.bay b).dyn.vacated) notB)

theorem State.arrivedBooks_taken (other : d ≠ b) :
    (s.arrivedBooks q b d sl h).bays d = BayBook.take s.still h.seen sl (s.bay d).book :=
  (Books.put_same _ _ _).trans (congrArg _ (Books.put_other
    ({ ({ s with requests := q } : State).books with cursors := s.cursors.set (s.bay d).cls.ix (d + 1) } : Books)
    (fun y => (y.setDyn ({ · with active := some h.seen })).emptied (s.bay b).dyn.vacated) other))

theorem State.arrivedBooks_takenDyn (other : d ≠ b) : ((s.arrivedBooks q b d sl h).bays d).dyn
    = match sl with
      | .active => { (s.bay d).dyn with active := some h.seen, state := .held }
      | .staged => { (s.bay d).dyn with staged := some h.seen } := by
  rw [State.arrivedBooks_taken other]; cases sl <;> rfl

theorem State.arrivedBooks_lookup {t : Ticket} {a : Addr} (ticket : h.ticket = some t) (requester : h.requester = some a)
    (known : s.lookup t = some ⟨t, a, .active b⟩) : (s.arrivedBooks q b d sl h).lookup t = some ⟨t, a, sl.at d⟩ := by
  unfold State.arrivedBooks
  rw [Books.lookup_put]
  exact Books.lookup_indexHold_known (x := h.seen) (e := ⟨t, a, .active b⟩) ticket requester known

theorem State.arrivedBooks_ok (ok : ∀ e, (s.bay e).checkOk = true) : (s.arrivedBooks q b d sl h).Ok := by
  have known : ∀ c, (({ s with requests := q } : State).books.bays c).ok = true := ok
  refine Books.Ok.put (k := (Books.put _ b _).indexHold h.seen (sl.at d)) ?_ d fun y fine => ?_
  · exact Books.Ok.put (k := { ({ s with requests := q } : State).books with
      cursors := s.cursors.set (s.bay d).cls.ix (d + 1) }) known b fun y fine =>
        BayBook.emptied_ok _ _ (BayBook.setDyn_ok _ fine)
  · cases sl
    · exact BayBook.takeActive_ok _ _ _ fine
    · exact BayBook.takeStaged_ok _ _ _ fine

end

/-- What a search that relocates a hold leaves of the bay it leaves, the bay it takes and the rest. -/
theorem State.Shows.arrived {s x : State} {q : List Request} {b d : BayIx} {sl : Slot} {h : Hold} {t : Ticket} {a : Addr}
    (shows_ : x.Shows (s.arrivedBooks q b d sl h)) (other : d ≠ b) (ticket : h.ticket = some t)
    (requester : h.requester = some a) (known : s.lookup t = some ⟨t, a, .active b⟩) :
    (x.bay b).dyn = { (s.bay b).dyn with active := none, state := (s.bay b).dyn.vacated }
      ∧ x.Awaits b none none (s.bay b).timer.displacement
      ∧ (x.bay d).dyn = (match (generalizing := false) sl with
          | .active => { (s.bay d).dyn with active := some h.seen, state := .held }
          | .staged => { (s.bay d).dyn with staged := some h.seen })
      ∧ (match (generalizing := false) sl with
          | .active => x.Awaits d (if h.arrival = none then some ⟨some t, h.graceEnd⟩ else none)
              (if h.arrival = none then none else some (s.overstayAt h)) (s.bay d).timer.displacement
          | .staged => x.Awaits d (s.bay d).timer.noShow (s.bay d).timer.overstay (some (s.checkAt h)))
      ∧ (∀ e, e ≠ b → e ≠ d → (x.bay e).dyn = (s.bay e).dyn ∧ s.AwaitsAs x e)
      ∧ x.lookup t = some ⟨t, a, match (generalizing := false) sl with | .active => .active d | .staged => .staged d⟩ := by
  have leftDyn := shows_.dyn b
  have leftAwaits := shows_.awaits b
  have takenDyn := shows_.dyn d
  have takenAwaits := shows_.awaits d
  rw [State.arrivedBooks_left other] at leftDyn leftAwaits
  rw [State.arrivedBooks_takenDyn other] at takenDyn
  rw [State.arrivedBooks_taken other] at takenAwaits
  refine ⟨leftDyn, leftAwaits, takenDyn, ?_, fun c notB notD => ?_, ?_⟩
  · cases sl with
    | active =>
      have noShow : ((s.bay d).book.takeActive s.still h.seen).noShow
          = if h.arrival = none then some ⟨some t, h.graceEnd⟩ else none := by
        cases arrival : h.arrival <;> simp [Hold.seen, Hold.arrived, arrival, noShowOf, ticket]
      have overstay : ((s.bay d).book.takeActive s.still h.seen).overstay
          = if h.arrival = none then none else some (s.overstayAt h) := by
        cases arrival : h.arrival <;> simp [Hold.seen, Hold.arrived, arrival, State.overstayAt_still, Still.overstayAt]
      rw [BayBook.take, noShow, overstay] at takenAwaits
      exact takenAwaits
    | staged => exact takenAwaits
  · have dyn := shows_.dyn c
    have awaits := shows_.awaits c
    rw [State.arrivedBooks_rest notB notD] at dyn awaits
    exact ⟨dyn, awaits⟩
  · rw [shows_.lookup t, State.arrivedBooks_lookup ticket requester known]
    cases sl <;> rfl

/-! ## Entry seen of a waiting hold (R46) -/

/-- The Waitlist with entry seen set at a ticket. -/
def State.waitlistSeen (s : State) (t : Ticket) : List WaitEntry :=
  s.waitlist.map (fun w => if w.hold.ticket = some t then { w with hold := w.hold.seen } else w)

theorem State.waitlistSeen_holds (s : State) (t : Ticket) :
    (s.waitlistSeen t).map (·.hold) = s.waitHolds.map (fun h => if h.ticket = some t then h.seen else h) := by
  unfold State.waitlistSeen State.waitHolds
  rw [List.map_map, List.map_map]
  refine List.map_congr_left fun w _ => ?_
  by_cases mine : w.hold.ticket = some t <;> simp [mine]

theorem waitPosition_seen (s : State) (t : Ticket) : waitPosition (s.waitlistSeen t) (some t) = waitPosition s.waitlist (some t) := by
  unfold waitPosition State.waitlistSeen
  rw [List.findIdx?_map]
  have same : (fun e : WaitEntry => e.hold.ticket == some t) ∘
      (fun w => if w.hold.ticket = some t then { w with hold := w.hold.seen } else w) = fun e => e.hold.ticket == some t := by
    funext e
    by_cases mine : e.hold.ticket = some t <;> simp [mine, Hold.seen]
  rw [same]

theorem State.waiting_seen {s : State} {t : Ticket} {e : WaitEntry} (waiting : s.waiting t = some e) :
    ({ s with waitlist := s.waitlistSeen t } : State).waiting t = some { e with hold := e.hold.seen } := by
  have mine : e.hold.ticket = some t := by simpa using List.find?_some waiting
  have same : (fun e : WaitEntry => e.hold.ticket == some t) ∘
      (fun w => if w.hold.ticket = some t then { w with hold := w.hold.seen } else w) = fun e => e.hold.ticket == some t := by
    funext e
    by_cases mine : e.hold.ticket = some t <;> simp [mine, Hold.seen]
  have found : s.waitlist.find? (fun e => e.hold.ticket == some t) = some e := waiting
  have mapped : (s.waitlistSeen t).find? (fun e => e.hold.ticket == some t) = some { e with hold := e.hold.seen } := by
    unfold State.waitlistSeen
    rw [List.find?_map, same, found, Option.map_some, if_pos mine]
  exact mapped

/-- Settles O45: the refusals, the Early Arrival List, entry seen, and the relocation of a CONTESTED hold. -/
theorem arrive : Obligations.Arrive := by
  intro s r q running head kind t refused seen left
  refine ⟨fun barred => ?_, fun permitted zero => ?_, fun permitted ticket => ⟨fun unknown length => ?_,
    fun a b h found active other => ?_, fun a b h found staged => ?_, fun a e found waiting => ?_,
    fun a b h found active contested => ⟨fun none => ?_, fun d sl finds mode staged ok empty held requester => ?_⟩⟩⟩
  · refine arrive_refused running head kind (why := .notPermitted) ?_
    unfold Ev.arriveRequest; dsimp only
    exact if_pos (by rw [show ((s.serving q).st.node r.src).permissions.arrive = false from barred]; rfl)
  · refine arrive_refused running head kind (why := .badTicket) ?_
    unfold Ev.arriveRequest; dsimp only
    rw [if_neg (by rw [show ((s.serving q).st.node r.src).permissions.arrive = true from permitted]; simp)]
    exact if_pos zero
  · have run := execArrive_runs running head kind rfl permitted ticket (Ev.arriveAt_new unknown)
    have payload : (({ s with requests := q } : State).recordEarly t).stateByTicket t = _ :=
      State.recordEarly_early (s := { s with requests := q }) unknown length ticket
    have recorded : ((s.serving q).onState (·.recordEarly t)).st = { s with
        requests := q, early := s.earlierArrivals t ++ [⟨t, s.now, some (s.now + 600)⟩] } :=
      State.recordEarly_eq (s := { s with requests := q }) length
    rw [show ((s.serving q).onState (·.recordEarly t)).st.stateByTicket t = _ from payload] at run
    obtain ⟨x, ran, still, early, dyns, index, holds, answers⟩ := arrive_early recorded ⟨rfl, rfl, rfl⟩ run
    refine ⟨x, ran, still.trans ?_, early, dyns, index, holds, answers⟩
    have list : (s.earlierArrivals t).map (fun e => (e.ticket, e.recorded))
        = if s.early.any (fun e => e.ticket == t) ∨ s.early.length < 8 then s.still.early.filter (fun e => e.1 ≠ t)
          else s.still.early.tail := by
      unfold State.earlierArrivals
      rw [apply_ite (List.map _)]
      congr 1
      · show _ = (s.early.map (fun e => (e.ticket, e.recorded))).filter _
        rw [List.filter_map]; rfl
      · exact List.map_tail
    rw [← list, List.map_append]; rfl
  · have run := execArrive_runs running head kind rfl permitted ticket
      ((Ev.arriveAt_active found active).trans (Ev.arriveActive_other other))
    have dyn : ((s.seen q b h).st.bay b).dyn = { (s.bay b).dyn with active := some h.seen } := State.seen_dyn
    have site : (s.seen q b h).st.siteOffset = s.siteOffset := congrArg (fun k : Books => k.still.siteOffset)
      (State.seen_books (q := q) (b := b) (h := h))
    rw [State.stateByTicket_active (s := (s.seen q b h).st) (h := h.seen) ticket
      ((congrArg (fun k : Books => k.lookup t) (State.seen_books (q := q) (b := b) (h := h))).trans found) (by rw [dyn]), dyn,
      State.holdStateBytes_congr site] at run
    exact arrive_seen run State.seen_books (congrArg Voice.uplink State.seen_voice) (Ev.scan_of_desk State.seen_desk)
      (Ev.recompute_of_calm (ev := s.serving q) State.seen_calm)
  · have run := execArrive_runs running head kind rfl permitted ticket (Ev.arriveAt_staged found staged)
    have books := Ev.modDyn_books (s.serving q) b ({ · with staged := some h.seen })
    have dyn : (((s.serving q).modDyn b ({ · with staged := some h.seen })).st.bay b).dyn
        = { (s.bay b).dyn with staged := some h.seen } :=
      (congrArg (fun k : Books => (k.bays b).dyn) books).trans (congrArg (·.dyn) (Books.put_same ..))
    rw [State.stateByTicket_staged (s := ((s.serving q).modDyn b ({ · with staged := some h.seen })).st) (h := h.seen) ticket
      found (by rw [dyn]), dyn, State.holdStateBytes_congr rfl] at run
    exact arrive_seen run books (congrArg Voice.uplink (s.serving_voice q)) rfl rfl
  · have run := execArrive_runs running head kind rfl permitted ticket (Ev.arriveAt_waiting found waiting)
    have payload : (((s.serving q).onState (fun s => s.setWaitlist (s.waitlist.map (fun w =>
        if w.hold.ticket = some t then { w with hold := w.hold.seen } else w)))).st).stateByTicket t
        = s.holdStateBytes t 3 0 0 (waitPosition s.waitlist (some t)) e.hold.seen :=
      (State.stateByTicket_waiting (s := { s with requests := q, waitlist := s.waitlistSeen t }) ticket found
        (State.waiting_seen (s := { s with requests := q }) waiting)).trans
          (congrArg (fun n => s.holdStateBytes t 3 0 0 n e.hold.seen) (waitPosition_seen s t))
    rw [payload] at run
    have shows_ := Ev.answer_shows (k := { ({ s with requests := q } : State).books with waitlist := s.waitlistSeen t }) r
      Kind.holdState (s.holdStateBytes t 3 0 0 (waitPosition s.waitlist (some t)) e.hold.seen)
      (Ev.setWaitlist_books (s.serving q) (fun s => s.waitlist.map (fun w =>
        if w.hold.ticket = some t then { w with hold := w.hold.seen } else w))) (.inl rfl) (.inl rfl)
    exact ⟨_, run, shows_.still, shows_.dyns fun _ => rfl, shows_.index, shows_.holds.trans (s.waitlistSeen_holds t),
      State.Answers_of_voice _ _ rfl rfl⟩
  · have run := execArrive_runs running head kind rfl permitted ticket
      ((Ev.arriveAt_active found active).trans (Ev.arriveActive_stays contested none))
    have books : ((s.seen q b h).note b .holderWaiting).books
        = ({ s with requests := q } : State).books.put b (.setDyn · ({ · with active := some h.seen })) :=
      ((s.seen q b h).note_books b .holderWaiting).trans State.seen_books
    have voice := ((s.seen q b h).note_voice (b := b) .holderWaiting).trans State.seen_voice
    have desk : ((s.seen q b h).note b .holderWaiting).desk = ⟨[⟨b, .contested, [.holderWaiting], Option.none, Option.none⟩], false, false⟩ := by
      rw [Ev.note_desk, State.seen_desk, contested]
      unfold Desk.opened
      rw [Desk.touch_known (b := b) _ rfl, Desk.modNote_known (b := b) _ rfl]
      rfl
    have calm := Ev.recompute_of_calm (ev := s.serving q) (((s.seen q b h).note_calm (b := b) .holderWaiting).trans State.seen_calm)
    generalize (s.seen q b h).note b .holderWaiting = ev at run books voice desk calm
    have dyn : (ev.books.bays b).dyn = { (s.bay b).dyn with active := some h.seen } := by
      rw [books, Books.put_same]; rfl
    have payload : ev.st.stateByTicket t = s.holdStateBytes t 1 (b.val + 1) 4 0 h.seen := by
      rw [State.stateByTicket_active (s := ev.st) (b := b) (a := a) (h := h.seen) ticket
        ((congrArg (fun k : Books => k.lookup t) books).trans found) ((congrArg (·.active) dyn)),
        State.holdStateBytes_congr (s := s) (congrArg (fun k : Books => k.still.siteOffset) books)]
      rw [show (ev.st.bay b).dyn = _ from dyn]
      show s.holdStateBytes t 1 (b.val + 1) (s.bay b).dyn.state.code 0 h.seen = _
      rw [contested]; rfl
    rw [payload] at run
    obtain ⟨x, ran, left, dynX, others, index, holds, answers⟩ :=
      arrive_seen run books (congrArg Voice.uplink voice) (Ev.scan_of_desk desk) calm
    refine ⟨x, ran, left, dynX, others, index, holds, answers, fun src listener => ?_⟩
    have controller : ev.books.still.controller = s.controller := by rw [books]; rfl
    obtain rfl : x = _ := Host.Outcome.next.inj (ran.symm.trans run)
    exact Ev.finish_sends_note (k := 0) (n := ⟨b, .contested, [.holderWaiting], Option.none, Option.none⟩) (after := .contested) (fs := [_])
      (fun room => Ev.answer_placed Kind.holdState _ voice controller src room)
      (by rw [Ev.answer_desk, desk]) (by rw [Ev.answer_books]; exact controller)
      (by rw [Ev.answer_books]; exact (congrArg (·.state) dyn).trans contested) rfl listener
  · obtain ⟨ev, ends, books, notes, uplink, voice⟩ := arrive_relocates (q := q) contested finds mode staged ok held requester
    have run := execArrive_runs running head kind rfl permitted ticket ((Ev.arriveAt_active found active).trans ends)
    have other : d ≠ b := by
      obtain ⟨_, other, _⟩ := finds
      simpa using other
    have still : ev.books.still = { s.still with requests := q } := by rw [books]; rfl
    have controller : ev.books.still.controller = s.controller := by rw [still]; rfl
    have payload : ev.st.stateByTicket t = s.holdStateBytes t sl.code (d.val + 1)
        (match (generalizing := false) sl with | .active => BayState.held | .staged => (s.bay d).dyn.state).code 0 h.seen := by
      have named : ev.st.lookup t = some ⟨t, a, sl.at d⟩ :=
        (congrArg (fun k : Books => k.lookup t) books).trans (State.arrivedBooks_lookup held requester found)
      have taken : (ev.st.bay d).dyn = _ :=
        (congrArg (fun k : Books => (k.bays d).dyn) books).trans (State.arrivedBooks_takenDyn other)
      rw [← State.holdStateBytes_congr (s := s) (x := ev.st) (congrArg Still.siteOffset still)]
      cases sl with
      | active => rw [State.stateByTicket_active (h := h.seen) ticket named (by rw [taken]), taken]; rfl
      | staged => rw [State.stateByTicket_staged (h := h.seen) ticket named (by rw [taken]), taken]; rfl
    rw [payload] at run
    have shows_ := Ev.answer_shows r Kind.holdState (s.holdStateBytes t sl.code (d.val + 1)
      (match (generalizing := false) sl with | .active => BayState.held | .staged => (s.bay d).dyn.state).code 0 h.seen)
      books (.inr empty) (.inr (State.arrivedBooks_ok ok))
    obtain ⟨leftDyn, leftAwaits, takenDyn, takenAwaits, rest, named⟩ := shows_.arrived other held requester found
    refine ⟨_, run, shows_.still, leftDyn, leftAwaits, takenDyn, takenAwaits, rest, ?_, named, shows_.cursors,
      State.Answers_of_voice _ _ uplink controller, fun src somebody listener => ?_⟩
    · rw [shows_.holds]; exact List.map_eq_nil_iff.2 empty
    · have placed := fun room => Ev.answer_placed Kind.holdState (s.holdStateBytes t sl.code (d.val + 1)
        (match (generalizing := false) sl with | .active => BayState.held | .staged => (s.bay d).dyn.state).code 0 h.seen)
        (voice somebody) controller src room
      have left : (ev.books.bays b).dyn.state = (s.bay b).dyn.vacated := by
        rw [books, State.arrivedBooks_left other]; rfl
      cases sl with
      | staged =>
        exact Ev.finish_sends_note (k := 1) (n := endNote b .contested .relocated) (fs := [_, _]) placed
          (by rw [Ev.answer_desk]; exact notes) (by rw [Ev.answer_books]; exact controller)
          (by rw [Ev.answer_books]; exact left) (endNote_raised ..) listener
      | active =>
        exact Ev.finish_sends_notes (k := 1) (n := endNote b .contested .relocated) (m := placeNote d) (after' := .held)
          (fs := [_, _]) placed (by rw [Ev.answer_desk]; exact notes) (by rw [Ev.answer_books]; exact controller)
          (by rw [Ev.answer_books]; exact left) (endNote_raised ..)
          (by rw [Ev.answer_books, books]; exact congrArg BayDyn.state (State.arrivedBooks_takenDyn other)) rfl listener

end Sys2Proof.Machine
end

section
/-!
SUPPORT. The allotment computation seen from its results: which bays a tier serves and within what, the target that each
bay reads from a computation, and admission (R86 to R92).
-/
namespace Sys2Proof.Machine

/-! ## The bays of a tier, and the bound of their shares -/

/-- A bay of the tier fill without its share. -/
def Share.blank (x : Share) : Share := { x with share := 0 }

theorem map_blank_of_share (f : Share → Nat) (u : List Share) :
    (u.map (fun x => { x with share := f x })).map Share.blank = u.map Share.blank := by
  rw [List.map_map]; exact List.map_congr_left fun _ _ => rfl

theorem waterFill_perm (n : Nat) (u : List Share) (a : Nat) :
    (((waterFill n u a).1 ++ (waterFill n u a).2.1).map Share.blank).Perm (u.map Share.blank) := by
  induction n generalizing u a with
  | zero => exact .refl _
  | succ n ih =>
    unfold waterFill; dsimp only
    have blank := map_blank_of_share (fun x => roundShare a x.weight (weightSum u)) u
    generalize u.map (fun x => { x with share := roundShare a x.weight (weightSum u) }) = v at blank
    have parts : (v.filter (fun x => decide (x.headroom ≤ x.share)) ++ v.filter (fun x => !decide (x.headroom ≤ x.share))).Perm v :=
      List.filter_append_perm _ v
    rw [← blank]
    split
    · next none =>
      rw [List.isEmpty_iff.1 none] at parts
      exact parts.map _
    · have rest := ih (v.filter (fun x => !decide (x.headroom ≤ x.share)))
        (a - headroomSum (v.filter (fun x => x.headroom ≤ x.share)))
      rw [List.append_assoc, List.map_append]
      have full : ((v.filter (fun x => decide (x.headroom ≤ x.share))).map Share.full).map Share.blank
          = (v.filter (fun x => decide (x.headroom ≤ x.share))).map Share.blank := map_blank_of_share _ _
      rw [full]
      exact (rest.append_left _).trans (by rw [← List.map_append]; exact parts.map _)

theorem waterFill_within (n : Nat) (u : List Share) (a : Nat) (start : n = 0 → ∀ x ∈ u, x.share ≤ x.headroom) :
    ∀ x ∈ (waterFill n u a).1 ++ (waterFill n u a).2.1, x.share ≤ x.headroom := by
  induction n generalizing u a with
  | zero => exact start rfl
  | succ n ih =>
    unfold waterFill; dsimp only
    generalize u.map (fun x => { x with share := roundShare a x.weight (weightSum u) }) = v
    have rest : ∀ x ∈ v.filter (fun x => !decide (x.headroom ≤ x.share)), x.share ≤ x.headroom := by
      intro x here
      have below := (List.mem_filter.1 here).2
      simp only [Bool.not_eq_true', decide_eq_false_iff_not] at below
      omega
    split
    · exact rest
    · intro x here
      rw [List.append_assoc] at here
      rcases List.mem_append.1 here with full | left
      · obtain ⟨y, _, rfl⟩ := List.mem_map.1 full
        exact Nat.le_refl _
      · exact ih _ _ (fun _ => rest) x left

theorem stepPass_blank (s : Nat) (u : List Share) (l : Nat) : (stepPass s u l).1.map Share.blank = u.map Share.blank := by
  induction u generalizing l with
  | nil => rfl
  | cons x u ih =>
    unfold stepPass; split
    · exact congrArg (x.blank :: ·) (ih (l - s))
    · exact congrArg (x.blank :: ·) (ih l)

theorem stepPass_within (s : Nat) (u : List Share) (l : Nat) (start : ∀ x ∈ u, x.share ≤ x.headroom) :
    ∀ x ∈ (stepPass s u l).1, x.share ≤ x.headroom := by
  induction u generalizing l with
  | nil => exact start
  | cons x u ih =>
    obtain ⟨first, others⟩ := List.forall_mem_cons.1 start
    unfold stepPass; split
    · next fits => exact List.forall_mem_cons.2 ⟨fits.1, ih _ others⟩
    · exact List.forall_mem_cons.2 ⟨first, ih _ others⟩

theorem stepPasses_blank (s n : Nat) (u : List Share) (l : Nat) :
    (stepPasses s n u l).1.map Share.blank = u.map Share.blank := by
  induction n generalizing u l with
  | zero => rfl
  | succ n ih =>
    unfold stepPasses; dsimp only; split
    · rfl
    · rw [ih, stepPass_blank]

theorem stepPasses_within (s n : Nat) (u : List Share) (l : Nat) (start : ∀ x ∈ u, x.share ≤ x.headroom) :
    ∀ x ∈ (stepPasses s n u l).1, x.share ≤ x.headroom := by
  induction n generalizing u l with
  | zero => exact start
  | succ n ih =>
    unfold stepPasses; dsimp only; split
    · exact start
    · exact ih _ _ (stepPass_within s u l start)

/-- A tier serves its bays, each with its headroom and weight as they were (R87). -/
theorem fillTier_perm (s : Nat) (tier : List Share) (a : Nat) :
    ((fillTier s tier a).1.map Share.blank).Perm (tier.map Share.blank) := by
  unfold fillTier; split
  · exact .of_eq (map_blank_of_share (fun x => x.headroom) tier)
  · dsimp only
    rw [List.map_append, stepPasses_blank, map_blank_of_share, ← List.map_append]
    exact waterFill_perm _ tier a

/-- A tier gives no bay more than its headroom (R87 to R89). -/
theorem fillTier_within (s : Nat) (tier : List Share) (a : Nat) :
    ∀ x ∈ (fillTier s tier a).1, x.share ≤ x.headroom := by
  unfold fillTier; split
  · intro x here
    obtain ⟨y, _, rfl⟩ := List.mem_map.1 here
    exact Nat.le_refl _
  · dsimp only
    have within := waterFill_within (tier.length + 1) tier a (fun h => by cases h)
    generalize waterFill (tier.length + 1) tier a = w at within
    intro x here
    rcases List.mem_append.1 here with capped | left
    · exact within x (List.mem_append_left _ capped)
    · refine stepPasses_within s _ _ _ (fun y served => ?_) x left
      obtain ⟨z, rest, rfl⟩ := List.mem_map.1 served
      exact (Nat.sub_le _ _).trans (within z (List.mem_append_right _ rest))

theorem mem_fillTiers_within (s : Nat) (l : List (Fin 4 × Share)) (ps : List (Fin 4)) (a : Nat) :
    ∀ x ∈ fillTiers s l ps a, x.share ≤ x.headroom := by
  induction ps generalizing a with
  | nil => exact fun x here => absurd here (List.not_mem_nil)
  | cons p ps ih =>
    unfold fillTiers; dsimp only
    intro x here
    exact (List.mem_append.1 here).elim (fillTier_within _ _ _ x) (ih _ x)

/-- The four tiers together serve the admitted bays (R86, R87). -/
theorem fillTiers_perm (s : Nat) (l : List (Fin 4 × Share)) (a : Nat) :
    ((fillTiers s l [3, 2, 1, 0] a).map Share.blank).Perm ((l.map (·.2)).map Share.blank) := by
  have tiers (l : List (Fin 4 × Share)) : (l.filter (fun e => e.1 == 3) ++ (l.filter (fun e => e.1 == 2)
      ++ (l.filter (fun e => e.1 == 1) ++ l.filter (fun e => e.1 == 0)))).Perm l := by
    have first := List.filter_append_perm (fun e : Fin 4 × Share => e.1 == 3) l
    have second := List.filter_append_perm (fun e : Fin 4 × Share => e.1 == 2) (l.filter (fun e => !(e.1 == 3)))
    have third := List.filter_append_perm (fun e : Fin 4 × Share => e.1 == 1)
      ((l.filter (fun e => !(e.1 == 3))).filter (fun e => !(e.1 == 2)))
    have named (p : Fin 4) (q : Fin 4 → Bool) (keep : ∀ x, x = p → q x = true) (l : List (Fin 4 × Share)) :
        (l.filter (fun e => q e.1)).filter (fun e => e.1 == p) = l.filter (fun e => e.1 == p) := by
      rw [List.filter_filter]
      refine List.filter_congr fun e _ => ?_
      by_cases same : e.1 = p
      · rw [keep _ same]; simp
      · simp [same]
    rw [named 2 (fun x => !(x == 3)) (by decide)] at second
    rw [named 1 (fun x => !(x == 2)) (by decide), named 1 (fun x => !(x == 3)) (by decide)] at third
    have last : (((l.filter (fun e => !(e.1 == 3))).filter (fun e => !(e.1 == 2))).filter (fun e => !(e.1 == 1)))
        = l.filter (fun e => e.1 == 0) := by
      rw [List.filter_filter, List.filter_filter]
      refine List.filter_congr fun e _ => ?_
      have apart : ∀ p : Fin 4, (!(p == 1) && (!(p == 2) && !(p == 3))) = (p == 0) := by decide
      simpa [Bool.and_assoc] using apart e.1
    rw [last] at third
    exact ((third.append_left _).trans second |>.append_left _).trans first
  have all := ((tiers l).map (·.2)).map Share.blank
  refine List.Perm.trans ?_ all
  simp only [fillTiers, List.map_append, List.append_nil]
  exact (fillTier_perm ..).append ((fillTier_perm ..).append ((fillTier_perm ..).append (fillTier_perm ..)))

/-! ## The rounds of a water-fill (R88) -/

/-- Rounds beyond one for each bay and one more change nothing. -/
theorem waterFill_fuel (n m : Nat) (u : List Share) (a : Nat) (enough : u.length < n) (more : u.length < m) :
    waterFill n u a = waterFill m u a := by
  induction n generalizing m u a with
  | zero => omega
  | succ n ih =>
    obtain ⟨m, rfl⟩ : ∃ k, m = k + 1 := ⟨m - 1, by omega⟩
    unfold waterFill; dsimp only
    have size : (u.map (fun x => { x with share := roundShare a x.weight (weightSum u) })).length = u.length := by simp
    generalize u.map (fun x => { x with share := roundShare a x.weight (weightSum u) }) = v at size
    split
    · rfl
    · next some =>
      have parts := List.length_eq_length_filter_add (l := v) (fun x => decide (x.headroom ≤ x.share))
      have capped : 0 < (v.filter (fun x => decide (x.headroom ≤ x.share))).length := by
        rw [List.length_pos_iff]; simpa using some
      rw [ih m _ _ (by omega) (by omega)]

/-- The share of each bay in a round. -/
def waterRound (u : List Share) (a : Nat) : List Share :=
  u.map (fun x => { x with share := a * x.weight / (u.map (·.weight)).sum })

theorem waterFill_uncapped {u : List Share} {a n : Nat}
    (none : (waterRound u a).filter (fun x => x.headroom ≤ x.share) = []) :
    waterFill (n + 1) u a = ([], waterRound u a, a) := by
  have all : (waterRound u a).filter (fun x => !decide (x.headroom ≤ x.share)) = waterRound u a :=
    List.filter_eq_self.2 fun x here => by simpa using List.filter_eq_nil_iff.1 none x here
  unfold waterFill; dsimp only
  refine (if_pos (c := ((waterRound u a).filter (fun x => x.headroom ≤ x.share)).isEmpty = true) (by rw [none]; rfl)).trans ?_
  exact congrArg (fun l => (([], l, a) : List Share × List Share × Nat)) all

theorem waterFill_capped {u : List Share} {a : Nat}
    (some : (waterRound u a).filter (fun x => x.headroom ≤ x.share) ≠ []) :
    let capped := ((waterRound u a).filter (fun x => x.headroom ≤ x.share)).map Share.full
    let rest := (waterRound u a).filter (fun x => x.share < x.headroom)
    let after := waterFill (rest.length + 1) rest (a - (capped.map (·.headroom)).sum)
    waterFill (u.length + 1) u a = (capped ++ after.1, after.2.1, after.2.2) := by
  intro capped rest after
  have below : (waterRound u a).filter (fun x => !decide (x.headroom ≤ x.share)) = rest :=
    List.filter_congr fun x _ => by rw [← decide_not]; exact decide_eq_decide.2 (by omega)
  have sums : headroomSum ((waterRound u a).filter (fun x => x.headroom ≤ x.share)) = (capped.map (·.headroom)).sum := by
    show _ = ((((waterRound u a).filter (fun x => x.headroom ≤ x.share)).map Share.full).map (·.headroom)).sum
    rw [List.map_map]; rfl
  have parts := List.length_eq_length_filter_add (l := waterRound u a) (fun x => decide (x.headroom ≤ x.share))
  rw [below] at parts
  have size : (waterRound u a).length = u.length := by simp [waterRound]
  have fewer : rest.length < u.length := by
    have := List.length_pos_iff.2 some
    omega
  conv_lhs => unfold waterFill
  dsimp only
  refine (if_neg (c := ((waterRound u a).filter (fun x => x.headroom ≤ x.share)).isEmpty = true) (by
    simpa using some)).trans ?_
  have again : waterFill u.length ((waterRound u a).filter (fun x => !decide (x.headroom ≤ x.share)))
      (a - headroomSum ((waterRound u a).filter (fun x => x.headroom ≤ x.share))) = after := by
    rw [below, sums]
    exact waterFill_fuel _ _ _ _ fewer (by omega)
  exact congrArg (fun r : List Share × List Share × Nat => (capped ++ r.1, r.2.1, r.2.2)) again

/-! ## The target that a bay reads (R90) -/

theorem targetIn_mem {ts : List (BayIx × Nat)} (nodup : (ts.map (·.1)).Nodup) {b : BayIx} {n : Nat} (here : (b, n) ∈ ts) :
    targetIn ts b.val = n := by
  have found : ts.find? (fun e => e.1.val == b.val) = some (b, n) := by
    induction ts with
    | nil => cases here
    | cons e ts ih =>
      rw [List.map_cons] at nodup
      obtain ⟨absent, rest⟩ := List.nodup_cons.1 nodup
      rcases List.mem_cons.1 here with rfl | later
      · rw [List.find?_cons_of_pos (by simp)]
      · rw [List.find?_cons_of_neg, ih rest later]
        intro same
        have bay : e.1 = b := Fin.ext (by simpa using same)
        exact absent (bay ▸ List.mem_map.2 ⟨(b, n), later, rfl⟩)
  unfold targetIn; rw [found]

theorem targetIn_absent {ts : List (BayIx × Nat)} {b : BayIx} (absent : b ∉ ts.map (·.1)) : targetIn ts b.val = 0 := by
  have none : ts.find? (fun e => e.1.val == b.val) = none := by
    refine List.find?_eq_none.2 fun e here same => absent (List.mem_map.2 ⟨e, here, ?_⟩)
    exact Fin.ext (by simpa using same)
  unfold targetIn; rw [none]

/-! ## Admission (R86, R92) -/

/-- Admission at a bay's record: `rotates` says whether its class rotates, `value` its rotation deadline. -/
def Bay.admission (now : Time) (rotates : Bool) (value : Time) (admitted : Bool) (y : Bay) : Bay :=
  match admitted, y.alloc.admittedSince with
  | true, some _ => y
  | true, none => { y with
      alloc := { y.alloc with admittedSince := some now },
      timer := { y.timer with rotation :=
        if rotates then (if atOrAfter now value then .due value else .set value) else .clear } }
  | false, _ => { y with
      alloc := { y.alloc with admittedSince := none }, timer := { y.timer with rotation := .clear } }

/-- The rotation deadline of a bay admitted now (R92). -/
def State.rotationValue (s : State) : Time := s.now + mins s.allocator.settings.rotation

/-- The class of a bay rotates. -/
def State.rotates (s : State) (b : BayIx) : Bool := (s.classOf (s.bay b).cls).mode = .rotate

theorem State.setRotation_bay (s : State) (b c : BayIx) (v : Time) : (s.setRotation b v).bay c = if c = b then
    { s.bay c with timer := { (s.bay c).timer with rotation := if atOrAfter s.now v then .due v else .set v } } else s.bay c := by
  unfold State.setRotation
  split <;> exact s.bay_modBay b c _

theorem State.markAdmitted_bay (s : State) (b c : BayIx) (v : Bool) : (s.markAdmitted b v).bay c
    = if c = b then (s.bay c).admission s.now (s.rotates c) s.rotationValue v else s.bay c := by
  by_cases same : c = b
  · subst same
    rw [if_pos rfl]
    have marked (o : Option Time) : (s.modAlloc c (fun a => { a with admittedSince := o })).bay c
        = { s.bay c with alloc := { (s.bay c).alloc with admittedSince := o } } := s.bay_modBay_same c _
    have cleared (t : State) : (t.clearRotation c).bay c
        = { t.bay c with timer := { (t.bay c).timer with rotation := .clear } } := t.bay_modBay_same c _
    unfold State.markAdmitted Bay.admission; dsimp only
    cases v with
    | false =>
      rw [if_neg (by simp)]
      split
      · next stays =>
        obtain ⟨since, rotation⟩ := stays
        rw [← since, ← rotation]
      · rw [cleared, marked]
    | true =>
      rw [if_pos rfl]
      cases since : (s.bay c).alloc.admittedSince with
      | some t => rfl
      | none =>
        dsimp only
        by_cases rotates : (s.classOf (s.bay c).cls).mode = .rotate
        · rw [if_pos rotates, State.setRotation_bay, if_pos rfl, marked,
            show s.rotates c = true from decide_eq_true rotates, if_pos rfl]
          rfl
        · rw [if_neg rotates, cleared, marked, show s.rotates c = false from decide_eq_false rotates,
            if_neg Bool.false_ne_true]
  · rw [if_neg same]
    have other (t : State) (f : Bay → Bay) : (t.modBay b f).bay c = t.bay c := t.bay_modBay_other f same
    have later (t : State) (w : Time) : (t.setRotation b w).bay c = t.bay c := by rw [State.setRotation_bay, if_neg same]
    unfold State.markAdmitted; dsimp only
    repeat' split
    · rfl
    · exact (later _ _).trans (other _ _)
    · exact (other _ _).trans (other _ _)
    · rfl
    · exact (other _ _).trans (other _ _)

/-- What a recompute reads of the state beside the bay records. -/
theorem State.markAdmitted_leaves (s : State) (b : BayIx) (v : Bool) : (s.markAdmitted b v).now = s.now
    ∧ (s.markAdmitted b v).classes = s.classes ∧ (s.markAdmitted b v).scheduler = s.scheduler := by
  unfold State.markAdmitted State.setRotation; dsimp only
  repeat' split
  all_goals exact ⟨rfl, rfl, rfl⟩

theorem State.readmit_bay (s : State) (ts : List (BayIx × Nat)) (c : BayIx) : (s.readmit ts).bay c
    = (s.bay c).admission s.now (s.rotates c) s.rotationValue (ts.any (fun e => e.1 == c)) := by
  have fold (l : List BayIx) (nodup : l.Nodup) (t : State) (now : t.now = s.now) (classes : t.classes = s.classes)
      (allocator : t.allocator = s.allocator) (cls : (t.bay c).cls = (s.bay c).cls) :
      (l.foldl (fun s b => s.markAdmitted b (ts.any (fun e => e.1 == b))) t).bay c
        = if c ∈ l then (t.bay c).admission s.now (s.rotates c) s.rotationValue (ts.any (fun e => e.1 == c)) else t.bay c := by
    induction l generalizing t with
    | nil => rfl
    | cons b l ih =>
      obtain ⟨absent, rest⟩ := List.nodup_cons.1 nodup
      obtain ⟨now', classes', _⟩ := t.markAdmitted_leaves b (ts.any (fun e => e.1 == b))
      have bay := t.markAdmitted_bay b c (ts.any (fun e => e.1 == b))
      have rotates : t.rotates c = s.rotates c := by
        unfold State.rotates State.classOf; rw [classes, cls]
      have value : t.rotationValue = s.rotationValue := by
        unfold State.rotationValue; rw [now, allocator]
      rw [now, rotates, value] at bay
      have clsKept : ((t.markAdmitted b (ts.any (fun e => e.1 == b))).bay c).cls = (s.bay c).cls := by
        rw [bay]
        split
        · unfold Bay.admission; split <;> exact cls
        · exact cls
      rw [List.foldl_cons, ih rest _ (now'.trans now) (classes'.trans classes)
        ((t.markAdmitted_allocator b _).trans allocator) clsKept, bay]
      by_cases same : c = b
      · subst same
        rw [if_pos rfl, if_neg absent, if_pos List.mem_cons_self]
      · rw [if_neg same]
        by_cases later : c ∈ l
        · rw [if_pos later, if_pos (List.mem_cons_of_mem _ later)]
        · rw [if_neg later, if_neg (by simpa using ⟨same, later⟩)]
  unfold State.readmit
  rw [fold allBays (List.nodup_finRange 128) s rfl rfl rfl rfl, if_pos (c := c ∈ allBays) (List.mem_finRange c)]

theorem State.readmit_scheduler (s : State) (ts : List (BayIx × Nat)) : (s.readmit ts).scheduler = s.scheduler := by
  unfold State.readmit
  generalize allBays = l
  induction l generalizing s with
  | nil => rfl
  | cons b l ih => rw [List.foldl_cons, ih, (s.markAdmitted_leaves b _).2.2]

/-- One bay of a recompute: admission, its target, and the hand-over (R86 to R91, R132). -/
theorem State.retarget_bay (s : State) (c : BayIx) : s.retarget.bay c
    = let y := (s.bay c).admission s.now (s.rotates c) s.rotationValue (s.targets.any (fun e => e.1 == c))
      { y with
        alloc := y.alloc.retarget (targetIn s.targets c.val)
        delivery := y.delivery.handTarget (targetIn s.targets c.val) } := by
  rw [State.retarget_eq]
  unfold State.handOver State.bay
  dsimp only
  rw [Table.get_map, retargeted_get]
  dsimp only
  rw [BayAlloc.retarget_target]
  rw [show (s.readmit s.targets).bays.get c = _ from s.readmit_bay s.targets c]
  rfl

theorem Delivery.handTarget_eq (d : Delivery) (t : Nat) : d.handTarget t = { d with
    target := t,
    state := if d.state ≠ .settled ∧ d.state ≠ .pending then d.state
      else if d.inForce = some t ∧ d.repeatMark = false then .settled else .pending } := by
  unfold Delivery.handTarget
  cases state : d.state <;> simp [Delivery.settle]

end Sys2Proof.Machine
end

section
/-!
SUPPORT. The targets of a recompute (R86 to R91).
-/
namespace Sys2Proof.Machine

/-- The bays that a recompute admits, as the tier fill sees them, each with its priority (R86, R87). -/
def State.claimants (s : State) : List (Fin 4 × Share) :=
  (s.allocator.queue.take (min s.allocator.queue.length
    (budgetOf s.allocator.settings / s.allocator.settings.minimum))).map (fun e => (e.priority,
      (⟨e.bay, (s.bay e.bay).demand - s.allocator.settings.minimum, (s.classOf (s.bay e.bay).cls).weight, 0⟩ : Share)))

/-- The tier fill of the bays that a recompute admits (R87). -/
def State.shares (s : State) : List Share :=
  fillTiers s.allocator.settings.step s.claimants [3, 2, 1, 0] (budgetOf s.allocator.settings
    - min s.allocator.queue.length (budgetOf s.allocator.settings / s.allocator.settings.minimum)
      * s.allocator.settings.minimum)

/-- The bays that a recompute admits (R86). -/
def State.admittedBays (s : State) : List BayIx :=
  (s.allocator.queue.take (min s.allocator.queue.length
    (budgetOf s.allocator.settings / s.allocator.settings.minimum))).map (·.bay)

theorem State.targets_eq (s : State) :
    s.targets = s.shares.map (fun x => (x.bay, s.allocator.settings.minimum + x.share)) := by
  have count : s.claims.length = s.allocator.queue.length := List.length_map ..
  unfold State.targets allotTargets State.shares admittedCount
  dsimp only
  rw [count]
  unfold State.claims
  rw [← List.map_take, List.map_map]
  rfl

theorem State.shares_perm (s : State) : (s.shares.map Share.blank).Perm
    ((s.allocator.queue.take (min s.allocator.queue.length
      (budgetOf s.allocator.settings / s.allocator.settings.minimum))).map (fun e =>
        (⟨e.bay, (s.bay e.bay).demand - s.allocator.settings.minimum, (s.classOf (s.bay e.bay).cls).weight, 0⟩ : Share))) := by
  refine (fillTiers_perm ..).trans (.of_eq ?_)
  unfold State.claimants
  rw [List.map_map, List.map_map]
  rfl

theorem State.shares_bays (s : State) : (s.shares.map (·.bay)).Perm s.admittedBays := by
  have bays := s.shares_perm.map (·.bay)
  rw [List.map_map, List.map_map] at bays
  exact bays

theorem State.shares_headroom {s : State} {x : Share} (here : x ∈ s.shares) :
    x.headroom = (s.bay x.bay).demand - s.allocator.settings.minimum := by
  have blank := s.shares_perm.subset (List.mem_map.2 ⟨x, here, rfl⟩)
  obtain ⟨e, _, same⟩ := List.mem_map.1 blank
  have bay : e.bay = x.bay := congrArg Share.bay same
  have headroom := congrArg Share.headroom same
  rw [bay] at headroom
  exact headroom.symm

theorem State.targets_bays (s : State) : s.targets.map (·.1) = s.shares.map (·.bay) := by
  rw [s.targets_eq, List.map_map]; rfl

theorem State.admitted_iff (s : State) (b : BayIx) : (s.targets.any (fun e => e.1 == b)) = decide (b ∈ s.admittedBays) := by
  rw [Bool.eq_iff_iff, decide_eq_true_iff, ← s.shares_bays.mem_iff, ← s.targets_bays]
  simp [List.any_eq_true, List.mem_map]

theorem State.targetIn_unadmitted {s : State} {b : BayIx} (out : b ∉ s.admittedBays) : targetIn s.targets b.val = 0 :=
  targetIn_absent (by rw [s.targets_bays, s.shares_bays.mem_iff]; exact out)

/-- A bay outside the Charge Queue is given nothing (R86, R90). -/
theorem State.targetIn_unqueued {s : State} {b : BayIx} (out : b ∉ s.allocator.queue.map (·.bay)) :
    targetIn s.targets b.val = 0 := by
  refine State.targetIn_unadmitted fun here => out ?_
  obtain ⟨e, front, same⟩ := List.mem_map.1 here
  exact List.mem_map.2 ⟨e, List.mem_of_mem_take front, same⟩

section
variable {s : State} (nodup : (s.allocator.queue.map (·.bay)).Nodup)
include nodup

theorem State.targetIn_share {x : Share} (here : x ∈ s.shares) :
    targetIn s.targets x.bay.val = s.allocator.settings.minimum + x.share := by
  refine targetIn_mem ?_ (by rw [s.targets_eq]; exact List.mem_map.2 ⟨x, here, rfl⟩)
  rw [s.targets_bays, s.shares_bays.nodup_iff]
  exact ((List.take_sublist _ _).map _).nodup nodup

theorem State.targetIn_admitted (floors : ∀ e ∈ s.allocator.queue, s.allocator.settings.minimum ≤ (s.bay e.bay).demand)
    {b : BayIx} (here : b ∈ s.admittedBays) :
    s.allocator.settings.minimum ≤ targetIn s.targets b.val ∧ targetIn s.targets b.val ≤ (s.bay b).demand := by
  obtain ⟨x, served, rfl⟩ := List.mem_map.1 (s.shares_bays.mem_iff.2 here)
  obtain ⟨e, front, same⟩ := List.mem_map.1 here
  have floor := floors e (List.mem_of_mem_take front)
  rw [same] at floor
  have within := mem_fillTiers_within _ _ _ _ x served
  rw [State.shares_headroom served] at within
  rw [State.targetIn_share nodup served]
  omega

end

theorem Bay.demand_le (y : Bay) : y.demand ≤ y.postMax := Nat.min_le_left _ _

theorem State.retarget_target (s : State) (b : BayIx) : (s.retarget.bay b).alloc.target = targetIn s.targets b.val := by
  rw [s.retarget_bay]
  dsimp only
  exact BayAlloc.retarget_target _ _

theorem allBays_nodup : allBays.Nodup := List.nodup_finRange 128

theorem allBays_vals_nodup : (allBays.map (·.val)).Nodup := allBays_nodup.map Fin.val_injective

theorem State.retarget_sum (s : State) {l : List BayIx} (distinct : (l.map (·.val)).Nodup) :
    (l.map (fun b => (s.retarget.bay b).alloc.target)).sum ≤ budgetOf s.allocator.settings := by
  have fits := (sum_targetIn_le s.targets _ distinct).trans s.targets_fit
  rw [List.map_map, Function.comp_def] at fits
  rw [funext s.retarget_target]
  generalize targetIn s.targets = f at fits ⊢
  exact fits

theorem State.retarget_targetSum (s : State) : s.retarget.targetSum ≤ budgetOf s.allocator.settings :=
  s.retarget_sum allBays_vals_nodup

theorem State.retarget_scheduler (s : State) :
    s.retarget.scheduler = { s.scheduler with budget := budgetOf s.allocator.settings } := by
  rw [s.retarget_eq, ← s.readmit_scheduler s.targets, ← s.readmit_allocator s.targets]
  generalize s.readmit s.targets = u
  generalize s.targets = ts
  rfl

theorem BayAlloc.retarget_keeps (a : BayAlloc) (t : Nat) : (a.retarget t).admittedSince = a.admittedSince
    ∧ (a.retarget t).ceiling = a.ceiling ∧ (a.retarget t).chargingCopy = a.chargingCopy
    ∧ (a.retarget t).enableCopy = a.enableCopy ∧ (a.retarget t).suspectCopy = a.suspectCopy := by
  unfold BayAlloc.retarget; split <;> exact ⟨rfl, rfl, rfl, rfl, rfl⟩

theorem Bay.admission_keeps (y : Bay) (now : Time) (rotates : Bool) (value : Time) (v : Bool) :
    (y.admission now rotates value v).delivery = y.delivery ∧ (y.admission now rotates value v).config = y.config
    ∧ (y.admission now rotates value v).alloc = { y.alloc with
        admittedSince := if v then some (y.alloc.admittedSince.getD now) else none }
    ∧ (v = false → (y.admission now rotates value v).timer.rotation = .clear) := by
  cases v with
  | false => exact ⟨rfl, rfl, rfl, fun _ => rfl⟩
  | true =>
    obtain ⟨cls, postMax, allotEnable, savedMask, dyn, check, timer, alloc, delivery⟩ := y
    obtain ⟨ceiling, underDraw, target, since, chargingCopy, enableCopy, suspectCopy⟩ := alloc
    cases since <;> exact ⟨rfl, rfl, rfl, fun no => by cases no⟩

/-- The shares of one priority. -/
theorem fillTiers_mem_tier {step left : Nat} {l : List (Fin 4 × Share)} {x : Share} (p : Fin 4) :
    let tier := fun (p : Fin 4) => (l.filter (fun e => e.1 == p)).map (·.2)
    let fill3 := fillTier step (tier 3) left
    let fill2 := fillTier step (tier 2) fill3.2
    let fill1 := fillTier step (tier 1) fill2.2
    let fill0 := fillTier step (tier 0) fill1.2
    x ∈ (if p = 3 then fill3 else if p = 2 then fill2 else if p = 1 then fill1 else fill0).1 →
      x ∈ fillTiers step l [3, 2, 1, 0] left := by
  intro tier fill3 fill2 fill1 fill0 here
  have all : fillTiers step l [3, 2, 1, 0] left = fill3.1 ++ (fill2.1 ++ (fill1.1 ++ (fill0.1 ++ []))) := rfl
  rw [all]
  simp only [List.mem_append]
  split at here
  · exact .inl here
  · split at here
    · exact .inr (.inl here)
    · split at here
      · exact .inr (.inr (.inl here))
      · exact .inr (.inr (.inr (.inl here)))

theorem stepPass_left (s : Nat) (u : List Share) (l : Nat) : (stepPass s u l).2 ≤ l := by
  induction u generalizing l with
  | nil => exact Nat.le_refl l
  | cons x u ih =>
    unfold stepPass; split
    · exact (ih (l - s)).trans (Nat.sub_le l s)
    · exact ih l

/-- Passes beyond one for each unit left and one more change nothing. -/
theorem stepPasses_fuel (s n m : Nat) (u : List Share) (l : Nat) (enough : l < n) (more : l < m) :
    stepPasses s n u l = stepPasses s m u l := by
  induction n generalizing m u l with
  | zero => omega
  | succ n ih =>
    obtain ⟨m, rfl⟩ : ∃ k, m = k + 1 := ⟨m - 1, by omega⟩
    have left := stepPass_left s u l
    unfold stepPasses; dsimp only
    split
    · rfl
    · exact ih m _ _ (by omega) (by omega)

/-- Settles O19: the tiers serve the admitted bays, each within its headroom, and a bay reads its own share. -/
theorem targetsOfRecompute : Obligations.TargetsOfRecompute := by
  refine ⟨?_, ?_⟩
  · intro s nodup floors a n admitted tier fill3 fill2 fill1 fill0 target
    have reads (b : BayIx) : target b = targetIn s.targets b.val := s.retarget_target b
    have most (b : BayIx) : target b ≤ (s.bay b).demand := by
      rw [reads]
      by_cases here : b ∈ s.admittedBays
      · exact (State.targetIn_admitted nodup floors here).2
      · rw [State.targetIn_unadmitted here]; exact Nat.zero_le _
    refine ⟨fun b here => ?_, fun b out => ?_, ?_, fun b => (most b).trans (Bay.demand_le _), fun p x here => ?_,
      fun b => ?_, fun b => ?_, ?_⟩
    · rw [reads]; exact State.targetIn_admitted nodup floors here
    · rw [reads]; exact State.targetIn_unadmitted out
    · exact s.retarget_targetSum
    · rw [reads]
      have tiers (p : Fin 4) : (s.claimants.filter (fun e => e.1 == p)).map (·.2) = tier p := by
        unfold State.claimants
        rw [List.filter_map, List.map_map]; rfl
      have served := fillTiers_mem_tier (step := a.step) (left := budgetOf a - n * a.minimum) (l := s.claimants) (x := x) p
      rw [funext tiers] at served
      exact State.targetIn_share nodup (served here)
    · have keeps := (s.bay b).admission_keeps s.now (s.rotates b) s.rotationValue (s.targets.any (fun e => e.1 == b))
      obtain ⟨_, _, alloc, rotation⟩ := keeps
      rw [s.retarget_bay]
      dsimp only
      rw [(BayAlloc.retarget_keeps _ _).1, alloc]
      rw [s.admitted_iff] at rotation ⊢
      refine ⟨?_, fun out => rotation (decide_eq_false out)⟩
      simp only [decide_eq_true_eq]; rfl
    · have keeps := ((s.bay b).admission_keeps s.now (s.rotates b) s.rotationValue (s.targets.any (fun e => e.1 == b))).1
      intro d
      rw [reads, s.retarget_bay]
      dsimp only
      rw [keeps]
      exact d.handTarget_eq _
    · exact s.retarget_scheduler
  · intro step u left fill passes round capped rest after rounded out
    refine ⟨?_, fun fits => ?_, fun short => ?_, fun none => ?_, fun some => ?_, rfl, fun x => ?_,
      fun ends => ?_, fun goes => ?_⟩
    · have bays := (fillTier_perm step u left).map (·.bay)
      rw [List.map_map, List.map_map] at bays
      exact bays
    · exact if_pos fits
    · exact if_neg (Nat.not_le.2 short)
    · exact waterFill_uncapped (List.map_eq_nil_iff.1 none)
    · exact waterFill_capped (fun none => some (List.map_eq_nil_iff.2 none))
    · rfl
    · exact if_pos ends
    · have lower := stepPass_left step u left
      exact (if_neg goes).trans (stepPasses_fuel _ _ _ _ _ (by omega) (by omega))

end Sys2Proof.Machine
end

section
/-!
SUPPORT. The feed of the Charge Queue: which bays stand in it, and the copies and settings that decide which are
eligible (R78). Bringing a bay into line sets its place by its eligibility, and a recompute leaves the feed.
-/
namespace Sys2Proof.Machine

/-- What decides who stands in the Charge Queue, and who does. -/
@[ext] structure Feed where
  queued : BayIx → Bool
  charging : BayIx → Bool
  enable : BayIx → Bool
  suspect : BayIx → Bool
  suspended : Bool
  minimum : Nat
  postMax : BayIx → Nat

def State.feed (s : State) : Feed where
  queued := s.inQueue
  charging b := (s.bay b).alloc.chargingCopy
  enable b := (s.bay b).alloc.enableCopy
  suspect b := (s.bay b).alloc.suspectCopy
  suspended := s.allocator.suspendedCopy
  minimum := s.allocator.settings.minimum
  postMax b := (s.bay b).postMax

abbrev Ev.feed (ev : Ev) : Feed := ev.st.feed

/-- Eligibility by the feed (R78). -/
def Feed.eligible (k : Feed) (b : BayIx) : Bool :=
  k.charging b && k.enable b && !k.suspect b && !k.suspended && decide (k.minimum ≤ k.postMax b)

/-- A bay brought into line (R78, R81). -/
def Feed.sync (k : Feed) (b : BayIx) : Feed :=
  { k with queued := fun c => if c = b then k.eligible b else k.queued c }

theorem State.eligible_feed (s : State) (b : BayIx) : s.eligible b = s.feed.eligible b := rfl

theorem State.queued_iff {s : State} {b : BayIx} : s.feed.queued b = true ↔ b ∈ s.allocator.queue.map (·.bay) := by
  simp [State.feed, State.inQueue, List.mem_map]

theorem State.feed_eq {s t : State} (queue : ∀ b, t.inQueue b = s.inQueue b)
    (charging : ∀ b, (t.bay b).alloc.chargingCopy = (s.bay b).alloc.chargingCopy)
    (enable : ∀ b, (t.bay b).alloc.enableCopy = (s.bay b).alloc.enableCopy)
    (suspect : ∀ b, (t.bay b).alloc.suspectCopy = (s.bay b).alloc.suspectCopy)
    (suspended : t.allocator.suspendedCopy = s.allocator.suspendedCopy)
    (minimum : t.allocator.settings.minimum = s.allocator.settings.minimum)
    (postMax : ∀ b, (t.bay b).postMax = (s.bay b).postMax) : t.feed = s.feed := by
  unfold State.feed
  rw [show t.inQueue = s.inQueue from funext queue, funext charging, funext enable, funext suspect, suspended, minimum,
    funext postMax]

/-- A change of the bay records that leaves the copies and the post maximum leaves the feed. -/
theorem State.feed_of_bays {s t : State} (allocator : t.allocator = s.allocator)
    (copies : ∀ b, (t.bay b).alloc.chargingCopy = (s.bay b).alloc.chargingCopy
      ∧ (t.bay b).alloc.enableCopy = (s.bay b).alloc.enableCopy ∧ (t.bay b).alloc.suspectCopy = (s.bay b).alloc.suspectCopy
      ∧ (t.bay b).postMax = (s.bay b).postMax) : t.feed = s.feed :=
  State.feed_eq (fun b => by unfold State.inQueue; rw [allocator]) (fun b => (copies b).1) (fun b => (copies b).2.1)
    (fun b => (copies b).2.2.1) (by rw [allocator]) (by rw [allocator]) (fun b => (copies b).2.2.2)

theorem State.modBay_feed (s : State) (b : BayIx) {f : Bay → Bay} (kept : ∀ y, (f y).alloc.chargingCopy = y.alloc.chargingCopy
    ∧ (f y).alloc.enableCopy = y.alloc.enableCopy ∧ (f y).alloc.suspectCopy = y.alloc.suspectCopy
    ∧ (f y).postMax = y.postMax) : (s.modBay b f).feed = s.feed :=
  State.feed_of_bays rfl fun c => by
    rw [State.bay_modBay]; split
    · exact kept _
    · exact ⟨rfl, rfl, rfl, rfl⟩

theorem State.modAlloc_feed (s : State) (b : BayIx) {f : BayAlloc → BayAlloc} (kept : ∀ a, (f a).chargingCopy = a.chargingCopy
    ∧ (f a).enableCopy = a.enableCopy ∧ (f a).suspectCopy = a.suspectCopy) : (s.modAlloc b f).feed = s.feed :=
  s.modBay_feed b fun y => by obtain ⟨h1, h2, h3⟩ := kept y.alloc; exact ⟨h1, h2, h3, rfl⟩

/-- The record of one bay with its copies changed. -/
theorem State.modBay_feed_copies (s : State) (b : BayIx) (f : Bay → Bay) : (s.modBay b f).feed = { s.feed with
    charging := fun c => if c = b then (f (s.bay b)).alloc.chargingCopy else s.feed.charging c
    enable := fun c => if c = b then (f (s.bay b)).alloc.enableCopy else s.feed.enable c
    suspect := fun c => if c = b then (f (s.bay b)).alloc.suspectCopy else s.feed.suspect c
    postMax := fun c => if c = b then (f (s.bay b)).postMax else s.feed.postMax c } := by
  have at_ {α : Type} (g : Bay → α) : (fun c => g ((s.modBay b f).bay c)) = fun c => if c = b then g (f (s.bay b)) else g (s.bay c) :=
    funext fun c => by
      rw [State.bay_modBay]; split
      · next same => rw [same]
      · rfl
  unfold State.feed
  rw [at_ (·.alloc.chargingCopy), at_ (·.alloc.enableCopy), at_ (·.alloc.suspectCopy), at_ (·.postMax)]
  rfl

theorem Talks.feed {s t : State} (h : Talks s t) : t.feed = s.feed := by
  unfold Talks at h
  exact State.feed_of_bays (by rw [h]) fun b => by rw [h]; exact ⟨rfl, rfl, rfl, rfl⟩

/-! ## Operations on an event: the feed -/

section
variable (ev : Ev) (b : BayIx)

@[simp] theorem Ev.modDyn_feed (f : BayDyn → BayDyn) : (ev.modDyn b f).feed = ev.feed :=
  ev.st.modBay_feed b fun y => by unfold Bay.modDyn; dsimp only; split <;> exact ⟨rfl, rfl, rfl, rfl⟩

@[simp] theorem Ev.modTimer_feed (f : BayTimer → BayTimer) : (ev.modTimer b f).feed = ev.feed :=
  ev.st.modBay_feed b fun _ => ⟨rfl, rfl, rfl, rfl⟩

@[simp] theorem Ev.modDelivery_feed (f : Delivery → Delivery) : (ev.modDelivery b f).feed = ev.feed :=
  ev.st.modBay_feed b fun _ => ⟨rfl, rfl, rfl, rfl⟩

theorem State.clearRotation_feed (s : State) (b : BayIx) : (s.clearRotation b).feed = s.feed :=
  s.modBay_feed b fun _ => ⟨rfl, rfl, rfl, rfl⟩

@[simp] theorem Ev.touch_feed : (ev.touch b).feed = ev.feed := congrArg State.feed (ev.touch_st b)

@[simp] theorem Ev.note_feed (c : BayCause) : (ev.note b c).feed = ev.feed := ev.touch_feed b

@[simp] theorem Ev.noteEnd_feed (r : EndReason) : (ev.noteEnd b r).feed = ev.feed := ev.touch_feed b

@[simp] theorem Ev.noteFault_feed (c : FaultCause) : (ev.noteFault b c).feed = ev.feed := ev.touch_feed b

@[simp] theorem Ev.log_feed (e : ErrorReport) : (ev.log e).feed = ev.feed := (ev.log_talks e).feed

@[simp] theorem Ev.notice_feed (d : Addr) (k : Byte) (p : List Byte) : (ev.notice d k p).feed = ev.feed :=
  (ev.notice_talks d k p).feed

@[simp] theorem Ev.holdNotice_feed (x : Hold) (e : HoldEvent) (c : HoldNoticeBody) :
    (ev.holdNotice x e c).feed = ev.feed := (ev.holdNotice_talks x e c).feed

@[simp] theorem Ev.answer_feed (f : Option Frame) : (ev.answer f).feed = ev.feed := (ev.answer_talks f).feed

@[simp] theorem Ev.flushNotes_feed : ev.flushNotes.feed = ev.feed := ev.flushNotes_talks.feed

@[simp] theorem Ev.wantRecompute_feed : ev.wantRecompute.feed = ev.feed := rfl

@[simp] theorem Ev.wantScan_feed : ev.wantScan.feed = ev.feed := rfl

theorem inQueue_insertEntry (x : ChargeEntry) (q : List ChargeEntry) (c : BayIx) :
    (insertEntry x q).any (·.bay == c) = (x.bay == c || q.any (·.bay == c)) := by
  obtain ⟨l, r, split, place, _⟩ := insertEntry_split x q
  rw [place, split, List.any_append, List.any_append, List.any_cons]
  cases l.any (·.bay == c) <;> cases x.bay == c <;> rfl

theorem inQueue_filter (q : List ChargeEntry) (b c : BayIx) :
    (q.filter (·.bay != b)).any (·.bay == c) = (c != b && q.any (·.bay == c)) := by
  rw [List.any_filter]
  by_cases same : c = b
  · subst same
    simp only [bne_self_eq_false, Bool.false_and, List.any_eq_false]
    rintro e _; cases h : e.bay == c <;> simp [bne, h]
  · rw [show (c != b) = true from bne_iff_ne.2 same, Bool.true_and]
    congr 1; funext e
    by_cases here : e.bay = c
    · simp [here, same]
    · simp [here]

theorem Ev.join_feed : (ev.join b).feed = { ev.feed with queued := fun c => if c = b then true else ev.feed.queued c } := by
  unfold Ev.join; dsimp only
  refine (Ev.wantRecompute_feed _).trans ((State.modAlloc_feed (ev.st.setQueue _) b ?_).trans ?_)
  · exact fun _ => ⟨rfl, rfl, rfl⟩
  refine congrArg (fun f => ({ ev.feed with queued := f } : Feed)) (funext fun c => ?_)
  show (insertEntry _ ev.st.allocator.queue).any (·.bay == c) = _
  rw [inQueue_insertEntry]
  by_cases same : c = b
  · rw [if_pos same]; simp [same]
  · rw [if_neg same]
    have apart : (b == c) = false := by simpa using fun h => same h.symm
    rw [apart]; rfl

theorem Ev.leave_feed : (ev.leave b).feed = { ev.feed with queued := fun c => if c = b then false else ev.feed.queued c } := by
  unfold Ev.leave; dsimp only
  refine (Ev.wantRecompute_feed _).trans ((State.clearRotation_feed _ b).trans
    ((State.modAlloc_feed (ev.st.setQueue _) b ?_).trans ?_))
  · exact fun _ => ⟨rfl, rfl, rfl⟩
  refine congrArg (fun f => ({ ev.feed with queued := f } : Feed)) (funext fun c => ?_)
  show (ev.st.allocator.queue.filter (·.bay != b)).any (·.bay == c) = _
  rw [inQueue_filter]
  by_cases same : c = b
  · rw [if_pos same]; simp [same]
  · rw [if_neg same, show (c != b) = true from bne_iff_ne.2 same]; rfl

@[simp] theorem Ev.syncQueue_feed : (ev.syncQueue b).feed = ev.feed.sync b := by
  have keep (v : Bool) (h : ev.feed.queued b = v) :
      ({ ev.feed with queued := fun c => if c = b then v else ev.feed.queued c } : Feed) = ev.feed := by
    refine congrArg (fun f => ({ ev.feed with queued := f } : Feed)) (funext fun c => ?_)
    split
    · next same => rw [same]; exact h.symm
    · rfl
  unfold Ev.syncQueue Feed.sync
  rw [ev.st.eligible_feed b]
  cases eligible : ev.feed.eligible b with
  | true =>
    rw [if_pos rfl]
    by_cases here : ev.st.inQueue b = true
    · rw [if_pos here, keep true here]
    · rw [if_neg here, Ev.join_feed]
  | false =>
    rw [if_neg Bool.false_ne_true]
    by_cases here : ev.st.inQueue b = true
    · rw [if_pos here, Ev.leave_feed]
    · rw [if_neg here, keep false (Bool.eq_false_iff.2 here)]

theorem Feed.same_copies (k : Feed) (b : BayIx) : (fun c => if c = b then k.charging b else k.charging c) = k.charging
    ∧ (fun c => if c = b then k.enable b else k.enable c) = k.enable
    ∧ (fun c => if c = b then k.suspect b else k.suspect c) = k.suspect
    ∧ (fun c => if c = b then k.postMax b else k.postMax c) = k.postMax := by
  refine ⟨funext fun c => ?_, funext fun c => ?_, funext fun c => ?_, funext fun c => ?_⟩ <;> split <;> simp_all

theorem Ev.copyCharging_feed (v : Bool) : (ev.modAlloc b (fun a => { a with chargingCopy := v })).feed
    = { ev.feed with charging := fun c => if c = b then v else ev.feed.charging c } := by
  obtain ⟨_, enable, suspect, postMax⟩ := ev.feed.same_copies b
  exact (ev.st.modBay_feed_copies b _).trans (Feed.ext rfl rfl enable suspect rfl rfl postMax)

theorem Ev.copySuspect_feed (v : Bool) : (ev.modAlloc b (fun a => { a with suspectCopy := v })).feed
    = { ev.feed with suspect := fun c => if c = b then v else ev.feed.suspect c } := by
  obtain ⟨charging, enable, _, postMax⟩ := ev.feed.same_copies b
  exact (ev.st.modBay_feed_copies b _).trans (Feed.ext rfl charging enable rfl rfl rfl postMax)

theorem Ev.reportSuspect_feed (v : Bool) : (ev.reportSuspect b v).feed
    = ({ ev.feed with suspect := fun c => if c = b then v else ev.feed.suspect c } : Feed).sync b := by
  unfold Ev.reportSuspect
  rw [Ev.syncQueue_feed, Ev.copySuspect_feed]

theorem Ev.reportCharging_feed (v : Bool) : (ev.reportCharging b v).feed = if ev.feed.charging b = v then ev.feed else
    ({ ev.feed with charging := fun c => if c = b then v else ev.feed.charging c } : Feed).sync b := by
  unfold Ev.reportCharging
  by_cases same : ev.feed.charging b = v
  · rw [if_pos same]; exact congrArg Ev.feed (if_pos same)
  · rw [if_neg same]
    refine (congrArg Ev.feed (if_neg same)).trans ?_
    dsimp only
    rw [Ev.syncQueue_feed, apply_ite Ev.feed, Ev.log_feed, ite_self, Ev.copyCharging_feed]

theorem Ev.foldl_syncQueue_feed (l : List BayIx) : (l.foldl Ev.syncQueue ev).feed
    = { ev.feed with queued := fun c => if c ∈ l then ev.feed.eligible c else ev.feed.queued c } := by
  induction l generalizing ev with
  | nil => rfl
  | cons b l ih =>
    rw [List.foldl_cons, ih, Ev.syncQueue_feed]
    refine Feed.ext (funext fun c => ?_) rfl rfl rfl rfl rfl rfl
    show (if c ∈ l then ev.feed.eligible c else if c = b then ev.feed.eligible b else ev.feed.queued c) = _
    by_cases later : c ∈ l
    · rw [if_pos later]; exact (if_pos (List.mem_cons_of_mem b later)).symm
    · rw [if_neg later]
      by_cases same : c = b
      · rw [if_pos same, same]; exact (if_pos List.mem_cons_self).symm
      · rw [if_neg same]; exact (if_neg (by simpa using ⟨same, later⟩)).symm

theorem Ev.syncAll_feed : ev.syncAll.feed = { ev.feed with queued := ev.feed.eligible } := by
  refine (ev.foldl_syncQueue_feed allBays).trans (Feed.ext (funext fun c => ?_) rfl rfl rfl rfl rfl rfl)
  exact if_pos (List.mem_finRange c)

end

/-! ## The recompute and the end of an event -/

theorem State.retarget_allocator (s : State) : s.retarget.allocator = s.allocator := by
  rw [s.retarget_eq, ← s.readmit_allocator s.targets]
  generalize s.readmit s.targets = u
  generalize s.targets = ts
  rfl

theorem State.retarget_feed (s : State) : s.retarget.feed = s.feed := by
  refine State.feed_of_bays ?_ fun b => ?_
  · exact s.retarget_allocator
  · rw [s.retarget_bay]
    dsimp only
    generalize targetIn s.targets b.val = n
    generalize s.targets.any (fun e => e.1 == b) = v
    obtain ⟨_, config, alloc, _⟩ := (s.bay b).admission_keeps s.now (s.rotates b) s.rotationValue v
    obtain ⟨_, _, charging, enable, suspect⟩ :=
      BayAlloc.retarget_keeps ((s.bay b).admission s.now (s.rotates b) s.rotationValue v).alloc n
    rw [charging, enable, suspect, alloc]
    exact ⟨rfl, rfl, rfl, congrArg BayConfig.postMax config⟩

theorem State.earliest_mem {s : State} {q : List ChargeEntry} {e : ChargeEntry} (h : s.earliest q = some e) : e ∈ q := by
  induction q generalizing e with
  | nil => cases h
  | cons d q ih =>
    unfold State.earliest at h
    cases rest : s.earliest q with
    | none => rw [rest] at h; cases h; exact List.mem_cons_self
    | some f =>
      rw [rest] at h; dsimp only at h
      have one : e = d ∨ e = f := by
        split at h
        · split at h <;> cases h
          · exact .inr rfl
          · exact .inl rfl
        · cases h; exact .inl rfl
      rcases one with rfl | rfl
      · exact List.mem_cons_self
      · exact List.mem_cons_of_mem _ (ih rest)

theorem State.rotationChoice_mem {s : State} {e : ChargeEntry} (h : s.rotationChoice = some e) : e ∈ s.allocator.queue := by
  unfold State.rotationChoice at h
  split at h
  · cases h
  · exact (List.mem_filter.1 (State.earliest_mem h)).1

theorem State.rotate_feed {s : State} {e : ChargeEntry} (here : e ∈ s.allocator.queue) : (s.rotate e).feed = s.feed := by
  unfold State.rotate
  refine (State.clearRotation_feed _ _).trans ((State.modAlloc_feed (s.setQueue _) e.bay ?_).trans ?_)
  · exact fun _ => ⟨rfl, rfl, rfl⟩
  refine State.feed_eq (fun c => ?_) (fun _ => rfl) (fun _ => rfl) (fun _ => rfl) rfl rfl (fun _ => rfl)
  show (insertEntry _ (s.allocator.queue.filter (·.bay != e.bay))).any (·.bay == c) = s.allocator.queue.any (·.bay == c)
  rw [inQueue_insertEntry, inQueue_filter]
  by_cases same : c = e.bay
  · subst same
    rw [show ({ e with stamp := s.now } : ChargeEntry).bay = e.bay from rfl, beq_self_eq_true, Bool.true_or]
    exact (List.any_eq_true.2 ⟨e, here, beq_self_eq_true e.bay⟩).symm
  · rw [show (c != e.bay) = true from bne_iff_ne.2 same, Bool.true_and]
    have apart : (e.bay == c) = false := by simpa using fun h => same h.symm
    rw [show ({ e with stamp := s.now } : ChargeEntry).bay = e.bay from rfl, apart, Bool.false_or]

/-- Every bay outside the Charge Queue has target 0. -/
def State.IdleTargets (s : State) : Prop := ∀ b, s.feed.queued b = false → (s.bay b).alloc.target = 0

theorem State.retarget_idle (s : State) : s.retarget.IdleTargets := by
  intro b out
  rw [s.retarget_feed] at out
  rw [s.retarget_target]
  exact State.targetIn_unqueued fun here => by rw [State.queued_iff.2 here] at out; cases out

theorem State.rotate_idle {s : State} {e : ChargeEntry} (here : e ∈ s.allocator.queue) (idle : s.IdleTargets) :
    (s.rotate e).IdleTargets := by
  intro b out
  rw [State.rotate_feed here] at out
  rw [← idle b out]
  have cleared (t : State) (c : BayIx) : (t.clearRotation c).bay b = if b = c then _ else t.bay b := t.bay_modBay c b _
  unfold State.rotate
  rw [cleared, State.modAlloc]
  split <;> rw [State.bay_modBay] <;> split <;> rfl

/-- What a recompute leaves that finds the records of the queue in order, or has just set them in order (R85). -/
theorem Ev.recomputeFuel_leaves (n : Nat) (ev : Ev) (ok : ev.compareQueue.books.Ok) :
    (Ev.recomputeFuel (n + 1) ev).books = ev.compareQueue.books ∧ (Ev.recomputeFuel (n + 1) ev).feed = ev.compareQueue.feed
      ∧ (Ev.recomputeFuel (n + 1) ev).st.IdleTargets := by
  have turn : (ev.compareQueue.onState State.retarget).feed = ev.compareQueue.feed := State.retarget_feed _
  have books : (ev.compareQueue.onState State.retarget).books = ev.compareQueue.books := State.retarget_books _
  have idle : (ev.compareQueue.onState State.retarget).st.IdleTargets := State.retarget_idle _
  rw [Ev.recomputeFuel]
  split
  · exact ⟨books, turn, idle⟩
  · next e chosen =>
    have here := State.rotationChoice_mem chosen
    have turned : ((ev.compareQueue.onState State.retarget).onState (·.rotate e)).feed = ev.compareQueue.feed :=
      (State.rotate_feed here).trans turn
    have rotated : ((ev.compareQueue.onState State.retarget).onState (·.rotate e)).books = ev.compareQueue.books :=
      (State.rotate_books _ e).trans books
    have idle := State.rotate_idle here idle
    cases n with
    | zero => exact ⟨rotated, turned, idle⟩
    | succ n =>
      have order : ((ev.compareQueue.onState State.retarget).onState (·.rotate e)).books.Ok := by rw [rotated]; exact ok
      generalize (ev.compareQueue.onState State.retarget).onState (·.rotate e) = next at rotated turned order
      have again := Ev.compareQueue_ok next order
      obtain ⟨books', feed', idle'⟩ := Ev.recomputeFuel_leaves n next (by
        rw [again, Ev.flushNotes_books]; exact order)
      rw [again, Ev.flushNotes_books] at books'
      rw [again, Ev.flushNotes_feed] at feed'
      exact ⟨books'.trans rotated, feed'.trans turned, idle'⟩

theorem Ev.runRecompute_leaves (ev : Ev) (owed : ev.recompute = true) (ok : ev.compareQueue.books.Ok) :
    ev.runRecompute.books = ev.compareQueue.books ∧ ev.runRecompute.feed = ev.compareQueue.feed
      ∧ ev.runRecompute.st.IdleTargets := by
  unfold Ev.runRecompute
  rw [if_pos owed]
  have leaves := Ev.recomputeFuel_leaves 129 ev ok
  generalize Ev.recomputeFuel (129 + 1) ev = x at leaves ⊢
  exact leaves

theorem State.settle_feed (s : State) : s.settle.feed = s.feed := by
  refine State.feed_of_bays s.settle_allocator fun b => ?_
  rw [s.settle_alloc]
  have config := congrArg (fun k : Still => (k.bays.get b).postMax) s.settle_still
  simp only [State.still, Table.get_map] at config
  exact ⟨rfl, rfl, rfl, config⟩

/-- The end of an event, as far as it may owe a scan: what it owes of a recompute is taken last. -/
theorem Ev.finish_recompute (ev : Ev) (scan : ev.scan = false ∨ ev.books.waitlist = []) : ∃ v : Ev,
    ev.finish = v.runRecompute.flushNotes.st.settle ∧ v.recompute = ev.recompute ∧ v.notes = []
      ∧ v.books = ev.books ∧ v.feed = ev.feed ∧ v = { ev.flushNotes with scan := false } := by
  obtain ⟨scanKept, recomputeKept, notes⟩ := ev.flushNotes_leaves
  refine ⟨{ ev.flushNotes with scan := false }, ?_, recomputeKept, notes, ev.flushNotes_books, ev.flushNotes_feed, rfl⟩
  have scanned : ev.flushNotes.runScan = { ev.flushNotes with scan := false } := by
    refine Ev.runScan_empty _ ?_
    rw [scanKept]
    exact scan.imp_right fun h => (congrArg Books.waitlist ev.flushNotes_books).trans h
  unfold Ev.finish
  rw [scanned]

/-- What the end of an event leaves that owes a recompute over records in order: the feed, and targets for the queue
alone. -/
theorem Ev.finish_feed (ev : Ev) (owed : ev.recompute = true) (scan : ev.scan = false ∨ ev.books.waitlist = [])
    (ok : ev.books.Ok) : ev.finish.feed = ev.feed ∧ ev.finish.IdleTargets := by
  obtain ⟨v, finish, recompute, _, books, feed, _⟩ := ev.finish_recompute scan
  have order : v.books.Ok := by rw [books]; exact ok
  have compared := Ev.compareQueue_ok v order
  obtain ⟨_, feed', idle⟩ := v.runRecompute_leaves (recompute.trans owed) (by
    rw [compared, Ev.flushNotes_books]; exact order)
  rw [compared, Ev.flushNotes_feed, feed] at feed'
  have flushed := (Ev.flushNotes_feed v.runRecompute).trans feed'
  rw [finish]
  refine ⟨(State.settle_feed _).trans flushed, fun b out => ?_⟩
  rw [State.settle_feed] at out
  rw [State.settle_alloc, show (v.runRecompute.flushNotes.st.bay b).alloc = (v.runRecompute.st.bay b).alloc from by
    have talks := Ev.flushNotes_talks v.runRecompute
    unfold Talks at talks
    rw [talks]; rfl]
  exact idle b ((congrArg (fun k : Feed => k.queued b) (feed'.trans flushed.symm)).trans out)

/-- What the end of an event leaves of the feed that owes no recompute. -/
theorem Ev.finish_feed_calm (ev : Ev) (calm : ev.recompute = false) (scan : ev.scan = false ∨ ev.books.waitlist = []) :
    ev.finish.feed = ev.feed := by
  obtain ⟨v, finish, recompute, _, _, feed, _⟩ := ev.finish_recompute scan
  have same : v.runRecompute = v := by
    unfold Ev.runRecompute; rw [recompute, calm]; exact if_neg Bool.false_ne_true
  rw [finish, State.settle_feed, same, ← feed]
  exact Ev.flushNotes_feed v

end Sys2Proof.Machine
end

section
/-!
SUPPORT. Management operations that end in a recompute: SET-ENABLE (R148) and RESTART (R151).
-/
namespace Sys2Proof.Machine

/-! ## An operation that is answered OK and recomputes -/

/-- What an operation leaves that owes a recompute and changes no record: targets within the budget, and the Charge Queue
of its feed. -/
structure State.Reallotted (s : State) (r : Request) (k : Feed) (t : State) : Prop where
  budget : t.WithinBudget
  dyns : t.dyns = s.dyns
  queue : ∀ b, b ∈ t.allocator.queue.map (·.bay) ↔ k.queued b = true
  idle : ∀ b, k.queued b = false → (t.bay b).alloc.target = 0
  answers : s.Answers t r Kind.mgmtAnswer [r.kind, 0]

theorem Ev.reallotted {s : State} {r : Request} {ev : Ev} {k : Feed} (feed : ev.feed = k)
    (dyn : ∀ b, (ev.books.bays b).dyn = (s.bay b).dyn) (ok : ev.books.Ok) (uplink : ev.voice.uplink = s.uplink)
    (controller : ev.books.still.controller = s.controller) (owed : ev.recompute = true) (scan : ev.scan = false) :
    s.Reallotted r k (ev.status r .ok).finish ∧ (ev.status r .ok).finish.still = ev.books.still := by
  rw [Ev.status_ok]
  have shows_ := Ev.answer_shows r Kind.mgmtAnswer [r.kind, 0] rfl (.inl scan) (.inr ok)
  have leaves := ev.answer_leaves (ev.st.buildAnswer r.src r.tag Kind.mgmtAnswer [r.kind, 0])
  have owes := leaves.2.2.1.trans owed
  have fed := Ev.finish_feed (ev.answer (ev.st.buildAnswer r.src r.tag Kind.mgmtAnswer [r.kind, 0])) owes
    (.inl (leaves.2.1.trans scan)) (by rw [Ev.answer_books]; exact ok)
  rw [Ev.answer_feed, feed] at fed
  refine ⟨⟨Ev.finish_recomputed _ owes, shows_.dyns dyn, fun b => ?_, fun b out => fed.2 b (by rw [fed.1]; exact out),
    State.Answers_of_voice _ _ uplink controller⟩, shows_.still⟩
  rw [← State.queued_iff, fed.1]

theorem State.config_of_still {s t : State} (still : t.still.bays = s.still.bays) (b : BayIx) :
    (t.bay b).config = (s.bay b).config := by
  have config := congrArg (fun k : Table BayConfig 128 => k.get b) still
  simp only [State.still, Table.get_map] at config
  exact config

theorem Ev.syncQueue_owes {ev : Ev} {b : BayIx} (moves : ev.feed.queued b ≠ ev.feed.eligible b) :
    (ev.syncQueue b).recompute = true := by
  unfold Ev.syncQueue
  rw [ev.st.eligible_feed b]
  cases eligible : ev.feed.eligible b with
  | true =>
    rw [if_pos rfl, if_neg fun here : ev.st.inQueue b = true => moves (here.trans eligible.symm)]; rfl
  | false =>
    rw [if_neg Bool.false_ne_true, if_pos (c := ev.st.inQueue b = true) (by
      rcases here : ev.st.inQueue b with _ | _
      · exact absurd (here.trans eligible.symm) moves
      · rfl)]
    rfl

/-! ## SET-ENABLE (R148) -/

section
variable {s : State} {r : Request} {q : List Request} {b : BayIx} {v : Byte} (running : s.heldInReset = false)
  (head : s.management = r :: q) (kind : r.kind = Kind.control) (payload : r.payload = [5, byteOf (b.val + 1), v])

theorem exec_setEnable (s : State) : exec .setEnable s = execSetEnable s := rfl

include running head kind payload in
theorem execSetEnable_runs : exec .setEnable s = .next (if 1 < v.toNat then (s.managing q).status r .badIndex
    else ((s.managing q).setEnable b (v.toNat == 1)).status r .ok).finish := by
  rw [exec_setEnable, execSetEnable]
  refine (State.takeBayControl_runs s b _ running head kind (by rw [payload]; rfl) (by rw [payload]; rfl)
    (by rw [payload]; simp) (by rw [payload]; simp)).trans ?_
  rw [show byteAt r.payload 2 = v.toNat by rw [payload]; rfl]

/-- The event with a bay's allot enable and the allocator's copy of it written. -/
def State.enabling (s : State) (q : List Request) (b : BayIx) (v : Bool) : Ev :=
  ((s.managing q).onState (·.modBay b (fun y => { y with allotEnable := v }))).modAlloc b (fun a => { a with enableCopy := v })

theorem Ev.setEnable_writes {v : Bool} (free : s.suspension.suspended = false) (differs : (s.bay b).allotEnable ≠ v) :
    (s.managing q).setEnable b v = (s.enabling q b v).syncQueue b := by
  unfold Ev.setEnable
  rw [if_neg (c := (s.managing q).st.suspension.suspended = true) (by
    rw [show (s.managing q).st.suspension.suspended = false from free]; simp)]
  exact if_neg differs

theorem State.enabling_bay {v : Bool} (c : BayIx) : (s.enabling q b v).st.bay c = if c = b then { s.bay c with
    allotEnable := v, alloc := { (s.bay c).alloc with enableCopy := v } } else s.bay c := by
  unfold State.enabling
  refine (State.bay_modBay _ b c _).trans ?_
  have first := State.bay_modBay ({ s with management := q } : State) b c (fun y => { y with allotEnable := v })
  by_cases same : c = b
  · rw [if_pos same] at first ⊢
    rw [if_pos same]
    exact congrArg (fun y : Bay => { y with alloc := { y.alloc with enableCopy := v } }) first
  · rw [if_neg same] at first ⊢
    rw [if_neg same]
    exact first

theorem State.enabling_feed {v : Bool} : (s.enabling q b v).feed
    = { s.feed with enable := fun c => if c = b then v else s.feed.enable c } := by
  have bay := fun c => State.enabling_bay (s := s) (q := q) (b := b) (v := v) c
  refine Feed.ext rfl (funext fun c => ?_) (funext fun c => ?_) (funext fun c => ?_) rfl rfl (funext fun c => ?_)
  · exact (congrArg (fun y : Bay => y.alloc.chargingCopy) (bay c)).trans (by split <;> rfl)
  · exact (congrArg (fun y : Bay => y.alloc.enableCopy) (bay c)).trans
      (apply_ite (fun y : Bay => y.alloc.enableCopy) ..)
  · exact (congrArg (fun y : Bay => y.alloc.suspectCopy) (bay c)).trans (by split <;> rfl)
  · exact (congrArg (fun y : Bay => y.postMax) (bay c)).trans (by split <;> rfl)

/-- What SET-ENABLE leaves where the bay joins or leaves the Charge Queue. -/
theorem Ev.setEnable_reallots {v : Bool} (ok : ∀ c, (s.bay c).checkOk = true)
    (moves : s.feed.queued b ≠ ({ s.feed with enable := fun c => if c = b then v else s.feed.enable c } : Feed).eligible b) :
    s.Reallotted r (({ s.feed with enable := fun c => if c = b then v else s.feed.enable c } : Feed).sync b)
        (((s.enabling q b v).syncQueue b).status r .ok).finish
      ∧ ∀ c, ((((s.enabling q b v).syncQueue b).status r .ok).finish.bay c).config = ((s.enabling q b v).st.bay c).config := by
  have books : ((s.enabling q b v).syncQueue b).books = (s.enabling q b v).books := Ev.syncQueue_books _ b
  have bay := fun c => State.enabling_bay (s := s) (q := q) (b := b) (v := v) c
  have voice : ((s.enabling q b v).syncQueue b).voice.uplink = s.uplink :=
    congrArg Voice.uplink (Ev.syncQueue_voice (s.enabling q b v) b)
  have desk : ((s.enabling q b v).syncQueue b).scan = false :=
    congrArg Desk.scan (Ev.syncQueue_desk (s.enabling q b v) b)
  have feed := Ev.syncQueue_feed (s.enabling q b v) b
  rw [State.enabling_feed] at feed
  have owed := Ev.syncQueue_owes (ev := s.enabling q b v) (b := b) (by rw [State.enabling_feed]; exact moves)
  obtain ⟨realloted, still⟩ := Ev.reallotted (s := s) (r := r) feed (fun c => by
      rw [books]
      exact (congrArg Bay.dyn (bay c)).trans (by split <;> rfl)) (by
      rw [books]
      intro c
      refine (congrArg Bay.checkOk (bay c)).trans ?_
      split <;> exact ok c) voice (by rw [books]; rfl) owed desk
  rw [books] at still
  exact ⟨realloted, State.config_of_still (congrArg Still.bays still)⟩

end

/-- Settles O55: while suspended the saved mask is all that is written; otherwise the bay is brought into line. -/
theorem setEnable : Obligations.SetEnable := by
  intro s r q b v running head kind payload
  have run := execSetEnable_runs running head kind payload
  refine ⟨fun above => ?_, fun within suspended => ?_, ?_, ?_⟩
  · rw [run, if_pos above, Ev.finish_status]
  · rw [run, if_neg (by omega)]
    have writes : (s.managing q).setEnable b (v.toNat == 1)
        = (s.managing q).onState (·.modBay b (fun y => { y with savedMask := v == 1 })) := by
      have same : (v.toNat == 1) = (v == 1) := by
        rw [Bool.eq_iff_iff, beq_iff_eq, beq_iff_eq]
        exact ⟨fun h => BitVec.eq_of_toNat_eq h, fun h => by rw [h]; rfl⟩
      unfold Ev.setEnable
      rw [same]
      exact if_pos (c := (s.managing q).st.suspension.suspended = true) suspended
    rw [writes]
    exact congrArg Host.Outcome.next (Ev.finish_status_onState _ _ r .ok)
  · intro on free copy off charging suspect out floor ok
    subst on
    rw [if_neg (by decide), show ((1 : Byte).toNat == 1) = true from rfl,
      Ev.setEnable_writes free (by rw [off]; simp)] at run
    have eligible : ({ s.feed with enable := fun c => if c = b then true else s.feed.enable c } : Feed).eligible b = true := by
      simp [Feed.eligible, State.feed, charging, suspect, copy, floor]
    obtain ⟨left, config⟩ := Ev.setEnable_reallots (r := r) (q := q) (v := true) ok (by
      rw [eligible, show s.feed.queued b = false from out]; simp)
    refine ⟨_, run, left.budget, left.dyns, ?_, fun c other => ?_, (left.queue b).2 ((if_pos rfl).trans eligible), left.answers⟩
    · rw [config b, State.enabling_bay, if_pos rfl]; rfl
    · rw [config c, State.enabling_bay, if_neg other]
  · intro off free on here ok
    subst off
    rw [if_neg (by decide), show ((0 : Byte).toNat == 1) = false from rfl,
      Ev.setEnable_writes free (by rw [on]; simp)] at run
    have ineligible : ({ s.feed with enable := fun c => if c = b then false else s.feed.enable c } : Feed).eligible b = false := by
      simp [Feed.eligible]
    obtain ⟨left, config⟩ := Ev.setEnable_reallots (r := r) (q := q) (v := false) ok (by
      rw [ineligible, show s.feed.queued b = true from here]; simp)
    have out : (({ s.feed with enable := fun c => if c = b then false else s.feed.enable c } : Feed).sync b).queued b = false :=
      (if_pos rfl).trans ineligible
    refine ⟨_, run, left.budget, left.dyns, ?_, fun queued => ?_, left.idle b out, left.answers⟩
    · have written := config b
      rw [State.enabling_bay, if_pos rfl] at written
      exact congrArg BayConfig.allotEnable written
    · rw [(left.queue b).1 queued] at out; cases out

end Sys2Proof.Machine
end

section
/-!
SUPPORT. RESTART (R151): the end of a suspension.
-/
namespace Sys2Proof.Machine

section
variable (ev : Ev)

theorem Ev.syncAll_books : ev.syncAll.books = ev.books := by
  unfold Ev.syncAll
  generalize allBays = l
  induction l generalizing ev with
  | nil => rfl
  | cons b l ih => rw [List.foldl_cons, ih, Ev.syncQueue_books]

theorem Ev.syncAll_voice : ev.syncAll.voice = ev.voice := by
  unfold Ev.syncAll
  generalize allBays = l
  induction l generalizing ev with
  | nil => rfl
  | cons b l ih => rw [List.foldl_cons, ih, Ev.syncQueue_voice]

theorem Ev.syncAll_desk : ev.syncAll.desk = ev.desk := by
  unfold Ev.syncAll
  generalize allBays = l
  induction l generalizing ev with
  | nil => rfl
  | cons b l ih => rw [List.foldl_cons, ih, Ev.syncQueue_desk]

end

section
variable {s : State} {r : Request} {q : List Request} (running : s.heldInReset = false) (head : s.management = r :: q)
  (kind : r.kind = Kind.control) (code : byteAt r.payload 0 = 6) (some : r.payload ≠ [])

theorem exec_restart (s : State) : exec .restart s = execRestart s := rfl

include running head kind code some in
theorem execRestart_runs : exec .restart s = .next (Ev.restart r (s.managing q)).finish := by
  rw [exec_restart, execRestart]
  exact s.takeControl_runs _ running head kind code some (List.length_pos_iff.2 some)

/-- The part with its suspension ended and every saved enable restored. -/
def State.resumed (s : State) (q : List Request) : State :=
  ({ s with management := q, bays := s.bays.map Bay.restore } : State).setSuspended false

theorem State.resumed_bay (b : BayIx) : (s.resumed q).bay b = (s.bay b).restore := Table.get_map s.bays Bay.restore b

theorem State.resumed_still : (s.resumed q).still = { s.still with
    management := q, suspension := ⟨false, s.suspension.emergency⟩, suspendedCopy := false,
    bays := s.bays.map (fun y => ⟨y.cls, y.postMax, y.savedMask, y.savedMask⟩) } := by
  have bays : (s.resumed q).bays.map Bay.config = s.bays.map (fun y => ⟨y.cls, y.postMax, y.savedMask, y.savedMask⟩) :=
    Table.map_map ..
  unfold State.still
  rw [bays]
  rfl

theorem Ev.endSuspension_eq : (s.managing q).endSuspension
    = ({ s.managing q with st := s.resumed q } : Ev).syncAll.wantRecompute := rfl

end

/-- Settles O37: the bays that the saved mask makes eligible stand in the Charge Queue, and the recompute follows. -/
theorem restart : Obligations.Restart := by
  intro s r q running head kind code some
  have run := execRestart_runs running head kind code some
  refine ⟨fun active => ?_, fun inactive suspended holds ok => ?_⟩
  · have refused : Ev.restart r (s.managing q) = (s.managing q).status r .emergencyActive :=
      if_pos (c := (s.managing q).st.suspension.emergency = true) active
    rw [run, refused, Ev.finish_status]
  · have ends : Ev.restart r (s.managing q) = (s.managing q).endSuspension.status r .ok := by
      unfold Ev.restart
      rw [if_neg (c := (s.managing q).st.suspension.emergency = true) (by
        rw [show (s.managing q).st.suspension.emergency = false from inactive]; simp)]
      exact if_pos suspended
    rw [ends, Ev.endSuspension_eq] at run
    have books := Ev.syncAll_books { s.managing q with st := s.resumed q }
    have voice := Ev.syncAll_voice { s.managing q with st := s.resumed q }
    have desk := Ev.syncAll_desk { s.managing q with st := s.resumed q }
    have feed := Ev.syncAll_feed { s.managing q with st := s.resumed q }
    generalize ({ s.managing q with st := s.resumed q } : Ev).syncAll = ev at run books voice desk feed
    obtain ⟨left, still⟩ := Ev.reallotted (s := s) (r := r) (ev := ev.wantRecompute) feed
      (fun b => (congrArg (fun k : Books => (k.bays b).dyn) books).trans (show ((s.resumed q).bay b).dyn = (s.bay b).dyn by rw [State.resumed_bay]; rfl))
      (fun b => (congrArg (fun k : Books => (k.bays b).ok) books).trans
        (show ((s.resumed q).bay b).checkOk = true by rw [State.resumed_bay]; exact ok b))
      (congrArg Voice.uplink voice) (congrArg (fun k : Books => k.still.controller) books) rfl (congrArg Desk.scan desk)
    refine ⟨_, run, ?_, fun b => (left.queue b).trans ?_, left.budget, left.dyns, left.answers⟩
    · rw [still]
      refine (congrArg Books.still books).trans ((State.resumed_still (s := s) (q := q)).trans ?_)
      rw [inactive]
    · have eligible : (s.resumed q).feed.eligible b = ((s.bay b).alloc.chargingCopy && (s.bay b).savedMask
          && !(s.bay b).alloc.suspectCopy && !false && decide (s.allocator.settings.minimum ≤ (s.bay b).postMax)) := by
        show (((s.resumed q).bay b).alloc.chargingCopy && ((s.resumed q).bay b).alloc.enableCopy
          && !((s.resumed q).bay b).alloc.suspectCopy && !false
          && decide (s.allocator.settings.minimum ≤ ((s.resumed q).bay b).postMax)) = _
        rw [State.resumed_bay]; rfl
      refine Iff.trans (by exact Eq.congr_left eligible) ?_
      simp [and_assoc]

end Sys2Proof.Machine
end

section
/-!
SUPPORT. An error goes by the recorder, the FIFO, the tag, the clock and the controller settings alone (R159 to R162); and
entry into suspension (R149, R150).
-/
namespace Sys2Proof.Machine

/-! ## What an error goes by -/

/-- What an error of a state goes by. -/
structure SameErrors (s u : State) : Prop where
  recorder : u.recorder = s.recorder
  fifo : u.uplink.fifo = s.uplink.fifo
  tag : u.noticeTag = s.noticeTag
  now : u.now = s.now
  site : u.siteOffset = s.siteOffset
  controller : u.controller = s.controller

theorem SameErrors.refl (s : State) : SameErrors s s := ⟨rfl, rfl, rfl, rfl, rfl, rfl⟩

theorem SameErrors.logError {s u : State} (h : SameErrors s u) (e : ErrorReport) : (u.logError e).recorder = (s.logError e).recorder
    ∧ (u.logError e).uplink.fifo = (s.logError e).uplink.fifo ∧ (u.logError e).noticeTag = (s.logError e).noticeTag := by
  obtain ⟨recorder, fifo, tag, now, site, controller⟩ := h
  have notifies : u.notifies e ↔ s.notifies e := by unfold State.notifies; rw [recorder, controller]
  have frame : u.faultNotice e = s.faultNotice e := by
    unfold State.faultNotice; rw [faultNoticePayload_eq, faultNoticePayload_eq, controller, tag, recorder, now, site]
  have keeps : (u.logError e).recorder = (s.logError e).recorder := by
    rw [State.logError_recorder, State.logError_recorder, State.recordError_recorder, State.recordError_recorder, recorder, now]
  refine ⟨keeps, ?_⟩
  by_cases told : s.notifies e
  · obtain ⟨tagS, fifoS⟩ := State.logError_told told
    obtain ⟨tagU, fifoU⟩ := State.logError_told (notifies.2 told)
    exact ⟨by rw [fifoU, fifoS, fifo, frame], by rw [tagU, tagS, tag]⟩
  · obtain ⟨tagS, uplinkS⟩ := State.logError_untold told
    obtain ⟨tagU, uplinkU⟩ := State.logError_untold (fun h => told (notifies.1 h))
    exact ⟨by rw [uplinkU, uplinkS, fifo], by rw [tagU, tagS, tag]⟩

/-- An error changes nothing of the uplink but the FIFO. -/
theorem State.logError_uplink (s : State) (e : ErrorReport) :
    (s.logError e).uplink = { s.uplink with fifo := (s.logError e).uplink.fifo } := by
  have place (u : State) (f : Frame) :
      (u.placeUplink f).uplink = { u.uplink with fifo := (u.placeUplink f).uplink.fifo } := by
    unfold State.placeUplink
    split
    · rfl
    · split
      · rfl
      · rw [State.recordError_uplink]
  unfold State.logError
  split
  · rw [place, State.recordError_uplink]
  · rw [State.recordError_uplink]

/-! ## The end of an event that has emptied the Charge Queue -/

theorem Ev.flushNotes_none {ev : Ev} (notes : ev.notes = []) : ev.flushNotes = ev := by
  unfold Ev.flushNotes
  rw [notes]
  obtain ⟨st, buffering, buffer, _, scan, recompute, captured⟩ := ev
  cases notes
  rfl

/-- The end of an event whose recompute finds every record in order and rotates no bay (R85, R93). -/
theorem Ev.finish_once {ev : Ev} (notes : ev.notes = []) (scan : ev.scan = false) (owed : ev.recompute = true)
    (compared : ev.compareQueue = ev) (chosen : ev.st.retarget.rotationChoice = none) :
    ev.finish = ev.st.retarget.settle := by
  have scanned : ev.runScan = ev := by
    rw [Ev.runScan_empty ev (.inl scan)]
    obtain ⟨st, buffering, buffer, _, _, recompute, captured⟩ := ev
    cases scan
    rfl
  have fuel (n : Nat) : Ev.recomputeFuel (n + 1) ev = ev.onState State.retarget := by
    rw [Ev.recomputeFuel, compared]
    rw [show (ev.onState State.retarget).st.rotationChoice = none from chosen]
  have ran : ev.runRecompute = { ev.onState State.retarget with recompute := false } := by
    have all := fuel 129
    unfold Ev.runRecompute
    rw [if_pos owed]
    generalize fueled : Ev.recomputeFuel 130 ev = turned
    have same : turned = ev.onState State.retarget := fueled.symm.trans all
    rw [same]
  unfold Ev.finish
  rw [Ev.flushNotes_none notes, scanned, ran]
  unfold Ev.onState
  generalize ev.st.retarget = u
  exact congrArg (fun x : Ev => x.st.settle) (Ev.flushNotes_none (ev := { ev with st := u, recompute := false }) notes)

/-- A recompute with an empty Charge Queue gives every bay the target 0 (R86, R90). -/
theorem Ev.finish_emptied {ev : Ev} (notes : ev.notes = []) (scan : ev.scan = false) (owed : ev.recompute = true)
    (empty : ev.st.allocator.queue = []) : ev.finish = ev.st.retarget.settle := by
  refine Ev.finish_once notes scan owed ?_ ?_
  · unfold Ev.compareQueue
    rw [empty]
    exact Ev.flushNotes_none notes
  · unfold State.rotationChoice
    rw [ev.st.retarget_allocator, empty]; rfl

end Sys2Proof.Machine
end

section
/-!
SUPPORT. Entry into suspension (R149, R150), by the EMERGENCY input and by a claimed frame.
-/
namespace Sys2Proof.Machine

/-! ## Bays brought into line leave the delivery records -/

/-- What the scheduler keeps. -/
def State.deliveries (s : State) : (BayIx → Delivery) × Scheduler := (fun b => (s.bay b).delivery, s.scheduler)

theorem State.modBay_deliveries (s : State) (b : BayIx) {f : Bay → Bay} (kept : ∀ y, (f y).delivery = y.delivery) :
    (s.modBay b f).deliveries = s.deliveries := by
  refine Prod.ext (funext fun c => ?_) rfl
  show ((s.modBay b f).bay c).delivery = (s.bay c).delivery
  rw [State.bay_modBay]; split
  · exact kept _
  · rfl

theorem Talks.deliveries {s t : State} (h : Talks s t) : t.deliveries = s.deliveries := by
  unfold Talks at h; rw [h]; rfl

theorem Ev.leave_deliveries (ev : Ev) (b : BayIx) : (ev.leave b).st.deliveries = ev.st.deliveries := by
  unfold Ev.leave; dsimp only
  refine (State.modBay_deliveries _ b ?_).trans ((State.modBay_deliveries (ev.st.setQueue _) b ?_).trans rfl)
  · exact fun _ => rfl
  · exact fun _ => rfl

theorem Ev.syncQueue_deliveries (ev : Ev) (b : BayIx) : (ev.syncQueue b).st.deliveries = ev.st.deliveries := by
  unfold Ev.syncQueue
  split
  · split
    · rfl
    · exact State.modBay_deliveries _ b (fun _ => rfl)
  · split
    · exact ev.leave_deliveries b
    · rfl

theorem Ev.syncAll_deliveries (ev : Ev) : ev.syncAll.st.deliveries = ev.st.deliveries := by
  unfold Ev.syncAll
  generalize allBays = l
  induction l generalizing ev with
  | nil => rfl
  | cons b l ih => rw [List.foldl_cons, ih, Ev.syncQueue_deliveries]

/-- A recompute leaves the recorder, the FIFO and the notice tag. -/
theorem State.retarget_voice (s : State) : s.retarget.recorder = s.recorder ∧ s.retarget.uplink = s.uplink
    ∧ s.retarget.noticeTag = s.noticeTag := by
  have one (s : State) (b : BayIx) (v : Bool) : (s.markAdmitted b v).recorder = s.recorder
      ∧ (s.markAdmitted b v).uplink = s.uplink ∧ (s.markAdmitted b v).noticeTag = s.noticeTag := by
    unfold State.markAdmitted State.setRotation; dsimp only
    repeat' split
    all_goals exact ⟨rfl, rfl, rfl⟩
  have all (ts : List (BayIx × Nat)) (l : List BayIx) (s : State) :
      let t := l.foldl (fun s b => s.markAdmitted b (ts.any (fun e => e.1 == b))) s
      t.recorder = s.recorder ∧ t.uplink = s.uplink ∧ t.noticeTag = s.noticeTag := by
    induction l generalizing s with
    | nil => exact ⟨rfl, rfl, rfl⟩
    | cons b l ih =>
      obtain ⟨recorder, uplink, tag⟩ := ih (s.markAdmitted b (ts.any (fun e => e.1 == b)))
      obtain ⟨recorder', uplink', tag'⟩ := one s b (ts.any (fun e => e.1 == b))
      exact ⟨recorder.trans recorder', uplink.trans uplink', tag.trans tag'⟩
  have readmitted := all s.targets allBays s
  rw [State.retarget_eq]
  unfold State.readmit
  generalize allBays.foldl (fun t b => t.markAdmitted b (s.targets.any (fun e => e.1 == b))) s = u at readmitted
  generalize s.targets = ts
  exact readmitted

theorem State.retarget_delivery (s : State) (b : BayIx) :
    (s.retarget.bay b).delivery = (s.bay b).delivery.handTarget (targetIn s.targets b.val) := by
  rw [State.retarget_bay]
  dsimp only
  generalize targetIn s.targets b.val = n
  generalize s.targets.any (fun e => e.1 == b) = v
  rw [((s.bay b).admission_keeps s.now (s.rotates b) s.rotationValue v).1]

theorem State.deliverDue_delivery (s : State) (b : BayIx) : (s.deliverDue.bay b).delivery = (s.bay b).delivery := by
  rw [State.deliverDue_bay]; rfl

/-! ## Entry into suspension -/

/-- The part with its suspension entered and its Charge Queue as it was. -/
def State.suspending (s : State) : State := ({ s with bays := s.bays.map Bay.suspend } : State).setSuspended true

theorem State.suspending_still (s : State) : s.suspending.still = { s.still with
    suspension := ⟨true, s.suspension.emergency⟩, suspendedCopy := true,
    bays := s.bays.map (fun y => ⟨y.cls, y.postMax, false, y.allotEnable⟩) } := by
  have bays : s.suspending.bays.map Bay.config = s.bays.map (fun y => ⟨y.cls, y.postMax, false, y.allotEnable⟩) :=
    Table.map_map ..
  unfold State.still
  rw [bays]
  rfl

theorem State.suspending_books (s : State) : s.suspending.books = { s.books with still := s.suspending.still } := by
  have bay (b : BayIx) : (s.suspending.bay b).book = (s.bay b).book := by
    show ((s.bays.map Bay.suspend).get b).book = (s.bays.get b).book
    rw [Table.get_map]; rfl
  unfold State.books
  rw [funext bay]
  rfl

/-- What entry into suspension hands over, and what it leaves (R149, R132). -/
structure State.Suspends (s t : State) (e : ErrorReport) : Prop where
  still : t.still = s.suspending.still
  queue : t.allocator.queue = []
  idle : ∀ b, (t.bay b).alloc.target = 0
  dyns : t.dyns = s.dyns
  index : t.index = s.index
  recorder : t.recorder = (s.logError e).recorder
  fifo : t.uplink.fifo = (s.logError e).uplink.fifo

/-- The delivery records and the scheduler of a part that has given every bay the target 0. -/
def State.HandedOver (s u : State) : Prop :=
  (∀ b, let d := (s.bay b).delivery
    (u.bay b).delivery = { d with
      target := 0,
      state := if d.state ≠ .settled ∧ d.state ≠ .pending then d.state
        else if d.inForce = some 0 ∧ d.repeatMark = false then .settled else .pending })
  ∧ u.scheduler = { s.scheduler with budget := budgetOf s.allocator.settings }

theorem Ev.enterSuspension_finish (s : State) (header : Option Header) :
    ∃ u : State, ((Ev.start s).enterSuspension header).finish = u.arbitrate ∧ s.HandedOver u
      ∧ s.Suspends u.arbitrate { kind := .emergencyEntered, header := header } := by
  have entered : (Ev.start s).enterSuspension header
      = (({ Ev.start s with st := s.suspending } : Ev).syncAll.wantRecompute).logEmergency header := rfl
  have books := Ev.syncAll_books { Ev.start s with st := s.suspending }
  have voice := Ev.syncAll_voice { Ev.start s with st := s.suspending }
  have desk := Ev.syncAll_desk { Ev.start s with st := s.suspending }
  have deliveries := Ev.syncAll_deliveries { Ev.start s with st := s.suspending }
  have feed := Ev.syncAll_feed { Ev.start s with st := s.suspending }
  have empty := Ev.syncAll_suspended { Ev.start s with st := s.suspending } rfl
  rw [entered]
  generalize ({ Ev.start s with st := s.suspending } : Ev).syncAll = w at books voice desk deliveries feed empty
  have quiet : w.buffering = false := congrArg Voice.buffering voice
  have logged : (w.wantRecompute.logEmergency header).st = w.st.logError { kind := .emergencyEntered, header := header } :=
    Ev.log_st w.wantRecompute _ quiet
  have talks := w.st.logError_talks { kind := .emergencyEntered, header := header }
  have notes : (w.wantRecompute.logEmergency header).notes = [] :=
    (congrArg Desk.notes (w.wantRecompute.log_desk { kind := .emergencyEntered, header := header })).trans
      (congrArg Desk.notes desk)
  have scan : (w.wantRecompute.logEmergency header).scan = false :=
    (congrArg Desk.scan (w.wantRecompute.log_desk { kind := .emergencyEntered, header := header })).trans
      (congrArg Desk.scan desk)
  have owed : (w.wantRecompute.logEmergency header).recompute = true :=
    congrArg Calm.recompute (w.wantRecompute.log_calm { kind := .emergencyEntered, header := header })
  have same : SameErrors s w.st := ⟨congrArg Voice.recorder voice, congrArg (fun v : Voice => v.uplink.fifo) voice,
    congrArg Voice.tag voice, congrArg (fun k : Books => k.still.now) books,
    congrArg (fun k : Books => k.still.siteOffset) books, congrArg (fun k : Books => k.still.controller) books⟩
  obtain ⟨recorder, fifo, _⟩ := same.logError { kind := .emergencyEntered, header := header }
  have books' : (w.st.logError { kind := .emergencyEntered, header := header }).books = s.suspending.books := by
    rw [← logged]
    exact (Ev.log_books w.wantRecompute _).trans books
  have deliveries' := talks.deliveries.trans deliveries
  have empty' : (w.st.logError { kind := .emergencyEntered, header := header }).allocator.queue = [] := by
    unfold Talks at talks
    rw [talks]; exact empty
  have finish := Ev.finish_emptied notes scan owed (by rw [logged]; exact empty')
  rw [logged] at finish
  generalize w.st.logError { kind := .emergencyEntered, header := header } = v at *
  have none : v.targets = [] := State.targets_of_empty empty'
  obtain ⟨recorder', uplink', _⟩ := v.retarget_voice
  have shows_ := v.retarget.settle_shows
  rw [v.retarget_books, books', s.suspending_books] at shows_
  have zero (b : BayIx) : targetIn v.targets b.val = 0 := by rw [none]; rfl
  refine ⟨v.retarget.deliverDue, finish, ⟨fun b => ?_, ?_⟩, shows_.still, ?_, fun b => ?_, shows_.dyns fun _ => rfl,
    shows_.index, ?_, ?_⟩
  · have before : (v.bay b).delivery = (s.bay b).delivery :=
      (congrFun (congrArg Prod.fst deliveries') b).trans (by
        show ((s.bays.map Bay.suspend).get b).delivery = _
        rw [Table.get_map]; rfl)
    have handed := v.retarget_delivery b
    rw [zero, before, Delivery.handTarget_eq] at handed
    exact (v.retarget.deliverDue_delivery b).trans handed
  · show v.retarget.scheduler = _
    rw [State.retarget_scheduler, show v.scheduler = s.scheduler from congrArg Prod.snd deliveries',
      show v.allocator.settings = s.allocator.settings from congrArg (fun k : Books => k.still.settings) books']
  · rw [State.settle_allocator, State.retarget_allocator]; exact empty'
  · rw [State.settle_alloc, State.retarget_target, zero]
  · rw [State.settle_recorder, recorder', recorder]
  · rw [State.settle_uplink, uplink', fifo]

end Sys2Proof.Machine
end

section
/-!
SUPPORT. EMERGENCY demands by the input and by a claimed frame (R127, R149, R150).
-/
namespace Sys2Proof.Machine

theorem exec_emergencyActive (s : State) : exec .emergencyActive s = execEmergencyActive s := rfl

theorem Ev.emergencyDemand_suspended {ev : Ev} {header : Option Header} (suspended : ev.st.suspension.suspended = true) :
    ev.emergencyDemand header = ev.log { kind := .emergencyEntered, header := header } := if_pos suspended

theorem Ev.emergencyDemand_enters {ev : Ev} {header : Option Header} (free : ev.st.suspension.suspended = false) :
    ev.emergencyDemand header = ev.enterSuspension header := by
  unfold Ev.emergencyDemand; rw [free]; exact if_neg Bool.false_ne_true

theorem execEmergencyActive_runs {s : State} (running : s.heldInReset = false) (inactive : s.suspension.emergency = false) :
    exec .emergencyActive s
      = .next ((Ev.start { s with suspension := ⟨s.suspension.suspended, true⟩ }).emergencyDemand none).finish := by
  rw [exec_emergencyActive, execEmergencyActive, s.event_runs _ running (by rw [inactive]; rfl)]
  rfl

/-- A claimed EMERGENCY frame (R127). -/
theorem Ev.claim_emergency {ev : Ev} {f : Frame} (kind : f.kind = Kind.emergency) : ev.claim f
    = if (ev.st.node f.src).permissions.emergency then ev.emergencyDemand (some f.header)
      else ev.log { kind := .notPermitted, header := some f.header } := by
  unfold Ev.claim
  rw [if_neg (by rw [kind]; decide), if_neg (by rw [kind]; decide), if_pos kind]
  rfl

/-- Settles O36: entry into suspension empties the Charge Queue before the recompute, so that every target is 0. -/
theorem emergencyDemand : Obligations.EmergencyDemand := by
  refine ⟨fun s running inactive => ⟨fun free => ?_, fun suspended => ?_⟩,
    fun s f running rx short server kind claimed => ⟨fun permitted free => ?_, fun permitted suspended => ?_, fun barred => ?_⟩⟩
  · have run := execEmergencyActive_runs running inactive
    rw [Ev.emergencyDemand_enters free] at run
    obtain ⟨u, finish, handed, left⟩ :=
      Ev.enterSuspension_finish { s with suspension := ⟨s.suspension.suspended, true⟩ } none
    have same : SameErrors s { s with suspension := ⟨s.suspension.suspended, true⟩ } := ⟨rfl, rfl, rfl, rfl, rfl, rfl⟩
    obtain ⟨recorder, fifo, _⟩ := same.logError { kind := .emergencyEntered }
    refine ⟨u, run.trans (congrArg Host.Outcome.next finish), handed, left.still.trans ?_, left.queue, left.idle, left.dyns,
      left.index, left.recorder.trans recorder, ?_⟩
    · rw [State.suspending_still]; rfl
    · have sending := congrArg Still.uplinkSending left.still
      have rx := congrArg Still.uplinkRx left.still
      rw [State.logError_uplink, ← fifo, ← left.fifo]
      have sending : u.arbitrate.uplink.sending = s.uplink.sending := sending
      have rx : u.arbitrate.uplink.rx = s.uplink.rx := rx
      show (⟨u.arbitrate.uplink.fifo, u.arbitrate.uplink.sending, u.arbitrate.uplink.rx⟩ : UplinkPort)
        = ⟨u.arbitrate.uplink.fifo, s.uplink.sending, s.uplink.rx⟩
      rw [sending, rx]
  · have run := execEmergencyActive_runs running inactive
    rw [Ev.emergencyDemand_suspended suspended, Ev.finish_log, suspended] at run
    exact run
  · have run := frameReception_claimed running rx short (.inr server) claimed
    rw [Ev.claim_emergency kind, if_pos (by exact permitted), Ev.emergencyDemand_enters (by exact free)] at run
    obtain ⟨u, finish, handed, left⟩ := Ev.enterSuspension_finish (s.setRx .uplink ⟨.idle, []⟩) (some f.header)
    have same : SameErrors s (s.setRx .uplink ⟨.idle, []⟩) := ⟨rfl, rfl, rfl, rfl, rfl, rfl⟩
    obtain ⟨recorder, fifo, _⟩ := same.logError { kind := .emergencyEntered, header := some f.header }
    have still := left.still.trans (State.suspending_still _)
    refine ⟨u, run.trans (congrArg Host.Outcome.next finish), handed, congrArg Still.suspension still, left.queue, fun b => ?_,
      left.dyns, left.recorder.trans recorder, left.fifo.trans fifo⟩
    have config := congrArg (fun k : Still => k.bays.get b) still
    have written : (u.arbitrate.bay b).config = ⟨(s.bay b).cls, (s.bay b).postMax, false, (s.bay b).allotEnable⟩ := by
      simp only [State.still, Table.get_map] at config
      exact config
    exact ⟨left.idle b, congrArg BayConfig.allotEnable written, congrArg BayConfig.savedMask written⟩
  · have run := frameReception_claimed running rx short (.inr server) claimed
    rw [Ev.claim_emergency kind, if_pos (by exact permitted), Ev.emergencyDemand_suspended (by exact suspended), Ev.finish_log] at run
    exact run
  · have run := frameReception_claimed running rx short (.inr server) claimed
    rw [Ev.claim_emergency kind, if_neg (by exact fun h => Bool.false_ne_true (barred.symm.trans h)), Ev.finish_log] at run
    exact run

end Sys2Proof.Machine
end

section
/-!
SUPPORT. The rotation expiry (R66, R93): a check with no bay paused, and the rotation of one candidate behind one paused
bay.
-/
namespace Sys2Proof.Machine

/-- Admission seen at one bay after a recompute (R86, R92). -/
theorem State.retarget_admission (s : State) (b : BayIx) :
    (s.retarget.bay b).alloc.admittedSince
        = (if b ∈ s.admittedBays then some ((s.bay b).alloc.admittedSince.getD s.now) else none)
      ∧ (s.retarget.bay b).timer
        = ((s.bay b).admission s.now (s.rotates b) s.rotationValue (decide (b ∈ s.admittedBays))).timer := by
  rw [s.retarget_bay, s.admitted_iff]
  dsimp only
  generalize targetIn s.targets b.val = n
  rw [(BayAlloc.retarget_keeps _ n).1, ((s.bay b).admission_keeps ..).2.2.1]
  exact ⟨by simp only [decide_eq_true_eq], rfl⟩

theorem exec_rotationExpiry_bay (s : State) (b : BayIx) :
    exec (.rotationExpiry (byteOf (b.val + 1))) s = s.takeExpiry (.rotation b) (·.rotationExpiry b) := by
  rw [exec_rotationExpiry]
  unfold execRotationExpiry
  rw [bayOfNo_byteOf]

theorem State.rotationChoice_unpaused {s : State} (admitted : ∀ e ∈ s.allocator.queue, (s.bay e.bay).alloc.admittedSince ≠ none) :
    s.rotationChoice = none := by
  have none : s.allocator.queue.find? (fun e => (s.bay e.bay).alloc.admittedSince.isNone) = none :=
    List.find?_eq_none.2 fun e here => by simpa [Option.isNone_iff_eq_none] using admitted e here
  unfold State.rotationChoice; rw [none]

/-- The end of an event delivers no rotation deadline that is withdrawn (R66). -/
theorem State.settle_rotation {s : State} {b : BayIx} (clear : (s.bay b).timer.rotation = .clear) :
    (s.settle.bay b).timer.rotation = .clear := by
  rw [State.settle_timer]
  exact (congrArg (Rotation.fallDue s.now) clear)

/-- The bay records after a rotation (R93 step 5). -/
theorem State.rotate_bay (s : State) (e : ChargeEntry) (c : BayIx) : (s.rotate e).bay c = if c = e.bay then
    { s.bay c with
      alloc := { (s.bay c).alloc with admittedSince := none }
      timer := { (s.bay c).timer with rotation := .clear } } else s.bay c := by
  unfold State.rotate
  have first := (s.setQueue (insertEntry { e with stamp := s.now } (s.allocator.queue.filter (·.bay != e.bay)))).bay_modBay
    e.bay c (fun y => { y with alloc := { y.alloc with admittedSince := none } })
  refine (State.bay_modBay _ e.bay c _).trans ?_
  by_cases same : c = e.bay
  · rw [if_pos same] at first ⊢
    rw [if_pos same]
    exact congrArg (fun y : Bay => { y with timer := { y.timer with rotation := .clear } }) first
  · rw [if_neg same] at first ⊢
    rw [if_neg same]
    exact first

theorem atOrAfter_ahead (now : Time) {n : Nat} (some : 0 < n) (near : n ≤ 2147483648) : atOrAfter now (now + BitVec.ofNat 32 n) = false := by
  unfold atOrAfter
  rw [decide_eq_false_iff_not]
  have apart : (now - (now + BitVec.ofNat 32 n)).toNat = 4294967296 - n := by
    simp only [BitVec.toNat_sub, BitVec.toNat_add, BitVec.toNat_ofNat]
    have := now.isLt
    omega
  omega

section
variable {s : State} {b c : BayIx} {p : Fin 4} {u v w : Time}

/-- The candidate of a rotation check with one bay paused and one admitted (R93 steps 1 to 4). -/
theorem State.rotationChoice_one (queue : s.allocator.queue = [⟨b, p, u⟩, ⟨c, p, v⟩]) (due : (s.bay b).timer.rotation = .due w)
    (admitted : (s.bay b).alloc.admittedSince ≠ none) (paused : (s.bay c).alloc.admittedSince = none) :
    s.rotationChoice = some ⟨b, p, u⟩ := by
  obtain ⟨since, admitted⟩ := Option.ne_none_iff_exists'.1 admitted
  unfold State.rotationChoice
  rw [queue]
  simp [admitted, paused, Bay.rotationDue, due, State.earliest]

/-- The part with the candidate moved behind the paused bay. -/
theorem State.rotate_queue (queue : s.allocator.queue = [⟨b, p, u⟩, ⟨c, p, v⟩]) (other : b ≠ c)
    (past : laterThan v s.now = false) : (s.rotate ⟨b, p, u⟩).allocator.queue = [⟨c, p, v⟩, ⟨b, p, s.now⟩] := by
  show insertEntry _ (s.allocator.queue.filter (·.bay != b)) = _
  rw [queue]
  have apart : (c != b) = true := bne_iff_ne.2 other.symm
  simp [apart, insertEntry, ChargeEntry.ahead, past]

end

section
variable {s : State} {b c : BayIx} {p : Fin 4} {v : Time} (queue : s.allocator.queue = [⟨c, p, v⟩, ⟨b, p, s.now⟩])
  (one : budgetOf s.allocator.settings / s.allocator.settings.minimum = 1)
include queue one

theorem State.admittedBays_first : s.admittedBays = [c] := by
  unfold State.admittedBays
  rw [one, queue]; rfl

theorem State.target_first (other : b ≠ c) : s.allocator.settings.minimum ≤ (s.retarget.bay c).alloc.target := by
  have served := s.shares_bays.mem_iff.2 (by rw [State.admittedBays_first queue one]; exact List.mem_singleton_self c)
  obtain ⟨x, here, rfl⟩ := List.mem_map.1 served
  rw [State.retarget_target, State.targetIn_share (by rw [queue]; simpa using other.symm) here]
  exact Nat.le_add_right _ _

/-- The alloc record and the rotation deadline of the two bays after the recompute (R86, R92). -/
theorem State.retarget_first (other : b ≠ c) (paused : (s.bay c).alloc.admittedSince = none)
    (least : 5 ≤ s.allocator.settings.rotation) (most : s.allocator.settings.rotation ≤ 60) :
    (s.retarget.bay c).alloc.admittedSince = some s.now ∧ (s.retarget.bay c).rotationDue = false
    ∧ (s.retarget.bay b).alloc.admittedSince = none ∧ (s.retarget.bay b).timer.rotation = .clear
    ∧ (s.retarget.bay b).alloc.target = 0 := by
  have value : atOrAfter s.now s.rotationValue = false := atOrAfter_ahead s.now (by omega) (by omega)
  obtain ⟨since, timer⟩ := s.retarget_admission c
  obtain ⟨since', timer'⟩ := s.retarget_admission b
  have idle := State.targetIn_unadmitted (s := s) (b := b) (by
    rw [State.admittedBays_first queue one]; simpa using other)
  rw [State.admittedBays_first queue one] at since timer since' timer'
  rw [if_pos (List.mem_singleton_self c), paused] at since
  rw [if_neg (by simpa using other)] at since'
  rw [decide_eq_true (List.mem_singleton_self c)] at timer
  rw [decide_eq_false (by simpa using other)] at timer'
  refine ⟨since, ?_, since', by rw [timer']; rfl, (s.retarget_target b).trans idle⟩
  unfold Bay.rotationDue
  rw [timer]
  unfold Bay.admission
  rw [paused, value]
  cases s.rotates c <;> rfl

end

/-- Settles O34: with no bay paused there is no choice; with one, the candidate is moved behind it and the recompute admits
the paused bay in its place. -/
theorem rotationExpiry : Obligations.RotationExpiry := by
  intro s b running delivered
  rw [exec_rotationExpiry_bay]
  refine ⟨fun admitted => ?_, fun c p u v w queue other due admitted paused past ok least most one => ?_⟩
  · refine State.takeExpiry_discarded running delivered ?_
    have none : (s.expiring (.rotation b)).st.rotationChoice = none := State.rotationChoice_unpaused admitted
    unfold Ev.rotationExpiry
    rw [none]
    exact ite_self _
  · rw [State.takeExpiry_runs _ running delivered]
    have rotates : (s.expiring (.rotation b)).rotationExpiry b
        = ((s.expiring (.rotation b)).onState (·.rotate ⟨b, p, u⟩)).wantRecompute := by
      have chosen : (s.expiring (.rotation b)).st.rotationChoice = some ⟨b, p, u⟩ :=
        State.rotationChoice_one queue due admitted paused
      unfold Ev.rotationExpiry
      rw [chosen]
      exact if_pos (by rw [show (s.expiring (.rotation b)).bay b = s.bay b from rfl, Bay.rotationDue, due])
    rw [rotates]
    generalize moved : (s.dropExpiry (.rotation b)).rotate ⟨b, p, u⟩ = x
    have ended : ((s.expiring (.rotation b)).onState (·.rotate ⟨b, p, u⟩)).wantRecompute
        = { Ev.start s with st := x, recompute := true } := by rw [← moved]; rfl
    have queue' : x.allocator.queue = [⟨c, p, v⟩, ⟨b, p, x.now⟩] := by
      rw [← moved]
      exact State.rotate_queue (s := s.dropExpiry (.rotation b)) queue other past
    have books : x.books = s.books := by
      rw [← moved, State.rotate_books]; rfl
    have bay := State.rotate_bay (s.dropExpiry (.rotation b)) ⟨b, p, u⟩ c
    rw [moved, if_neg other.symm] at bay
    have settings : x.allocator.settings = s.allocator.settings := by rw [← moved]; rfl
    have now : x.now = s.now := by rw [← moved]; rfl
    obtain ⟨since, undue, since', clear, zero⟩ := State.retarget_first queue' (by rw [settings]; exact one) other
      (by rw [bay]; exact paused) (by rw [settings]; exact least) (by rw [settings]; exact most)
    have floor := State.target_first queue' (by rw [settings]; exact one) other
    have compared : ({ Ev.start s with st := x, recompute := true } : Ev).compareQueue
        = { Ev.start s with st := x, recompute := true } := by
      rw [Ev.compareQueue_ok _ (by show x.books.Ok; rw [books]; exact ok)]
      exact Ev.flushNotes_none rfl
    have chosen : x.retarget.rotationChoice = none := by
      unfold State.rotationChoice
      rw [State.retarget_allocator, queue']
      simp [since, since', undue, State.earliest]
    have finish := Ev.finish_once (ev := { Ev.start s with st := x, recompute := true }) rfl rfl rfl compared chosen
    rw [ended, finish]
    have shows_ := x.retarget.settle_shows
    rw [x.retarget_books, books] at shows_
    have line : x.retarget.allocator.queue = [⟨c, p, v⟩, ⟨b, p, s.now⟩] := by rw [State.retarget_allocator, queue', now]
    rw [now] at since
    rw [settings] at floor
    clear finish compared chosen undue
    generalize x.retarget = r at *
    have rotation := State.settle_rotation clear
    refine ⟨_, rfl, shows_.still, ?_, ?_, ?_, rotation, ?_, ?_, shows_.dyns fun _ => rfl⟩
    · rw [State.settle_allocator]; exact line
    · rw [State.settle_alloc]; exact zero
    · rw [State.settle_alloc]; exact since'
    · rw [State.settle_alloc]; exact since
    · rw [State.settle_alloc]; exact floor

end Sys2Proof.Machine
end

section
/-!
SUPPORT. SET-TABLE refused for its form (R173, R180), and the management requests that name nothing or no bay (R148, R153 to
R157, R169, R173, R178).
-/
namespace Sys2Proof.Machine

/-! ## The commands of the tables -/

theorem exec_nodeMap (s : State) : exec .nodeMap s = execNodeMap s := rfl
theorem exec_kindFilter (s : State) : exec .kindFilter s = execKindFilter s := rfl
theorem exec_classTable (s : State) : exec .classTable s = execClassTable s := rfl
theorem exec_bayConfiguration (s : State) : exec .bayConfiguration s = execBayConfiguration s := rfl
theorem exec_allocatorSettings (s : State) : exec .allocatorSettings s = execAllocatorSettings s := rfl
theorem exec_timingSettings (s : State) : exec .timingSettings s = execTimingSettings s := rfl
theorem exec_faultSettings (s : State) : exec .faultSettings s = execFaultSettings s := rfl
theorem exec_controllerSettings (s : State) : exec .controllerSettings s = execControllerSettings s := rfl
theorem exec_setTable (s : State) : exec .setTable s = execSetTable s := rfl
theorem exec_control (s : State) : exec .control s = execControl s := rfl
theorem exec_scrub (s : State) : exec .scrub s = execScrub s := rfl

/-! ## A frame whose form is refused -/

/-- The checks of R173 on the frame of a SET-TABLE, less those of its entries. -/
theorem tableEntries_badIndex {p : List Byte} {size first last : Nat}
    (bad : p.length - 2 = 0 ∨ (p.length - 2) % size ≠ 0 ∨ byteAt p 1 < first ∨ last < byteAt p 1
      ∨ last < byteAt p 1 + (p.length - 2) / size - 1) : tableEntries p size first last = .error .badIndex := by
  have length : (p.drop 2).length = p.length - 2 := List.length_drop
  simp only [tableEntries, length]
  by_cases empty : p.length < 2 ∨ p.drop 2 = [] ∨ (p.length - 2) % size ≠ 0
  · rw [if_pos empty]
  · rw [if_neg empty, if_pos]
    have filled : p.length - 2 ≠ 0 := fun none => empty (.inr (.inl (List.drop_eq_nil_of_le (by omega))))
    omega

/-- The MGMT-ANSWER of a status alone, the head of the management queue taken and nothing else changed. -/
def State.refusedManagement (s : State) (r : Request) (q : List Request) (st : Status) : Result :=
  .next ({ s with management := q }.sendStatus r st []).deliverDue.arbitrate

section
variable {s : State} {r : Request} {q : List Request} (running : s.heldInReset = false) (head : s.management = r :: q)
include running head

theorem State.takeManagement_refused {mine : Request → Bool} {body : Request → Ev → Ev} {st : Status}
    (takes : mine r = true) (refuses : ∀ ev, body r ev = ev.status r st) :
    s.takeManagement mine body = s.refusedManagement r q st := by
  rw [s.takeManagement_runs mine body running head takes, refuses, Ev.finish_status]; rfl

theorem State.writeTable_refused {id size first last : Nat} {write : EntryWrite} (kind : r.kind = Kind.setTable)
    (some_ : r.payload ≠ []) (names : byteAt r.payload 0 = id)
    (refuses : tableEntries r.payload size first last = .error .badIndex) :
    s.takeManagement (namesTable id) (Ev.writeTable size first last write) = s.refusedManagement r q .badIndex :=
  s.takeManagement_refused running head (by simp [namesTable, kind, some_, names])
    (fun ev => by simp only [Ev.writeTable, refuses])

theorem State.takeBayControl_badIndex {code length : Nat} {body : BayIx → Request → Ev → Ev}
    (kind : r.kind = Kind.control) (some_ : r.payload ≠ []) (names : byteAt r.payload 0 = code)
    (outside : byteAt r.payload 1 = 0 ∨ 128 < byteAt r.payload 1) :
    s.takeBayControl code length body = s.refusedManagement r q .badIndex := by
  have noBay : bayOfNo (byteAt r.payload 1) = none := dif_neg (by omega)
  unfold State.takeBayControl State.takeControl
  exact s.takeManagement_refused running head (by simp [namesOperation, kind, some_, names])
    (fun ev => by simp only [noBay, ite_self])

end

/-- Settles O46: a frame that names no table or operation, and one whose form or whose bay is refused, answers its status
and ends the event. -/
theorem managementRefusals : Obligations.ManagementRefusals := by
  unfold Obligations.ManagementRefusals
  refine ⟨fun s r q running head => ⟨fun kind nothing => ?_, fun kind nothing => ?_⟩, ?_, ?_⟩
  · rw [exec_setTable]
    exact s.takeManagement_refused running head (by simpa [namesNoTable, kind, or_assoc] using nothing) (fun _ => rfl)
  · rw [exec_control]
    exact s.takeManagement_refused running head (by simpa [namesNoOperation, kind, or_assoc] using nothing) (fun _ => rfl)
  · intro s r q c id size first last running head kind row some_ names start bytes bad
    have refuses : tableEntries r.payload size first last = .error .badIndex := tableEntries_badIndex bad
    have refused := fun write => s.writeTable_refused (write := write) running head kind some_ names refuses
    simp only [List.mem_cons, Prod.mk.injEq, List.not_mem_nil, or_false] at row
    rcases row with ⟨rfl, rfl, rfl, rfl, rfl⟩ | ⟨rfl, rfl, rfl, rfl, rfl⟩ | ⟨rfl, rfl, rfl, rfl, rfl⟩
      | ⟨rfl, rfl, rfl, rfl, rfl⟩ | ⟨rfl, rfl, rfl, rfl, rfl⟩ | ⟨rfl, rfl, rfl, rfl, rfl⟩ | ⟨rfl, rfl, rfl, rfl, rfl⟩
      | ⟨rfl, rfl, rfl, rfl, rfl⟩
    · exact (exec_nodeMap s).trans (refused _)
    · exact (exec_kindFilter s).trans (refused _)
    · exact (exec_classTable s).trans (refused _)
    · exact (exec_bayConfiguration s).trans (refused _)
    · exact (exec_allocatorSettings s).trans (refused _)
    · exact (exec_timingSettings s).trans (refused _)
    · exact s.takeManagement_refused running head (by simp [namesTable, kind, some_, names])
        (fun ev => by simp only [Ev.writeFaults, refuses])
    · exact (exec_controllerSettings s).trans (refused _)
  · intro s r q c code running head kind some_ names row outside
    have refused := fun length body =>
      s.takeBayControl_badIndex (length := length) (body := body) running head kind some_ names outside
    simp only [List.mem_cons, Prod.mk.injEq, List.not_mem_nil, or_false] at row
    rcases row with ⟨rfl, rfl⟩ | ⟨rfl, rfl⟩ | ⟨rfl, rfl⟩ | ⟨rfl, rfl⟩ | ⟨rfl, rfl⟩ | ⟨rfl, rfl⟩
    · exact (exec_openBay s).trans (refused _ _)
    · exact (exec_closeNow s).trans (refused _ _)
    · exact (exec_closeAtEnd s).trans (refused _ _)
    · exact (exec_forceEnd s).trans (refused _ _)
    · exact (exec_setEnable s).trans (refused _ _)
    · exact (exec_scrub s).trans (refused _ _)

end Sys2Proof.Machine
end

section
/-!
SUPPORT. GET-TABLE (R177): the table or view read, the count returned, and the row of each table and view.
-/
namespace Sys2Proof.Machine

/-! ## Flag bytes -/

theorem foldr_flags (fs : List Bool) (k : Nat) : ((fs.zipIdx k).map (fun f => if f.1 then 2 ^ f.2 else 0)).sum
    = 2 ^ k * fs.foldr (fun f n => 2 * n + (if f then 1 else 0)) 0 := by
  induction fs generalizing k with
  | nil => rfl
  | cons f fs ih =>
    simp only [List.zipIdx_cons, List.map_cons, List.sum_cons, ih, List.foldr_cons]
    cases f <;> simp <;> ring

/-- A flag byte has flag `k` in bit `k` (11.1). -/
theorem flagByte_eq (fs : List Bool) :
    flagByte fs = byteOf ((fs.zipIdx.map (fun f => if f.1 then 2 ^ f.2 else 0)).sum) := by
  rw [foldr_flags, pow_zero, one_mul]; rfl

/-! ## What is read -/

theorem exec_getTable (s : State) : exec .getTable s = execGetTable s := rfl

theorem execGetTable_runs {s : State} {r : Request} {q : List Request} (running : s.heldInReset = false)
    (head : s.management = r :: q) (kind : r.kind = Kind.getTable) : exec .getTable s
      = .next ({ s with management := q }.sendAnswer r Kind.mgmtAnswer (r.kind :: s.readTable r.payload)).deliverDue.arbitrate := by
  rw [exec_getTable, execGetTable, s.takeManagement_runs _ _ running head (by simp [kind])]
  exact congrArg Host.Outcome.next (Ev.finish_answer _ r _ _ rfl rfl rfl rfl)

section
variable {s : State} {id start asked : Byte}

theorem State.readTable_noTable (none_ : s.view id.toNat = none) : s.readTable [id, start, asked] = [2] := by
  simp [State.readTable, byteAt, none_, Status.code, byteOf]

variable {v : TableView} (view : s.view id.toNat = some v)
include view

theorem State.readTable_badIndex (outside : start.toNat < v.first ∨ v.last < start.toNat) :
    s.readTable [id, start, asked] = [3] := by
  simp [State.readTable, byteAt, view, outside, Status.code, byteOf]

theorem State.readTable_rows (first : v.first ≤ start.toNat) (last : start.toNat ≤ v.last) :
    s.readTable [id, start, asked] = [0, id, start, byteOf (v.count start.toNat asked.toNat)]
      ++ (List.range (v.count start.toNat asked.toNat)).flatMap (fun k => v.row (start.toNat + k)) := by
  have inside : ¬ (start.toNat < v.first ∨ v.last < start.toNat) := by omega
  simp [State.readTable, byteAt, view, inside, Status.code, byteOf]

/-- One entry asked for, at a filled index. -/
theorem State.readTable_one (one : asked = 1) (first : v.first ≤ start.toNat) (last : start.toNat ≤ v.last)
    (filled : start.toNat ≤ v.filled) (size : 0 < v.size ∧ v.size ≤ 43) :
    s.readTable [id, start, asked] = [0, id, start, 1] ++ v.row start.toNat := by
  have fits : 1 ≤ 43 / v.size := (Nat.one_le_div_iff size.1).2 size.2
  have count : v.count start.toNat asked.toNat = 1 := by
    subst one
    show min 1 (min (v.filled + 1 - start.toNat) (43 / v.size)) = 1
    omega
  rw [State.readTable_rows view first last, count]
  simp [byteOf]

/-- A start behind the last filled index. -/
theorem State.readTable_none (first : v.first ≤ start.toNat) (last : start.toNat ≤ v.last)
    (behind : v.filled < start.toNat) : s.readTable [id, start, asked] = [0, id, start, 0] := by
  have count : v.count start.toNat asked.toNat = 0 := by
    show min asked.toNat (min (v.filled + 1 - start.toNat) (43 / v.size)) = 0
    rw [Nat.sub_eq_zero_of_le behind, Nat.zero_min, Nat.min_zero]
  rw [State.readTable_rows view first last, count]
  rfl

end

/-! ## The rows, as Chapter 11 lays them out -/

theorem rowOfBay_bay (b : BayIx) (row : BayIx → List Byte) : rowOfBay (b.val + 1) row = row b := by
  have named : bayOfNo (b.val + 1) = some b := (bayOfNo_iff _ b).2 rfl
  simp only [rowOfBay, named]

theorem bayByte_eq (b : Option BayIx) :
    bayByte b = match b with | some b => byteOf (b.val + 1) | none => 0 := by cases b <;> rfl

theorem siteOrZero_eq (s : State) (t : Option Time) :
    siteOrZero s t = match t with | some t => be32w (t + s.siteOffset) | none => [0, 0, 0, 0] := by cases t <;> rfl

theorem orFFFF_eq (n : Option Nat) : orFFFF n = match n with | some n => be16 n | none => [0xFF, 0xFF] := by
  cases n <;> rfl

theorem Hold.flags_eq (h : Hold) : h.flags = flagByte [true, h.ticket == none, h.entrySeen, h.arrival != none,
    h.energyWanted != none, h.lastPostEnergy != none] := by
  have isNone : ∀ {α : Type} [BEq α] (o : Option α), (o == none) = o.isNone := fun o => by cases o <;> rfl
  have isSome : ∀ {α : Type} [BEq α] (o : Option α), (o != none) = o.isSome := fun o => by cases o <;> rfl
  rw [isNone, isSome, isSome, isSome]; rfl

/-! ## The statement -/

/-- Settles O51: the row that a read gives is the row of the table or view, laid out as Chapter 11 gives it. -/
theorem getTable : Obligations.GetTable := by
  unfold Obligations.GetTable
  intro s r q id start asked running head kind payload answered reads bit flags site siteOr bayNumber current slot log
  have gives : ∀ p, s.readTable [id, start, asked] = p → exec .getTable s = answered p := fun p read => by
    rw [execGetTable_runs running head kind, payload, read]
  have flags_ : ∀ fs, flagByte fs = flags fs := flagByte_eq
  have bays : ∀ b, bayByte b = bayNumber b := bayByte_eq
  have sites : ∀ t, siteOrZero s t = siteOr t := siteOrZero_eq s
  have currents : ∀ n, orFFFF n = current n := orFFFF_eq
  have row : ∀ (n at_ size first last : Nat) (rows : Nat → List Byte) (bytes : List Byte),
      s.view n = some (fixedView size first last rows) → first ≤ at_ → at_ ≤ last → 0 < size ∧ size ≤ 43 →
      rows at_ = bytes → reads n at_ bytes := by
    intro n at_ size first last rows bytes view from_ to_ fits same named starts one
    subst starts named same
    exact gives _ (State.readTable_one view one from_ to_ to_ fits)
  have bad : ∀ (n : Nat) (v : TableView), s.view n = some v → id.toNat = n →
      start.toNat < v.first ∨ v.last < start.toNat → exec .getTable s = answered [3] := by
    rintro _ v view rfl outside
    exact gives _ (State.readTable_badIndex view outside)
  have bayRow : ∀ (n size : Nat) (rows : BayIx → List Byte) (b : BayIx) (bytes : List Byte),
      s.view n = some (fixedView size 1 128 (fun i => rowOfBay i rows)) → 0 < size ∧ size ≤ 43 → rows b = bytes →
      reads n (b.val + 1) bytes := fun n size rows b bytes view fits same =>
    row n _ _ _ _ _ bytes view (by omega) (by omega) fits ((rowOfBay_bay b rows).trans same)
  have slots : ∀ h, holdRow s h = slot h := by
    rintro (_ | h)
    · rfl
    · simp only [holdRow, slot, sites, Hold.flags_eq, flags_, State.windowBytes, State.site, List.append_assoc]
  have logs : ∀ l, logRow s l = log l := by
    rintro (_ | l)
    · rfl
    · have isSome : ∀ {α : Type} [BEq α] (o : Option α), (o != none) = o.isSome := fun o => by cases o <;> rfl
      simp only [logRow, log, ← flags_, isSome, bays, State.site, site]
      rfl
  have flag1 : ∀ f, flagByte [f] = if f then 1 else 0 := by rintro (_ | _) <;> rfl
  have all : ∀ x : Byte, x.toNat ≤ 255 := fun x => by omega
  refine ⟨fun outside => gives _ (State.readTable_noTable ?_), ?_, ?_, ⟨?_, ?_⟩, ?_, fun b => ⟨?_, ?_, ?_, ?_⟩, ?_, ?_,
    ?_, ?_, ?_, ?_, ?_, ?_, ?_⟩
  · unfold State.view
    split
    case h_17 => rfl
    all_goals
      rename_i named
      exact absurd (by rw [named]; decide) outside
  · intro v known named outside
    simp only [List.mem_cons, List.not_mem_nil, or_false] at known
    rcases known with rfl | rfl | rfl | rfl | rfl | rfl | rfl | rfl | rfl | rfl | rfl | rfl | rfl <;>
      exact bad _ _ rfl named outside
  · rintro rfl n
    have rows := State.readTable_rows (s := s) (id := 2) (start := start) (asked := asked)
      (v := fixedView 2 0 255 (kindRow s)) rfl (Nat.zero_le _) (all _)
    have count : (fixedView 2 0 255 (kindRow s)).count start.toNat asked.toNat = n := by
      simp only [TableView.count, fixedView, n, Nat.reduceAdd, Nat.reduceDiv]
    rw [count] at rows
    exact gives _ rows
  · exact row 1 _ _ _ _ _ _ rfl (Nat.zero_le _) (all _) (by decide) (by simp [nodeRow, bays, Permissions.byte, flags_])
  · exact row 23 _ _ _ _ _ _ rfl (Nat.zero_le _) (all _) (by decide) (by simp [contactRow, bays]; rfl)
  · exact fun k => row 3 _ _ _ _ _ _ rfl (Nat.zero_le _) (by omega) (by decide) (by
      have slot_ : (⟨k.ix.val % 4, by omega⟩ : Fin 4) = k.ix := Fin.ext (Nat.mod_eq_of_lt k.ix.isLt)
      have place : placeByte = fun x => match x with | some x => byteOf x.ix.val | none => 0xFF := by
        funext x; cases x <;> rfl
      simp only [classRow, slot_, ClassEntry.flags, flags_, place]
      rfl)
  · exact bayRow 4 4 _ b _ rfl (by decide) (by
      show _ ++ _ ++ [flagByte [(s.bay b).allotEnable]] = _
      rw [flag1])
  · exact bayRow 16 11 _ b _ rfl (by decide) (by simp [statusRow, currents, State.bayFlags, flags_])
  · exact bayRow 17 43 _ b _ rfl (by decide) (slots _)
  · exact bayRow 18 43 _ b _ rfl (by decide) (slots _)
  · exact row 5 0 _ _ _ _ _ rfl le_rfl le_rfl (by decide) (by simp [allocatorRow, currents])
  · exact row 6 0 _ _ _ _ _ rfl le_rfl le_rfl (by decide) rfl
  · exact row 7 0 _ _ _ _ _ rfl le_rfl le_rfl (by decide) rfl
  · exact row 8 0 _ _ _ _ _ rfl le_rfl le_rfl (by decide) rfl
  · intro i e found inside named starts one
    have within : i < s.waitlist.length := (List.getElem?_eq_some_iff.1 found).1
    have entry : s.waitlist[start.toNat - 1]? = some e := by rw [starts]; exact found
    have view : s.view id.toNat = some ⟨21, 1, 32, s.waitlist.length,
      fun i => ((s.waitlist[i - 1]?).map (waitRow s)).getD []⟩ := by rw [named]; rfl
    rw [gives _ (State.readTable_one view one (show 1 ≤ start.toNat by omega) (show start.toNat ≤ 32 by omega)
      (show start.toNat ≤ s.waitlist.length by omega) (show 0 < 21 ∧ 21 ≤ 43 by decide))]
    simp only [entry, Option.map_some, Option.getD_some, waitRow, bays, flag1, State.windowBytes, State.site,
      List.append_assoc]
  · intro i e found inside a named starts one
    have within : i < s.allocator.queue.length := (List.getElem?_eq_some_iff.1 found).1
    have entry : s.allocator.queue[start.toNat - 1]? = some e := by rw [starts]; exact found
    have view : s.view id.toNat = some ⟨15, 1, 128, s.allocator.queue.length,
      fun i => ((s.allocator.queue[i - 1]?).map (chargeRow s)).getD []⟩ := by rw [named]; rfl
    rw [gives _ (State.readTable_one view one (show 1 ≤ start.toNat by omega) (show start.toNat ≤ 128 by omega)
      (show start.toNat ≤ s.allocator.queue.length by omega) (show 0 < 15 ∧ 15 ≤ 43 by decide))]
    have admitted_ : (if a.admittedSince = none then (0 : Byte) else 1) = flagByte [a.admittedSince.isSome] := by
      cases a.admittedSince <;> rfl
    simp only [entry, Option.map_some, Option.getD_some, chargeRow, sites, admitted_, site, State.site]
    rfl
  · rintro (⟨named, behind, inside⟩ | ⟨named, behind, inside⟩)
    · have view : s.view id.toNat = some ⟨21, 1, 32, s.waitlist.length,
        fun i => ((s.waitlist[i - 1]?).map (waitRow s)).getD []⟩ := by rw [named]; rfl
      exact gives _ (State.readTable_none view (show 1 ≤ start.toNat by omega) inside behind)
    · have view : s.view id.toNat = some ⟨15, 1, 128, s.allocator.queue.length,
        fun i => ((s.allocator.queue[i - 1]?).map (chargeRow s)).getD []⟩ := by rw [named]; rfl
      exact gives _ (State.readTable_none view (show 1 ≤ start.toNat by omega) inside behind)
  · exact fun v => row 21 _ _ _ _ _ _ rfl (Nat.zero_le _) (by omega) (by decide) (by
      have severity : (⟨v.val % 3, by omega⟩ : Fin 3) = v := Fin.ext (Nat.mod_eq_of_lt v.isLt)
      simp only [faultLogRow, severity, logs, flag1])
  · exact fun c => row 22 _ _ _ _ _ _ rfl (Nat.zero_le _) (by omega) (by decide) (by
      have counter : (⟨c.val % 2, by omega⟩ : Fin 2) = c := Fin.ext (Nat.mod_eq_of_lt c.isLt)
      simp only [counterRow, counter, flag1])

end Sys2Proof.Machine
end

section
/-!
SUPPORT. The Node Map write (R116 to R118): the checks of an entry, what it stores, and what becomes of the delivery record
and the outstanding transaction of the node that goes.
-/
namespace Sys2Proof.Machine

/-! ## The node that gives a bay a role -/

section
variable {s : State} {role : Role} (down : role.isDown = true)
include down

theorem State.mem_nodesOf {c : Addr} {e : NodeEntry} {b : BayIx} :
    ((c, e) ∈ downNodes s.nodes ∧ (e.role == role && e.bay == some b) = true)
      ↔ s.node c = e ∧ e.role = role ∧ e.bay = some b := by
  rw [mem_downNodes, Bool.and_eq_true, beq_iff_eq, beq_iff_eq, ← Role.isDown_iff]
  exact ⟨fun ⟨⟨entry, _⟩, same⟩ => ⟨entry, same⟩, fun ⟨entry, same⟩ => ⟨⟨entry, same.1 ▸ down⟩, same⟩⟩

theorem State.nodeOf_none {b : BayIx} (none_ : nodeOf s.nodes role b = none) (c : Addr) :
    ¬ ((s.node c).role = role ∧ (s.node c).bay = some b) := fun same => by
  have here := (State.mem_nodesOf (s := s) down (c := c) (b := b)).2 ⟨rfl, same⟩
  exact List.find?_eq_none.1 none_ _ here.1 here.2

theorem State.roleTaken_iff {a : Addr} {b : BayIx} :
    s.roleTaken a role b = true ↔ ∃ c, c ≠ a ∧ (s.node c).role = role ∧ (s.node c).bay = some b := by
  rw [State.roleTaken, List.any_eq_true]
  constructor
  · rintro ⟨⟨c, e⟩, here, test⟩
    simp only [Bool.and_eq_true, bne_iff_ne, ne_eq, beq_iff_eq] at test
    have entry : s.node c = e := (mem_downNodes.1 here).1
    exact ⟨c, test.1.1, entry ▸ test.1.2, entry ▸ test.2⟩
  · rintro ⟨c, other, same⟩
    refine ⟨⟨c, s.node c⟩, ((State.mem_nodesOf down (b := b)).2 ⟨rfl, same⟩).1, ?_⟩
    simp [other, same]

end

/-! ## The checks of an entry (R117) -/

/-- The entry of a downlink node for a bay. -/
def joiningNode (role : Role) (p : Permissions) (b : BayIx) : NodeWrite := ⟨role, p, (byteOf (b.val + 1)).toNat⟩

@[simp] theorem joiningNode_role (role : Role) (p : Permissions) (b : BayIx) : (joiningNode role p b).role = role := rfl
@[simp] theorem joiningNode_asked (role : Role) (p : Permissions) (b : BayIx) : (joiningNode role p b).asked = p := rfl

section
variable {s : State} {a : Addr} {role : Role} {p : Permissions} {b : BayIx} (down : role.isDown = true)
include down

theorem joiningNode_bay : (joiningNode role p b).bay = some b := by
  unfold joiningNode NodeWrite.bay
  rw [if_pos down]; exact bayOfNo_byteOf b

omit down in
theorem NodeWrite.keepsNode_unused (w : NodeWrite) (down : w.role.isDown = true) :
    w.keepsNode NodeEntry.unused = false := by
  have role : (w.role == Role.unused) = false := by
    cases w with | mk role _ _ => cases role <;> first | rfl | cases down
  simp [NodeWrite.keepsNode, NodeEntry.unused, role, down]

theorem State.checkNode_taken (unused : s.node a = NodeEntry.unused) (taken : s.roleTaken a role b = true) :
    s.checkNode a (joiningNode role p b) = some .badIndex := by
  have self : role ≠ .self := by rintro rfl; cases down
  simp [State.checkNode, joiningNode_bay down, taken, unused, NodeEntry.unused, self]

/-- An UNUSED address becomes the node of a role that no other entry gives the bay. -/
theorem State.checkNode_joins (null : a ≠ 0) (broadcast : a ≠ 0xFF) (unused : s.node a = NodeEntry.unused)
    (free : ∀ c, c ≠ a → ¬ ((s.node c).role = role ∧ (s.node c).bay = some b)) :
    s.checkNode a (joiningNode role p b) = if (s.bay b).dyn.state = .closed then none else some .bayInUse := by
  have self : role ≠ .self := by rintro rfl; cases down
  have untaken : s.roleTaken a role b = false := by
    rw [Bool.eq_false_iff, ne_eq, State.roleTaken_iff down]
    rintro ⟨c, other, same⟩
    exact free c other same
  have moves := (joiningNode role p b).keepsNode_unused down
  have address : (a == Config.nullAddr || a == Config.broadcast) = false := by
    rw [Bool.or_eq_false_iff, beq_eq_false_iff_ne, beq_eq_false_iff_ne]; exact ⟨null, broadcast⟩
  have roles : ¬ ((s.node a).role = .self ∨ (joiningNode role p b).role = .self) := by simp [unused, NodeEntry.unused, self]
  unfold State.checkNode
  dsimp only
  rw [if_neg roles, address, Bool.and_false, if_neg Bool.false_ne_true, joiningNode_bay down]
  simp only [Option.isNone_some, Bool.and_false, Bool.false_eq_true, if_false, Option.any_some, joiningNode_role, untaken,
    unused, moves, Bool.not_false, Bool.true_and]
  by_cases closed : (s.bay b).dyn.state = .closed <;> simp [closed, State.isClosed, NodeEntry.nodeBay, NodeEntry.unused, Role.isDown]

end

/-- A POST or SENSOR entry of a CLOSED bay may go. -/
theorem State.checkNode_leaves {s : State} {a : Addr} {role : Role} {p : Permissions} {b : BayIx} {c : Contact}
    (entry : s.node a = ⟨role, p, some b, some c⟩) (down : role.isDown = true) (closed : (s.bay b).dyn.state = .closed)
    (asked : Permissions) (n : Nat) : s.checkNode a ⟨.unused, asked, n⟩ = none := by
  have self : role ≠ .self := by rintro rfl; cases down
  have gone : Role.isDown .unused = false := rfl
  simp [State.checkNode, entry, self, NodeWrite.bay, NodeEntry.nodeBay, down, State.isClosed, closed, gone]

/-! ## What an entry stores (R116, R118) -/

theorem State.loseDest_eq (s : State) (a : Addr) : s.loseDest a = s.setTransaction
    (s.scheduler.transaction.map (fun x => if x.frame.dest = a then { x with destLost := true } else x)) := by
  unfold State.loseDest
  split
  · next x outstanding =>
    rw [outstanding, Option.map_some]
    split
    · rfl
    · rw [← outstanding]; rfl
  · next nothing => rw [nothing, Option.map_none, ← nothing]; rfl

section
variable {s : State} {a : Addr} {role : Role} {p : Permissions} {b : BayIx} (down : role.isDown = true)
include down

/-- The entry of a downlink node as it is created. -/
def freshNode (role : Role) (b : BayIx) (now : Time) : NodeEntry :=
  ⟨role, Permissions.none, some b, some ⟨true, 0, now, now⟩⟩

theorem State.writeNode_joins (unused : s.node a = NodeEntry.unused) : s.writeNode a (joiningNode role p b)
    = { s with nodes := s.nodes.set a.toFin (freshNode role b s.now) }.modPostDelivery role (some b)
        Delivery.postPresent := by
  have moves := (joiningNode role p b).keepsNode_unused down
  have stored : p.stored role = Permissions.none := by cases role <;> first | rfl | cases down
  simp only [State.writeNode, unused, moves, joiningNode_bay down, joiningNode_role, joiningNode_asked, stored, down,
    Bool.false_eq_true, if_false, if_true]
  rfl

theorem State.writeNode_leaves {c : Contact} (entry : s.node a = ⟨role, p, some b, some c⟩) (asked : Permissions) (n : Nat) :
    s.writeNode a ⟨.unused, asked, n⟩ = (State.setTransaction { s with nodes := s.nodes.set a.toFin NodeEntry.unused }
      (s.scheduler.transaction.map (fun x => if x.frame.dest = a then { x with destLost := true } else x))).modPostDelivery
        role (some b) Delivery.postAbsent := by
  have unlike : (Role.unused == role) = false := by cases role <;> first | rfl | cases down
  have moves : NodeWrite.keepsNode ⟨.unused, asked, n⟩ ⟨role, p, some b, some c⟩ = false := by
    simp [NodeWrite.keepsNode, unlike, down]
  simp only [State.writeNode, entry, moves, Bool.false_eq_true, if_false, Option.isSome_some, if_true]
  rw [State.loseDest_eq]
  rfl

end

/-! ## The write of one entry and of two -/

/-- A SET-TABLE of two entries that names its table and a start inside it: the second is checked against what the first
leaves (R173). -/
theorem State.setTable_two (s : State) {r : Request} {q : List Request} {id size first last i : Nat} (w : EntryWrite)
    {e e' : List Byte} {idb ib : Byte} (running : s.heldInReset = false) (head : s.management = r :: q)
    (kind : r.kind = Kind.setTable) (payload : r.payload = idb :: ib :: (e ++ e')) (names : idb.toNat = id)
    (starts : ib.toNat = i) (length : e.length = size) (length' : e'.length = size) (filled : 0 < size) (first_ : first ≤ i)
    (last_ : i + 1 ≤ last) : s.takeManagement (namesTable id) (Ev.writeTable size first last w) =
      .next (match w (Ev.startRequest { s with management := q }) i e with
        | .error st => ((Ev.startRequest { s with management := q }).status r st).finish
        | .ok (ev, c) => match w ev (i + 1) e' with
          | .error st => ((Ev.startRequest { s with management := q }).status r st).finish
          | .ok (ev, c') => (ev.stored r (c || c')).finish) := by
  have twice : (e ++ e').length = 2 * size := by rw [List.length_append]; omega
  have whole : (2 * size) / size = 2 := Nat.mul_div_cancel _ filled
  have two : splitEntries size (e ++ e') = [e, e'] := by
    unfold splitEntries
    rw [twice, whole]
    subst length
    simp [List.range_succ, length']
  have entries : tableEntries r.payload size first last = .ok (i, [e, e']) := by
    have nonempty : e ++ e' ≠ [] := fun none_ => by rw [none_] at twice; simp at twice; omega
    unfold tableEntries
    dsimp only
    rw [payload]
    simp only [byteAt, List.getD_cons_succ, List.getD_cons_zero, starts, List.drop_succ_cons, List.drop_zero,
      List.length_cons, twice, Nat.mul_mod_left, whole]
    rw [if_neg (by simp [nonempty]), if_neg (by omega), two]
  rw [State.takeManagement_runs s _ _ running head (by simp [namesTable, kind, payload, byteAt, names]), Ev.writeTable, entries]
  generalize Ev.startRequest { s with management := q } = start
  cases one : w start i e with
  | error st => simp only [writeEntries, one]
  | ok written =>
    obtain ⟨ev, c⟩ := written
    cases other : w ev (i + 1) e' with
    | error st => simp only [writeEntries, one, other]
    | ok written' => simp only [writeEntries, one, other, Bool.or_false]

section
variable {x p y : Byte} {role : Role} (known : Role.ofNat? x.toNat = some role)
include known

theorem writeNodeEntry_refused {ev : Ev} {i : Nat} {st : Status}
    (refuses : ev.st.checkNode (BitVec.ofNat 8 i) ⟨role, Permissions.ofNat p.toNat, y.toNat⟩ = some st) :
    writeNodeEntry ev i [x, p, y] = .error st := by
  simp only [writeNodeEntry, byteAt, List.getD_cons_zero, List.getD_cons_succ, known, refuses]

theorem writeNodeEntry_written {ev : Ev} {i : Nat}
    (passes : ev.st.checkNode (BitVec.ofNat 8 i) ⟨role, Permissions.ofNat p.toNat, y.toNat⟩ = none) :
    writeNodeEntry ev i [x, p, y] = .ok (ev.onState (·.writeNode (BitVec.ofNat 8 i) ⟨role, Permissions.ofNat p.toNat, y.toNat⟩),
      (Permissions.ofNat p.toNat).stored role != Permissions.ofNat p.toNat) := by
  simp only [writeNodeEntry, byteAt, List.getD_cons_zero, List.getD_cons_succ, known, passes]

section
variable {s : State} {r : Request} {q : List Request} {a : Addr} (running : s.heldInReset = false)
  (head : s.management = r :: q) (kind : r.kind = Kind.setTable) (payload : r.payload = [1, a, x, p, y])
include running head kind payload

theorem execNodeMap_refused {st : Status}
    (refuses : { s with management := q }.checkNode a ⟨role, Permissions.ofNat p.toNat, y.toNat⟩ = some st) :
    exec .nodeMap s = s.refusedManagement r q st := by
  rw [exec_nodeMap, execNodeMap, s.setTable_one (id := 1) (size := 3) (last := 255) writeNodeEntry running head kind payload
    rfl rfl rfl (by omega) (Nat.zero_le _) (by omega),
    writeNodeEntry_refused known (by rw [BitVec.ofNat_toNat, BitVec.setWidth_eq]; exact refuses)]
  exact congrArg Host.Outcome.next (Ev.finish_status _ r st)

theorem execNodeMap_written
    (passes : { s with management := q }.checkNode a ⟨role, Permissions.ofNat p.toNat, y.toNat⟩ = none) :
    exec .nodeMap s
      = .next (({ s with management := q }.writeNode a ⟨role, Permissions.ofNat p.toNat, y.toNat⟩).sendStatus r
          (if (Permissions.ofNat p.toNat).stored role != Permissions.ofNat p.toNat then .clamped else .ok)
            []).deliverDue.arbitrate := by
  rw [exec_nodeMap, execNodeMap, s.setTable_one (id := 1) (size := 3) (last := 255) writeNodeEntry running head kind payload
    rfl rfl rfl (by omega) (Nat.zero_le _) (by omega),
    writeNodeEntry_written known (by rw [BitVec.ofNat_toNat, BitVec.setWidth_eq]; exact passes), BitVec.ofNat_toNat,
    BitVec.setWidth_eq]
  exact congrArg Host.Outcome.next (Ev.finish_status_onState _ _ r _)

end

end

end Sys2Proof.Machine
end

section
/-!
SUPPORT. The Kind Filter write (R121), the Controller Settings write with the move of the own address (R119, R176), and the
Node Map write in its forms.
-/
namespace Sys2Proof.Machine

/-! ## Kind Filter (R121) -/

/-- The action a Kind Filter write stores for a kind. -/
def storedAction (k act : Byte) : UplinkAction :=
  if k = 0x38 ∨ k = 0x39 then .drop
  else if act = 0 then .forward else if act = 1 then .claim else if act = 2 then .claimForward else .drop

/-- The Kind Filter entry a write stores for a kind. -/
def storedKind (k act flags : Byte) : KindEntry := ⟨storedAction k act, flags.getLsbD 0, flags.getLsbD 1⟩

theorem UplinkAction.ofNat?_iff (n : Nat) (a : UplinkAction) : UplinkAction.ofNat? n = some a ↔ n = a.code := by
  unfold UplinkAction.ofNat?
  split <;> cases a <;> simp_all [UplinkAction.code]

theorem bitAt_toNat (x : Byte) (k : Nat) : bitAt x.toNat k = x.getLsbD k := by
  rw [BitVec.getLsbD, Nat.testBit_eq_decide_div_mod_eq, bitAt]
  rfl

theorem storedAction_eq (k act : Byte) : storedAction k act
    = if k.toNat = Kind.allot.toNat ∨ k.toNat = Kind.poll.toNat then .drop else (UplinkAction.ofNat? act.toNat).getD .drop := by
  have fixed : (k.toNat = Kind.allot.toNat ∨ k.toNat = Kind.poll.toNat) ↔ (k = 0x38 ∨ k = 0x39) :=
    or_congr BitVec.toNat_inj BitVec.toNat_inj
  have named : ∀ a : UplinkAction, act.toNat = a.code → (UplinkAction.ofNat? act.toNat).getD .drop = a := fun a code => by
    rw [(UplinkAction.ofNat?_iff _ a).2 code]; rfl
  simp only [fixed, storedAction]
  split
  · rfl
  · split
    · next h => exact (named .forward (by rw [h]; rfl)).symm
    · split
      · next h => exact (named .claim (by rw [h]; rfl)).symm
      · split
        · next h => exact (named .claimForward (by rw [h]; rfl)).symm
        · next h0 h1 h2 =>
          cases asked : UplinkAction.ofNat? act.toNat with
          | none => rfl
          | some a =>
            have code := (UplinkAction.ofNat?_iff _ a).1 asked
            cases a with
            | forward => exact absurd (BitVec.eq_of_toNat_eq code) h0
            | claim => exact absurd (BitVec.eq_of_toNat_eq code) h1
            | claimForward => exact absurd (BitVec.eq_of_toNat_eq code) h2
            | drop => rfl

theorem writeKindEntry_eq (ev : Ev) (k act flags : Byte) : writeKindEntry ev k.toNat [act, flags]
    = .ok (ev.onState (fun s => { s with kinds := s.kinds.set k.toFin (storedKind k act flags) }),
        decide (act.toNat ≠ (storedAction k act).code)) := by
  have clamps : (UplinkAction.ofNat? act.toNat != some (storedAction k act))
      = decide (act.toNat ≠ (storedAction k act).code) := by
    rw [Bool.eq_iff_iff, bne_iff_ne, decide_eq_true_iff, ne_eq, ne_eq, UplinkAction.ofNat?_iff]
  rw [← clamps]
  simp only [writeKindEntry, storedKind, byteAt, List.getD_cons_zero, List.getD_cons_succ, bitAt_toNat, ← storedAction_eq,
    BitVec.ofNat_toNat, BitVec.setWidth_eq]

section
variable {s : State} {r : Request} {q : List Request} (running : s.heldInReset = false) (head : s.management = r :: q)
  (kind : r.kind = Kind.setTable)
include running head kind

theorem execKindFilter_one {k act flags : Byte} (payload : r.payload = [2, k, act, flags]) : exec .kindFilter s
    = .next ({ s with management := q, kinds := s.kinds.set k.toFin (storedKind k act flags) }.sendStatus r
        (if act.toNat = (storedAction k act).code then .ok else .clamped) []).deliverDue.arbitrate := by
  rw [exec_kindFilter, execKindFilter, s.setTable_one (id := 2) (size := 2) (last := 255) writeKindEntry running head kind
    payload rfl rfl rfl (by omega) (Nat.zero_le _) (by omega), writeKindEntry_eq]
  have status : (if act.toNat = (storedAction k act).code then Status.ok else .clamped)
      = if decide (act.toNat ≠ (storedAction k act).code) = true then .clamped else .ok := by
    rw [← ite_not]
    simp only [decide_eq_true_iff, ne_eq]
  rw [status]
  exact congrArg Host.Outcome.next (Ev.finish_status_onState _ _ r _)

theorem execKindFilter_two {k act flags act' flags' : Byte} (payload : r.payload = [2, k, act, flags, act', flags'])
    (inside : k.toNat < 255) : exec .kindFilter s = .next ({ s with
        management := q,
        kinds := (s.kinds.set k.toFin (storedKind k act flags)).set (k + 1).toFin (storedKind (k + 1) act' flags')
          }.sendStatus r (if act.toNat = (storedAction k act).code ∧ act'.toNat = (storedAction (k + 1) act').code then .ok
            else .clamped) []).deliverDue.arbitrate := by
  have next : k.toNat + 1 = (k + 1).toNat := by rw [BitVec.toNat_add]; simp; omega
  rw [exec_kindFilter, execKindFilter, s.setTable_two (id := 2) (size := 2) (last := 255) (e := [act, flags])
    (e' := [act', flags']) writeKindEntry running head kind payload rfl rfl rfl rfl (by omega) (Nat.zero_le _) (by omega),
    writeKindEntry_eq, next]
  dsimp only
  rw [writeKindEntry_eq]
  have both : (if act.toNat = (storedAction k act).code ∧ act'.toNat = (storedAction (k + 1) act').code then Status.ok
      else .clamped) = if (decide (act.toNat ≠ (storedAction k act).code)
        || decide (act'.toNat ≠ (storedAction (k + 1) act').code)) = true then .clamped else .ok := by
    rw [← ite_not]
    simp only [not_and_or, Bool.or_eq_true, decide_eq_true_iff, ne_eq]
  rw [both]
  exact congrArg Host.Outcome.next (Ev.finish_status_onState _ _ r _)

/-! ## Controller Settings (R119, R176) -/

theorem execControllerSettings_refused {own dest mode : Byte} (payload : r.payload = [8, 0, own, dest, mode])
    (moves : own ≠ s.controller.own) (taken : s.ownFree own = false) :
    exec .controllerSettings s = s.refusedManagement r q .badIndex := by
  have refuses : writeControllerEntry (Ev.startRequest { s with management := q }) 0 [own, dest, mode] = .error .badIndex :=
    if_pos ⟨moves, taken⟩
  rw [exec_controllerSettings, execControllerSettings, s.setTable_one (id := 8) (size := 3) (first := 0) (last := 0) (i := 0) writeControllerEntry
    running head kind payload rfl rfl rfl (by omega) le_rfl le_rfl, refuses]
  exact congrArg Host.Outcome.next (Ev.finish_status _ r _)

theorem execControllerSettings_written {own dest mode : Byte} (payload : r.payload = [8, 0, own, dest, mode])
    (free : own = s.controller.own ∨ s.ownFree own = true) : exec .controllerSettings s
      = .next ({ { s with management := q }.moveSelf own with
          controller := ⟨own, dest, if mode = 1 then .immediate else .boundary⟩ }.sendStatus r
            (if 1 < mode.toNat then .clamped else .ok) []).deliverDue.arbitrate := by
  have one : mode.toNat = 1 ↔ mode = 1 := BitVec.toNat_inj (y := 1)
  have writes : writeControllerEntry (Ev.startRequest { s with management := q }) 0 [own, dest, mode]
      = .ok ((Ev.startRequest { s with management := q }).onState (fun s => { s.moveSelf own with
          controller := ⟨own, dest, if mode = 1 then .immediate else .boundary⟩ }), decide (1 < mode.toNat)) := by
    have keeps : ¬ (own ≠ s.controller.own ∧ s.ownFree own = false) := fun bad =>
      free.elim bad.1 (fun free => by rw [bad.2] at free; cases free)
    refine (if_neg (c := own ≠ s.controller.own ∧ s.ownFree own = false) keeps).trans ?_
    simp only [byteAt, List.getD_cons_zero, List.getD_cons_succ, one]
    rfl
  rw [exec_controllerSettings, execControllerSettings, s.setTable_one (id := 8) (size := 3) (first := 0) (last := 0) (i := 0) writeControllerEntry
    running head kind payload rfl rfl rfl (by omega) le_rfl le_rfl, writes]
  have status : (if 1 < mode.toNat then Status.clamped else .ok) = if decide (1 < mode.toNat) = true then .clamped else .ok := by
    simp only [decide_eq_true_iff]
  rw [status]
  exact congrArg Host.Outcome.next (Ev.finish_status_onState _ _ r _)

end

end Sys2Proof.Machine
end

section
/-!
SUPPORT. The statement on the writes of Node Map, Kind Filter and own address (R116 to R119, R121, R176).
-/
namespace Sys2Proof.Machine

theorem State.modDelivery_twice (s : State) (n : Table NodeEntry 256) (b : BayIx) (f g : Delivery → Delivery) :
    State.modDelivery { s.modDelivery b f with nodes := n } b g = State.modDelivery { s with nodes := n } b (fun d => g (f d)) := by
  have bays : (s.bays.modify b (fun y => { y with delivery := f y.delivery })).modify b
      (fun y => { y with delivery := g y.delivery }) = s.bays.modify b (fun y => { y with delivery := g (f y.delivery) }) := by
    refine Table.ext_get fun c => ?_
    by_cases same : c = b
    · subst same; simp
    · simp only [Table.get_modify_other _ _ same]
  simp only [State.modDelivery, State.modBay, bays]

theorem Permissions.ofNat_eq (p : Byte) : Permissions.ofNat p.toNat
    = ⟨p.getLsbD 0, p.getLsbD 1, p.getLsbD 2, p.getLsbD 3, p.getLsbD 4⟩ := by
  simp only [Permissions.ofNat, bitAt_toNat]

section
variable {s : State} {r : Request} {q : List Request} {a : Addr} {b : BayIx} (running : s.heldInReset = false)
  (head : s.management = r :: q) (kind : r.kind = Kind.setTable)
include running head kind

/-- An UNUSED address that joins a CLOSED bay in a role no other entry gives it. -/
theorem execNodeMap_joins {x : Byte} {role : Role} (payload : r.payload = [1, a, x, 0, byteOf (b.val + 1)])
    (known : Role.ofNat? x.toNat = some role) (down : role.isDown = true) (null : a ≠ 0) (broadcast : a ≠ 0xFF)
    (unused : s.node a = NodeEntry.unused) (free : nodeOf s.nodes role b = none) : exec .nodeMap s
      = if (s.bay b).dyn.state = .closed then .next (({ s with
          management := q, nodes := s.nodes.set a.toFin (freshNode role b s.now) }.modPostDelivery role (some b)
            Delivery.postPresent).sendStatus r .ok []).deliverDue.arbitrate
        else s.refusedManagement r q .bayInUse := by
  have check := State.checkNode_joins (s := { s with management := q }) (p := Permissions.ofNat 0) (b := b) down null broadcast
    unused (fun c _ => State.nodeOf_none down free c)
  split
  · next closed =>
    rw [execNodeMap_written known running head kind payload (check.trans (if_pos closed))]
    have nothing : ((Permissions.ofNat (0 : Byte).toNat).stored role != Permissions.ofNat (0 : Byte).toNat) = false := by
      cases role <;> rfl
    rw [nothing, if_neg Bool.false_ne_true]
    exact congrArg (fun t : State => (Host.Outcome.next (t.sendStatus r .ok []).deliverDue.arbitrate : Result))
      (State.writeNode_joins (s := { s with management := q }) (p := Permissions.ofNat 0) (b := b) down unused)
  · next open_ =>
    exact execNodeMap_refused known running head kind payload (check.trans (if_neg open_))

theorem execNodeMap_leaves {role : Role} {p : Permissions} {c : Contact} (payload : r.payload = [1, a, 0, 0, 0])
    (entry : s.node a = ⟨role, p, some b, some c⟩) (down : role.isDown = true) (closed : (s.bay b).dyn.state = .closed) :
    exec .nodeMap s = .next (((State.setTransaction { s with
        management := q, nodes := s.nodes.set a.toFin NodeEntry.unused }
      (s.scheduler.transaction.map (fun x => if x.frame.dest = a then { x with destLost := true } else x))).modPostDelivery
        role (some b) Delivery.postAbsent).sendStatus r .ok []).deliverDue.arbitrate := by
  have check := State.checkNode_leaves (s := { s with management := q }) entry down closed (Permissions.ofNat 0) 0
  rw [execNodeMap_written (role := .unused) rfl running head kind payload check]
  exact congrArg (fun t : State => (Host.Outcome.next (t.sendStatus r .ok []).deliverDue.arbitrate : Result))
    (State.writeNode_leaves (s := { s with management := q }) down entry (Permissions.ofNat 0) 0)

/-- A post removed frees its bay for the next entry of the frame. -/
theorem execNodeMap_moves {p : Permissions} {c : Contact}
    (payload : r.payload = [1, a, 0, 0, 0, 2, 0, byteOf (b.val + 1)]) (inside : a.toNat < 254)
    (entry : s.node a = ⟨.post, p, some b, some c⟩) (unused : s.node (a + 1) = NodeEntry.unused)
    (only : ∀ e, (s.node e).role = .post → (s.node e).bay = some b → e = a) (closed : (s.bay b).dyn.state = .closed) :
    exec .nodeMap s = .next ((State.modDelivery
      (State.setTransaction { s with
          management := q,
          nodes := (s.nodes.set a.toFin NodeEntry.unused).set (a + 1).toFin (freshNode .post b s.now) }
        (s.scheduler.transaction.map (fun x => if x.frame.dest = a then { x with destLost := true } else x))) b
        (fun d => d.postAbsent.postPresent)).sendStatus r .ok []).deliverDue.arbitrate := by
  have next : (a + 1).toNat = a.toNat + 1 := by rw [BitVec.toNat_add]; simp; omega
  have other : (a + 1).toFin ≠ a.toFin := fun same => by
    have := congrArg Fin.val same
    rw [BitVec.val_toFin, BitVec.val_toFin] at this; omega
  have null : a + 1 ≠ 0 := fun same => by rw [same] at next; simp at next
  have broadcast : a + 1 ≠ 0xFF := fun same => by rw [same] at next; simp at next; omega
  have left := State.writeNode_leaves (s := { s with management := q }) rfl entry (Permissions.ofNat 0) 0
  have one := writeNodeEntry_written (x := 0) (p := 0) (y := 0) (role := .unused) rfl
    (ev := Ev.startRequest { s with management := q }) (i := a.toNat) (by
      rw [BitVec.ofNat_toNat, BitVec.setWidth_eq]
      exact State.checkNode_leaves (s := { s with management := q }) entry rfl closed (Permissions.ofNat 0) 0)
  rw [BitVec.ofNat_toNat, BitVec.setWidth_eq] at one
  obtain ⟨gone, written⟩ : ∃ gone, { s with management := q }.writeNode a ⟨.unused, Permissions.ofNat 0, 0⟩ = gone := ⟨_, rfl⟩
  rw [written] at left
  have nodes : gone.nodes = s.nodes.set a.toFin NodeEntry.unused := by rw [left]; rfl
  have free : ∀ c, c ≠ a + 1 → ¬ ((gone.node c).role = .post ∧ (gone.node c).bay = some b) := by
    intro c _ same
    rw [State.node, nodes, Table.get_set] at same
    split at same
    · cases same.2
    · next elsewhere => exact elsewhere (congrArg BitVec.toFin (only c same.1 same.2))
  have vacant : gone.node (a + 1) = NodeEntry.unused := by
    rw [State.node, nodes]; exact (Table.get_set_other _ _ other).trans unused
  have shut : (gone.bay b).dyn.state = .closed := by
    rw [left]
    exact (congrArg BayDyn.state ((State.modDelivery_sameRecords _ b Delivery.postAbsent).dyn b)).trans closed
  have check := (State.checkNode_joins (s := gone) (role := .post) (p := Permissions.ofNat 0) rfl null broadcast vacant
    free).trans (if_pos shut)
  have joins := State.writeNode_joins (s := gone) (role := .post) (p := Permissions.ofNat 0) (b := b) rfl vacant
  have two := writeNodeEntry_written (x := 2) (p := 0) (y := byteOf (b.val + 1)) (role := .post) rfl
    (ev := (Ev.startRequest { s with management := q }).onState
      (·.writeNode a ⟨.unused, Permissions.ofNat (0 : Byte).toNat, (0 : Byte).toNat⟩)) (i := a.toNat + 1) (by
        rw [← next, BitVec.ofNat_toNat, BitVec.setWidth_eq]
        exact (congrArg (State.checkNode · (a + 1) (joiningNode .post (Permissions.ofNat 0) b)) written).trans check)
  rw [← next, BitVec.ofNat_toNat, BitVec.setWidth_eq, next] at two
  rw [exec_nodeMap, execNodeMap, s.setTable_two (id := 1) (size := 3) (last := 255) (e := [0, 0, 0])
    (e' := [2, 0, byteOf (b.val + 1)]) writeNodeEntry running head kind payload rfl rfl rfl rfl (by omega) (Nat.zero_le _)
    (by omega), one]
  dsimp only
  rw [two]
  refine (congrArg Host.Outcome.next (Ev.finish_status_onState { s with management := q }
    (fun t => (t.writeNode a ⟨.unused, Permissions.ofNat 0, 0⟩).writeNode (a + 1)
      (joiningNode .post (Permissions.ofNat 0) b)) r .ok)).trans ?_
  refine congrArg (fun t : State => (Host.Outcome.next (t.sendStatus r .ok []).deliverDue.arbitrate : Result)) ?_
  rw [written, joins, left]
  exact State.modDelivery_twice _ _ b _ _

/-- An entry cannot take a bay that a later entry of the frame would leave. -/
theorem execNodeMap_early {p : Permissions} {c : Contact} {u v w : Byte}
    (payload : r.payload = [1, a, 2, 0, byteOf (b.val + 1), u, v, w]) (inside : a.toNat < 255)
    (unused : s.node a = NodeEntry.unused) (entry : s.node (a + 1) = ⟨.post, p, some b, some c⟩) :
    exec .nodeMap s = s.refusedManagement r q .badIndex := by
  have taken : { s with management := q }.roleTaken a .post b = true := (State.roleTaken_iff rfl).2 ⟨a + 1, by
    intro same
    have := congrArg BitVec.toNat same
    rw [BitVec.toNat_add] at this; simp at this; omega, congrArg NodeEntry.role entry, congrArg NodeEntry.bay entry⟩
  have refuses := writeNodeEntry_refused (x := 2) (p := 0) (y := byteOf (b.val + 1)) (role := .post) rfl
    (ev := Ev.startRequest { s with management := q }) (i := a.toNat) (st := .badIndex) (by
      rw [BitVec.ofNat_toNat, BitVec.setWidth_eq]
      exact State.checkNode_taken (p := Permissions.ofNat 0) rfl unused taken)
  rw [exec_nodeMap, execNodeMap, s.setTable_two (id := 1) (size := 3) (last := 255) (e := [2, 0, byteOf (b.val + 1)])
    (e' := [u, v, w]) writeNodeEntry running head kind payload rfl rfl rfl rfl (by omega) (Nat.zero_le _) (by omega), refuses]
  exact congrArg Host.Outcome.next (Ev.finish_status _ r _)

/-- A node of the uplink stores the permissions of its role and keeps its contact record as it is. -/
theorem execNodeMap_uplink {role : Role} {p x : Byte} (payload : r.payload = [1, a, byteOf role.code, p, x])
    (up : role = .requester ∨ role = .server)
    (was : (s.node a).role = .unused ∨ (s.node a).role = .requester ∨ (s.node a).role = .server) :
    exec .nodeMap s = .next (State.sendStatus { s with
        management := q,
        nodes := s.nodes.set a.toFin ⟨role, (Permissions.ofNat p.toNat).stored role, none, (s.node a).contact⟩ } r
      (if (Permissions.ofNat p.toNat).stored role != Permissions.ofNat p.toNat then .clamped else .ok)
        []).deliverDue.arbitrate := by
  have known : Role.ofNat? (byteOf role.code).toNat = some role := by rcases up with rfl | rfl <;> rfl
  have out : role.isDown = false := by rcases up with rfl | rfl <;> rfl
  have self : role ≠ .self := by rcases up with rfl | rfl <;> decide
  have outside : (s.node a).role.isDown = false := by rcases was with h | h | h <;> rw [h] <;> rfl
  have unself : (s.node a).role ≠ .self := by rcases was with h | h | h <;> rw [h] <;> decide
  generalize hw : (⟨role, Permissions.ofNat p.toNat, x.toNat⟩ : NodeWrite) = w
  have bay : w.bay = none := by subst hw; simp [NodeWrite.bay, out]
  have keeps : w.keepsNode (s.node a) = true := by subst hw; simp [NodeWrite.keepsNode, out, outside]
  have check : { s with management := q }.checkNode a w = none := by
    have selfs : ¬ ((s.node a).role = .self ∨ w.role = .self) := by subst hw; exact not_or.2 ⟨unself, self⟩
    have down : w.role.isDown = false := by subst hw; exact out
    refine (if_neg (c := (s.node a).role = .self ∨ w.role = .self) selfs).trans ?_
    simp only [down, bay, Bool.false_and, Bool.false_eq_true, if_false, Option.any_none]
    exact if_neg (by rw [show w.keepsNode (State.node { s with management := q } a) = true from keeps]; simp)
  subst hw
  rw [execNodeMap_written known running head kind payload check]
  refine congrArg (fun t : State => (Host.Outcome.next (t.sendStatus r _ []).deliverDue.arbitrate : Result)) ?_
  simp only [State.writeNode, bay]
  rw [show NodeWrite.keepsNode _ (State.node { s with management := q } a) = true from keeps, if_pos rfl, if_pos rfl]
  rfl
end

/-- Settles O47. -/
theorem mapAndFilterWrites : Obligations.MapAndFilterWrites := by
  unfold Obligations.MapAndFilterWrites
  refine ⟨?_, ?_, ?_⟩
  · intro s r q a b running head kind s' refused node fresh absent lost
    refine ⟨fun payload null broadcast unused post => ⟨fun closed => ?_, fun open_ => ?_⟩,
      fun payload null broadcast unused sensor closed => ?_, fun role p c payload entry down closed => ?_,
      fun p c payload inside entry unused only closed => ?_, fun p c payload inside unused entry => ?_,
      fun role p x payload up was => ?_⟩
    · exact (execNodeMap_joins running head kind payload rfl rfl null broadcast unused post).trans (if_pos closed)
    · exact (execNodeMap_joins running head kind payload rfl rfl null broadcast unused post).trans (if_neg open_)
    · exact (execNodeMap_joins running head kind payload rfl rfl null broadcast unused sensor).trans (if_pos closed)
    · rcases down with rfl | rfl
      · exact execNodeMap_leaves running head kind payload entry rfl closed
      · rw [execNodeMap_leaves running head kind payload entry rfl closed]
        exact congrArg (fun t : State => (Host.Outcome.next (t.sendStatus r .ok []).deliverDue.arbitrate : Result))
          (State.modBay_same rfl).symm
    · exact execNodeMap_moves running head kind payload inside entry unused only closed
    · exact execNodeMap_early running head kind payload inside unused entry
    · intro all entry
      have stored : (Permissions.ofNat p.toNat).stored role = entry.permissions := by
        rw [Permissions.ofNat_eq]
        rcases up with rfl | rfl <;> rfl
      rw [execNodeMap_uplink running head kind payload up was, stored]
      have status : (if (p.getLsbD 3 ∨ p.getLsbD 4) ∧ role ≠ .server then Status.clamped else .ok)
          = if (entry.permissions != Permissions.ofNat p.toNat) = true then .clamped else .ok := by
        rw [Permissions.ofNat_eq]
        rcases up with rfl | rfl
        · cases p.getLsbD 3 <;> cases p.getLsbD 4 <;> simp [entry, all]
        · simp [entry, all]
      rw [status]
  · intro s r q k act flags running head kind stored entry
    exact ⟨execKindFilter_one running head kind, fun act' flags' payload inside =>
      execKindFilter_two running head kind payload inside⟩
  · intro s r q own dest running head kind payload other self moved
    refine ⟨fun null broadcast unused => ?_, fun taken => ?_⟩
    · have free : s.ownFree own = true := by
        rw [State.ownFree, Bool.and_eq_true, Bool.and_eq_true, bne_iff_ne, bne_iff_ne, beq_iff_eq]
        exact ⟨⟨null, broadcast⟩, unused⟩
      rw [execControllerSettings_written running head kind payload (.inr free)]
      have moves : State.moveSelf { s with management := q } own = { s with management := q, nodes := moved } := if_neg other
      rw [moves]
      rfl
    · have free : s.ownFree own = false := by
        rw [State.ownFree, Bool.and_assoc, Bool.and_eq_false_iff, Bool.and_eq_false_iff, bne_eq_false_iff_eq, bne_eq_false_iff_eq, beq_eq_false_iff_ne]
        exact taken
      exact execControllerSettings_refused running head kind payload other free

end Sys2Proof.Machine
end

section
/-!
SUPPORT. The settings that act without a recompute (R57, R67, R142, R143, R160, R163, R165, R176).
-/
namespace Sys2Proof.Machine

/-! ## Bytes as written and as stored -/

theorem byteOf_eq_iff {n : Nat} {x : Byte} (small : n < 256) : byteOf n = x ↔ n = x.toNat := by
  rw [← BitVec.toNat_inj, byteOf, BitVec.toNat_ofNat, Nat.mod_eq_of_lt small]

theorem byteOf_clamp_iff {lo hi : Nat} {x : Byte} (order : lo ≤ hi) (small : hi < 256) :
    byteOf (clamp lo hi x.toNat) = x ↔ clamp lo hi x.toNat = x.toNat :=
  byteOf_eq_iff (by unfold clamp; omega)

theorem be16_clamp_iff {lo hi n : Nat} {x y : Byte} {rest : Prop} (order : lo ≤ hi) (small : hi < 65536) :
    (byteOf (clamp lo hi n / 256) = x ∧ byteOf (clamp lo hi n) = y ∧ rest)
      ↔ (clamp lo hi n = x.toNat * 256 + y.toNat ∧ rest) := by
  have bound : clamp lo hi n < 65536 := by unfold clamp; omega
  generalize clamp lo hi n = m at bound
  have low : byteOf m = byteOf (m % 256) := BitVec.eq_of_toNat_eq (by simp [byteOf])
  rw [low, byteOf_eq_iff (by omega), byteOf_eq_iff (Nat.mod_lt _ (by decide)), ← and_assoc]
  exact and_congr_left fun _ => by omega

theorem list_of_length_nine {e : List Byte} (length : e.length = 9) :
    ∃ a b c d f g h i j, e = [a, b, c, d, f, g, h, i, j] := by
  match e, length with
  | [a, b, c, d, f, g, h, i, j], _ => exact ⟨a, b, c, d, f, g, h, i, j, rfl⟩

theorem toNat_append_byte {n : Nat} (x : BitVec n) (y : Byte) : (x ++ y).toNat = x.toNat * 256 + y.toNat := by
  rw [BitVec.toNat_append, ← Nat.shiftLeft_add_eq_or_of_lt y.isLt, Nat.shiftLeft_eq]

/-! ## Timing Settings (R67, R142, R143) -/

/-- CLAMPED exactly where the row stored is not the row written. -/
theorem timingOf_clamped {e : List Byte} (length : e.length = 9) :
    (timingOf e).2 = decide (timingRow (timingOf e).1 ≠ e) := by
  obtain ⟨a, b, c, d, f, g, h, i, j, rfl⟩ := list_of_length_nine length
  have row : timingRow (timingOf [a, b, c, d, f, g, h, i, j]).1 = [a, b, c, d, f, g, h, i, j]
      ↔ (timingOf [a, b, c, d, f, g, h, i, j]).2 = false := by
    simp (disch := decide) only [timingRow, timingOf, clampTo, be16, byteAt, field16, List.getD_cons_zero, List.getD_cons_succ,
      List.cons_append, List.nil_append, List.cons.injEq, and_true, byteOf_clamp_iff, be16_clamp_iff, Bool.or_eq_false_iff,
      bne_eq_false_iff_eq, and_assoc]
  rw [Bool.eq_iff_iff, decide_eq_true_iff, ne_eq, row, Bool.not_eq_false]

/-- The deadlines of a bay, its debounce run ended and its post tested, after a write of the Timing Settings. -/
def State.retimed (s : State) (t : TimingSettings) : State :=
  { s with
    timing := t
    bays := s.bays.map (fun y => (State.retime { s with timing := t } y).modDyn BayDyn.endRun)
    nodes := s.nodes.map (NodeEntry.redue (s.now + secs t.pollInterval)) }

section
variable (s : State) (t : TimingSettings)

theorem downNodes_map {t : Table NodeEntry 256} {f : NodeEntry → NodeEntry} (role : ∀ e, (f e).role = e.role) :
    downNodes (t.map f) = (downNodes t).map (fun e => (e.1, f e.2)) := by
  have list : nodeList (t.map f) = (nodeList t).map (fun e => (e.1, f e.2)) := by
    simp only [nodeList, Table.map, List.zipIdx_map, List.map_map]
    rfl
  rw [downNodes, downNodes, list, List.filter_map]
  exact congrArg _ (List.filter_congr fun e _ => congrArg Role.isDown (role e.2))

theorem nodeOf_map {t : Table NodeEntry 256} {f : NodeEntry → NodeEntry} (role : ∀ e, (f e).role = e.role)
    (bay : ∀ e, (f e).bay = e.bay) (r : Role) (b : BayIx) :
    nodeOf (t.map f) r b = (nodeOf t r b).map (fun e => (e.1, f e.2)) := by
  rw [nodeOf, downNodes_map role, List.find?_map, nodeOf]
  refine congrArg _ (congrArg (List.find? · (downNodes t)) (funext fun e => ?_))
  simp only [Function.comp_apply, role, bay]

/-- A new due time has no say in whether a post is link-lost. -/
theorem State.retimed_linkLost (b : BayIx) : (s.retimed t).linkLostNow b = State.linkLostNow { s with timing := t } b := by
  have post : (s.retimed t).post b = (s.post b).map (fun e => (e.1, e.2.redue (s.now + secs t.pollInterval))) :=
    nodeOf_map (f := NodeEntry.redue (s.now + secs t.pollInterval)) (fun _ => rfl) (fun _ => rfl) .post b
  have posts : State.post { s with timing := t } b = s.post b := rfl
  unfold State.linkLostNow
  rw [post, posts]
  cases s.post b with
  | none => rfl
  | some x =>
    obtain ⟨a, ⟨role, p, bay, contact⟩⟩ := x
    cases contact <;> rfl

theorem State.writeTiming_eq : s.writeTiming t
    = (s.retimed t).eachBay (fun b => Bay.linkLossTest (State.linkLostNow { s with timing := t } b)) := by
  rw [State.writeTiming]
  refine (State.linkLossTests_eq (s.retimed t)).trans ?_
  simp only [State.retimed_linkLost]

theorem State.writeTiming_bay (b : BayIx) : (s.writeTiming t).bay b
    = ((State.retime { s with timing := t } (s.bay b)).modDyn BayDyn.endRun).linkLossTest
        (State.linkLostNow { s with timing := t } b) := by
  rw [State.writeTiming_eq, State.eachBay_bay]
  exact congrArg _ (Table.get_map s.bays _ b)

end

section
variable {s : State} {r : Request} {q : List Request} (running : s.heldInReset = false) (head : s.management = r :: q)
include running head

theorem execTimingSettings_runs {e : List Byte} (kind : r.kind = Kind.setTable) (length : e.length = 9)
    (payload : r.payload = 6 :: 0 :: e) : exec .timingSettings s
      = .next ((State.writeTiming { s with management := q } (timingOf e).1).sendStatus r
          (if timingRow (timingOf e).1 = e then .ok else .clamped) []).deliverDue.arbitrate := by
  have status : (if timingRow (timingOf e).1 = e then Status.ok else .clamped)
      = if (timingOf e).2 = true then .clamped else .ok := by
    rw [timingOf_clamped length, ← ite_not]
    simp only [decide_eq_true_iff, ne_eq]
  rw [exec_timingSettings, execTimingSettings, s.setTable_one (id := 6) (size := 9) (first := 0) (last := 0) (i := 0)
    writeTimingEntry running head kind payload rfl rfl length (by omega) le_rfl le_rfl, status]
  exact congrArg Host.Outcome.next (Ev.finish_status_onState _ _ r _)

theorem execSetTime_runs {a b c d : Byte} (kind : r.kind = Kind.control) (payload : r.payload = [8, a, b, c, d]) :
    exec .setTime s = .next (State.sendStatus { s with management := q, siteOffset := a ++ b ++ c ++ d } r .ok
        (be32w s.now ++ be32w (s.now + (a ++ b ++ c ++ d)))).deliverDue.arbitrate := by
  have field : BitVec.ofNat 32 (field32 r.payload 1) = a ++ b ++ c ++ d := by
    rw [payload]
    refine BitVec.eq_of_toNat_eq ?_
    rw [toNat_append_byte, toNat_append_byte, toNat_append_byte]
    simp only [field32, field16, byteAt, List.getD_cons_zero, List.getD_cons_succ, BitVec.toNat_ofNat]
    omega
  rw [show exec .setTime s = s.takeControl 8 5 Ev.timeRequest from rfl, s.takeControl_runs _ running head kind
    (by rw [payload]; rfl) (by simp [payload]) (by simp [payload]), Ev.timeRequest, field]
  exact congrArg Host.Outcome.next (Ev.finish_answer _ r _ _ rfl rfl rfl rfl)

/-- What a CLEAR-COUNTER long enough for its counter does (R165). -/
def Ev.clearCounterRequest (r : Request) (ev : Ev) : Ev :=
  if h : byteAt r.payload 1 < 2 then (ev.onState (·.clearCounter ⟨byteAt r.payload 1, h⟩)).status r .ok
  else ev.status r .badIndex

theorem execClearCounter_runs {x : Byte} (kind : r.kind = Kind.control) (payload : r.payload = [10, x]) :
    exec .clearCounter s = .next ((Ev.startRequest { s with management := q }).clearCounterRequest r).finish := by
  rw [show exec .clearCounter s = s.takeControl 10 2 Ev.clearCounterRequest from rfl]
  exact s.takeControl_runs _ running head kind (by rw [payload]; rfl) (by simp [payload]) (by simp [payload])

end

end Sys2Proof.Machine
end

section
/-!
SUPPORT. The Fault Settings write (R160, R163), and the statement on the settings that act without a recompute.
-/
namespace Sys2Proof.Machine

/-! ## Fault Settings (R160) -/

/-- A SET-TABLE of one entry that names its table and a start inside it. -/
theorem tableEntries_one {idb ib : Byte} {e : List Byte} {size first last : Nat} (length : e.length = size)
    (filled : 0 < size) (from_ : first ≤ ib.toNat) (to_ : ib.toNat ≤ last) :
    tableEntries (idb :: ib :: e) size first last = .ok (ib.toNat, [e]) := by
  have nonempty : e ≠ [] := by rintro rfl; simp at length; omega
  have one : splitEntries size e = [e] := by
    unfold splitEntries; rw [length, Nat.div_self filled]; subst length; simp
  unfold tableEntries
  simp only [byteAt, List.getD_cons_succ, List.getD_cons_zero, List.drop_succ_cons, List.drop_zero, List.length_cons,
    length, Nat.mod_self, Nat.div_self filled]
  rw [if_neg (by simp [nonempty]), if_neg (by omega), one]

theorem actionOf_eq (n : Nat) : actionOf n
    = (if n = 0 then .none else if n = 1 then .notice else .noticeAndLine, decide (2 < n)) := by
  unfold actionOf
  split
  · next h => subst h; rfl
  · split
    · next h => subst h; rfl
    · rfl

theorem faultSettingsOf_clamped (e : List Byte) : (faultSettingsOf e).2
    = ((List.range 16).any (fun k => byteAt e k % 4 = 3) || [16, 17, 18].any (fun k => 2 < byteAt e k)) := by
  simp only [faultSettingsOf, actionOf_eq, List.any_cons, List.any_nil, Bool.or_false, Bool.or_assoc]
  rfl

theorem faultSettingsOf_kinds (e : List Byte) (k : Fin 16) : (faultSettingsOf e).1.kinds.get k
    = ⟨(e.getD k.val 0).getLsbD 2, if byteAt e k.val % 4 = 0 then 0 else if byteAt e k.val % 4 = 1 then 1 else 2⟩ := by
  have stored : (faultSettingsOf e).1.kinds.get k = KindSetting.ofNat (byteAt e k.val) := by
    simp [faultSettingsOf, Table.get]
  rw [stored, KindSetting.ofNat]
  exact congrArg (KindSetting.mk · _) (bitAt_toNat (e.getD k.val 0) 2)

theorem faultSettingsOf_actions (e : List Byte) (v : Fin 3) : (faultSettingsOf e).1.actions.get v
    = if byteAt e (16 + v.val) = 0 then .none else if byteAt e (16 + v.val) = 1 then .notice else .noticeAndLine := by
  simp only [faultSettingsOf, actionOf_eq]
  match v with
  | 0 => rfl
  | 1 => rfl
  | 2 => rfl

theorem faultSettingsOf_selections (e : List Byte) (c : Fin 2) :
    ((faultSettingsOf e).1.selections.get c).toNat = field16 e (19 + 2 * c.val) := by
  have small : ∀ i, (BitVec.ofNat 16 (field16 e i)).toNat = field16 e i := fun i => by
    have hi : byteAt e i < 256 := (e.getD i 0).isLt
    have lo : byteAt e (i + 1) < 256 := (e.getD (i + 1) 0).isLt
    rw [BitVec.toNat_ofNat, Nat.mod_eq_of_lt (by unfold field16; omega)]
  match c with
  | 0 => exact small 19
  | 1 => exact small 21

/-- An event that answers a status and then changes the state alone. -/
theorem Ev.finish_status_then (s : State) (f : State → State) (r : Request) (st : Status) :
    (((Ev.startRequest s).status r st).onState f).finish = (f (s.sendStatus r st [])).deliverDue.arbitrate := by
  have leaves := (Ev.startRequest s).answer_leaves (s.buildAnswer r.src r.tag Kind.mgmtAnswer [r.kind, byteOf st.code])
  have answered : ((Ev.startRequest s).status r st).st = s.sendStatus r st [] := by
    unfold State.sendStatus State.sendAnswer
    split
    · next f built => 
      exact (congrArg (fun o => ((Ev.startRequest s).answer o).st) built).trans (Ev.answer_alone _ _ rfl)
    · next built => exact congrArg (fun o => ((Ev.startRequest s).answer o).st) built
  rw [Ev.finish_quiet (((Ev.startRequest s).status r st).onState f) leaves.1 leaves.2.1 leaves.2.2.1]
  exact congrArg (fun x => (f x).deliverDue.arbitrate) answered

theorem execFaultSettings_runs {s : State} {r : Request} {q : List Request} {e : List Byte} (running : s.heldInReset = false)
    (head : s.management = r :: q) (kind : r.kind = Kind.setTable) (length : e.length = 23) (payload : r.payload = 7 :: 0 :: e) :
    exec .faultSettings s = .next ((State.sendStatus { s with management := q } r
      (if (faultSettingsOf e).2 then .clamped else .ok) []).writeFaultSettings (faultSettingsOf e).1).deliverDue.arbitrate := by
  have entries : tableEntries r.payload 23 0 0 = .ok (0, [e]) := by
    rw [payload]; exact tableEntries_one length (by omega) (Nat.zero_le _) le_rfl
  rw [exec_faultSettings, execFaultSettings, s.takeManagement_runs _ _ running head (by simp [namesTable, kind, payload, byteAt]),
    Ev.writeFaults, entries]
  exact congrArg Host.Outcome.next (Ev.finish_status_then _ _ r _)

/-! ## The statement -/

/-- Settles O48. -/
theorem settingsWrites : Obligations.SettingsWrites := by
  unfold Obligations.SettingsWrites
  intro s r q e running head s'
  refine ⟨fun kind length payload => ?_, fun kind length payload => ?_, fun dest mode kind payload => ?_,
    fun a b c d kind payload => execSetTime_runs running head kind payload, fun c kind payload => ?_,
    fun x kind payload high => ?_⟩
  · intro t w lost
    have bay : ∀ b, w.bay b = ((State.retime { s with timing := t } (s.bay b)).modDyn BayDyn.endRun).linkLossTest
        (State.linkLostNow { s with timing := t } b) := fun b => State.writeTiming_bay s' t b
    have timer : ∀ b, (w.bay b).timer = (State.retime { s with timing := t } (s.bay b)).timer := fun b => by
      rw [bay, (Bay.linkLossTest_leaves _ _).2.1]; exact (Bay.modDyn_leaves _ _).2.2.2.2.1
    have delivery : ∀ b, (w.bay b).delivery = if lost b then (s.bay b).delivery.lose else (s.bay b).delivery := fun b => by
      have same : ((State.retime { s with timing := t } (s.bay b)).modDyn BayDyn.endRun).delivery = (s.bay b).delivery :=
        (Bay.modDyn_leaves _ _).2.2.2.2.2.2
      rw [bay, Bay.linkLossTest_delivery, same]
    have nodes : w.nodes = s.nodes.map (NodeEntry.redue (s.now + secs t.pollInterval)) :=
      congrArg State.nodes (State.writeTiming_eq s' t)
    refine ⟨execTimingSettings_runs running head kind length payload, ?_, ?_, fun a => ?_, fun b h active arrival => ?_,
      fun b h staged => ?_, fun b => ⟨fun is => ?_, fun not => ?_⟩⟩
    · show (s'.writeTiming t).timing = t
      rw [State.writeTiming_eq]; rfl
    · have bays : (s'.retimed t).bays.map Bay.config = s.bays.map Bay.config :=
        Table.ext_get fun b => by
          rw [Table.get_map, Table.get_map, State.retimed, Table.get_map]
          exact Bay.modDyn_config _ _
      have still : w.still = (s'.retimed t).still :=
        (congrArg State.still (State.writeTiming_eq s' t)).trans
          (State.eachBay_still fun b y => (Bay.linkLossTest_leaves _ y).1)
      rw [still, nodes]
      unfold State.still
      rw [bays]
      rfl
    · rw [State.node, nodes, Table.get_map]
      rfl
    · have arrived : h.arrived = true := by cases at_ : h.arrival <;> simp_all [Hold.arrived]
      rw [timer]
      simp only [State.retime, active, arrived, if_true]
      rfl
    · rw [timer]
      simp only [State.retime, staged]
      rfl
    · rw [delivery, if_pos is]; rfl
    · rw [delivery, if_neg not]
  · refine ⟨(faultSettingsOf e).1, faultSettingsOf_kinds e, faultSettingsOf_actions e, faultSettingsOf_selections e, ?_⟩
    rw [← faultSettingsOf_clamped]
    exact ⟨execFaultSettings_runs running head kind length payload, rfl, Recorder.alertLevel_iff _, rfl, rfl, rfl, rfl⟩
  · rw [execControllerSettings_written running head kind payload (.inl rfl)]
    have stays : State.moveSelf { s with management := q } s.controller.own = { s with management := q } := if_pos rfl
    rw [stays]
  · have named : byteAt r.payload 1 = c.val := by
      rw [payload]
      match c with
      | 0 => rfl
      | 1 => rfl
    rw [execClearCounter_runs running head kind payload]
    simp only [Ev.clearCounterRequest, named, c.isLt, dite_true]
    exact congrArg Host.Outcome.next (Ev.finish_status_onState _ _ r _)
  · have outside : ¬ byteAt r.payload 1 < 2 := by rw [payload]; exact Nat.not_lt.2 high
    rw [execClearCounter_runs running head kind payload, Ev.clearCounterRequest, dif_neg outside, Ev.finish_status]

end Sys2Proof.Machine
end

section
/-!
SUPPORT. The ceilings, which no recompute changes, and the Bay Configuration write (R147, R148, R173, R175).
-/
namespace Sys2Proof.Machine

/-! ## The ceilings -/

/-- The ceiling of every bay. -/
def State.ceilings (s : State) (b : BayIx) : Nat := (s.bay b).alloc.ceiling

theorem State.retarget_ceilings (s : State) : s.retarget.ceilings = s.ceilings := by
  funext b
  have alloc := ((s.bay b).admission_keeps s.now (s.rotates b) s.rotationValue (s.targets.any (fun e => e.1 == b))).2.2.1
  unfold State.ceilings
  rw [s.retarget_bay]
  dsimp only
  rw [(BayAlloc.retarget_keeps _ _).2.1, alloc]

theorem State.rotate_ceilings (s : State) (e : ChargeEntry) : (s.rotate e).ceilings = s.ceilings := by
  funext b
  unfold State.ceilings
  rw [s.rotate_bay]
  split <;> rfl

theorem State.settle_ceilings (s : State) : s.settle.ceilings = s.ceilings :=
  funext fun b => congrArg BayAlloc.ceiling (s.settle_alloc b)

theorem Talks.ceilings {s t : State} (talks : Talks s t) : t.ceilings = s.ceilings := by
  unfold Talks at talks
  rw [talks]; rfl

theorem Ev.recomputeFuel_ceilings (n : Nat) (ev : Ev) (ok : ev.books.Ok) :
    (Ev.recomputeFuel n ev).st.ceilings = ev.st.ceilings := by
  induction n generalizing ev with
  | zero => rfl
  | succ n ih =>
    have compared : ev.compareQueue.st.ceilings = ev.st.ceilings := by
      rw [Ev.compareQueue_ok ev ok]; exact ev.flushNotes_talks.ceilings
    have turn : (ev.compareQueue.onState State.retarget).st.ceilings = ev.st.ceilings :=
      (State.retarget_ceilings _).trans compared
    rw [Ev.recomputeFuel]
    split
    · exact turn
    · next e chosen =>
      have order : ((ev.compareQueue.onState State.retarget).onState (·.rotate e)).books.Ok := by
        rw [show ((ev.compareQueue.onState State.retarget).onState (·.rotate e)).books = ev.books from
          (State.rotate_books _ e).trans ((State.retarget_books _).trans (by
            rw [Ev.compareQueue_ok ev ok]; exact ev.flushNotes_books))]
        exact ok
      exact (ih _ order).trans ((State.rotate_ceilings _ e).trans turn)

/-- The end of an event that finds every record in order keeps the ceilings. -/
theorem Ev.finish_ceilings (ev : Ev) (scan : ev.scan = false ∨ ev.books.waitlist = []) (ok : ev.books.Ok) :
    ev.finish.ceilings = ev.st.ceilings := by
  obtain ⟨v, finish, _, _, books, _, same⟩ := ev.finish_recompute scan
  have ran : v.runRecompute.st.ceilings = v.st.ceilings := by
    unfold Ev.runRecompute
    split
    · have fueled := Ev.recomputeFuel_ceilings 130 v (by rw [books]; exact ok)
      generalize Ev.recomputeFuel (129 + 1) v = x at fueled ⊢
      exact fueled
    · rfl
  rw [finish, State.settle_ceilings, (Ev.flushNotes_talks v.runRecompute).ceilings, ran, same]
  exact ev.flushNotes_talks.ceilings

/-- The end of an event that compares no record, or finds every record in order, keeps records and ceilings. -/
theorem Ev.finish_keeps (ev : Ev) (notes : ev.notes = []) (scan : ev.scan = false)
    (quiet : ev.recompute = false ∨ ev.st.AllOk ∨ ev.st.allocator.queue = []) :
    ev.finish.dyns = ev.st.dyns ∧ ev.finish.ceilings = ev.st.ceilings := by
  rcases quiet with calm | ok | empty
  · rw [Ev.finish_quiet ev notes scan calm]
    exact ⟨ev.st.settle_sameRecords.dyns, ev.st.settle_ceilings⟩
  · exact ⟨(ev.finish_sameRecords (.inl scan) (.inr ok)).dyns, ev.finish_ceilings (.inl scan) ok⟩
  · cases owed : ev.recompute with
    | false =>
      rw [Ev.finish_quiet ev notes scan owed]
      exact ⟨ev.st.settle_sameRecords.dyns, ev.st.settle_ceilings⟩
    | true =>
      rw [Ev.finish_emptied notes scan owed empty]
      exact ⟨(ev.st.retarget_sameRecords.trans (State.settle_sameRecords _)).dyns, (State.settle_ceilings _).trans (State.retarget_ceilings _)⟩

end Sys2Proof.Machine
end

section
/-!
SUPPORT. The Bay Configuration write (R147, R148, R173, R175).
-/
namespace Sys2Proof.Machine

/-! ## An event that changes the configuration of a bay -/

theorem State.modBay_modBay (s : State) (b : BayIx) (f g : Bay → Bay) :
    (s.modBay b f).modBay b g = s.modBay b (fun y => g (f y)) := by
  have bays : (s.bays.modify b f).modify b g = s.bays.modify b (fun y => g (f y)) := by
    refine Table.ext_get fun c => ?_
    by_cases same : c = b
    · subst same; simp
    · simp only [Table.get_modify_other _ _ same]
  simp only [State.modBay, bays]

/-- An event that has changed one bay by `f`, which keeps its record, and whatever a change of the Charge Queue brings. -/
structure Ev.Configures (s : State) (q : List Request) (b : BayIx) (f : Bay → Bay) (ev : Ev) : Prop where
  books : ev.books = (({ s with management := q } : State).modBay b f).books
  voice : ev.voice.uplink = s.uplink
  desk : ev.desk = .clear

/-- What is left of a Bay Configuration write of one bay, the answer placed. -/
structure State.Configured (s : State) (r : Request) (q : List Request) (b : BayIx) (k : BayConfig) (st : Status) (t : State) :
    Prop where
  config : (t.bay b).config = k
  others : ∀ d, d ≠ b → (t.bay d).config = (s.bay d).config
  dyns : t.dyns = s.dyns
  still : t.still = { s.still with management := q, bays := t.bays.map Bay.config }
  answers : s.Answers t r Kind.mgmtAnswer [r.kind, byteOf st.code]

section
variable {s : State} {r : Request} {q : List Request} {b : BayIx} {f : Bay → Bay} {ev : Ev}

theorem Ev.Configures.ends (written : ev.Configures s q b f) (keeps : ∀ y, (f y).dyn = y.dyn ∧ (f y).check = y.check)
    (quiet : ev.recompute = false ∨ s.AllOk ∨ ev.st.allocator.queue = []) (st : Status) :
    s.Configured r q b (f (s.bay b)).config st (ev.status r st).finish
      ∧ (ev.status r st).finish.ceilings = ev.st.ceilings := by
  have bay : ∀ d, (({ s with management := q } : State).modBay b f).bay d = if d = b then f (s.bay d) else s.bay d :=
    fun d => State.bay_modBay _ b d f
  have leaves := ev.answer_leaves (ev.st.buildAnswer r.src r.tag Kind.mgmtAnswer [r.kind, byteOf st.code])
  have talks := ev.answer_talks (ev.st.buildAnswer r.src r.tag Kind.mgmtAnswer [r.kind, byteOf st.code])
  have notes : ev.notes = [] := congrArg Desk.notes written.desk
  have scan : ev.scan = false := congrArg Desk.scan written.desk
  have dyn : ∀ d, (ev.st.bay d).dyn = (s.bay d).dyn := fun d => by
    refine (congrArg (fun k : Books => (k.bays d).dyn) written.books).trans ((congrArg Bay.dyn (bay d)).trans ?_)
    split
    · exact (keeps _).1
    · rfl
  have ok : s.AllOk → (ev.status r st).st.AllOk := fun ok => talks.sameRecords.allOk fun d => by
    refine (congrArg (fun k : Books => (k.bays d).ok) written.books).trans ((congrArg Bay.checkOk (bay d)).trans ?_)
    split
    · simp only [Bay.checkOk, (keeps _).1, (keeps _).2]; exact ok d
    · exact ok d
  have ends := (ev.status r st).finish_keeps (leaves.1.trans notes) (leaves.2.1.trans scan)
    (quiet.imp (leaves.2.2.1.trans ·) (Or.imp ok (fun empty => by
      unfold Talks at talks
      rw [show (ev.status r st).st = _ from talks]; exact empty)))
  have still : (ev.status r st).finish.still = (({ s with management := q } : State).modBay b f).still :=
    (ev.finish_status_still r st).trans (congrArg Books.still written.books)
  have bays : ∀ d, ((ev.status r st).finish.bay d).config = ((({ s with management := q } : State).modBay b f).bay d).config :=
    State.config_of_still (congrArg Still.bays still)
  refine ⟨⟨?_, fun d other => ?_, ?_, ?_, ?_⟩, ends.2.trans talks.ceilings⟩
  · rw [bays, bay, if_pos rfl]
  · rw [bays, bay, if_neg other]
  · rw [ends.1, show (ev.status r st).st.dyns = ev.st.dyns from talks.sameRecords.dyns, State.dyns_eq, State.dyns_eq]
    exact List.map_congr_left fun d _ => dyn d
  · have own : (ev.status r st).finish.bays.map Bay.config = (ev.status r st).finish.still.bays := rfl
    rw [own, still]
    rfl
  · exact State.Answers_of_voice _ _ written.voice (congrArg (fun k : Books => k.still.controller) written.books)

end

/-! ## The events of the write -/

/-- Class, post maximum and ceiling of a bay written. -/
def Bay.reconfigured (c : BayClass) (m : Nat) (y : Bay) : Bay :=
  { y with cls := c, postMax := m, alloc := { y.alloc with ceiling := m } }

/-- The allot enable of a bay written, with the allocator's copy of it. -/
def Bay.enabled (v : Bool) (y : Bay) : Bay :=
  if y.allotEnable = v then y else { y with allotEnable := v, alloc := { y.alloc with enableCopy := v } }

/-- The saved mask entry of a bay written. -/
def Bay.masked (v : Bool) (y : Bay) : Bay := { y with savedMask := v }

section
variable {s : State} {q : List Request} {b : BayIx}

theorem State.modBay_congr {s : State} {b : BayIx} {f g : Bay → Bay} (same : f (s.bay b) = g (s.bay b)) :
    s.modBay b f = s.modBay b g := by
  show ({ s with bays := s.bays.set b (f (s.bay b)) } : State) = { s with bays := s.bays.set b (g (s.bay b)) }
  rw [same]

/-- An event that has only changed one bay. -/
structure Ev.Changes (s : State) (q : List Request) (b : BayIx) (f : Bay → Bay) (ev : Ev) : Prop where
  st : ev.st = ({ s with management := q } : State).modBay b f
  voice : ev.voice.uplink = s.uplink
  desk : ev.desk = .clear

theorem Ev.start_changes : (s.managing q).Changes s q b (fun y => y) :=
  ⟨(State.modBay_same (s := ({ s with management := q } : State)) (b := b) (f := fun y => y) rfl).symm, rfl, rfl⟩

variable {f g : Bay → Bay} {ev : Ev} {v : Bool}

theorem Ev.Changes.configures (changes : ev.Changes s q b f) : ev.Configures s q b f :=
  ⟨congrArg State.books changes.st, changes.voice, changes.desk⟩

theorem Ev.Changes.bay (changes : ev.Changes s q b f) : ev.bay b = f (s.bay b) := by
  rw [Ev.bay, changes.st]; exact State.bay_modBay_same _ b f

theorem Ev.configureBay_changes (c : BayClass) (m : Nat) :
    ((s.managing q).configureBay b c m).Changes s q b (Bay.reconfigured c m) := by
  have written := State.bay_modBay_same ({ s with management := q } : State) b (fun y => { y with cls := c, postMax := m })
  unfold Ev.configureBay Ev.setCeiling
  split
  · next same =>
    refine ⟨State.modBay_congr ?_, rfl, rfl⟩
    have same : (s.bay b).alloc.ceiling = m := (congrArg (fun y : Bay => y.alloc.ceiling) written).symm.trans same
    show ({ s.bay b with cls := c, postMax := m } : Bay) = Bay.reconfigured c m (s.bay b)
    unfold Bay.reconfigured
    rw [← same]
  · exact ⟨State.modBay_modBay _ b _ _, rfl, rfl⟩

/-- While the part is suspended the saved mask alone is written. -/
theorem Ev.setEnable_masks (changes : ev.Changes s q b f) (suspended : s.suspension.suspended = true) :
    (ev.setEnable b v).Changes s q b (fun y => Bay.masked v (f y)) := by
  have on : ev.st.suspension.suspended = true := by rw [changes.st]; exact suspended
  unfold Ev.setEnable
  rw [if_pos on]
  refine ⟨?_, changes.voice, changes.desk⟩
  show ev.st.modBay b _ = _
  rw [changes.st]
  exact State.modBay_modBay _ b f _

theorem Ev.syncQueue_ceiling (ev : Ev) (b : BayIx) : ((ev.syncQueue b).bay b).alloc.ceiling = (ev.bay b).alloc.ceiling
    ∨ ((ev.syncQueue b).bay b).alloc.ceiling = (ev.bay b).postMax := by
  have joined : ((ev.join b).bay b).alloc.ceiling = (ev.bay b).postMax :=
    congrArg (fun y : Bay => y.alloc.ceiling) (State.bay_modBay_same _ b _)
  have left : ((ev.leave b).bay b).alloc.ceiling = (ev.bay b).postMax :=
    (congrArg (fun y : Bay => y.alloc.ceiling) (State.bay_modBay_same _ b _)).trans
      (congrArg (fun y : Bay => y.alloc.ceiling) (State.bay_modBay_same _ b _))
  unfold Ev.syncQueue
  split
  · split
    · exact .inl rfl
    · exact .inr joined
  · split
    · exact .inr left
    · exact .inl rfl

/-- Otherwise the allot enable is written, and the bay joins or leaves the Charge Queue. -/
theorem Ev.setEnable_enables (changes : ev.Changes s q b f) (free : s.suspension.suspended = false) :
    (ev.setEnable b v).Configures s q b (fun y => Bay.enabled v (f y))
      ∧ (((ev.setEnable b v).bay b).alloc.ceiling = (f (s.bay b)).alloc.ceiling
        ∨ ((ev.setEnable b v).bay b).alloc.ceiling = (f (s.bay b)).postMax) := by
  have off : ¬ ev.st.suspension.suspended = true := by
    rw [changes.st]
    exact fun on => Bool.false_ne_true (free.symm.trans on)
  unfold Ev.setEnable
  rw [if_neg off, changes.bay]
  split
  · next same =>
    have unchanged : ev.Changes s q b (fun y => Bay.enabled v (f y)) :=
      ⟨changes.st.trans (State.modBay_congr (if_pos same).symm), changes.voice, changes.desk⟩
    exact ⟨unchanged.configures, .inl (congrArg (fun y : Bay => y.alloc.ceiling) changes.bay)⟩
  · next differs =>
    generalize before : (ev.onState (·.modBay b (fun y => { y with allotEnable := v }))).modAlloc b
      (fun a => { a with enableCopy := v }) = x
    have enables : x.Changes s q b (fun y => Bay.enabled v (f y)) := by
      subst before
      refine ⟨?_, changes.voice, changes.desk⟩
      show (ev.st.modBay b _).modBay b _ = _
      rw [changes.st, State.modBay_modBay, State.modBay_modBay]
      exact State.modBay_congr (if_neg differs).symm
    have bay : x.bay b = { f (s.bay b) with allotEnable := v, alloc := { (f (s.bay b)).alloc with enableCopy := v } } :=
      enables.bay.trans (if_neg differs)
    refine ⟨⟨(x.syncQueue_books b).trans enables.configures.books, ?_, (x.syncQueue_desk b).trans enables.desk⟩, ?_⟩
    · exact (congrArg Voice.uplink (x.syncQueue_voice b)).trans enables.voice
    · rcases x.syncQueue_ceiling b with same | same
      · exact .inl (same.trans (by rw [bay]))
      · exact .inr (same.trans (by rw [bay]))

end

end Sys2Proof.Machine
end

section
/-!
SUPPORT. The entry of a Bay Configuration write, and the statement on it (R147, R148, R173, R175).
-/
namespace Sys2Proof.Machine

/-! ## The entry -/

theorem BayClass.ofNat?_byteOf (c : BayClass) : BayClass.ofNat? (byteOf c.ix.val).toNat = some c := by cases c <;> rfl

section
variable {b : BayIx} {c : BayClass} {hi lo v : Byte} {ev : Ev}

/-- The post maximum as stored. -/
def storedMax (hi lo : Byte) : Nat := clamp 60 800 (hi.toNat * 256 + lo.toNat)

theorem writeBayEntry_eq : writeBayEntry ev (b.val + 1) [byteOf c.ix.val, hi, lo, v]
    = if 1 < v.toNat then .error .badIndex
      else if (ev.bay b).cls = c ∧ (ev.bay b).postMax = storedMax hi lo then
        .ok (ev.setEnable b (v == 1), storedMax hi lo != hi.toNat * 256 + lo.toNat)
      else if (ev.bay b).dyn.state = .closed then
        .ok ((ev.configureBay b c (storedMax hi lo)).setEnable b (v == 1), storedMax hi lo != hi.toNat * 256 + lo.toNat)
      else .error .bayInUse := by
  have named : bayOfNo (b.val + 1) = some b := (bayOfNo_iff _ b).2 rfl
  have cls : BayClass.ofNat? (byteAt [byteOf c.ix.val, hi, lo, v] 0) = some c := c.ofNat?_byteOf
  have on : (byteAt [byteOf c.ix.val, hi, lo, v] 3 == 1) = (v == 1) := by
    rw [Bool.eq_iff_iff, beq_iff_eq, beq_iff_eq]
    exact BitVec.toNat_inj (y := 1)
  simp only [writeBayEntry, named, cls, on]
  rfl

theorem writeBayEntry_badIndex (above : 1 < v.toNat) :
    writeBayEntry ev (b.val + 1) [byteOf c.ix.val, hi, lo, v] = .error .badIndex := writeBayEntry_eq.trans (if_pos above)

theorem writeBayEntry_bayInUse (within : v.toNat ≤ 1) (open_ : (ev.bay b).dyn.state ≠ .closed)
    (differs : (ev.bay b).cls ≠ c ∨ (ev.bay b).postMax ≠ storedMax hi lo) :
    writeBayEntry ev (b.val + 1) [byteOf c.ix.val, hi, lo, v] = .error .bayInUse := by
  rw [writeBayEntry_eq, if_neg (by omega), if_neg (fun same => differs.elim (· same.1) (· same.2)), if_neg open_]

end

section
variable {s : State} {r : Request} {q : List Request} {b : BayIx} {c : BayClass} {hi lo v : Byte}

/-- What an entry that is written does before the enable: nothing, or class, post maximum and ceiling. -/
theorem writeBayEntry_written (within : v.toNat ≤ 1)
    (writable : (s.bay b).dyn.state = .closed ∨ (s.bay b).cls = c ∧ (s.bay b).postMax = storedMax hi lo) :
    ∃ (ev : Ev) (f : Bay → Bay), writeBayEntry (s.managing q) (b.val + 1) [byteOf c.ix.val, hi, lo, v]
        = .ok (ev.setEnable b (v == 1), storedMax hi lo != hi.toNat * 256 + lo.toNat)
      ∧ ev.Changes s q b f ∧ (∀ y, (f y).dyn = y.dyn ∧ (f y).check = y.check)
      ∧ (f (s.bay b)).config = ⟨c, storedMax hi lo, (s.bay b).allotEnable, (s.bay b).savedMask⟩
      ∧ ((s.bay b).cls ≠ c ∨ (s.bay b).postMax ≠ storedMax hi lo → (f (s.bay b)).alloc.ceiling = storedMax hi lo) := by
  have entry := writeBayEntry_eq (ev := s.managing q) (b := b) (c := c) (hi := hi) (lo := lo) (v := v)
  rw [if_neg (by omega), show (s.managing q).bay b = s.bay b from rfl] at entry
  by_cases same : (s.bay b).cls = c ∧ (s.bay b).postMax = storedMax hi lo
  · rw [if_pos same] at entry
    refine ⟨_, fun y => y, entry, Ev.start_changes, fun _ => ⟨rfl, rfl⟩, ?_, fun differs => ?_⟩
    · rw [← same.1, ← same.2]; rfl
    · exact absurd same (fun same => differs.elim (· same.1) (· same.2))
  · have closed := writable.resolve_right same
    rw [if_neg same, if_pos closed] at entry
    exact ⟨_, _, entry, Ev.configureBay_changes c (storedMax hi lo), fun _ => ⟨rfl, rfl⟩, rfl, fun _ => rfl⟩

end

/-! ## The command -/

section
variable {s : State} {r : Request} {q : List Request} {b : BayIx} {c : BayClass} {hi lo v : Byte}
  (running : s.heldInReset = false) (head : s.management = r :: q) (kind : r.kind = Kind.setTable)
include running head kind

theorem execBayConfiguration_runs (payload : r.payload = [4, byteOf (b.val + 1), byteOf c.ix.val, hi, lo, v]) :
    exec .bayConfiguration s = .next (match writeBayEntry (s.managing q) (b.val + 1) [byteOf c.ix.val, hi, lo, v] with
      | .error st => ((s.managing q).status r st).finish
      | .ok (ev, clamped) => (ev.stored r clamped).finish) := by
  have number : (byteOf (b.val + 1)).toNat = b.val + 1 := by simp [byteOf]; omega
  exact (exec_bayConfiguration s).trans (s.setTable_one (id := 4) (size := 4) (first := 1) (last := 128) writeBayEntry running
    head kind payload rfl number rfl (by omega) (by omega) (by omega))

end

theorem Bay.enabled_config (v : Bool) (y : Bay) : (y.enabled v).config = { y.config with allotEnable := v } := by
  unfold Bay.enabled
  split
  · next same => rw [← same]; rfl
  · rfl

/-- The answer tells whether the post maximum was stored as written. -/
theorem clampedCode (m n : Nat) : (if (m != n) = true then Status.clamped else .ok).code = if m = n then 0 else 1 := by
  by_cases same : m = n
  · subst same; simp [Status.code]
  · simp [same, Status.code]

section
variable {s : State} {r : Request} {q : List Request} {b : BayIx} {c : BayClass} {hi lo v : Byte}
  (running : s.heldInReset = false) (head : s.management = r :: q) (kind : r.kind = Kind.setTable)
include running head kind

/-- A frame of two entries whose second is refused at a bay that is not CLOSED. -/
theorem execBayConfiguration_refused {b' : BayIx} {c' : BayClass} {hi' lo' v' : Byte} (next : b'.val = b.val + 1)
    (payload : r.payload = [4, byteOf (b.val + 1), byteOf c.ix.val, hi, lo, v, byteOf c'.ix.val, hi', lo', v'])
    (within : v.toNat ≤ 1) (within' : v'.toNat ≤ 1) (closed : (s.bay b).dyn.state = .closed)
    (open_ : (s.bay b').dyn.state ≠ .closed) (differs : (s.bay b').cls ≠ c' ∨ (s.bay b').postMax ≠ storedMax hi' lo') :
    exec .bayConfiguration s = s.refusedManagement r q .bayInUse := by
  have number : (byteOf (b.val + 1)).toNat = b.val + 1 := by simp [byteOf]; omega
  have other : b' ≠ b := fun same => by rw [same] at next; omega
  obtain ⟨ev, f, written, changes, _, _, _⟩ := writeBayEntry_written (s := s) (q := q) (c := c) (hi := hi) (lo := lo) within
    (.inl closed)
  have stays : ((ev.setEnable b (v == 1)).bay b').config = (s.bay b').config
      ∧ ((ev.setEnable b (v == 1)).bay b').dyn = (s.bay b').dyn := by
    have base : (({ s with management := q } : State).modBay b f).bay b' = s.bay b' := State.bay_modBay_other _ f other
    obtain ⟨g, same⟩ : ∃ g, (ev.setEnable b (v == 1)).books = (({ s with management := q } : State).modBay b g).books := by
      cases suspended : s.suspension.suspended with
      | true => exact ⟨_, (Ev.setEnable_masks changes suspended).configures.books⟩
      | false => exact ⟨_, (Ev.setEnable_enables changes suspended).1.books⟩
    have base : (({ s with management := q } : State).modBay b g).bay b' = s.bay b' := State.bay_modBay_other _ g other
    refine ⟨(State.config_of_still (congrArg (fun k : Books => k.still.bays) same) b').trans (congrArg Bay.config base), ?_⟩
    exact (congrArg (fun k : Books => (k.bays b').dyn) same).trans (congrArg Bay.dyn base)
  have refuses := writeBayEntry_bayInUse (ev := ev.setEnable b (v == 1)) (b := b') (c := c') (hi := hi') (lo := lo') within'
    (by rw [stays.2]; exact open_) (differs.imp
      (fun cls same => cls ((congrArg BayConfig.cls stays.1).symm.trans same))
      (fun max same => max ((congrArg BayConfig.postMax stays.1).symm.trans same)))
  rw [next] at refuses
  rw [exec_bayConfiguration, execBayConfiguration, s.setTable_two (id := 4) (size := 4) (first := 1) (last := 128)
    (e := [byteOf c.ix.val, hi, lo, v]) (e' := [byteOf c'.ix.val, hi', lo', v']) writeBayEntry running head kind payload rfl
    number rfl rfl (by omega) (by omega) (by omega),
    show writeBayEntry (Ev.startRequest { s with management := q }) (b.val + 1) [byteOf c.ix.val, hi, lo, v] = _ from written]
  dsimp only
  rw [refuses]
  exact congrArg Host.Outcome.next (Ev.finish_status _ r _)

end

/-- Settles O50. -/
theorem bayConfigurationWrite : Obligations.BayConfigurationWrite := by
  unfold Obligations.BayConfigurationWrite
  intro s r q b c hi lo v running head kind m status refused
  refine ⟨fun payload => ?_, fun b' c' hi' lo' v' next payload within within' closed open_ differs => ?_⟩
  · have run := execBayConfiguration_runs running head kind payload
    refine ⟨fun above => ?_, fun within suspended holds writable => ?_, fun within free ok writable => ?_,
      fun within open_ differs => ?_⟩
    · rw [run, writeBayEntry_badIndex above]
      exact congrArg Host.Outcome.next (Ev.finish_status _ r _)
    · obtain ⟨ev, f, written, changes, keeps, config, ceiling⟩ := writeBayEntry_written (q := q) within writable
      have masks := Ev.setEnable_masks (v := v == 1) changes suspended
      have queue : (ev.setEnable b (v == 1)).st.allocator.queue = [] := by rw [masks.st]; exact (holds.2 suspended).1
      obtain ⟨left, ceilings⟩ := masks.configures.ends (r := r) (fun y => keeps y) (.inr (.inr queue))
        (if (storedMax hi lo != hi.toNat * 256 + lo.toNat) = true then .clamped else .ok)
      rw [written] at run
      refine ⟨_, run, left.config.trans ?_, fun differs => ?_, left.others, left.dyns, left.still, ?_⟩
      · exact congrArg (fun k : BayConfig => (⟨k.cls, k.postMax, k.allotEnable, v == 1⟩ : BayConfig)) config
      · refine (congrFun ceilings b).trans ((congrArg (fun y : Bay => y.alloc.ceiling) masks.bay).trans ?_)
        exact ceiling differs
      · have answers := left.answers
        rw [clampedCode] at answers
        exact answers
    · obtain ⟨ev, f, written, changes, keeps, config, ceiling⟩ := writeBayEntry_written (q := q) within writable
      obtain ⟨enables, follows⟩ := Ev.setEnable_enables (v := v == 1) changes free
      obtain ⟨left, ceilings⟩ := enables.ends (r := r) (fun y => by
          unfold Bay.enabled; split
          · exact keeps y
          · exact keeps y) (.inr (.inl ok))
        (if (storedMax hi lo != hi.toNat * 256 + lo.toNat) = true then .clamped else .ok)
      rw [written] at run
      refine ⟨_, run, left.config.trans ?_, fun differs => ?_, left.others, left.dyns, left.still, ?_⟩
      · rw [Bay.enabled_config]
        exact congrArg (fun k : BayConfig => (⟨k.cls, k.postMax, v == 1, k.savedMask⟩ : BayConfig)) config
      · refine (congrFun ceilings b).trans ?_
        rcases follows with same | same
        · exact same.trans (ceiling differs)
        · exact same.trans (congrArg BayConfig.postMax config)
      · have answers := left.answers
        rw [clampedCode] at answers
        exact answers
    · rw [run, writeBayEntry_bayInUse (ev := s.managing q) within open_ differs]
      exact congrArg Host.Outcome.next (Ev.finish_status _ r _)
  · exact execBayConfiguration_refused running head kind next payload within within' closed open_ differs

end Sys2Proof.Machine
end

section
/-!
SUPPORT. The recorder at the end of an event, and an error whose FAULT-NOTICE waits for the answer (R162).
-/
namespace Sys2Proof.Machine

/-! ## The recompute says nothing -/

theorem State.rotate_voice (s : State) (e : ChargeEntry) : (s.rotate e).recorder = s.recorder
    ∧ (s.rotate e).uplink = s.uplink ∧ (s.rotate e).noticeTag = s.noticeTag := ⟨rfl, rfl, rfl⟩

theorem Ev.onState_notes (ev : Ev) (f : State → State) : (ev.onState f).notes = ev.notes := rfl

theorem Ev.retarget_voice (ev : Ev) : (ev.onState State.retarget).voice = ev.voice := by
  have said := ev.st.retarget_voice
  unfold Ev.onState
  generalize ev.st.retarget = u at said ⊢
  obtain ⟨recorder, uplink, tag⟩ := said
  unfold Ev.voice
  dsimp only
  rw [recorder, uplink, tag]

theorem Ev.recomputeFuel_voice (n : Nat) (ev : Ev) (notes : ev.notes = []) (ok : ev.books.Ok) :
    (Ev.recomputeFuel n ev).voice = ev.voice ∧ (Ev.recomputeFuel n ev).notes = [] := by
  induction n generalizing ev with
  | zero => exact ⟨rfl, notes⟩
  | succ n ih =>
    have compared : ev.compareQueue = ev := (Ev.compareQueue_ok ev ok).trans (ev.flushNotes_fixed notes)
    have turn : (ev.compareQueue.onState State.retarget).voice = ev.voice := by rw [Ev.retarget_voice, compared]
    have quiet : (ev.compareQueue.onState State.retarget).notes = [] := by rw [Ev.onState_notes, compared, notes]
    have books : (ev.compareQueue.onState State.retarget).books = ev.books :=
      (State.retarget_books _).trans (congrArg Ev.books compared)
    unfold Ev.recomputeFuel; dsimp only
    split
    · exact ⟨turn, quiet⟩
    · next e chosen =>
      generalize ev.compareQueue.onState State.retarget = x at turn quiet books
      obtain ⟨voice, rest⟩ := ih (x.onState (·.rotate e)) quiet (by
        rw [show (x.onState (·.rotate e)).books = ev.books from (State.rotate_books _ e).trans books]
        exact ok)
      exact ⟨voice.trans turn, rest⟩

/-- What an event that compares no record, or finds every record in order, has said when it ends: its BAY-NOTICEs last. -/
theorem Ev.finish_voice (ev : Ev) (scan : ev.scan = false ∨ ev.books.waitlist = [])
    (quiet : ev.recompute = false ∨ ev.books.Ok) :
    ev.finish.recorder = ev.flushNotes.st.recorder ∧ ev.finish.uplink = ev.flushNotes.st.uplink
      ∧ ev.finish.noticeTag = ev.flushNotes.st.noticeTag := by
  obtain ⟨v, finish, recompute, notes, books, _, same⟩ := ev.finish_recompute scan
  have ran : v.runRecompute.voice = v.voice ∧ v.runRecompute.notes = [] := by
    unfold Ev.runRecompute
    split
    · next owed =>
      have ok : v.books.Ok := by
        rw [books]
        exact quiet.resolve_left fun calm => by rw [recompute, calm] at owed; cases owed
      have fueled := Ev.recomputeFuel_voice 130 v notes ok
      generalize Ev.recomputeFuel (129 + 1) v = x at fueled ⊢
      exact fueled
    · exact ⟨rfl, notes⟩
  have voice : v.voice = ev.flushNotes.voice := by rw [same]; rfl
  rw [finish, Ev.flushNotes_none ran.2, State.settle_recorder, State.settle_uplink,
    show v.runRecompute.st.settle.noticeTag = v.runRecompute.st.noticeTag from
      v.runRecompute.st.deliverDue.arbitrate_leaves.2.2.2.2.2.2.2.2.2.2.1]
  have all := ran.1.trans voice
  exact ⟨congrArg Voice.recorder all, congrArg Voice.uplink all, congrArg Voice.tag all⟩

end Sys2Proof.Machine
end

section
/-!
SUPPORT. An error that an event reports, counted from the state the event began in: its FAULT-NOTICE placed, or waiting for
the answer (R159, R162).
-/
namespace Sys2Proof.Machine

/-- The voice of an event from `s` that has reported an error and keeps its FAULT-NOTICE behind its answer. -/
def State.erred (s : State) (e : ErrorReport) : Voice :=
  ⟨(s.recordError e).1.noticeTag, s.uplink, (s.recordError e).1.recorder, true, (s.recordError e).2.toList⟩

/-- What the report of an error goes by. -/
structure SameReports (s u : State) : Prop where
  recorder : u.recorder = s.recorder
  tag : u.noticeTag = s.noticeTag
  now : u.now = s.now
  site : u.siteOffset = s.siteOffset
  controller : u.controller = s.controller

theorem SameReports.recordError {s u : State} (h : SameReports s u) (e : ErrorReport) :
    (u.recordError e).1.recorder = (s.recordError e).1.recorder ∧ (u.recordError e).1.noticeTag = (s.recordError e).1.noticeTag
      ∧ (u.recordError e).2 = (s.recordError e).2 := by
  obtain ⟨recorder, tag, now, site, controller⟩ := h
  have notifies : u.notifies e ↔ s.notifies e := by unfold State.notifies; rw [recorder, controller]
  have frame : u.faultNotice e = s.faultNotice e := by
    unfold State.faultNotice; rw [faultNoticePayload_eq, faultNoticePayload_eq, controller, tag, recorder, now, site]
  refine ⟨by rw [State.recordError_recorder, State.recordError_recorder, recorder, now], ?_⟩
  by_cases told : s.notifies e
  · obtain ⟨tagS, frameS⟩ := State.recordError_told told
    obtain ⟨tagU, frameU⟩ := State.recordError_told (notifies.2 told)
    exact ⟨by rw [tagU, tagS, tag], by rw [frameU, frameS, frame]⟩
  · obtain ⟨tagS, frameS⟩ := State.recordError_untold told
    obtain ⟨tagU, frameU⟩ := State.recordError_untold (fun h => told (notifies.1 h))
    exact ⟨by rw [tagU, tagS, tag], by rw [frameU, frameS]⟩

section
variable {s : State} {ev : Ev}

theorem Ev.reports (tag : ev.voice.tag = s.noticeTag) (recorder : ev.voice.recorder = s.recorder)
    (now : ev.books.still.now = s.now) (site : ev.books.still.siteOffset = s.siteOffset)
    (controller : ev.books.still.controller = s.controller) : SameReports s ev.st := ⟨recorder, tag, now, site, controller⟩

/-- An error reported while the answer is awaited. -/
theorem Ev.log_erred (voice : ev.voice = s.waits 0 []) (now : ev.books.still.now = s.now)
    (site : ev.books.still.siteOffset = s.siteOffset) (controller : ev.books.still.controller = s.controller)
    (e : ErrorReport) : (ev.log e).voice = s.erred e := by
  have zero : s.noticeTag + byteOf 0 = s.noticeTag := BitVec.add_zero _
  obtain ⟨recorder, tag, frame⟩ := (Ev.reports ((congrArg Voice.tag voice).trans zero) (congrArg Voice.recorder voice) now
    site controller).recordError e
  have uplink : (ev.st.recordError e).1.uplink = s.uplink :=
    (State.recordError_uplink _ e).trans (congrArg Voice.uplink voice)
  have buffering : ev.buffering = true := congrArg Voice.buffering voice
  have buffer : ev.buffer = [] := congrArg Voice.buffer voice
  unfold Ev.log
  dsimp only
  rw [frame]
  unfold State.erred
  cases (s.recordError e).2 with
  | none =>
    unfold Ev.placeOpt Ev.voice
    dsimp only
    rw [recorder, tag, uplink, buffering, buffer]; rfl
  | some f =>
    unfold Ev.placeOpt Ev.place
    dsimp only
    rw [if_pos buffering]
    unfold Ev.voice
    dsimp only
    rw [recorder, tag, uplink, buffering, buffer]; rfl

/-- An error reported by an event that answers no request. -/
theorem Ev.log_placed (voice : ev.voice = s.placed 0 []) (now : ev.books.still.now = s.now)
    (site : ev.books.still.siteOffset = s.siteOffset) (controller : ev.books.still.controller = s.controller)
    (e : ErrorReport) : (ev.log e).voice = (s.logError e).placed 0 [] := by
  have zero (t : State) : t.noticeTag + byteOf 0 = t.noticeTag := BitVec.add_zero _
  have waiting : s.uplink = { s.uplink with fifo := s.uplink.fifo ++ [] } := by rw [List.append_nil]
  have uplink : ev.st.uplink = s.uplink := (congrArg Voice.uplink voice).trans waiting.symm
  have same : SameErrors s ev.st := ⟨congrArg Voice.recorder voice, congrArg UplinkPort.fifo uplink,
    (congrArg Voice.tag voice).trans (zero s), now, site, controller⟩
  obtain ⟨recorder, fifo, tag⟩ := same.logError e
  have st := ev.log_st e (congrArg Voice.buffering voice)
  have kept : (ev.log e).buffering = false ∧ (ev.log e).buffer = [] := by
    have buffering : ev.buffering = false := congrArg Voice.buffering voice
    have buffer : ev.buffer = [] := congrArg Voice.buffer voice
    unfold Ev.log
    dsimp only
    cases (ev.st.recordError e).2 with
    | none => exact ⟨buffering, buffer⟩
    | some f =>
      unfold Ev.placeOpt Ev.place
      dsimp only
      rw [if_neg (by rw [buffering]; exact Bool.false_ne_true)]
      exact ⟨buffering, buffer⟩
  have port : (ev.st.logError e).uplink = { (s.logError e).uplink with fifo := (s.logError e).uplink.fifo ++ [] } := by
    rw [State.logError_uplink, fifo, uplink, s.logError_uplink e, List.append_nil]
  unfold Ev.voice State.placed
  rw [st, kept.1, kept.2, recorder, tag, port, zero]

theorem State.pushUplink_reports (s : State) (f : Frame) : SameReports s (s.pushUplink f) := ⟨rfl, rfl, rfl, rfl, rfl⟩

theorem State.erred_buffer (s : State) (e : ErrorReport) : (s.erred e).buffer.length ≤ 1 := by
  unfold State.erred
  cases (s.recordError e).2 <;> simp

/-- The answer is placed, and behind it the FAULT-NOTICE. -/
theorem Ev.answer_erred {e : ErrorReport} (voice : ev.voice = s.erred e) (a : Frame)
    (room : s.uplink.fifo.length + 2 ≤ 32) : (ev.answer (some a)).voice = ((s.placeUplink a).logError e).placed 0 [] := by
  have zero (t : State) : t.noticeTag + byteOf 0 = t.noticeTag := BitVec.add_zero _
  have uplink : ev.st.uplink = s.uplink := congrArg Voice.uplink voice
  have buffer : ev.buffer = (s.recordError e).2.toList := congrArg Voice.buffer voice
  have bound := s.erred_buffer e
  rw [Ev.answer_voice ev a (by
    rw [uplink, buffer, List.length_cons]
    have bound : (s.recordError e).2.toList.length ≤ 1 := bound
    omega), show ev.st.noticeTag = (s.recordError e).1.noticeTag from congrArg Voice.tag voice,
    show ev.st.recorder = (s.recordError e).1.recorder from congrArg Voice.recorder voice, uplink, buffer,
    State.placeUplink_room a (by omega)]
  obtain ⟨recorder, tag, frame⟩ := (s.pushUplink_reports a).recordError e
  have port : ((s.pushUplink a).recordError e).1.uplink = { s.uplink with fifo := s.uplink.fifo ++ [a] } :=
    State.recordError_uplink _ e
  unfold State.placed State.logError
  rw [frame]
  cases (s.recordError e).2 with
  | none =>
    dsimp only [Option.toList]
    rw [zero, recorder, tag, port, List.append_nil]
  | some f =>
    dsimp only [Option.toList]
    rw [State.placeUplink_room f (by rw [port]; simp; omega)]
    unfold State.pushUplink
    dsimp only
    have fold : ({ s with uplink := { s.uplink with fifo := s.uplink.fifo ++ [a] } } : State) = s.pushUplink a := rfl
    rw [fold, recorder, tag, port, List.append_nil, List.append_assoc]
    exact congrArg (Voice.mk · _ _ _ _) (zero _).symm

end

end Sys2Proof.Machine
end

section
/-!
SUPPORT. Writes that end their event with a recompute (R76, R77, R85, R95, R174): the Class Table and the external cap, and
what every such event leaves.
-/
namespace Sys2Proof.Machine

/-! ## An event that owes a recompute -/

theorem foldl_keeps {α β γ : Type} {f : α → β → α} (g : α → γ) (keeps : ∀ a b, g (f a b) = g a) (l : List β) (a : α) :
    g (l.foldl f a) = g a := by
  induction l generalizing a with
  | nil => rfl
  | cons b l ih => rw [List.foldl_cons, ih, keeps]

/-- What is left of an event that answers a status and owes a recompute, whatever the records are like. -/
theorem Ev.recomputed {s : State} {r : Request} {ev : Ev} {k : Still} (owed : ev.recompute = true) (still : ev.st.still = k)
    (uplink : ev.st.uplink = s.uplink) (controller : k.controller = s.controller) (st : Status) :
    (ev.status r st).finish.WithinBudget ∧ (ev.status r st).finish.still = k
      ∧ s.Answers (ev.status r st).finish r Kind.mgmtAnswer [r.kind, byteOf st.code] :=
  ⟨Ev.finish_recomputed _ ((ev.answer_leaves _).2.2.1.trans owed), (ev.finish_status_still r st).trans still,
    ev.finish_status_answers s r st uplink ((congrArg Still.controller still).trans controller)⟩

/-- A status that tells whether values were stored as written. -/
theorem storedCode (c : Bool) : byteOf (if c = true then Status.clamped else .ok).code = if c then 1 else 0 := by
  cases c <;> rfl

/-! ## Class Table (R174) -/

theorem State.setRotation_uplink (s : State) (b : BayIx) (v : Time) : (s.setRotation b v).uplink = s.uplink := by
  unfold State.setRotation; split <;> rfl

theorem State.modeWritten_uplink (s : State) (i : Fin 4) (b : BayIx) : (s.modeWritten i b).uplink = s.uplink := by
  unfold State.modeWritten State.freshRotation; dsimp only
  repeat' split
  all_goals first | rfl | exact State.setRotation_uplink _ _ _

section
variable {s : State} {r : Request} {q : List Request} {e : List Byte} (running : s.heldInReset = false)
  (head : s.management = r :: q)
include running head

theorem execClassTable_runs {c : BayClass} (kind : r.kind = Kind.setTable) (length : e.length = 9)
    (payload : r.payload = 3 :: byteOf c.ix.val :: e) : ∃ ev : Ev, ev.recompute = true
      ∧ ev.st.still = { s.still with management := q, classes := s.classes.set c.ix (classEntryOf e).1 }
      ∧ ev.st.uplink = s.uplink ∧ exec .classTable s
        = .next (ev.status r (if (classEntryOf e).2 then .clamped else .ok)).finish := by
  have number : (byteOf c.ix.val).toNat = c.ix.val := by cases c <;> rfl
  have small : c.ix.val ≤ 3 := by omega
  have slot : (⟨c.ix.val % 4, by omega⟩ : Fin 4) = c.ix := Fin.ext (Nat.mod_eq_of_lt (by omega))
  generalize stored : (s.managing q).onState (fun s => { s with classes := s.classes.set c.ix (classEntryOf e).1 }) = w
  have moved : Moves w (w.onState (fun s => allBays.foldl (·.modeWritten c.ix ·) s)) :=
    Moves.prims .refl (Prims.foldl (fun b h => h.modeWritten _ b) _ .refl)
  refine ⟨(w.onState (fun s => allBays.foldl (·.modeWritten c.ix ·) s)).wantRecompute, rfl, ?_, ?_, ?_⟩
  · have base : w.st.still = { s.still with management := q, classes := s.classes.set c.ix (classEntryOf e).1 } := by
      subst stored; rfl
    rw [Ev.wantRecompute_st]
    exact moved.still.trans base
  · have port (l : List BayIx) : (l.foldl (·.modeWritten c.ix ·) w.st).uplink = w.st.uplink :=
      foldl_keeps State.uplink (fun t b => t.modeWritten_uplink c.ix b) l w.st
    have base : w.st.uplink = s.uplink := by subst stored; rfl
    rw [Ev.wantRecompute_st]
    exact (port allBays).trans base
  · rw [exec_classTable, execClassTable, s.setTable_one (id := 3) (size := 9) (first := 0) (last := 3) writeClassEntry running
      head kind payload rfl number length (by omega) (Nat.zero_le _) small]
    subst stored
    simp only [writeClassEntry, slot]
    rfl

theorem execSetCap_runs (kind : r.kind = Kind.control) (length : e.length = 2) (payload : r.payload = 7 :: e) :
    exec .setCap s = .next (((s.managing q).onState (·.setCap (if field16 e 0 = 65535 then none
        else some (min 20000 (field16 e 0))))).wantRecompute.status r
          (if 20000 < field16 e 0 ∧ field16 e 0 ≠ 65535 then .clamped else .ok)).finish := by
  have value : field16 r.payload 1 = field16 e 0 := by rw [payload]; rfl
  rw [show exec .setCap s = s.takeControl 7 3 Ev.capRequest from rfl, s.takeControl_runs _ running head kind
    (by rw [payload]; rfl) (by simp [payload]) (by simp [payload, length])]
  unfold Ev.capRequest
  dsimp only
  rw [value]
  split
  · next gone =>
    have stored : ¬ (20000 < field16 e 0 ∧ field16 e 0 ≠ 65535) := fun h => h.2 gone
    rw [if_neg stored]
    rfl
  · next kept =>
    simp only [ne_eq, kept, not_false_eq_true, and_true, Ev.stored, decide_eq_true_eq]

end

/-- CLAMPED exactly where a value of the class entry is not stored as written. -/
theorem classEntryOf_clamped (e : List Byte) : (classEntryOf e).2
    = !([clamp 1 15 (byteAt e 0), clamp 30 480 (field16 e 3), clamp 1 60 (byteAt e 5)] == [byteAt e 0, field16 e 3, byteAt e 5]
      && decide (byteAt e 1 ≤ 1) && [6, 7, 8].all (fun k => decide (byteAt e k ≤ 3) || byteAt e k == 255)) := by
  simp only [classEntryOf, clampTo, substitutionPlace]
  rw [Bool.eq_iff_iff]
  simp only [Bool.or_eq_true, bne_iff_ne, ne_eq, decide_eq_true_eq, Bool.and_eq_true, List.cons_beq_cons,
    BEq.rfl, Bool.and_true, List.all_cons, List.all_nil, Bool.not_and, Bool.not_or, Bool.not_eq_eq_eq_not,
    Bool.not_true, beq_eq_false_iff_ne, decide_eq_false_iff_not, not_le]
  tauto

theorem classEntryOf_entry (e : List Byte) : (classEntryOf e).1
    = ⟨clamp 1 15 (byteAt e 0), if byteAt e 1 = 1 then .holdToEnd else .rotate, (e.getD 2 0).getLsbD 0,
        (e.getD 2 0).getLsbD 1, clamp 30 480 (field16 e 3), clamp 1 60 (byteAt e 5),
        ⟨[BayClass.ofNat? (byteAt e 6), BayClass.ofNat? (byteAt e 7), BayClass.ofNat? (byteAt e 8)], rfl⟩⟩ := by
  simp only [classEntryOf, ← bitAt_toNat]
  rfl

end Sys2Proof.Machine
end

section
/-!
SUPPORT. The Allocator Settings write (R76, R79, R82, R95), and the statement on the writes that recompute.
-/
namespace Sys2Proof.Machine

/-! ## What the write does, step by step -/

section
variable (ev : Ev)

theorem Ev.setCeiling_quiet (b : BayIx) (n : Nat) : (ev.setCeiling b n).feed = ev.feed
    ∧ (ev.setCeiling b n).voice = ev.voice ∧ (ev.setCeiling b n).desk = ev.desk ∧ (ev.setCeiling b n).books = ev.books := by
  unfold Ev.setCeiling
  split
  · exact ⟨rfl, rfl, rfl, rfl⟩
  · refine ⟨?_, rfl, rfl, ?_⟩
    · exact State.modAlloc_feed ev.st b fun a => ⟨rfl, rfl, rfl⟩
    · exact Ev.modAlloc_books ev b _

theorem Ev.raiseCeiling_quiet (m : Nat) (b : BayIx) : (ev.raiseCeiling m b).feed = ev.feed
    ∧ (ev.raiseCeiling m b).voice = ev.voice ∧ (ev.raiseCeiling m b).desk = ev.desk ∧ (ev.raiseCeiling m b).books = ev.books := by
  unfold Ev.raiseCeiling
  split
  · exact ev.setCeiling_quiet b m
  · exact ⟨rfl, rfl, rfl, rfl⟩

theorem State.setRotation_feed (s : State) (b : BayIx) (v : Time) : (s.setRotation b v).feed = s.feed := by
  refine State.feed_of_bays ?_ fun c => ?_
  · unfold State.setRotation; split <;> rfl
  · rw [State.setRotation_bay]
    split <;> exact ⟨rfl, rfl, rfl, rfl⟩

theorem State.setRotation_voice (s : State) (b : BayIx) (v : Time) : (s.setRotation b v).noticeTag = s.noticeTag
    ∧ (s.setRotation b v).uplink = s.uplink ∧ (s.setRotation b v).recorder = s.recorder := by
  unfold State.setRotation; split <;> exact ⟨rfl, rfl, rfl⟩

theorem Ev.periodWritten_quiet (b : BayIx) : (ev.onState (·.periodWritten b)).feed = ev.feed
    ∧ (ev.onState (·.periodWritten b)).voice = ev.voice ∧ (ev.onState (·.periodWritten b)).desk = ev.desk
    ∧ (ev.onState (·.periodWritten b)).books = ev.books := by
  have quiet : (ev.st.periodWritten b).feed = ev.st.feed ∧ (ev.st.periodWritten b).noticeTag = ev.st.noticeTag
      ∧ (ev.st.periodWritten b).uplink = ev.st.uplink ∧ (ev.st.periodWritten b).recorder = ev.st.recorder
      ∧ (ev.st.periodWritten b).books = ev.st.books := by
    unfold State.periodWritten
    split
    · exact ⟨rfl, rfl, rfl, rfl, rfl⟩
    · have voice (v : Time) := ev.st.setRotation_voice b v
      exact ⟨State.setRotation_feed _ _ _, (voice _).1, (voice _).2.1, (voice _).2.2, State.setRotation_books _ _ _⟩
    · exact ⟨rfl, rfl, rfl, rfl, rfl⟩
  obtain ⟨feed, tag, uplink, recorder, books⟩ := quiet
  refine ⟨feed, ?_, rfl, books⟩
  unfold Ev.voice Ev.onState
  dsimp only
  rw [tag, uplink, recorder]

/-- What is owed and said, and what the allocator goes by. -/
def Ev.quarters (ev : Ev) : Feed × Voice × Desk × Books := (ev.feed, ev.voice, ev.desk, ev.books)

/-- The write, behind the errors it reports. -/
theorem Ev.writeAllocator_ends {m : Nat} {w : Ev} (written : ((allBays.foldl (Ev.raiseCeiling m) ev.syncAll).onState
      (fun s => allBays.foldl State.periodWritten s)).wantRecompute = w) :
    w.recompute = true ∧ w.feed = { ev.feed with queued := ev.feed.eligible } ∧ w.voice = ev.voice ∧ w.desk = ev.desk ∧ w.books = ev.books := by
  have raised : (allBays.foldl (Ev.raiseCeiling m) ev.syncAll).quarters = ev.syncAll.quarters :=
    foldl_keeps Ev.quarters (fun e b => by
      obtain ⟨feed, voice, desk, books⟩ := e.raiseCeiling_quiet m b
      unfold Ev.quarters
      rw [feed, voice, desk, books]) allBays ev.syncAll
  have periods (x : Ev) (l : List BayIx) : (x.onState (fun s => l.foldl State.periodWritten s)).quarters = x.quarters := by
    induction l generalizing x with
    | nil => rfl
    | cons b l ih =>
      refine (ih (x.onState (·.periodWritten b))).trans ?_
      obtain ⟨feed, voice, desk, books⟩ := x.periodWritten_quiet b
      unfold Ev.quarters
      rw [feed, voice, desk, books]
  have all := (periods (allBays.foldl (Ev.raiseCeiling m) ev.syncAll) allBays).trans raised
  generalize allBays.foldl (Ev.raiseCeiling m) ev.syncAll = x at all written
  generalize x.onState (fun s => allBays.foldl State.periodWritten s) = y at all written
  subst written
  unfold Ev.quarters at all
  obtain ⟨feed, voice, desk, books⟩ : y.feed = ev.syncAll.feed ∧ y.voice = ev.syncAll.voice ∧ y.desk = ev.syncAll.desk
    ∧ y.books = ev.syncAll.books := by simpa only [Prod.mk.injEq] using all
  exact ⟨rfl, feed.trans ev.syncAll_feed, voice.trans ev.syncAll_voice, desk.trans ev.syncAll_desk, books.trans ev.syncAll_books⟩

end

/-! ## The errors of the write (R79) -/

theorem foldl_fixed {α β : Type} {f : α → β → α} {a : α} {l : List β} (fixed : ∀ b ∈ l, f a b = a) : l.foldl f a = a := by
  induction l with
  | nil => rfl
  | cons b l ih =>
    rw [List.foldl_cons, fixed b List.mem_cons_self]
    exact ih fun c here => fixed c (List.mem_cons_of_mem _ here)

/-- A pass in which one member alone acts. -/
theorem foldl_once {α β : Type} {f : α → β → α} {a : α} {b : β} {l : List β} (nodup : l.Nodup) (here : b ∈ l)
    (before : ∀ c, c ≠ b → f a c = a) (behind : ∀ c, c ≠ b → f (f a b) c = f a b) : l.foldl f a = f a b := by
  obtain ⟨l₁, l₂, rfl⟩ := List.append_of_mem here
  have apart := List.nodup_middle.1 nodup
  have out : b ∉ l₁ ++ l₂ := (List.nodup_cons.1 apart).1
  rw [List.foldl_append, List.foldl_cons,
    foldl_fixed fun c first => before c fun same => out (List.mem_append_left _ (same ▸ first)),
    foldl_fixed fun c last => behind c fun same => out (List.mem_append_right _ (same ▸ last))]

section
variable {ev : Ev} {old new : Nat}

/-- A write of M raises it above the post maximum of a CHARGING bay. -/
def Bay.exceeded (old new : Nat) (y : Bay) : Prop :=
  y.alloc.chargingCopy = true ∧ old ≤ y.postMax ∧ y.postMax < new

theorem Ev.mismatchOnWrite_of (b : BayIx) (raised : (ev.bay b).exceeded old new) :
    Ev.mismatchOnWrite old new ev b = ev.log { kind := .configMismatch, bay := some b } :=
  if_pos (by obtain ⟨charging, low, high⟩ := raised; simp [charging, low, high])

theorem Ev.mismatchOnWrite_not (b : BayIx) (kept : ¬ (ev.bay b).exceeded old new) : Ev.mismatchOnWrite old new ev b = ev :=
  if_neg fun on => kept (by simpa [Bay.exceeded, and_assoc] using on)

theorem Ev.log_bay (ev : Ev) (e : ErrorReport) (c : BayIx) : (ev.log e).bay c = ev.bay c := by
  have talks := ev.log_talks e
  unfold Talks at talks
  rw [Ev.bay, talks]; rfl

theorem Ev.mismatches_none (none_ : ∀ b, ¬ (ev.bay b).exceeded old new) :
    allBays.foldl (Ev.mismatchOnWrite old new) ev = ev :=
  foldl_fixed fun b _ => Ev.mismatchOnWrite_not b (none_ b)

theorem Ev.mismatches_one {b : BayIx} (one : (ev.bay b).exceeded old new) (only : ∀ c, c ≠ b → ¬ (ev.bay c).exceeded old new) :
    allBays.foldl (Ev.mismatchOnWrite old new) ev = ev.log { kind := .configMismatch, bay := some b } := by
  rw [← Ev.mismatchOnWrite_of b one]
  refine foldl_once allBays_nodup (List.mem_finRange b) (fun c other => Ev.mismatchOnWrite_not c (only c other))
    (fun c other => ?_)
  rw [Ev.mismatchOnWrite_of b one]
  exact Ev.mismatchOnWrite_not c (by rw [Ev.log_bay]; exact only c other)

end

end Sys2Proof.Machine
end

section
/-!
SUPPORT. The statement on the writes that recompute (R76, R77, R79, R85, R95, R174).
-/
namespace Sys2Proof.Machine

theorem Ev.answer_recorder (ev : Ev) (o : Option Frame) (room : ev.st.uplink.fifo.length + (ev.buffer.length + 1) ≤ 32) :
    (ev.answer o).st.recorder = ev.st.recorder := by
  cases o with
  | none => exact congrArg Voice.recorder (Ev.foldl_place_voice ev.buffer { ev with buffering := false, buffer := [] } rfl
      (by show ev.st.uplink.fifo.length + ev.buffer.length ≤ 32; omega))
  | some a => exact congrArg Voice.recorder (ev.answer_voice a room)

/-- The recorder when an event ends that answers a status, finds every record in order and raises no BAY-NOTICE. -/
theorem Ev.finish_status_recorder (ev : Ev) (r : Request) (st : Status) (desk : ev.desk = .clear) (ok : ev.books.Ok)
    (room : ev.st.uplink.fifo.length + (ev.buffer.length + 1) ≤ 32) : (ev.status r st).finish.recorder = ev.st.recorder := by
  have leaves := ev.answer_leaves (ev.st.buildAnswer r.src r.tag Kind.mgmtAnswer [r.kind, byteOf st.code])
  have books : (ev.status r st).books = ev.books := Ev.answer_books _ _
  have said := (Ev.finish_voice (ev.status r st) (.inl (leaves.2.1.trans (congrArg Desk.scan desk)))
    (.inr (by rw [books]; exact ok))).1
  rw [Ev.flushNotes_none (ev := ev.status r st) (leaves.1.trans (congrArg Desk.notes desk))] at said
  exact said.trans (ev.answer_recorder _ room)

/-- CLAMPED exactly where a value is not stored as written. -/
theorem allocatorOf_clamped (old : AllocatorSettings) (e : List Byte) : (allocatorOf old e).2
    = !([(allocatorOf old e).1.feeder, (allocatorOf old e).1.reserve, (allocatorOf old e).1.minimum, (allocatorOf old e).1.step,
        (allocatorOf old e).1.reclaim, (allocatorOf old e).1.margin, (allocatorOf old e).1.overdraw,
        (allocatorOf old e).1.rotation]
      == [field16 e 0, field16 e 2, byteAt e 4, byteAt e 5, byteAt e 6, byteAt e 7, byteAt e 8, byteAt e 9]) := by
  rw [Bool.eq_iff_iff]
  simp only [allocatorOf, clampTo, Bool.or_eq_true, bne_iff_ne, ne_eq, List.cons_beq_cons,
    BEq.rfl, Bool.and_true, Bool.not_and, Bool.not_eq_eq_eq_not, Bool.not_true, beq_eq_false_iff_ne]
  tauto

section
variable {s : State} {r : Request} {q : List Request} {e : List Byte} (running : s.heldInReset = false)
  (head : s.management = r :: q)
include running head

/-- The event of an Allocator Settings write, its settings stored. -/
def State.allotting (s : State) (q : List Request) (a : AllocatorSettings) : Ev :=
  (s.managing q).onState (fun s => { s with allocator := { s.allocator with settings := a } })

theorem execAllocatorSettings_runs (kind : r.kind = Kind.setTable) (length : e.length = 14)
    (payload : r.payload = 5 :: 0 :: e) : exec .allocatorSettings s
      = .next (((s.managing q).writeAllocator (allocatorOf s.allocator.settings e).1).status r
          (if (allocatorOf s.allocator.settings e).2 then .clamped else .ok)).finish := by
  exact (exec_allocatorSettings s).trans (s.setTable_one (id := 5) (size := 14) (first := 0) (last := 0) (i := 0)
    writeAllocatorEntry running head kind payload rfl rfl length (by omega) le_rfl le_rfl)

end

section
variable {s : State} {q : List Request} {a : AllocatorSettings}

theorem Ev.writeAllocator_eq : (s.managing q).writeAllocator a
    = ((allBays.foldl (Ev.raiseCeiling a.minimum) (allBays.foldl (Ev.mismatchOnWrite s.allocator.settings.minimum a.minimum)
        (s.allotting q a)).syncAll).onState (fun s => allBays.foldl State.periodWritten s)).wantRecompute := rfl

theorem Ev.log_waiting (ev : Ev) (e : ErrorReport) (waits : ev.buffering = true) :
    (ev.log e).buffering = true ∧ (ev.log e).st.uplink = ev.st.uplink := by
  have uplink := State.recordError_uplink ev.st e
  unfold Ev.log
  dsimp only
  cases (ev.st.recordError e).2 with
  | none => exact ⟨waits, uplink⟩
  | some f =>
    unfold Ev.placeOpt Ev.place
    dsimp only
    rw [if_pos waits]
    exact ⟨waits, uplink⟩

theorem Ev.mismatches_waiting (old new : Nat) (l : List BayIx) (ev : Ev) (waits : ev.buffering = true) :
    (l.foldl (Ev.mismatchOnWrite old new) ev).st.uplink = ev.st.uplink := by
  induction l generalizing ev with
  | nil => rfl
  | cons b l ih =>
    rw [List.foldl_cons]
    by_cases raised : (ev.bay b).exceeded old new
    · rw [Ev.mismatchOnWrite_of b raised]
      obtain ⟨still, uplink⟩ := ev.log_waiting { kind := .configMismatch, bay := some b } waits
      exact (ih _ still).trans uplink
    · rw [Ev.mismatchOnWrite_not b raised]
      exact ih ev waits

theorem Ev.mismatches_quiet (old new : Nat) (l : List BayIx) (ev : Ev) :
    (l.foldl (Ev.mismatchOnWrite old new) ev).feed = ev.feed ∧ (l.foldl (Ev.mismatchOnWrite old new) ev).desk = ev.desk
      ∧ (l.foldl (Ev.mismatchOnWrite old new) ev).books = ev.books := by
  have one (e : Ev) (b : BayIx) : (Ev.mismatchOnWrite old new e b).feed = e.feed
      ∧ (Ev.mismatchOnWrite old new e b).desk = e.desk ∧ (Ev.mismatchOnWrite old new e b).books = e.books := by
    unfold Ev.mismatchOnWrite
    dsimp only
    split
    · exact ⟨e.log_feed _, e.log_desk _, e.log_books _⟩
    · exact ⟨rfl, rfl, rfl⟩
  exact ⟨foldl_keeps Ev.feed (fun e b => (one e b).1) l ev, foldl_keeps Ev.desk (fun e b => (one e b).2.1) l ev,
    foldl_keeps Ev.books (fun e b => (one e b).2.2) l ev⟩

theorem State.allotting_feed : (s.allotting q a).feed = { s.feed with minimum := a.minimum } := rfl

theorem State.allotting_uplink (old new : Nat) (l : List BayIx) :
    (l.foldl (Ev.mismatchOnWrite old new) (s.allotting q a)).st.uplink = s.uplink :=
  (Ev.mismatches_waiting old new l (s.allotting q a) rfl).trans rfl

theorem Ev.uplink_of_voice {w w' : Ev} {u : UplinkPort} (voice : w'.voice = w.voice) (uplink : w.st.uplink = u) :
    w'.st.uplink = u := (congrArg Voice.uplink voice).trans uplink

/-- What an event leaves that has stored the Allocator Settings, the errors it reports aside. -/
structure Ev.Allots (s : State) (q : List Request) (a : AllocatorSettings) (w : Ev) : Prop where
  owed : w.recompute = true
  books : w.books = (s.allotting q a).books
  uplink : w.st.uplink = s.uplink
  desk : w.desk = .clear
  feed : w.feed = { s.feed with minimum := a.minimum, queued := ({ s.feed with minimum := a.minimum } : Feed).eligible }
  voice : w.voice = (allBays.foldl (Ev.mismatchOnWrite s.allocator.settings.minimum a.minimum) (s.allotting q a)).voice

theorem Ev.writeAllocator_allots : ((s.managing q).writeAllocator a).Allots s q a := by
  obtain ⟨feed, desk, books⟩ := Ev.mismatches_quiet s.allocator.settings.minimum a.minimum allBays (s.allotting q a)
  obtain ⟨owed, feed', voice, desk', books'⟩ := Ev.writeAllocator_ends _ (Ev.writeAllocator_eq (s := s) (q := q) (a := a)).symm
  exact ⟨owed, books'.trans books, Ev.uplink_of_voice voice (State.allotting_uplink ..), desk'.trans desk,
    feed'.trans (by rw [feed, State.allotting_feed]), voice⟩

section
variable {w : Ev} {r : Request} (allots : w.Allots s q a) (ok : s.AllOk) (room : s.uplink.fifo.length + 2 ≤ 32) (st : Status)
include allots ok room

theorem Ev.Allots.quiet (none_ : ∀ b, ¬ (s.bay b).exceeded s.allocator.settings.minimum a.minimum) :
    (w.status r st).finish.recorder = s.recorder := by
  obtain ⟨_, books, uplink, desk, _, voice⟩ := allots
  rw [Ev.mismatches_none none_] at voice
  have buffer : w.buffer = [] := congrArg Voice.buffer voice
  refine (Ev.finish_status_recorder w r st desk (by rw [books]; exact ok) (by rw [uplink, buffer]; simp; omega)).trans ?_
  exact congrArg Voice.recorder voice

theorem Ev.Allots.errs {b : BayIx} (one : (s.bay b).exceeded s.allocator.settings.minimum a.minimum)
    (only : ∀ c, c ≠ b → ¬ (s.bay c).exceeded s.allocator.settings.minimum a.minimum) :
    (w.status r st).finish.recorder = (s.logError { kind := .configMismatch, bay := some b }).recorder
      ∧ b ∉ (w.status r st).finish.allocator.queue.map (·.bay) ∧ ((w.status r st).finish.bay b).alloc.target = 0 := by
  obtain ⟨owed, books, uplink, desk, feed, voice⟩ := allots
  have order : w.books.Ok := by rw [books]; exact ok
  have said : (allBays.foldl (Ev.mismatchOnWrite s.allocator.settings.minimum a.minimum) (s.allotting q a))
      = (s.allotting q a).log { kind := .configMismatch, bay := some b } := Ev.mismatches_one one only
  rw [said, Ev.log_erred (s := s) (ev := s.allotting q a) (Ev.startRequest_voice { s with management := q }) rfl rfl rfl] at voice
  have bound : w.buffer.length ≤ 1 :=
    (congrArg (fun v : Voice => v.buffer.length) voice).trans_le (s.erred_buffer { kind := .configMismatch, bay := some b })
  have leaves := w.answer_leaves (w.st.buildAnswer r.src r.tag Kind.mgmtAnswer [r.kind, byteOf st.code])
  have fed := Ev.finish_feed (w.status r st) (leaves.2.2.1.trans owed) (.inl (leaves.2.1.trans (congrArg Desk.scan desk)))
    (by rw [show (w.status r st).books = w.books from Ev.answer_books _ _]; exact order)
  have queued : (w.status r st).finish.feed.queued b = false := by
    rw [fed.1, show (w.status r st).feed = w.feed from Ev.answer_feed _ _, feed]
    have low : ¬ a.minimum ≤ s.feed.postMax b := Nat.not_le.2 one.2.2
    simp [Feed.eligible, low]
  refine ⟨?_, fun here => ?_, fed.2 b queued⟩
  · refine (Ev.finish_status_recorder w r st desk order (by rw [uplink]; omega)).trans ?_
    exact (congrArg Voice.recorder voice).trans (State.logError_recorder s _).symm
  · rw [State.queued_iff.2 here] at queued
    cases queued

end

end

theorem notCode (c : Bool) : (if (!c) = true then (1 : Byte) else 0) = if c = true then 0 else 1 := by cases c <;> rfl

/-- Settles O49. -/
theorem recomputingWrites : Obligations.RecomputingWrites := by
  unfold Obligations.RecomputingWrites
  intro s r q e running head
  refine ⟨fun c kind length payload => ?_, fun kind length payload => ?_, fun kind length payload => ?_⟩
  · intro given kept asWritten entry
    obtain ⟨ev, owed, still, uplink, run⟩ := execClassTable_runs running head kind length payload
    obtain ⟨budget, left, answers⟩ := Ev.recomputed (r := r) owed still uplink rfl
      (if (classEntryOf e).2 then .clamped else .ok)
    refine ⟨_, run, budget, left.trans (by rw [classEntryOf_entry]), ?_⟩
    have code : (if (classEntryOf e).2 = true then (1 : Byte) else 0) = if asWritten = true then 0 else 1 := by
      rw [classEntryOf_clamped]
      exact notCode asWritten
    rw [storedCode, code] at answers
    exact answers
  · intro given a kept
    have allots := Ev.writeAllocator_allots (s := s) (q := q) (a := a)
    have run := execAllocatorSettings_runs running head kind length payload
    rw [show (allocatorOf s.allocator.settings e).1 = a from rfl] at run
    generalize (s.managing q).writeAllocator a = w at allots run
    obtain ⟨budget, left, answers⟩ := Ev.recomputed (s := s) (r := r) allots.owed (congrArg Books.still allots.books)
      allots.uplink rfl (if (allocatorOf s.allocator.settings e).2 then .clamped else .ok)
    refine ⟨_, run, budget, left, ?_, fun ok room => ⟨allots.quiet ok room _, fun b => allots.errs ok room _⟩⟩
    have code : (if (allocatorOf s.allocator.settings e).2 = true then (1 : Byte) else 0) = if kept = given then 0 else 1 := by
      rw [allocatorOf_clamped]
      exact (notCode _).trans (if_congr beq_iff_eq rfl rfl)
    rw [storedCode, code] at answers
    exact answers
  · have run := execSetCap_runs running head kind length payload
    obtain ⟨budget, left, answers⟩ := Ev.recomputed (s := s) (r := r) (ev := ((s.managing q).onState (·.setCap
      (if field16 e 0 = 65535 then none else some (min 20000 (field16 e 0))))).wantRecompute) rfl rfl rfl rfl
        (if 20000 < field16 e 0 ∧ field16 e 0 ≠ 65535 then .clamped else .ok)
    refine ⟨_, run, budget, left, ?_⟩
    have code : byteOf (if 20000 < field16 e 0 ∧ field16 e 0 ≠ 65535 then Status.clamped else .ok).code
        = if 20000 < field16 e 0 ∧ field16 e 0 ≠ 65535 then 1 else 0 := by split <;> rfl
    rw [code] at answers
    exact answers

end Sys2Proof.Machine
end

section
/-!
SUPPORT. A record that fails its comparison (R8, R166): what becomes of the bay, what is owed and said, and what the
allocator goes by.
-/
namespace Sys2Proof.Machine

/-! ## A fault cause gained (R8) -/

theorem BayBook.setDyn_id {y : BayBook} {f : BayDyn → BayDyn} (h : f y.dyn = y.dyn) : y.setDyn f = y := by
  unfold BayBook.setDyn; rw [if_pos h, h]

/-- The bay is FAULTED unless it is CLOSED. -/
def BayDyn.failing (d : BayDyn) : BayDyn := { d with state := if d.state = .closed then .closed else .faulted }

theorem BayDyn.failing_idle {d : BayDyn} (idle : d.state = .closed ∨ d.state = .faulted) : d.failing = d := by
  unfold BayDyn.failing
  rcases idle with closed | faulted
  · rw [if_pos closed, ← closed]
  · rw [if_neg (by rw [faulted]; decide), ← faulted]

theorem BayDyn.failing_serving {d : BayDyn} (open_ : d.state ≠ .closed) : d.failing = { d with state := .faulted } := by
  unfold BayDyn.failing; rw [if_neg open_]

/-- The note of a bay that a fault cause has made FAULTED. -/
def faultNote (b : BayIx) (before : BayState) (c : FaultCause) : BayNote := ⟨b, before, [.faulted], none, some c⟩

section
variable {ev : Ev} {b : BayIx} {c : FaultCause}

theorem Ev.gainFault_idle (idle : (ev.books.bays b).dyn.state = .closed ∨ (ev.books.bays b).dyn.state = .faulted) :
    ev.gainFault b c = ev := if_pos idle

theorem Ev.gainFault_serving (open_ : (ev.books.bays b).dyn.state ≠ .closed)
    (serves : (ev.books.bays b).dyn.state ≠ .faulted) :
    ev.gainFault b c = ((ev.noteFault b c).setState b .faulted).note b .faulted :=
  if_neg fun idle => idle.elim open_ serves

theorem Ev.gainFault_books : (ev.gainFault b c).books = ev.books.put b (·.setDyn BayDyn.failing) := by
  by_cases idle : (ev.books.bays b).dyn.state = .closed ∨ (ev.books.bays b).dyn.state = .faulted
  · rw [Ev.gainFault_idle idle]
    exact (Books.put_id (BayBook.setDyn_id (BayDyn.failing_idle idle))).symm
  · rw [not_or] at idle
    rw [Ev.gainFault_serving idle.1 idle.2]
    rw [Ev.note_books, Ev.setState_books, Ev.noteFault_books]
    refine Books.put_congr ?_
    unfold BayBook.setDyn
    rw [BayDyn.failing_serving idle.1]

theorem Ev.gainFault_calm (calm : ev.calm.charging b = false) : (ev.gainFault b c).calm = ev.calm := by
  unfold Ev.gainFault
  dsimp only
  split
  · rfl
  · rw [Ev.note_calm, Ev.setState_calm _ _ (by rw [Ev.noteFault_calm]; exact calm), Ev.noteFault_calm]

/-- What the desk owes of a bay that a fault cause reaches: its first note where it is CLOSED or FAULTED, and otherwise
the note of the fault. -/
def faultedNote (b : BayIx) (before : BayState) (c : FaultCause) : BayNote :=
  if before = .closed ∨ before = .faulted then ⟨b, before, [], none, none⟩ else faultNote b before c

@[simp] theorem faultedNote_bay (b : BayIx) (before : BayState) (c : FaultCause) : (faultedNote b before c).bay = b := by
  unfold faultedNote; split <;> rfl

theorem faultedNote_serving {before : BayState} (open_ : before ≠ .closed) (serves : before ≠ .faulted) :
    faultedNote b before c = faultNote b before c := if_neg fun idle => idle.elim open_ serves

theorem faultNote_raised {before : BayState} (serves : before ≠ .faulted) :
    (faultNote b before c).raised .faulted = true := by
  simp [faultNote, BayNote.raised, serves]

theorem Ev.gainFault_desk {scan captured : Bool}
    (desk : ev.desk = ⟨[⟨b, (ev.books.bays b).dyn.state, [], none, none⟩], scan, captured⟩) :
    (ev.gainFault b c).desk = ⟨[faultedNote b (ev.books.bays b).dyn.state c], scan, captured⟩ := by
  by_cases idle : (ev.books.bays b).dyn.state = .closed ∨ (ev.books.bays b).dyn.state = .faulted
  · rw [Ev.gainFault_idle idle, desk]
    unfold faultedNote
    rw [if_pos idle]
  · obtain ⟨open_, serves⟩ := not_or.1 idle
    rw [Ev.gainFault_serving open_ serves, faultedNote_serving open_ serves]
    rw [Ev.note_desk, Ev.setState_desk, Ev.noteFault_desk, desk, Desk.touch_known (b := b) _ rfl,
      Desk.modNote_known (b := b) _ rfl, Desk.touch_known (b := b) _ rfl, Desk.touch_known (b := b) _ rfl,
      Desk.modNote_known (b := b) _ rfl]
    rfl

theorem Ev.gainFault_voice : (ev.gainFault b c).voice = ev.voice := by
  unfold Ev.gainFault
  dsimp only
  split
  · rfl
  · rw [Ev.note_voice, Ev.setState_voice _ _ (fun charging => by cases charging), Ev.noteFault_voice]

end

/-! ## A record that fails its comparison (R166) -/

/-- What a bay becomes whose record fails. -/
def BayBook.suspected (y : BayBook) : BayBook :=
  { y with dyn := { { y.dyn with suspect := true } with state := if y.dyn.state = .closed then .closed else .faulted }, ok := true }

/-- The books of a part that has found the record of a bay suspect. -/
def Books.suspected (k : Books) (b : BayIx) : Books := { k.put b BayBook.suspected with degraded := true }

theorem Books.suspected_same (k : Books) (b : BayIx) : (k.suspected b).bays b = (k.bays b).suspected := k.put_same b _

theorem Books.suspected_other (k : Books) {b c : BayIx} (h : c ≠ b) : (k.suspected b).bays c = k.bays c :=
  k.put_other _ h

theorem Books.suspected_ok {k : Books} {b : BayIx} (others : ∀ c, c ≠ b → (k.bays c).ok = true) : (k.suspected b).Ok := by
  intro c
  by_cases same : c = b
  · rw [same, Books.suspected_same]; rfl
  · rw [Books.suspected_other k same]; exact others c same

section
variable {ev : Ev} {b : BayIx}

theorem BayBook.suspected_eq {y : BayBook} (fresh : y.dyn.suspect = false) :
    (y.setDyn (fun d => { d with suspect := true })).setDyn BayDyn.failing = y.suspected := by
  have change : ({ y.dyn with suspect := true } : BayDyn) ≠ y.dyn := fun same => by
    have flag : true = y.dyn.suspect := congrArg BayDyn.suspect same
    rw [fresh] at flag; cases flag
  unfold BayBook.setDyn BayBook.suspected
  dsimp only
  rw [if_neg change, ite_self]
  rfl

/-- The error logged and the suspect flag set. -/
def Ev.flagSuspect (ev : Ev) (b : BayIx) : Ev :=
  ((ev.log { kind := .recordCheck, bay := some b }).touch b).modDyn b (fun d => { d with suspect := true })

def State.degrade (s : State) : State := { s with scrubber := { s.scrubber with degraded := true } }

theorem Ev.makeSuspect_eq :
    ev.makeSuspect b = (((ev.flagSuspect b).gainFault b .suspect).reportSuspect b true).onState State.degrade := rfl

theorem Ev.degrade_books (ev : Ev) : (ev.onState State.degrade).books = { ev.books with degraded := true } := rfl

theorem Ev.degrade_voice (ev : Ev) : (ev.onState State.degrade).voice = ev.voice := rfl

theorem Ev.degrade_feed (ev : Ev) : (ev.onState State.degrade).feed = ev.feed := rfl

theorem Ev.flagSuspect_books :
    (ev.flagSuspect b).books = ev.books.put b (·.setDyn (fun d => { d with suspect := true })) := by
  unfold Ev.flagSuspect
  rw [Ev.modDyn_books, Ev.touch_books, Ev.log_books]

theorem Ev.flagSuspect_state : ((ev.flagSuspect b).books.bays b).dyn.state = (ev.books.bays b).dyn.state := by
  rw [Ev.flagSuspect_books, Books.put_same]; rfl

theorem Ev.makeSuspect_books (fresh : (ev.books.bays b).dyn.suspect = false) :
    (ev.makeSuspect b).books = ev.books.suspected b := by
  rw [Ev.makeSuspect_eq, Ev.degrade_books, Ev.reportSuspect_books, Ev.gainFault_books, Ev.flagSuspect_books,
    Books.put_put]
  unfold Books.suspected
  rw [Books.put_congr (BayBook.suspected_eq fresh)]

theorem Ev.makeSuspect_desk {scan captured : Bool} (desk : ev.desk = ⟨[], scan, captured⟩) :
    (ev.makeSuspect b).desk = ⟨[faultedNote b (ev.books.bays b).dyn.state .suspect], scan, captured⟩ := by
  have first : (ev.flagSuspect b).desk = ⟨[⟨b, (ev.books.bays b).dyn.state, [], none, none⟩], scan, captured⟩ := by
    unfold Ev.flagSuspect
    rw [Ev.modDyn_desk, Ev.touch_desk, Ev.log_desk, Ev.log_books, desk]; rfl
  rw [Ev.makeSuspect_eq, Ev.onState_desk, Ev.reportSuspect_desk, Ev.gainFault_desk (by rw [first, Ev.flagSuspect_state]),
    Ev.flagSuspect_state]

theorem Ev.makeSuspect_voice : (ev.makeSuspect b).voice = (ev.log { kind := .recordCheck, bay := some b }).voice := by
  rw [Ev.makeSuspect_eq, Ev.degrade_voice, Ev.reportSuspect_voice, Ev.gainFault_voice]
  unfold Ev.flagSuspect
  rw [Ev.modDyn_voice, Ev.touch_voice]

theorem Feed.eligible_suspect {k : Feed} (suspect : k.suspect b = true) : k.eligible b = false := by
  unfold Feed.eligible
  rw [suspect, Bool.not_true, Bool.and_false, Bool.false_and, Bool.false_and]

/-- A suspect bay is out of the Charge Queue (R78, R166). -/
theorem Ev.makeSuspect_feed : (ev.makeSuspect b).feed.suspect b = true ∧ (ev.makeSuspect b).feed.queued b = false := by
  rw [Ev.makeSuspect_eq, Ev.degrade_feed, Ev.reportSuspect_feed]
  exact ⟨if_pos rfl, (if_pos rfl).trans (Feed.eligible_suspect (if_pos rfl))⟩

theorem Ev.compareRecord_fails (fresh : (ev.books.bays b).dyn.suspect = false) (fails : (ev.books.bays b).ok = false) :
    ev.compareRecord b = ev.makeSuspect b := by
  unfold Ev.compareRecord
  refine if_neg fun agrees => ?_
  rcases Bool.or_eq_true_iff.1 agrees with suspect | ok
  · rw [show (ev.bay b).dyn.suspect = false from fresh] at suspect; cases suspect
  · rw [show (ev.bay b).checkOk = false from fails] at ok; cases ok

end

/-! ## The BAY-NOTICEs of an event that has placed its frames -/

theorem Voice.raise_recorder (k : Books) (v : Voice) (n : BayNote) : (v.raise k n).recorder = v.recorder := by
  unfold Voice.raise Voice.tell Voice.push
  repeat' split
  all_goals rfl

/-- Notices that find room log no error. -/
theorem Ev.flushNotes_recorder {ev : Ev} (placed : ev.voice.buffering = false)
    (room : ev.voice.uplink.fifo.length + ev.desk.notes.length ≤ 32) : ev.flushNotes.st.recorder = ev.voice.recorder := by
  have told : ev.flushNotes.voice.recorder = (ev.desk.notes.foldl (Voice.raise ev.books) ev.voice).recorder := by
    rw [Ev.flushNotes_voice ev placed room]
  refine told.trans ?_
  generalize ev.voice = v
  induction ev.desk.notes generalizing v with
  | nil => rfl
  | cons n l ih => rw [List.foldl_cons, ih, Voice.raise_recorder]

end Sys2Proof.Machine
end

section
/-!
SUPPORT. The end of an event that has found a record suspect; the tick whose scrubber finds one (R166, R167).
-/
namespace Sys2Proof.Machine

/-! ## The end of the event -/

/-- What an event that has found the record of `b` suspect, and has placed all its frames but the BAY-NOTICE, has said
and done: the errors and frames of `failed`, and the books. -/
structure Ev.Suspects (ev : Ev) (b : BayIx) (before : BayState) (failed : State) : Prop where
  voice : ev.voice = failed.placed 0 []
  desk : ev.desk = ⟨[faultedNote b before .suspect], false, false⟩
  controller : ev.books.still.controller = failed.controller
  state : (ev.books.bays b).dyn.state = if before = .closed then .closed else .faulted
  ok : ev.books.Ok
  feed : ev.feed.suspect b = true ∧ ev.feed.queued b = false

/-- What such an event leaves. -/
structure State.Suspected (t : State) (b : BayIx) (before : BayState) (failed : State) : Prop where
  copy : (t.bay b).alloc.suspectCopy = true
  out : b ∉ t.allocator.queue.map (·.bay)
  recorder : t.recorder = failed.recorder
  fifo : failed.uplink.fifo <+: t.uplink.fifo
  notice : failed.controller.noticeDest ≠ 0 → before ≠ .closed → before ≠ .faulted →
    failed.uplink.fifo ++ [failed.bayNoticeAt 0 b before .faulted 6 0 3] <+: t.uplink.fifo

theorem Ev.Suspects.finish {ev : Ev} {b : BayIx} {before : BayState} {failed : State} (h : ev.Suspects b before failed)
    (room : failed.uplink.fifo.length + 1 ≤ 32) : ev.finish.Shows ev.books ∧ ev.finish.Suspected b before failed := by
  have scan : ev.scan = false := congrArg Desk.scan h.desk
  have notes : ev.desk.notes = [faultedNote b before .suspect] := congrArg Desk.notes h.desk
  have length : ev.voice.uplink.fifo.length = failed.uplink.fifo.length := by rw [h.voice]; simp [State.placed]
  have uplink : ev.st.uplink.fifo = failed.uplink.fifo :=
    (congrArg (fun v : Voice => v.uplink.fifo) h.voice).trans (List.append_nil _)
  have feed : ev.finish.feed = ev.feed := by
    cases owed : ev.recompute with
    | true => exact (ev.finish_feed owed (.inl scan) h.ok).1
    | false => exact ev.finish_feed_calm owed (.inl scan)
  refine ⟨ev.finish_shows (.inl scan) (.inr h.ok), ?_, fun here => ?_, ?_, ?_, fun somebody open_ serves => ?_⟩
  · exact (congrArg (fun k : Feed => k.suspect b) feed).trans h.feed.1
  · have queued := State.queued_iff.2 here
    rw [feed, h.feed.2] at queued; cases queued
  · rw [(ev.finish_voice (.inl scan) (.inr h.ok)).1,
      Ev.flushNotes_recorder (by rw [h.voice]; rfl) (by rw [length, notes]; exact room), h.voice]
    rfl
  · rw [← uplink]; exact Ev.finish_fifo ev
  · rw [faultedNote_serving open_ serves] at notes
    have sent := Ev.finish_sends_note (s := failed) (k := 0) (fs := []) (n := faultNote b before .suspect)
      (after := .faulted) (fun _ => h.voice) notes h.controller (by
        show (ev.books.bays b).dyn.state = _
        rw [h.state, if_neg open_]) (faultNote_raised serves) somebody
    exact sent (by simpa using room)

/-! ## The tick (R55, R167) -/

def State.scrubNext (s : State) (b : BayIx) : State := { s with scrubber := { s.scrubber with cursor := nextBay b } }

/-- What the tick does behind the scrubber's examination. -/
def State.tickOn (s : State) (b : BayIx) : State := (allBays.foldl State.countBay (s.scrubNext b)).linkLossTests

theorem execTick_scrubbed (ev : Ev) (b : BayIx) :
    ((ev.onState (fun s => { s with scrubber := { s.scrubber with cursor := nextBay b } })).onState
      (fun s => allBays.foldl State.countBay s)).onState State.linkLossTests = ev.onState (·.tickOn b) := by
  rw [Ev.onState_onState, Ev.onState_onState]; rfl

/-- The bays changed each by itself, their configuration kept. -/
theorem State.eachBay_books (s : State) {g : BayIx → Bay → Bay} (config : ∀ b y, (g b y).config = y.config) :
    (s.eachBay g).books = { s.books with bays := fun b => (g b (s.bay b)).book } := by
  unfold State.books
  rw [State.eachBay_still config]
  congr 1
  funext b
  rw [State.eachBay_bay]

theorem State.eachBay_feed (s : State) {g : BayIx → Bay → Bay}
    (kept : ∀ b y, (g b y).config = y.config ∧ (g b y).alloc = y.alloc) : (s.eachBay g).feed = s.feed := by
  refine State.feed_of_bays rfl fun b => ?_
  rw [State.eachBay_bay]
  obtain ⟨config, alloc⟩ := kept b (s.bay b)
  rw [alloc]
  exact ⟨rfl, rfl, rfl, congrArg BayConfig.postMax config⟩

/-- The book of a bay after one second's counters. -/
def BayBook.countSecond (v : Bool) (y : BayBook) : BayBook :=
  if y.dyn.active.isNone then y else y.setDyn (·.countSecond v)

theorem BayBook.countSecond_ok {v : Bool} {y : BayBook} (ok : y.ok = true) : (y.countSecond v).ok = true := by
  unfold BayBook.countSecond; split
  · exact ok
  · exact BayBook.setDyn_ok _ ok

theorem Bay.countSecond_book (v : Bool) (y : Bay) : (y.countSecond v).book = y.book.countSecond v := by
  unfold Bay.countSecond
  rw [apply_ite Bay.book, Bay.modDyn_book]
  rfl

theorem BayBook.countSecond_dyn (v : Bool) (y : BayBook) : (y.countSecond v).dyn = y.dyn.countSecond v := by
  unfold BayBook.countSecond; split
  · next empty =>
    unfold BayDyn.countSecond
    rw [Option.isNone_iff_eq_none.1 empty, Option.map_none, ← Option.isNone_iff_eq_none.1 empty]
  · rfl

/-- A bay after the counters and the link-loss test of a tick. -/
theorem Bay.ticked_book (v w : Bool) (y : Bay) : ((y.countSecond v).linkLossTest w).book = (y.countSecond v).book := by
  obtain ⟨_, timer, _, dyn, check⟩ := (y.countSecond v).linkLossTest_leaves w
  unfold Bay.book Bay.checkOk
  rw [timer, dyn, check]

/-- The tick behind the examination goes bay by bay. -/
theorem State.tickOn_eq (s : State) (b : BayIx) : s.tickOn b = ((s.scrubNext b).eachBay
    (fun c => Bay.countSecond (s.postReachable c))).eachBay (fun c => Bay.linkLossTest (s.linkLostNow c)) := by
  unfold State.tickOn
  rw [State.countBays_eq, State.linkLossTests_eq]
  rfl

theorem State.scrubNext_books (s : State) (b : BayIx) :
    (s.scrubNext b).books = { s.books with still := { s.books.still with scrubCursor := nextBay b } } := rfl

theorem Ev.tickOn_desk (ev : Ev) (b : BayIx) : (ev.onState (·.tickOn b)).desk = ev.desk :=
  Ev.onState_desk ev _

theorem Ev.tickOn_voice (ev : Ev) (b : BayIx) : (ev.onState (·.tickOn b)).voice = ev.voice :=
  ev.onState_voice fun s => by rw [State.tickOn_eq]; exact ⟨rfl, rfl, rfl⟩

theorem State.tickOn_feed (s : State) (b : BayIx) : (s.tickOn b).feed = s.feed := by
  rw [State.tickOn_eq, State.eachBay_feed, State.eachBay_feed]
  · rfl
  · exact fun c y => ⟨(Bay.countSecond_leaves _ y).1, (Bay.countSecond_leaves _ y).2.2.1⟩
  · exact fun c y => ⟨(Bay.linkLossTest_leaves _ y).1, (Bay.linkLossTest_leaves _ y).2.2.1⟩

theorem State.tickOn_books (s : State) (b : BayIx) : (s.tickOn b).books =
    { s.books with
      bays := fun c => (s.books.bays c).countSecond (s.postReachable c)
      still := { s.books.still with scrubCursor := nextBay b } } := by
  rw [State.tickOn_eq, State.eachBay_books _ fun c y => (Bay.linkLossTest_leaves _ y).1,
    State.eachBay_books _ fun c y => (Bay.countSecond_leaves _ y).1, State.scrubNext_books]
  refine congrArg (fun bays => ({ s.books with
    bays := bays, still := { s.books.still with scrubCursor := nextBay b } } : Books)) (funext fun c => ?_)
  rw [State.eachBay_bay, Bay.ticked_book, Bay.countSecond_book]
  rfl

end Sys2Proof.Machine
end

section
/-!
SUPPORT. The tick whose scrubber finds a record that does not agree with its check word (R166, R167).
-/
namespace Sys2Proof.Machine

/-! ## The tick that finds a record suspect -/

/-- The part a second later, its deadlines delivered (R55, R59). -/
def State.second (s : State) : State := ({ s with now := s.now + 1 } : State).deliverDue

theorem State.second_still (s : State) : s.second.still = { s.still with now := s.now + 1 } :=
  ((Moves.refl (ev₀ := Ev.start { s with now := s.now + 1 })).deliverDue).still

theorem State.second_bay (s : State) (b : BayIx) : s.second.bay b = (s.bay b).deliver (s.now + 1) :=
  State.deliverDue_bay _ b

theorem State.second_books (s : State) : (∀ c, (s.second.books.bays c).dyn = (s.bay c).dyn)
    ∧ (∀ c, (s.second.books.bays c).ok = (s.bay c).checkOk)
    ∧ s.second.books.still = { s.still with now := s.now + 1 } := by
  have bay (c : BayIx) : s.second.books.bays c = ((s.bay c).deliver (s.now + 1)).book := by
    rw [← State.second_bay]; rfl
  exact ⟨fun c => by rw [bay]; rfl, fun c => by rw [bay]; rfl, s.second_still⟩

theorem State.second_leaves (s : State) : s.second.uplink = s.uplink ∧ s.second.recorder = s.recorder
    ∧ s.second.noticeTag = s.noticeTag ∧ s.second.index = s.index ∧ s.second.scrubber = s.scrubber
    ∧ s.second.waitHolds = s.waitHolds :=
  ⟨rfl, rfl, rfl, rfl, rfl, by simp [State.second, State.deliverDue, State.waitHolds, Function.comp_def]⟩

/-- The event of the tick, the record at the cursor having failed. -/
def State.tickSuspect (s : State) : Ev :=
  ((Ev.start s.second).makeSuspect s.scrubber.cursor).onState (·.tickOn s.scrubber.cursor)

theorem tick_suspect_runs {s : State} (up : s.heldInReset = false)
    (fails : (s.bay s.scrubber.cursor).checkOk = false) (fresh : (s.bay s.scrubber.cursor).dyn.suspect = false) :
    exec .tick s = .next s.tickSuspect.finish := by
  have start : ((Ev.start s).onState (fun s => { s with now := s.now + 1 })).onState State.deliverDue
      = Ev.start s.second := rfl
  rw [exec_tick, execTick, s.event_runs _ up rfl]; dsimp only
  rw [start]
  unfold Ev.scrubStep
  dsimp only
  rw [execTick_scrubbed]
  have cursor : (Ev.start s.second).st.scrubber.cursor = s.scrubber.cursor := rfl
  rw [cursor, Ev.compareRecord_fails]
  · rfl
  · show (s.second.bay s.scrubber.cursor).dyn.suspect = false
    rw [State.second_bay]; exact fresh
  · show (s.second.bay s.scrubber.cursor).checkOk = false
    rw [State.second_bay]; exact fails

/-- The books of that event before the counters rise. -/
theorem State.tickSuspect_marks {s : State} (fresh : (s.bay s.scrubber.cursor).dyn.suspect = false) :
    ((Ev.start s.second).makeSuspect s.scrubber.cursor).books = s.second.books.suspected s.scrubber.cursor :=
  Ev.makeSuspect_books (ev := Ev.start s.second) ((congrArg BayDyn.suspect (s.second_books.1 _)).trans fresh)

theorem State.postReachable_still {s t : State} (nodes : t.still.nodes = s.still.nodes) (b : BayIx) :
    t.postReachable b = s.postReachable b := by
  have same : t.nodes = s.nodes := nodes
  unfold State.postReachable State.post
  rw [same]

/-- What a bay shows a second later. -/
def Bay.counted (s : State) (c : BayIx) : Option Hold :=
  (s.bay c).dyn.active.map (fun h =>
    if h.arrival = none then h else
    { h with
      occupiedSeconds :=
        if (s.bay c).dyn.occupancy = .vacant then h.occupiedSeconds else min 4294967295 (h.occupiedSeconds + 1),
      chargedSeconds :=
        if (s.bay c).dyn.connector = .charging ∧ s.postReachable c = true then min 4294967295 (h.chargedSeconds + 1)
        else h.chargedSeconds })

theorem BayDyn.countSecond_counted (s : State) (c : BayIx) {d : BayDyn} (active : d.active = (s.bay c).dyn.active)
    (occupancy : d.occupancy = (s.bay c).dyn.occupancy) (connector : d.connector = (s.bay c).dyn.connector) :
    d.countSecond (s.postReachable c) = { d with active := Bay.counted s c } := by
  have each : d.active.map (·.countSecond (d.occupancy != .vacant) (d.connector == .charging && s.postReachable c))
      = Bay.counted s c := by
    rw [active, occupancy, connector]
    unfold Bay.counted
    refine congrArg (Option.map · (s.bay c).dyn.active) (funext fun x => ?_)
    unfold Hold.countSecond Hold.arrived countUp
    cases arrival : x.arrival with
    | none => simp
    | some a =>
      simp only [Option.isSome_some, if_true, reduceCtorEq, if_false, Config.counterMax, bne_iff_ne, ne_eq, ite_not,
        Bool.and_eq_true, beq_iff_eq]
  unfold BayDyn.countSecond
  rw [each]

theorem State.logError_controller (s : State) (e : ErrorReport) : (s.logError e).controller = s.controller := by
  have talks := State.logError_talks s e
  unfold Talks at talks
  rw [talks]

/-- An error places one frame at most. -/
theorem State.logError_fifo {s : State} (e : ErrorReport) (room : s.uplink.fifo.length < 32) :
    (s.logError e).uplink.fifo.length ≤ s.uplink.fifo.length + 1 := by
  by_cases told : s.notifies e
  · rw [(State.logError_told told).2, if_pos room]; simp
  · rw [(State.logError_untold told).2]; omega

theorem Ev.onState_feed (ev : Ev) (f : State → State) : (ev.onState f).feed = (f ev.st).feed := rfl

theorem Ev.onState_books (ev : Ev) (f : State → State) : (ev.onState f).books = (f ev.st).books := rfl

section
variable {s : State} (up : s.heldInReset = false)
  (fails : (s.bay s.scrubber.cursor).checkOk = false) (fresh : (s.bay s.scrubber.cursor).dyn.suspect = false)
  (others : ∀ c, c ≠ s.scrubber.cursor → (s.bay c).checkOk = true)
  (room : s.uplink.fifo.length + 2 ≤ 32)

include fresh in
theorem State.tickSuspect_books : s.tickSuspect.books = { s.second.books.suspected s.scrubber.cursor with
    bays := fun c => ((s.second.books.suspected s.scrubber.cursor).bays c).countSecond (s.postReachable c)
    still := { s.still with now := s.now + 1, scrubCursor := s.scrubber.cursor + 1 } } := by
  have marks := State.tickSuspect_marks fresh
  have still : (s.second.books.suspected s.scrubber.cursor).still = { s.still with now := s.now + 1 } :=
    s.second_books.2.2
  unfold State.tickSuspect
  generalize (Ev.start s.second).makeSuspect s.scrubber.cursor = ev at marks ⊢
  have nodes : ev.st.still.nodes = s.still.nodes :=
    (congrArg (fun k : Books => k.still.nodes) marks).trans (by rw [still])
  have reach : ev.st.postReachable = s.postReachable := funext (State.postReachable_still nodes)
  rw [Ev.onState_books, State.tickOn_books ev.st s.scrubber.cursor, reach]
  have marks : ev.st.books = s.second.books.suspected s.scrubber.cursor := marks
  rw [marks, still]
  rfl

include fresh in
theorem State.tickSuspect_dyn : (s.tickSuspect.books.bays s.scrubber.cursor).dyn =
      { (s.bay s.scrubber.cursor).dyn with
        suspect := true
        state := if (s.bay s.scrubber.cursor).dyn.state = .closed then .closed else .faulted
        active := Bay.counted s s.scrubber.cursor }
    ∧ ∀ c, c ≠ s.scrubber.cursor →
      (s.tickSuspect.books.bays c).dyn = { (s.bay c).dyn with active := Bay.counted s c } := by
  rw [State.tickSuspect_books fresh]
  refine ⟨?_, fun c other => ?_⟩
  · rw [BayBook.countSecond_dyn, Books.suspected_same]
    unfold BayBook.suspected
    dsimp only
    rw [s.second_books.1]
    exact BayDyn.countSecond_counted s _ rfl rfl rfl
  · dsimp only
    rw [BayBook.countSecond_dyn, Books.suspected_other _ other, s.second_books.1]
    exact BayDyn.countSecond_counted s _ rfl rfl rfl

include fresh others in
theorem State.tickSuspect_ok : s.tickSuspect.books.Ok := by
  have marked : (s.second.books.suspected s.scrubber.cursor).Ok :=
    Books.suspected_ok fun c other => (s.second_books.2.1 c).trans (others c other)
  rw [State.tickSuspect_books fresh]
  exact fun c => BayBook.countSecond_ok (marked c)

include fresh others in
theorem State.tickSuspect_suspects : s.tickSuspect.Suspects s.scrubber.cursor (s.bay s.scrubber.cursor).dyn.state
    (State.logError { s with now := s.now + 1 } { kind := .recordCheck, bay := some s.scrubber.cursor }) where
  voice := by
    have still : (Ev.start s.second).books.still = { s.still with now := s.now + 1 } := s.second_books.2.2
    unfold State.tickSuspect
    rw [Ev.tickOn_voice, Ev.makeSuspect_voice]
    refine Ev.log_placed (s := { s with now := s.now + 1 }) ?_ (by rw [still]) (by rw [still]; rfl) (by rw [still]; rfl) _
    exact Ev.start_voice (s := s.second)
  desk := by
    unfold State.tickSuspect
    rw [Ev.tickOn_desk, Ev.makeSuspect_desk (scan := false) (captured := false) (Ev.start_desk _)]
    exact congrArg (fun d : BayDyn => (⟨[faultedNote s.scrubber.cursor d.state .suspect], false, false⟩ : Desk))
      (s.second_books.1 _)
  controller := by
    rw [State.tickSuspect_books fresh, State.logError_controller]
    rfl
  state := by rw [(State.tickSuspect_dyn fresh).1]
  ok := State.tickSuspect_ok fresh others
  feed := by
    unfold State.tickSuspect
    rw [Ev.onState_feed, State.tickOn_feed]
    exact Ev.makeSuspect_feed

end

/-- Records that fail the comparison, by the tick (R166, R167). -/
theorem tick_suspects (s : State) (up : s.heldInReset = false)
    (fails : (s.bay s.scrubber.cursor).checkOk = false) (fresh : (s.bay s.scrubber.cursor).dyn.suspect = false)
    (others : ∀ c, c ≠ s.scrubber.cursor → (s.bay c).checkOk = true) (room : s.uplink.fifo.length + 2 ≤ 32) :
    exec .tick s = .next s.tickSuspect.finish
      ∧ s.tickSuspect.finish.Shows s.tickSuspect.books
      ∧ s.tickSuspect.finish.Suspected s.scrubber.cursor (s.bay s.scrubber.cursor).dyn.state
          (State.logError { s with now := s.now + 1 } { kind := .recordCheck, bay := some s.scrubber.cursor }) := by
  refine ⟨tick_suspect_runs up fails fresh, (State.tickSuspect_suspects fresh others).finish ?_⟩
  have length := State.logError_fifo (s := { s with now := s.now + 1 })
    { kind := .recordCheck, bay := some s.scrubber.cursor } (show s.uplink.fifo.length < 32 by omega)
  exact Nat.le_trans (Nat.add_le_add_right length 1) room

end Sys2Proof.Machine
end

section
/-!
SUPPORT. A placement search that finds a record suspect, and the HOLD that it leaves without a bay (R33, R37, R166).
-/
namespace Sys2Proof.Machine

/-! ## The search over the one bay it may read -/

section
variable {ev : Ev} {b : BayIx} {ws : Time}

theorem Ev.examine_unread {e : BayIx} (closed : (ev.bay e).searchable = false) : ev.examine e ws = (ev, none) := by
  unfold Ev.examine
  rw [if_neg (by rw [closed]; exact Bool.false_ne_true)]

theorem Bay.searchable_suspect {y : Bay} (suspect : y.dyn.suspect = true) : y.searchable = false := by
  unfold Bay.searchable
  rw [suspect, Bool.not_true, Bool.and_false]

variable (open_ : (ev.bay b).searchable = true) (fails : (ev.bay b).checkOk = false)

include open_ in
theorem Ev.fresh_of_searchable : (ev.books.bays b).dyn.suspect = false := ((Bay.searchable_iff _).1 open_).2.2.2

include open_ in
theorem Ev.makeSuspect_dyn_same : ((ev.makeSuspect b).bay b).dyn.suspect = true := by
  rw [Ev.bay_dyn, Ev.makeSuspect_books (Ev.fresh_of_searchable open_), Books.suspected_same]; rfl

include open_ in
theorem Ev.makeSuspect_dyn_other {c : BayIx} (other : c ≠ b) : ((ev.makeSuspect b).bay c).dyn = (ev.bay c).dyn := by
  rw [Ev.bay_dyn, Ev.makeSuspect_books (Ev.fresh_of_searchable open_), Books.suspected_other _ other]; rfl

include open_ fails in
theorem Ev.examine_suspect : ev.examine b ws = (ev.makeSuspect b, none) := by
  unfold Ev.examine
  rw [if_pos open_, Ev.compareRecord_fails (Ev.fresh_of_searchable open_) fails]
  dsimp only
  rw [if_pos (Ev.makeSuspect_dyn_same open_)]

variable (others : ∀ c, c ≠ b → (ev.bay c).searchable = false)

include open_ others in
/-- When the one bay that a search may read has failed, there is none left. -/
theorem Ev.makeSuspect_unread (c : BayIx) : ((ev.makeSuspect b).bay c).searchable = false := by
  by_cases same : c = b
  · rw [same]; exact Bay.searchable_suspect (Ev.makeSuspect_dyn_same open_)
  · have closed := others c same
    unfold Bay.searchable at closed ⊢
    rw [Ev.makeSuspect_dyn_other open_ same]; exact closed

theorem Ev.examineAll_unread (closed : ∀ c, (ev.bay c).searchable = false) (l : List BayIx) :
    ev.examineAll ws l = (ev, none) := by
  induction l with
  | nil => rfl
  | cons e l ih => unfold Ev.examineAll; rw [Ev.examine_unread (closed e)]; exact ih

theorem Ev.searchClasses_unread (closed : ∀ c, (ev.bay c).searchable = false) (cs : List BayClass) :
    ev.searchClasses none ws cs = (ev, none) := by
  induction cs with
  | nil => rfl
  | cons c cs ih => unfold Ev.searchClasses; rw [Ev.examineAll_unread closed]; exact ih

include open_ fails others in
theorem Ev.examineAll_suspect (l : List BayIx) :
    ev.examineAll ws l = (if b ∈ l then ev.makeSuspect b else ev, none) := by
  induction l with
  | nil => rfl
  | cons e l ih =>
    unfold Ev.examineAll
    by_cases same : e = b
    · subst same
      rw [Ev.examine_suspect open_ fails, if_pos List.mem_cons_self]
      exact Ev.examineAll_unread (Ev.makeSuspect_unread open_ others) l
    · rw [Ev.examine_unread (others e same)]
      dsimp only
      rw [ih]
      by_cases later : b ∈ l
      · rw [if_pos later, if_pos (List.mem_cons_of_mem e later)]
      · rw [if_neg later, if_neg (by simpa using ⟨fun h => same h.symm, later⟩)]

include open_ fails others in
theorem Ev.searchClasses_suspect (cs : List BayClass) :
    ev.searchClasses none ws cs = (if (ev.bay b).cls ∈ cs then ev.makeSuspect b else ev, none) := by
  induction cs with
  | nil => rfl
  | cons c cs ih =>
    have member : b ∈ (ev.st.classOrder c).filter (fun b => some b != none) ↔ (ev.bay b).cls = c :=
      (State.mem_classBays (s := ev.st) (excluded := none)).trans (and_iff_left (by simp))
    unfold Ev.searchClasses
    rw [Ev.examineAll_suspect open_ fails others]
    dsimp only
    by_cases here : (ev.bay b).cls = c
    · rw [if_pos (member.2 here), if_pos (by rw [here]; exact List.mem_cons_self)]
      exact Ev.searchClasses_unread (Ev.makeSuspect_unread open_ others) cs
    · rw [if_neg (fun h => here (member.1 h)), ih]
      by_cases later : (ev.bay b).cls ∈ cs
      · rw [if_pos later, if_pos (List.mem_cons_of_mem c later)]
      · rw [if_neg later, if_neg (by simpa using ⟨here, later⟩)]

include open_ fails others in
/-- The search that may read one bay, of an acceptable class, whose record fails. -/
theorem Ev.search_suspect {c : BayClass} (preferred : Option BayIx) (cls : (ev.bay b).cls ∈ ev.st.acceptable c) :
    ev.search c preferred none ws = (ev.makeSuspect b, none) := by
  have listed := (ev.st.mem_searchList c _).2 cls
  have ordered : ev.searchClasses none ws (ev.st.searchList c) = (ev.makeSuspect b, none) := by
    rw [Ev.searchClasses_suspect open_ fails others, if_pos listed]
  unfold Ev.search
  cases preferred with
  | none => exact ordered
  | some p =>
    dsimp only
    by_cases acceptable : (ev.st.searchList c).contains (ev.bay p).cls = true
    · rw [if_pos acceptable]
      by_cases same : p = b
      · rw [same, Ev.examine_suspect open_ fails]
        exact Ev.searchClasses_unread (Ev.makeSuspect_unread open_ others) _
      · rw [Ev.examine_unread (others p same)]
        exact ordered
    · rw [if_neg acceptable]; exact ordered

end

/-! ## The HOLD that finds no other bay -/

theorem State.indexHold_leaves (s : State) (h : Hold) (l : Location) :
    s.indexHold h l = { s with index := (s.indexHold h l).index } := by
  unfold State.indexHold State.setIndex
  split
  · split <;> rfl
  · rfl

theorem State.indexHold_feed (s : State) (h : Hold) (l : Location) : (s.indexHold h l).feed = s.feed := by
  rw [State.indexHold_leaves]; rfl

theorem Ev.joinWaitlist_feed {ev : Ev} (insert : WaitEntry → List WaitEntry → List WaitEntry) (h : Hold) (c : BayClass)
    (preferred : Option BayIx) (room : ev.books.waitlist.length < 32) :
    (ev.joinWaitlist insert h c preferred).feed = ev.feed := by
  unfold Ev.joinWaitlist
  rw [Ev.makeRoom_voice_room room, Ev.onState_feed, State.indexHold_feed]
  rfl

theorem Ev.waitlist_eq {ev : Ev} {k : Books} (books : ev.books = k) : ev.st.waitlist = k.waitlist := by
  rw [← books]; rfl

theorem Ev.still_fields {ev : Ev} {s : State} {k : Still} (still : ev.books.still = k) (site : k.siteOffset = s.siteOffset)
    (controller : k.controller = s.controller) : ev.st.siteOffset = s.siteOffset ∧ ev.st.controller = s.controller := by
  rw [← site, ← controller, ← still]; exact ⟨rfl, rfl⟩

theorem Ev.removeEarly_feed (ev : Ev) (t : Ticket) : (ev.onState (·.removeEarly t)).feed = ev.feed := rfl

/-- The event of a HOLD that waits, but for the answer. -/
def State.suspectHold (s : State) (r : Request) (q : List Request) (c : BayClass) (b : BayIx) : Ev :=
  (((s.serving q).makeSuspect b).joinWaitlist insertTail (s.heldFor r c) c (bayOfNo (byteAt r.payload 5))).onState
    (·.removeEarly (ticketField r.payload 0))

/-- Its answer: QUEUED, first on an empty Waitlist. -/
def State.suspectHoldAnswer (s : State) (r : Request) (c : BayClass) : Frame :=
  s.answerTo r Kind.answer (s.answerBytes r (ticketField r.payload 0) 1 0 0 1 (s.heldFor r c))

section
variable {s : State} {r : Request} {q : List Request} {c : BayClass} {b : BayIx}
  (running : s.heldInReset = false) (head : s.requests = r :: q) (kind : r.kind = Kind.hold)
  (checked : s.checkHold r = .ok c) (fails : (s.bay b).checkOk = false) (open_ : (s.bay b).searchable = true)
  (cls : (s.bay b).cls ∈ s.acceptable c) (others : ∀ c, c ≠ b → (s.bay c).searchable = false)
  (agree : ∀ c, c ≠ b → (s.bay c).checkOk = true) (empty : s.waitlist = []) (src : r.src ≠ 0)
  (room : s.uplink.fifo.length + 3 ≤ 32)

include open_ in
theorem State.suspectHold_marks : ((s.serving q).makeSuspect b).books = (s.serving q).books.suspected b :=
  Ev.makeSuspect_books (ev := s.serving q) ((Bay.searchable_iff _).1 open_).2.2.2

include open_ empty in
theorem State.suspectHold_books : (s.suspectHold r q c b).books =
    { ((s.serving q).books.suspected b).joined insertTail (s.entryFor r c) with
      still := ({ s.still with requests := q } : Still).forget (ticketField r.payload 0) } := by
  have waits : ((s.serving q).books.suspected b).waitlist = [] := empty
  unfold State.suspectHold
  rw [Ev.removeEarly_books, Ev.joinWaitlist_books, State.suspectHold_marks open_,
    Books.room_of_room (by rw [waits]; decide)]
  rfl

include open_ empty in
theorem State.suspectHold_still : (s.suspectHold r q c b).books.still
    = ({ s.still with requests := q } : Still).forget (ticketField r.payload 0) := by
  rw [State.suspectHold_books open_ empty]

include open_ empty in
theorem State.suspectHold_waits : (s.suspectHold r q c b).books.waitlist = [s.entryFor r c] := by
  rw [State.suspectHold_books open_ empty]
  show insertTail (s.entryFor r c) s.waitlist = _
  rw [empty]; rfl

include running head kind checked fails open_ cls others empty src in
theorem holdSuspect_runs :
    exec .hold s = .next ((s.suspectHold r q c b).answer (some (s.suspectHoldAnswer r c))).finish := by
  have found := Ev.search_suspect (ev := s.serving q) (ws := (s.heldFor r c).windowStart) open_ fails others
    (bayOfNo (byteAt r.payload 5)) cls
  have waits : ((s.serving q).makeSuspect b).st.waitlist = [] :=
    (Ev.waitlist_eq (State.suspectHold_marks (q := q) open_)).trans empty
  have listed : (s.suspectHold r q c b).st.waitlist = [s.entryFor r c] :=
    (Ev.waitlist_eq rfl).trans (State.suspectHold_waits open_ empty)
  have still : (s.suspectHold r q c b).st.siteOffset = s.siteOffset ∧ (s.suspectHold r q c b).st.controller = s.controller := by
    exact Ev.still_fields (State.suspectHold_still open_ empty) rfl rfl
  rw [execHold_placing running head kind checked, Ev.placeRequest_none found,
    if_pos (State.admitsTail_room (by rw [waits]; decide))]
  dsimp only
  rw [show (((s.serving q).makeSuspect b).joinWaitlist insertTail (s.heldFor r c) c (bayOfNo (byteAt r.payload 5))).onState
    (·.removeEarly (ticketField r.payload 0)) = s.suspectHold r q c b from rfl]
  unfold Ev.reply
  rw [State.buildAnswer_some _ _ _ _ src, answerPayload_queued, listed,
    still.2]
  unfold State.suspectHoldAnswer State.answerTo State.answerBytes State.windowBytes
  rw [still.1]
  have first : waitPosition [s.entryFor r c] (s.heldFor r c).ticket = 1 := by
    unfold waitPosition
    rw [List.findIdx?_cons, if_pos (by exact beq_self_eq_true _)]
  rw [first]

include open_ empty room in
theorem State.suspectHold_voice : ((s.suspectHold r q c b).answer (some (s.suspectHoldAnswer r c))).voice
    = ((s.placeUplink (s.suspectHoldAnswer r c)).logError { kind := .recordCheck, bay := some b }).placed 0 [] := by
  have waits : ((s.serving q).makeSuspect b).books.waitlist = [] :=
    (congrArg Books.waitlist (State.suspectHold_marks (q := q) open_)).trans empty
  refine Ev.answer_erred ?_ _ (by omega)
  unfold State.suspectHold
  rw [Ev.removeEarly_voice, Ev.joinWaitlist_voice, Ev.makeRoom_voice_room (by rw [waits]; decide), Ev.makeSuspect_voice]
  exact Ev.log_erred (s.serving_voice q) rfl rfl rfl _

include open_ empty agree room in
theorem State.suspectHold_suspects : ((s.suspectHold r q c b).answer (some (s.suspectHoldAnswer r c))).Suspects b
    (s.bay b).dyn.state
    ((s.placeUplink (s.suspectHoldAnswer r c)).logError { kind := .recordCheck, bay := some b }) where
  voice := State.suspectHold_voice open_ empty room
  desk := by
    have kept := (Ev.joinWaitlist_kept ((s.serving q).makeSuspect b) insertTail (s.heldFor r c) c
      (bayOfNo (byteAt r.payload 5))).1
    rw [Ev.answer_desk]
    unfold State.suspectHold
    rw [Ev.onState_desk, kept, Ev.makeSuspect_desk (ev := s.serving q) (scan := false) (captured := false) rfl]
    rfl
  controller := by
    rw [Ev.answer_books, State.suspectHold_still open_ empty, State.logError_controller,
      State.placeUplink_room _ (by omega)]
    rfl
  state := by
    rw [Ev.answer_books, State.suspectHold_books open_ empty]
    show (((s.serving q).books.suspected b).bays b).dyn.state = _
    rw [Books.suspected_same]; rfl
  ok := by
    rw [Ev.answer_books, State.suspectHold_books open_ empty]
    exact Books.suspected_ok (k := (s.serving q).books) agree
  feed := by
    have waits : ((s.serving q).makeSuspect b).books.waitlist = [] :=
      (congrArg Books.waitlist (State.suspectHold_marks (q := q) open_)).trans empty
    have feed : (s.suspectHold r q c b).feed = ((s.serving q).makeSuspect b).feed := by
      unfold State.suspectHold
      rw [Ev.removeEarly_feed, Ev.joinWaitlist_feed insertTail _ _ _ (by rw [waits]; decide)]
    rw [Ev.answer_feed, feed]
    exact Ev.makeSuspect_feed

end

end Sys2Proof.Machine
end

section
/-!
SUPPORT. A recompute that finds a record of the Charge Queue suspect (R85, R166), and the settlement of the statement
about records that fail their comparison.
-/
namespace Sys2Proof.Machine

/-! ## The comparison a recompute makes -/

section
variable {ev : Ev} {b : BayIx} (fresh : (ev.books.bays b).dyn.suspect = false) (fails : (ev.books.bays b).ok = false)
  (agree : ∀ c, c ≠ b → (ev.books.bays c).ok = true)

include fresh agree in
theorem Ev.makeSuspect_allOk : (ev.makeSuspect b).books.Ok := by
  rw [Ev.makeSuspect_books fresh]; exact Books.suspected_ok agree

include fresh fails agree in
/-- The records of a list compared, one of which fails. -/
theorem Ev.compareRecords_suspect {l : List BayIx} (here : b ∈ l) :
    l.foldl Ev.compareRecord ev = ev.makeSuspect b := by
  induction l with
  | nil => cases here
  | cons e l ih =>
    rw [List.foldl_cons]
    by_cases same : e = b
    · rw [same, Ev.compareRecord_fails fresh fails]
      exact Ev.compareRecords_ok _ (Ev.makeSuspect_allOk fresh agree) l
    · rw [Ev.compareRecord_agrees (.inl (agree e same))]
      exact ih ((List.mem_cons.1 here).resolve_left fun h => same h.symm)

end

/-- A recompute ends as if the records that it compares had been compared before it. -/
theorem Ev.recomputeFuel_compared (n : Nat) {ev x : Ev}
    (compared : (ev.st.allocator.queue.map (·.bay)).foldl Ev.compareRecord ev = x) (ok : x.books.Ok) :
    Ev.recomputeFuel (n + 1) ev = Ev.recomputeFuel (n + 1) x.flushNotes := by
  have first : ev.compareQueue = x.flushNotes := by unfold Ev.compareQueue; rw [compared]
  have again : x.flushNotes.compareQueue = x.flushNotes := by
    rw [Ev.compareQueue_ok _ (by rw [State.allOk_iff, show x.flushNotes.st.books = x.books from Ev.flushNotes_books x]; exact ok),
      Ev.flushNotes_none x.flushNotes_leaves.2.2]
  rw [Ev.recomputeFuel, Ev.recomputeFuel, first, again]

theorem Ev.finish_compared {ev x : Ev} (desk : ev.desk = .clear) (owed : ev.recompute = true)
    (compared : (ev.st.allocator.queue.map (·.bay)).foldl Ev.compareRecord ev = x) (ok : x.books.Ok)
    (scan : x.scan = false) (kept : x.recompute = true) : ev.finish = x.finish := by
  have notes : ev.flushNotes = ev := Ev.flushNotes_none (congrArg Desk.notes desk)
  have noScan : ev.runScan = ev := if_neg (by rw [show ev.scan = false from congrArg Desk.scan desk]; exact Bool.false_ne_true)
  obtain ⟨scanKept, recomputeKept, _⟩ := x.flushNotes_leaves
  have noScan' : x.flushNotes.runScan = x.flushNotes :=
    if_neg (by rw [scanKept, scan]; exact Bool.false_ne_true)
  have run : ev.runRecompute = x.flushNotes.runRecompute := by
    unfold Ev.runRecompute
    rw [if_pos owed, if_pos (recomputeKept.trans kept), Ev.recomputeFuel_compared 129 compared ok]
  unfold Ev.finish
  rw [notes, noScan, noScan', run]

/-! ## SET-CAP over a record that fails -/

theorem State.placed_answer (s : State) (a : Frame) (room : s.uplink.fifo.length < 32) :
    s.placed 0 [a] = (s.placeUplink a).placed 0 [] := by
  rw [State.placeUplink_room a room]
  unfold State.placed State.pushUplink
  dsimp only
  rw [List.append_nil]

section
variable {s : State} {r : Request} {q : List Request} {b : BayIx} {cap : Option Nat}

theorem Ev.answer_allocator (ev : Ev) (f : Option Frame) : (ev.answer f).st.allocator = ev.st.allocator := by
  have talks := ev.answer_talks f
  unfold Talks at talks
  rw [talks]

theorem Ev.scan_desk (ev : Ev) : ev.scan = ev.desk.scan := rfl

theorem Ev.makeSuspect_scan {ev : Ev} {b : BayIx} (clear : ev.desk = .clear) : (ev.makeSuspect b).scan = false := by
  rw [Ev.scan_desk, Ev.makeSuspect_desk (b := b) (scan := false) (captured := false) clear]

/-- The answer of a SET-CAP stored as written. -/
def State.capAnswer (s : State) (r : Request) : Frame := s.answerTo r Kind.mgmtAnswer [r.kind, 0]

/-- Its event, the answer placed. -/
def State.capped (s : State) (r : Request) (q : List Request) (cap : Option Nat) : Ev :=
  ((s.managing q).onState (·.setCap cap)).wantRecompute.status r .ok

theorem State.capped_books : (∀ c, (s.capped r q cap).books.bays c = (s.bay c).book)
    ∧ (s.capped r q cap).books.waitlist = s.waitlist ∧ (s.capped r q cap).books.still.now = s.now
    ∧ (s.capped r q cap).books.still.siteOffset = s.siteOffset
    ∧ (s.capped r q cap).books.still.controller = s.controller := by
  have books : (s.capped r q cap).books = (((s.managing q).onState (·.setCap cap)).wantRecompute).books := Ev.answer_books _ _
  rw [books]
  exact ⟨fun _ => rfl, rfl, rfl, rfl, rfl⟩

theorem State.capped_desk : (s.capped r q cap).desk = .clear ∧ (s.capped r q cap).recompute = true :=
  ⟨Ev.answer_desk _ _, (Ev.answer_leaves _ _).2.2.1⟩

theorem State.capped_queue : (s.capped r q cap).st.allocator.queue = s.allocator.queue := by
  have kept := Ev.answer_allocator ((s.managing q).onState (·.setCap cap)).wantRecompute
    (((s.managing q).onState (·.setCap cap)).wantRecompute.st.buildAnswer r.src r.tag Kind.mgmtAnswer [r.kind, byteOf Status.ok.code])
  exact (congrArg Allocator.queue kept).trans rfl

theorem State.capped_voice (src : r.src ≠ 0) (room : s.uplink.fifo.length < 32) :
    (s.capped r q cap).voice = (s.placeUplink (s.capAnswer r)).placed 0 [] := by
  rw [← State.placed_answer s (s.capAnswer r) room]
  exact Ev.answer_placed (ev := ((s.managing q).onState (·.setCap cap)).wantRecompute) (k := 0) (fs := []) _ _
    (s.managing_voice q) rfl src (by simpa using room)

variable (fails : (s.bay b).checkOk = false) (fresh : (s.bay b).dyn.suspect = false)
  (agree : ∀ c, c ≠ b → (s.bay c).checkOk = true) (src : r.src ≠ 0) (room : s.uplink.fifo.length + 3 ≤ 32)
  (here : b ∈ s.allocator.queue.map (·.bay))

include fresh in
theorem State.capped_marks : ((s.capped r q cap).makeSuspect b).books = (s.capped r q cap).books.suspected b :=
  Ev.makeSuspect_books (by rw [State.capped_books.1]; exact fresh)

include fresh agree in
theorem State.capped_ok : ((s.capped r q cap).makeSuspect b).books.Ok :=
  Ev.makeSuspect_allOk (by rw [State.capped_books.1]; exact fresh)
    fun c other => by rw [State.capped_books.1]; exact agree c other

include fresh agree src room in
theorem State.capped_suspects : ((s.capped r q cap).makeSuspect b).Suspects b (s.bay b).dyn.state
    ((s.placeUplink (s.capAnswer r)).logError { kind := .recordCheck, bay := some b }) where
  voice := by
    obtain ⟨_, _, now, site, controller⟩ := State.capped_books (s := s) (r := r) (q := q) (cap := cap)
    have placed : s.placeUplink (s.capAnswer r) = s.pushUplink (s.capAnswer r) := State.placeUplink_room _ (by omega)
    rw [Ev.makeSuspect_voice]
    refine Ev.log_placed (State.capped_voice src (by omega)) ?_ ?_ ?_ _
    · rw [now, placed]; rfl
    · rw [site, placed]; rfl
    · rw [controller, placed]; rfl
  desk := by
    rw [Ev.makeSuspect_desk (scan := false) (captured := false) State.capped_desk.1, State.capped_books.1]; rfl
  controller := by
    rw [State.capped_marks fresh, State.logError_controller, State.placeUplink_room _ (by omega)]
    exact State.capped_books.2.2.2.2
  state := by
    rw [State.capped_marks fresh, Books.suspected_same, State.capped_books.1]; rfl
  ok := State.capped_ok fresh agree
  feed := Ev.makeSuspect_feed

include fails fresh agree here in
theorem State.capped_finish : (s.capped r q cap).finish = ((s.capped r q cap).makeSuspect b).finish := by
  refine Ev.finish_compared State.capped_desk.1 State.capped_desk.2
    (Ev.compareRecords_suspect (by rw [State.capped_books.1]; exact fresh) (by rw [State.capped_books.1]; exact fails)
      (fun c other => by rw [State.capped_books.1]; exact agree c other) (by rw [State.capped_queue]; exact here))
    (State.capped_ok fresh agree) (Ev.makeSuspect_scan State.capped_desk.1)
    ((Moves.refl.makeSuspect b).recompute State.capped_desk.2)

end

/-- What the obligation says of a part that has found the record of `b` suspect behind its answer. -/
def State.FailsBehind (s t answered : State) (b : BayIx) : Prop :=
  (t.bay b).dyn = { (s.bay b).dyn with
      suspect := true, state := if (s.bay b).dyn.state = .closed then .closed else .faulted }
    ∧ (∀ c, c ≠ b → (t.bay c).dyn = (s.bay c).dyn) ∧ (t.bay b).alloc.suspectCopy = true
    ∧ b ∉ t.allocator.queue.map (·.bay) ∧ t.scrubber.degraded = true
    ∧ t.recorder = (answered.logError { kind := .recordCheck, bay := some b }).recorder
    ∧ (answered.logError { kind := .recordCheck, bay := some b }).uplink.fifo <+: t.uplink.fifo
    ∧ (s.controller.noticeDest ≠ 0 → (s.bay b).dyn.state ≠ .closed → (s.bay b).dyn.state ≠ .faulted →
        (answered.logError { kind := .recordCheck, bay := some b }).uplink.fifo
          ++ [(answered.logError { kind := .recordCheck, bay := some b }).bayNoticeAt 0 b (s.bay b).dyn.state .faulted 6 0 3]
            <+: t.uplink.fifo)

theorem Ev.Suspects.failsBehind {s answered : State} {ev : Ev} {b : BayIx} {k : Books}
    (suspects : ev.Suspects b (s.bay b).dyn.state (answered.logError { kind := .recordCheck, bay := some b }))
    (bays : ∀ c, ev.books.bays c = (k.suspected b).bays c) (dyn : ∀ c, (k.bays c).dyn = (s.bay c).dyn)
    (degraded : ev.books.degraded = true) (controller : answered.controller = s.controller)
    (room : answered.uplink.fifo.length + 2 ≤ 32) :
    s.FailsBehind ev.finish answered b := by
  obtain ⟨shows_, suspected⟩ := suspects.finish (by
    have length := State.logError_fifo (s := answered) { kind := .recordCheck, bay := some b } (by omega)
    omega)
  refine ⟨?_, fun c other => ?_, suspected.copy, suspected.out, shows_.degraded.trans degraded, suspected.recorder,
    suspected.fifo, fun somebody => suspected.notice ?_⟩
  · rw [shows_.dyn, bays, Books.suspected_same, ← dyn]; rfl
  · rw [shows_.dyn, bays, Books.suspected_other _ other, dyn]
  · rw [State.logError_controller, controller]; exact somebody

theorem State.placeUplink_fields {s : State} (a : Frame) (room : s.uplink.fifo.length < 32) :
    (s.placeUplink a).controller = s.controller ∧ (s.placeUplink a).uplink.fifo.length = s.uplink.fifo.length + 1 := by
  rw [State.placeUplink_room a room]
  exact ⟨rfl, by simp [State.pushUplink]⟩

/-- The HOLD that finds no other bay (R33, R37). -/
theorem hold_failsBehind {s : State} {r : Request} {q : List Request} {c : BayClass} {b : BayIx}
    (running : s.heldInReset = false) (head : s.requests = r :: q) (kind : r.kind = Kind.hold)
    (checked : s.checkHold r = .ok c) (fails : (s.bay b).checkOk = false) (open_ : (s.bay b).searchable = true)
    (cls : (s.bay b).cls ∈ s.acceptable c) (others : ∀ c, c ≠ b → (s.bay c).searchable = false)
    (agree : ∀ c, c ≠ b → (s.bay c).checkOk = true) (empty : s.waitlist = []) (src : r.src ≠ 0)
    (room : s.uplink.fifo.length + 3 ≤ 32) :
    ∃ t, exec .hold s = .next t ∧ t.waitHolds = [s.heldFor r c]
      ∧ s.FailsBehind t (s.placeUplink (s.suspectHoldAnswer r c)) b := by
  have run := holdSuspect_runs running head kind checked fails open_ cls others empty src
  have suspects := State.suspectHold_suspects (r := r) (q := q) (c := c) open_ agree empty room
  have books : ((s.suspectHold r q c b).answer (some (s.suspectHoldAnswer r c))).books = _ :=
    (Ev.answer_books _ _).trans (State.suspectHold_books open_ empty)
  have waits : ((s.suspectHold r q c b).answer (some (s.suspectHoldAnswer r c))).books.waitlist = [s.entryFor r c] :=
    (congrArg Books.waitlist (Ev.answer_books _ _)).trans (State.suspectHold_waits open_ empty)
  generalize (s.suspectHold r q c b).answer (some (s.suspectHoldAnswer r c)) = ev at run suspects books waits
  obtain ⟨controller, length⟩ := State.placeUplink_fields (s := s) (s.suspectHoldAnswer r c) (by omega)
  refine ⟨_, run, ?_, suspects.failsBehind (k := (s.serving q).books) (fun e => by rw [books]; rfl) (fun _ => rfl)
    (by rw [books]; rfl) controller (by omega)⟩
  have failed := State.logError_fifo (s := s.placeUplink (s.suspectHoldAnswer r c))
    { kind := .recordCheck, bay := some b } (by omega)
  rw [(suspects.finish (by omega)).1.holds, waits]; rfl

/-- The SET-CAP whose recompute finds the record (R85). -/
theorem setCap_failsBehind {s : State} {r : Request} {q : List Request} {b : BayIx} {v w : Byte}
    (running : s.heldInReset = false) (head : s.management = r :: q) (kind : r.kind = Kind.control)
    (payload : r.payload = [7, v, w]) (value : v.toNat * 256 + w.toNat ≤ 20000)
    (here : b ∈ s.allocator.queue.map (·.bay)) (fails : (s.bay b).checkOk = false)
    (fresh : (s.bay b).dyn.suspect = false) (agree : ∀ c, c ≠ b → (s.bay c).checkOk = true) (src : r.src ≠ 0)
    (room : s.uplink.fifo.length + 3 ≤ 32) :
    ∃ t, exec .setCap s = .next t ∧ t.WithinBudget ∧ (t.bay b).alloc.target = 0
      ∧ s.FailsBehind t (s.placeUplink (s.capAnswer r)) b := by
  have field : field16 [v, w] 0 = v.toNat * 256 + w.toNat := rfl
  have run := execSetCap_runs running head kind (e := [v, w]) rfl payload
  rw [if_neg (c := 20000 < _ ∧ _) (by rw [field]; omega)] at run
  generalize (if field16 [v, w] 0 = 65535 then none else some (min 20000 (field16 [v, w] 0))) = cap at run
  have run : exec .setCap s = .next (s.capped r q cap).finish := run
  have budget : (s.capped r q cap).finish.WithinBudget := Ev.finish_recomputed _ State.capped_desk.2
  have same := State.capped_finish (r := r) (q := q) (cap := cap) fails fresh agree here
  have suspects := State.capped_suspects (r := r) (q := q) (cap := cap) fresh agree src room
  have books := State.capped_marks (r := r) (q := q) (cap := cap) fresh
  have bays := State.capped_books (s := s) (r := r) (q := q) (cap := cap).1
  have owed : ((s.capped r q cap).makeSuspect b).recompute = true :=
    (Moves.refl.makeSuspect b).recompute State.capped_desk.2
  rw [same] at run budget
  generalize (s.capped r q cap).makeSuspect b = ev at run budget suspects books owed
  generalize (s.capped r q cap).books = k at books bays
  obtain ⟨controller, length⟩ := State.placeUplink_fields (s := s) (s.capAnswer r) (by omega)
  have idle := Ev.finish_feed ev owed (.inl (congrArg Desk.scan suspects.desk)) suspects.ok
  refine ⟨_, run, budget, idle.2 b ?_, suspects.failsBehind (k := k) (fun c => by rw [books])
    (fun c => by rw [bays]; rfl) (by rw [books]; rfl) controller (by omega)⟩
  rw [idle.1]; exact suspects.feed.2

/-- Settles O29. The tick and the HOLD examine the record before their frames are done; the recompute of a SET-CAP does so
behind the answer. -/
theorem recordComparison : Obligations.RecordComparison := by
  refine ⟨fun s up => ?_, fun s r q b up fails fresh agree room src => ?_, fun s b ws degraded fits => ?_,
    fun s b suspect => Bay.searchable_suspect suspect⟩
  · intro b d failed counted fails fresh agree room
    obtain ⟨run, shows_, suspected⟩ := tick_suspects s up fails fresh agree room
    obtain ⟨here, others⟩ := State.tickSuspect_dyn fresh
    have books := State.tickSuspect_books fresh
    generalize s.tickSuspect.finish = t at run shows_ suspected
    generalize s.tickSuspect.books = k at shows_ books here others
    refine ⟨t, run, ?_, (shows_.dyn b).trans here, fun c other => (shows_.dyn c).trans (others c other), suspected.copy,
      suspected.out, ?_, suspected.recorder, ?_, ?_, suspected.fifo, fun somebody => suspected.notice ?_⟩
    · rw [shows_.still, books]
    · rw [shows_.degraded, books]; rfl
    · rw [shows_.holds, books]; exact s.second_leaves.2.2.2.2.2
    · rw [shows_.index, books]; rfl
    · rw [State.logError_controller]; exact somebody
  · intro d fails_
    refine ⟨fun cls head kind checked open_ acceptable others empty => ?_, fun head kind v w payload value here => ?_⟩
    · obtain ⟨t, run, waits, behind⟩ :=
        hold_failsBehind up head kind checked fails open_ acceptable others agree empty src room
      exact ⟨t, s.heldFor r cls, run, rfl, waits, behind⟩
    · exact setCap_failsBehind up head kind payload value here fails fresh agree src room
  · obtain ⟨active, _⟩ | ⟨_, _, _, sound, _⟩ := (s.fit_iff b ws .staged).1 fits
    · cases active
    · rw [degraded] at sound; cases sound

end Sys2Proof.Machine
end

section
/-!
SUPPORT. The Node Map read by bay after a change of contact records (R1, R115): the entries of a role and a bay stand where
they stood.
-/
namespace Sys2Proof.Machine

theorem nodeList_eq (t : Table NodeEntry 256) :
    nodeList t = (List.finRange 256).map (fun i => (BitVec.ofFin i, t.get i)) := by
  refine List.ext_getElem ?_ fun i first second => ?_
  · rw [List.length_map, List.length_finRange, nodeList, List.length_map, List.length_zipIdx, t.size]
  · have bound : i < 256 := by simpa using second
    simp only [nodeList, List.getElem_map, List.getElem_zipIdx, List.getElem_finRange, Table.get]
    refine Prod.ext (BitVec.eq_of_toNat_eq ?_) ?_
    · simpa using bound
    · simp

/-- Maps whose entries have the same roles and bays hold the node of a role and a bay at the same address. -/
theorem nodeOf_congr {t u : Table NodeEntry 256} (same : ∀ i, (u.get i).role = (t.get i).role ∧ (u.get i).bay = (t.get i).bay)
    (r : Role) (b : BayIx) : nodeOf u r b = (nodeOf t r b).map (fun e => (e.1, u.get (addrIx e.1))) := by
  have find (t : Table NodeEntry 256) : nodeOf t r b = ((List.finRange 256).find?
      (fun i => (t.get i).role.isDown && ((t.get i).role == r && (t.get i).bay == some b))).map
        (fun i => (BitVec.ofFin i, t.get i)) := by
    rw [nodeOf, downNodes, nodeList_eq, List.find?_filter, List.find?_map]
    refine congrArg (Option.map _) (congrArg (List.find? · (List.finRange 256)) (funext fun i => ?_))
    simp only [Function.comp_apply, Bool.decide_and, Bool.decide_eq_true]
  rw [find u, find t, Option.map_map]
  have test : (fun i => (u.get i).role.isDown && ((u.get i).role == r && (u.get i).bay == some b))
      = fun i => (t.get i).role.isDown && ((t.get i).role == r && (t.get i).bay == some b) := by
    funext i; rw [(same i).1, (same i).2]
  rw [test]
  rfl

section
variable (s : State) (a : Addr) (f : Contact → Contact)

theorem State.modContact_node (c : Addr) : (s.modContact a f).node c
    = if c = a then { s.node a with contact := (s.node a).contact.map f } else s.node c := by
  unfold State.modContact State.node
  dsimp only
  split
  · next same => rw [same, Table.get_modify_same]
  · next other => exact Table.get_modify_other _ _ fun h => other (BitVec.eq_of_toFin_eq h)

theorem State.modContact_kept (i : Fin 256) : ((s.modContact a f).nodes.get i).role = (s.nodes.get i).role
    ∧ ((s.modContact a f).nodes.get i).bay = (s.nodes.get i).bay := by
  have entry := s.modContact_node a f (BitVec.ofFin i)
  have read (t : State) : t.node (BitVec.ofFin i) = t.nodes.get i := rfl
  rw [← read, ← read, entry]
  split
  · next same => rw [same]; exact ⟨rfl, rfl⟩
  · exact ⟨rfl, rfl⟩

theorem State.modContact_nodeOf (r : Role) (b : BayIx) : nodeOf (s.modContact a f).nodes r b
    = (nodeOf s.nodes r b).map (fun e => (e.1, (s.modContact a f).node e.1)) :=
  nodeOf_congr (s.modContact_kept a f) r b

theorem State.modContact_post (b : BayIx) :
    (s.modContact a f).post b = (s.post b).map (fun e => (e.1, (s.modContact a f).node e.1)) :=
  s.modContact_nodeOf a f .post b

theorem State.modContact_sensor (b : BayIx) :
    (s.modContact a f).sensor b = (s.sensor b).map (fun e => (e.1, (s.modContact a f).node e.1)) :=
  s.modContact_nodeOf a f .sensor b

theorem State.sensor_some {s : State} {b : BayIx} {a : Addr} {e : NodeEntry} (h : s.sensor b = some (a, e)) :
    s.node a = e ∧ e.role = .sensor ∧ e.bay = some b := nodeOf_some h

/-- A contact record that keeps its contact state leaves a post as reachable as it was. -/
theorem State.modContact_unreachable (same : ∀ c, (f c).reachable = c.reachable) (b : BayIx) :
    (s.modContact a f).postUnreachable b = s.postUnreachable b := by
  unfold State.postUnreachable
  rw [s.modContact_post a f b]
  cases post : s.post b with
  | none => rfl
  | some x =>
    obtain ⟨n, e⟩ := x
    dsimp only [Option.map_some]
    obtain ⟨entry, _⟩ := State.post_some post
    rw [s.modContact_node a f]
    split
    · next here =>
      subst here
      rw [entry]
      cases contact : e.contact with
      | none => unfold NodeEntry.isUnreachable; rw [contact]; rfl
      | some c => unfold NodeEntry.isUnreachable; rw [contact]; simp [same]
    · rw [entry]

end

end Sys2Proof.Machine
end

section
/-!
SUPPORT. The rebuild of a suspect bay (R169): nodes due now, the record, the bay's state, and degraded mode.
-/
namespace Sys2Proof.Machine

/-! ## Post and sensor due now -/

def State.dueBoth (s : State) (b : BayIx) : State := (s.dueNow (s.post b)).dueNow ((s.dueNow (s.post b)).sensor b)

theorem State.dueNow_eq (s : State) (n : Option (Addr × NodeEntry)) :
    s.dueNow n = { s with nodes := (s.dueNow n).nodes } := by
  rcases n with _ | ⟨a, e⟩ <;> rfl

theorem State.dueBoth_eq (s : State) (b : BayIx) : s.dueBoth b = { s with nodes := (s.dueBoth b).nodes } := by
  unfold State.dueBoth
  rw [State.dueNow_eq (s.dueNow (s.post b)) ((s.dueNow (s.post b)).sensor b), State.dueNow_eq s (s.post b)]

theorem State.dueNow_congr {s t : State} (nodes : t.nodes = s.nodes) (now : t.now = s.now)
    (n : Option (Addr × NodeEntry)) : (t.dueNow n).nodes = (s.dueNow n).nodes ∧ (t.dueNow n).now = (s.dueNow n).now := by
  rcases n with _ | ⟨a, e⟩
  · exact ⟨nodes, now⟩
  · unfold State.dueNow State.modContact
    dsimp only
    rw [nodes, now]
    exact ⟨rfl, rfl⟩

theorem State.dueBoth_congr {s t : State} (nodes : t.nodes = s.nodes) (now : t.now = s.now) (b : BayIx) :
    (t.dueBoth b).nodes = (s.dueBoth b).nodes := by
  have post : t.post b = s.post b := by unfold State.post; rw [nodes]
  obtain ⟨first, clock⟩ := State.dueNow_congr nodes now (s.post b)
  have sensor : (t.dueNow (s.post b)).sensor b = (s.dueNow (s.post b)).sensor b := by unfold State.sensor; rw [first]
  unfold State.dueBoth
  rw [post, sensor]
  exact (State.dueNow_congr first clock _).1

theorem State.dueNow_unreachable (s : State) (n : Option (Addr × NodeEntry)) (b : BayIx) :
    (s.dueNow n).postUnreachable b = s.postUnreachable b := by
  rcases n with _ | ⟨a, e⟩
  · rfl
  · exact s.modContact_unreachable a (fun c => { c with due := s.now }) (fun _ => rfl) b

theorem State.dueBoth_unreachable (s : State) (b c : BayIx) : (s.dueBoth b).postUnreachable c = s.postUnreachable c :=
  (State.dueNow_unreachable _ _ c).trans (State.dueNow_unreachable _ _ c)

theorem State.dueNow_here (s : State) (n : Addr) (e : NodeEntry) :
    ((s.dueNow (some (n, e))).node n).contact = (s.node n).contact.map (fun c => { c with due := s.now }) := by
  show ((s.modContact n _).node n).contact = _
  rw [State.modContact_node, if_pos rfl]

theorem State.dueNow_other (s : State) {n : Addr} {x : Option (Addr × NodeEntry)} (other : ∀ e, x ≠ some (n, e)) :
    (s.dueNow x).node n = s.node n := by
  rcases x with _ | ⟨a, e⟩
  · rfl
  · show (s.modContact a _).node n = _
    rw [State.modContact_node, if_neg fun same => other e (by rw [same])]

theorem State.dueNow_sensor (s : State) (x : Option (Addr × NodeEntry)) (b : BayIx) :
    (s.dueNow x).sensor b = (s.sensor b).map (fun e => (e.1, (s.dueNow x).node e.1)) := by
  rcases x with _ | ⟨a, e⟩
  · cases sensor : s.sensor b with
    | none => exact sensor
    | some y =>
      obtain ⟨entry, _⟩ := State.sensor_some (s := s) (b := b) (a := y.1) (e := y.2) sensor
      refine sensor.trans (congrArg some (Prod.ext rfl ?_))
      exact entry.symm
  · exact s.modContact_sensor a _ b

/-- Post and sensor of the bay are due now (R169). -/
theorem State.dueBoth_node {s : State} {b : BayIx} {n : Addr} {e : NodeEntry}
    (node : s.post b = some (n, e) ∨ s.sensor b = some (n, e)) :
    ((s.dueBoth b).node n).contact = e.contact.map (fun c => { c with due := s.now }) := by
  have apart {p q : Addr} {x y : NodeEntry} (post : s.post b = some (p, x)) (sensor : s.sensor b = some (q, y)) : p ≠ q := by
    intro same
    obtain ⟨entry, role, _⟩ := State.post_some post
    obtain ⟨entry', role', _⟩ := State.sensor_some sensor
    rw [← same, entry] at entry'
    rw [entry', role'] at role; cases role
  unfold State.dueBoth
  rw [State.dueNow_sensor]
  rcases node with post | sensor
  · obtain ⟨entry, _⟩ := State.post_some post
    rw [State.dueNow_other, post, State.dueNow_here, entry]
    intro y found
    obtain ⟨⟨q, z⟩, sensor, same⟩ := Option.map_eq_some_iff.1 found
    exact apart post sensor (congrArg Prod.fst same).symm
  · obtain ⟨entry, _⟩ := State.sensor_some sensor
    have kept : (s.dueNow (s.post b)).node n = e := by
      rw [State.dueNow_other, entry]
      exact fun y post => apart post sensor rfl
    have clock : (s.dueNow (s.post b)).now = s.now := by rw [State.dueNow_eq]
    rw [sensor, Option.map_some, State.dueNow_here, kept, clock]

/-! ## The record rebuilt -/

/-- The book of a bay whose record has been rebuilt. -/
def BayBook.rebuilt (y : BayBook) : BayBook :=
  ({ y with noShow := none, overstay := none, check := none } : BayBook).setDyn BayDyn.rebuilt

theorem BayBook.rebuilt_ok {y : BayBook} (suspect : y.dyn.suspect = true) : y.rebuilt.ok = true := by
  unfold BayBook.rebuilt BayBook.setDyn
  dsimp only
  rw [if_neg]
  intro same
  have flag : false = y.dyn.suspect := congrArg BayDyn.suspect same
  rw [suspect] at flag; cases flag

theorem BayBook.rebuilt_dyn (y : BayBook) : y.rebuilt.dyn =
    ⟨y.dyn.state, .unknown, none, 0, .none, none, none, y.dyn.closeMode, false⟩ := rfl

/-- The rebuild behind the tickets lost. -/
def Ev.rebuild (ev : Ev) (b : BayIx) : Ev :=
  (((((ev.modTimer b (fun t => { t.clearActive with displacement := none })).modDyn b BayDyn.rebuilt).reportCharging b
    false).reportSuspect b false).onState (fun s => s.dueNow (s.post b))).onState (fun s => s.dueNow (s.sensor b))

theorem Ev.scrubBay_eq (ev : Ev) (b : BayIx) : ev.scrubBay b =
    Ev.endDegraded (Ev.scrubState (if ((ev.bay b).dyn.active.isSome || ev.st.index.any (·.location == .active b)) = true
      then (((ev.st.entriesAt b).foldl (Ev.loseTicket b) (ev.touch b)).rebuild b).noteEnd b .lost
      else ((ev.st.entriesAt b).foldl (Ev.loseTicket b) (ev.touch b)).rebuild b) b) := rfl

section
variable (ev : Ev) (b : BayIx)

theorem Ev.dueBoth_onState :
    (ev.onState (fun s => s.dueNow (s.post b))).onState (fun s => s.dueNow (s.sensor b)) = ev.onState (·.dueBoth b) := rfl

theorem State.dueBoth_books (s : State) : (s.dueBoth b).books
    = { s.books with still := { s.books.still with nodes := (s.dueBoth b).nodes } } := by
  rw [State.dueBoth_eq]; rfl

theorem State.dueBoth_feed (s : State) : (s.dueBoth b).feed = s.feed := by
  rw [State.dueBoth_eq]; rfl

theorem Ev.rebuild_desk : (ev.rebuild b).desk = ev.desk := by
  unfold Ev.rebuild
  rw [Ev.onState_desk, Ev.onState_desk, Ev.reportSuspect_desk, Ev.reportCharging_desk, Ev.modDyn_desk, Ev.modTimer_desk]

theorem Ev.rebuild_voice : (ev.rebuild b).voice = ev.voice := by
  unfold Ev.rebuild
  rw [Ev.dueBoth_onState, Ev.onState_voice _ (fun s => by rw [State.dueBoth_eq]; exact ⟨rfl, rfl, rfl⟩),
    Ev.reportSuspect_voice, Ev.reportCharging_voice _ _ (fun enters => by cases enters), Ev.modDyn_voice, Ev.modTimer_voice]

theorem Ev.rebuild_books : (ev.rebuild b).books = { ev.books.put b BayBook.rebuilt with
    still := { ev.books.still with nodes := (ev.st.dueBoth b).nodes } } := by
  have record : ((((ev.modTimer b (fun t => { t.clearActive with displacement := none })).modDyn b
      BayDyn.rebuilt).reportCharging b false).reportSuspect b false).books = ev.books.put b BayBook.rebuilt := by
    rw [Ev.reportSuspect_books, Ev.reportCharging_books, Ev.modDyn_books,
      Ev.modTimer_books ev b (g := fun y => { y with noShow := none, overstay := none, check := none }) (fun _ => rfl),
      Books.put_put]
    rfl
  unfold Ev.rebuild
  rw [Ev.dueBoth_onState, Ev.onState_books, State.dueBoth_books]
  generalize (((ev.modTimer b (fun t => { t.clearActive with displacement := none })).modDyn b
      BayDyn.rebuilt).reportCharging b false).reportSuspect b false = x at record ⊢
  have record : x.st.books = ev.books.put b BayBook.rebuilt := record
  have nodes : x.st.nodes = ev.st.nodes := congrArg (fun k : Books => k.still.nodes) record
  have now : x.st.now = ev.st.now := congrArg (fun k : Books => k.still.now) record
  rw [State.dueBoth_congr nodes now, record]
  rfl

theorem Ev.rebuild_feed : (ev.rebuild b).feed.charging b = false ∧ (ev.rebuild b).feed.suspect b = false := by
  have copied (x : Ev) : ((x.reportCharging b false).reportSuspect b false).feed.charging b = false
      ∧ ((x.reportCharging b false).reportSuspect b false).feed.suspect b = false := by
    rw [Ev.reportSuspect_feed]
    refine ⟨?_, if_pos rfl⟩
    show (x.reportCharging b false).feed.charging b = false
    rw [Ev.reportCharging_feed]
    split
    · next same => exact same
    · exact if_pos rfl
  unfold Ev.rebuild
  rw [Ev.dueBoth_onState, Ev.onState_feed, State.dueBoth_feed]
  exact copied _

/-- A bay outside the Charge Queue that was not CHARGING is rebuilt without a stir. -/
theorem Ev.rebuild_calm (charging : ev.feed.charging b = false) (queued : ev.feed.queued b = false) :
    (ev.rebuild b).recompute = ev.recompute := by
  have still : ((ev.modTimer b (fun t => { t.clearActive with displacement := none })).modDyn b
      BayDyn.rebuilt).reportCharging b false
      = (ev.modTimer b (fun t => { t.clearActive with displacement := none })).modDyn b BayDyn.rebuilt := by
    refine Ev.reportCharging_same _ _ ?_
    rw [Ev.modDyn_calm, Ev.modTimer_calm]; exact charging
  have feed : ((ev.modTimer b (fun t => { t.clearActive with displacement := none })).modDyn b BayDyn.rebuilt).feed = ev.feed := by
    rw [Ev.modDyn_feed, Ev.modTimer_feed]
  have recompute : ((ev.modTimer b (fun t => { t.clearActive with displacement := none })).modDyn b
      BayDyn.rebuilt).recompute = ev.recompute := rfl
  unfold Ev.rebuild
  rw [still]
  generalize (ev.modTimer b (fun t => { t.clearActive with displacement := none })).modDyn b BayDyn.rebuilt = x at feed recompute ⊢
  refine Eq.trans ?_ recompute
  show (x.reportSuspect b false).recompute = x.recompute
  have copies := Ev.copySuspect_feed x b false
  rw [feed] at copies
  unfold Ev.reportSuspect Ev.syncQueue
  have out : (x.modAlloc b (fun a => { a with suspectCopy := false })).st.inQueue b = false :=
    (congrArg (fun k : Feed => k.queued b) copies).trans queued
  have unfit : (x.modAlloc b (fun a => { a with suspectCopy := false })).st.eligible b = false := by
    refine (congrArg (fun k : Feed => k.eligible b) copies).trans ?_
    unfold Feed.eligible
    dsimp only
    rw [charging, Bool.false_and, Bool.false_and, Bool.false_and, Bool.false_and]
  rw [if_neg (by rw [unfit]; exact Bool.false_ne_true), if_neg (by rw [out]; exact Bool.false_ne_true)]
  rfl

end

end Sys2Proof.Machine
end

section
/-!
SUPPORT. The bay's state after the rebuild, degraded mode, and the ticket that is lost (R168, R169).
-/
namespace Sys2Proof.Machine

/-- Two changes of a record that are changes of it together are one. -/
theorem BayBook.setDyn_setDyn {y : BayBook} {f g : BayDyn → BayDyn} (first : f y.dyn ≠ y.dyn)
    (both : g (f y.dyn) ≠ y.dyn) : (y.setDyn f).setDyn g = y.setDyn (fun d => g (f d)) := by
  unfold BayBook.setDyn
  dsimp only
  rw [if_neg first, if_neg both, ite_self]

section
variable {ev : Ev} {b : BayIx}

/-! ## The bay's state after the rebuild (R9, R169) -/

theorem Ev.setState_feed {st : BayState} (same : ev.feed.charging b = (st == .charging)) :
    (ev.setState b st).feed = ev.feed := by
  unfold Ev.setState
  rw [Ev.reportCharging_same _ _ (by rw [Ev.modDyn_calm, Ev.touch_calm]; exact same), Ev.modDyn_feed, Ev.touch_feed]

theorem Ev.closeBay_feed (same : ev.feed.charging b = false) : (ev.closeBay b).feed = ev.feed := by
  unfold Ev.closeBay
  rw [Ev.modDyn_feed, Ev.setState_feed same]

/-- The state a rebuilt bay takes. -/
def State.scrubbed (s : State) (b : BayIx) (mode : CloseMode) : BayState :=
  if s.postUnreachable b = true then .faulted else if mode = .closingAtEnd then .closed else .free

/-- The record as that state leaves it. -/
def BayDyn.scrubbed (st : BayState) (d : BayDyn) : BayDyn :=
  { d with state := st, closeMode := if st = .closed then .none else d.closeMode }

/-- What the derivation of a FAULTED bay's state after the rebuild makes of the event. -/
structure Ev.Scrubbed (ev u : Ev) (b : BayIx) (st : BayState) : Prop where
  books : u.books = ev.books.put b (·.setDyn (.scrubbed st))
  desk : ∀ n scan captured, ev.desk = ⟨[n], scan, captured⟩ → n.bay = b → u.desk.notes = [n.met .faultCleared]
  voice : u.voice = ev.voice
  feed : u.feed = ev.feed

theorem Ev.note_known {n : BayNote} {scan captured : Bool} (desk : ev.desk = ⟨[n], scan, captured⟩) (bay : n.bay = b)
    (c : BayCause) : (ev.note b c).desk = ⟨[n.met c], scan, captured⟩ := by
  rw [Ev.note_desk, desk, Desk.touch_known _ bay, Desk.modNote_known _ bay]

theorem Ev.setState_known {n : BayNote} {scan captured : Bool} (desk : ev.desk = ⟨[n], scan, captured⟩) (bay : n.bay = b)
    (st : BayState) : (ev.setState b st).desk = ⟨[n], scan, captured⟩ := by
  rw [Ev.setState_desk, desk, Desk.touch_known _ bay]

theorem Ev.scrubState_closed (closed : (ev.books.bays b).dyn.state = .closed) : ev.scrubState b = ev := if_pos closed

theorem Ev.scrubState_faulted (state : (ev.books.bays b).dyn.state = .faulted)
    (active : (ev.books.bays b).dyn.active = none) (occupancy : (ev.books.bays b).dyn.occupancy = .unknown)
    (uncharged : ev.feed.charging b = false) :
    ev.Scrubbed (ev.scrubState b) b (ev.st.scrubbed b (ev.books.bays b).dyn.closeMode) := by
  have open_ : ¬ (ev.bay b).dyn.state = .closed := fun closed => by
    have same := state.symm.trans closed; cases same
  unfold Ev.scrubState
  rw [if_neg open_]
  unfold State.scrubbed
  by_cases lost : ev.st.postUnreachable b = true
  · rw [if_pos lost, if_pos lost, if_pos (c := (ev.bay b).dyn.state = .faulted) state]
    dsimp only
    refine ⟨?_, fun n scan captured desk bay => ?_, ?_, ?_⟩
    · rw [Ev.note_books, Ev.setState_books]; rfl
    · exact congrArg Desk.notes (Ev.note_known (Ev.setState_known desk bay _) bay _)
    · rw [Ev.note_voice, Ev.setState_voice _ _ (fun charging => by cases charging)]
    · rw [Ev.note_feed, Ev.setState_feed uncharged]
  · rw [if_neg lost, if_neg lost]
    have kept : ((ev.note b .faultCleared).books.bays b) = ev.books.bays b := by rw [Ev.note_books]
    have feed : (ev.note b .faultCleared).feed = ev.feed := Ev.note_feed ev b _
    have voice : (ev.note b .faultCleared).voice = ev.voice := Ev.note_voice ev b _
    have books : (ev.note b .faultCleared).books = ev.books := Ev.note_books ev b _
    have note : ∀ n scan captured, ev.desk = ⟨[n], scan, captured⟩ → n.bay = b →
        (ev.note b .faultCleared).desk = ⟨[n.met .faultCleared], scan, captured⟩ :=
      fun n scan captured desk bay => Ev.note_known desk bay _
    generalize ev.note b .faultCleared = x at kept feed voice books note
    dsimp only
    have mode : (x.bay b).dyn.closeMode = (ev.books.bays b).dyn.closeMode := congrArg (fun y : BayBook => y.dyn.closeMode) kept
    rw [mode]
    by_cases closing : (ev.books.bays b).dyn.closeMode = .closingAtEnd
    · rw [if_pos closing, if_pos closing]
      refine ⟨?_, fun n scan captured desk bay => ?_, ?_, ?_⟩
      · rw [Ev.wantScan_books, Ev.closeBay_books, books]
        refine Books.put_congr ?_
        rw [BayBook.setDyn_setDyn (f := ({ · with state := .closed })) (g := ({ · with closeMode := .none }))
          (fun same => by rw [← same] at state; cases state) (fun same => by rw [← same] at state; cases state)]
        rfl
      · rw [Ev.wantScan_desk, Ev.closeBay_desk, note n scan captured desk bay,
          Desk.touch_known (n := n.met .faultCleared) _ bay]
      · rw [Ev.wantScan_voice, Ev.closeBay_voice, voice]
      · rw [Ev.wantScan_feed, Ev.closeBay_feed (by rw [feed]; exact uncharged), feed]
    · rw [if_neg closing, if_neg closing, Ev.derive_none (by rw [kept]; exact active), kept, occupancy]
      refine ⟨?_, fun n scan captured desk bay => ?_, ?_, ?_⟩
      · rw [Ev.wantScan_books, Ev.setState_books, books]; rfl
      · rw [Ev.wantScan_desk, Ev.setState_known (note n scan captured desk bay) bay]
      · rw [Ev.wantScan_voice, Ev.setState_voice _ _ (fun charging => by cases charging), voice]
      · rw [Ev.wantScan_feed, Ev.setState_feed (by rw [feed]; exact uncharged), feed]

/-! ## Degraded mode (R168) -/

theorem Ev.anySuspect_iff : allBays.any (fun c => (ev.bay c).dyn.suspect) = true
    ↔ ∃ c, (ev.books.bays c).dyn.suspect = true := by
  rw [List.any_eq_true]
  exact ⟨fun ⟨c, _, suspect⟩ => ⟨c, suspect⟩, fun ⟨c, suspect⟩ => ⟨c, List.mem_finRange c, suspect⟩⟩

theorem Ev.endDegraded_lasts {c : BayIx} (suspect : (ev.books.bays c).dyn.suspect = true) : ev.endDegraded = ev :=
  if_pos (Ev.anySuspect_iff.2 ⟨c, suspect⟩)

theorem Ev.endDegraded_ends (sound : ∀ c, (ev.books.bays c).dyn.suspect = false) : ev.endDegraded
    = (ev.onState (fun s => { s with scrubber := { s.scrubber with degraded := false } })).wantScan := by
  refine if_neg fun any => ?_
  obtain ⟨c, suspect⟩ := Ev.anySuspect_iff.1 any
  rw [sound c] at suspect; cases suspect

/-- The books when degraded mode has been tested. -/
def Books.sounded (k : Books) (b : Bool) : Books := { k with degraded := b }

/-- Degraded mode lasts while a bay is suspect, and ends otherwise. -/
theorem Ev.endDegraded_leaves (ev : Ev) : (∃ v, ev.endDegraded.books = ev.books.sounded v
      ∧ ((∃ c, (ev.books.bays c).dyn.suspect = true) → v = ev.books.degraded)
      ∧ ((∀ c, (ev.books.bays c).dyn.suspect = false) → v = false))
    ∧ ev.endDegraded.desk.notes = ev.desk.notes ∧ ev.endDegraded.voice = ev.voice ∧ ev.endDegraded.feed = ev.feed
    ∧ ev.endDegraded.recompute = ev.recompute := by
  by_cases suspect : ∃ c, (ev.books.bays c).dyn.suspect = true
  · obtain ⟨c, flag⟩ := suspect
    rw [Ev.endDegraded_lasts flag]
    exact ⟨⟨ev.books.degraded, rfl, fun _ => rfl, fun sound => by rw [sound c] at flag; cases flag⟩, rfl, rfl, rfl, rfl⟩
  · have sound : ∀ c, (ev.books.bays c).dyn.suspect = false := fun c => by
      cases flag : (ev.books.bays c).dyn.suspect with
      | false => rfl
      | true => exact absurd ⟨c, flag⟩ suspect
    rw [Ev.endDegraded_ends sound]
    exact ⟨⟨false, rfl, fun some => absurd some suspect, fun _ => rfl⟩, rfl, rfl, rfl, rfl⟩

/-! ## The ticket lost (R169) -/

/-- The Ticket Index of the books without a ticket. -/
def Books.drop (k : Books) (t : Ticket) : Books := { k with index := k.index.filter (fun e => e.ticket != t) }

theorem Ev.loseTicket_books (e : IndexEntry) : (ev.loseTicket b e).books = ev.books.drop e.ticket := by
  unfold Ev.loseTicket Ev.holdNoticeTo
  rw [Ev.notice_books]; rfl

theorem Ev.loseTicket_desk (e : IndexEntry) : (ev.loseTicket b e).desk = ev.desk := by
  unfold Ev.loseTicket Ev.holdNoticeTo
  rw [Ev.notice_desk]; rfl

theorem Ev.loseTicket_feed (e : IndexEntry) : (ev.loseTicket b e).feed = ev.feed := by
  unfold Ev.loseTicket Ev.holdNoticeTo
  rw [Ev.notice_feed]; rfl

theorem Ev.loseTicket_voice (e : IndexEntry) (room : ev.voice.Room) : (ev.loseTicket b e).voice
    = ev.voice.tell ev.books.still.controller.own e.requester Kind.holdNotice (movedBytes 5 e.ticket (b.val + 1) 0 0) := by
  unfold Ev.loseTicket Ev.holdNoticeTo
  rw [holdNoticePayload_moved _ .lost e.ticket (bayNo b) 0 0, Ev.notice_voice _ (by exact room)]
  rfl

end

end Sys2Proof.Machine
end

section
/-!
SUPPORT. SCRUB as a whole (R169), and its settlement.
-/
namespace Sys2Proof.Machine

/-! ## The request -/

section
variable {s : State} {r : Request} {q : List Request} {b : BayIx} (running : s.heldInReset = false)
  (head : s.management = r :: q) (kind : r.kind = Kind.control) (payload : r.payload = [11, byteOf (b.val + 1)])

/-- What SCRUB does in its event. -/
def Ev.scrubRequest (b : BayIx) (r : Request) (ev : Ev) : Ev :=
  if (ev.bay b).dyn.suspect then (ev.scrubBay b).status r .ok else ev.status r .badIndex

include running head kind payload in
theorem execScrub_runs : exec .scrub s = .next (Ev.scrubRequest b r (s.managing q)).finish := by
  rw [exec_scrub, execScrub]
  exact State.takeBayControl_runs s b Ev.scrubRequest running head kind (by rw [payload]; rfl) (by rw [payload]; rfl)
    (by rw [payload]; simp) (by rw [payload]; simp)

theorem Ev.scrubRequest_suspect {ev : Ev} (suspect : (ev.bay b).dyn.suspect = true) :
    Ev.scrubRequest b r ev = (ev.scrubBay b).status r .ok := if_pos suspect

theorem Ev.scrubRequest_sound {ev : Ev} (sound : (ev.bay b).dyn.suspect = false) :
    Ev.scrubRequest b r ev = ev.status r .badIndex := if_neg (by rw [sound]; exact Bool.false_ne_true)

end

/-! ## The rebuild of a bay -/

/-- The event of a SCRUB whose bay's tickets have left: the index left, the frames that wait. -/
structure Ev.Cleared (ev : Ev) (s : State) (q : List Request) (b : BayIx) (l : List IndexEntry) (k : Nat)
    (fs : List Frame) : Prop where
  books : ev.books = { ({ s with management := q } : State).books with index := l }
  desk : ev.desk = ⟨[⟨b, (s.bay b).dyn.state, [], none, none⟩], false, false⟩
  voice : ev.voice = s.waits k fs
  feed : ev.feed = s.feed
  recompute : ev.recompute = false

theorem State.scrub_cleared (s : State) (q : List Request) (b : BayIx) :
    ((s.managing q).touch b).Cleared s q b s.index 0 [] where
  books := Ev.touch_books _ _
  desk := by rw [Ev.touch_desk]; rfl
  voice := (Ev.touch_voice _ _).trans (s.managing_voice q)
  feed := Ev.touch_feed _ _
  recompute := congrArg Calm.recompute (Ev.touch_calm (s.managing q) b)

/-- A ticket lost: it leaves the index, and its requester is told. -/
theorem Ev.Cleared.loseTicket {ev : Ev} {s : State} {q : List Request} {b : BayIx}
    (h : ev.Cleared s q b s.index 0 []) (e : IndexEntry) (somebody : e.requester ≠ 0) :
    (ev.loseTicket b e).Cleared s q b (s.index.filter (fun i => i.ticket != e.ticket)) 1
      [s.noticeAt 0 e.requester Kind.holdNotice (movedBytes 5 e.ticket (b.val + 1) 0 0)] where
  books := by rw [Ev.loseTicket_books, h.books]; rfl
  desk := by rw [Ev.loseTicket_desk, h.desk]
  voice := by
    have controller : ev.books.still.controller = s.controller := by rw [h.books]; rfl
    rw [Ev.loseTicket_voice e (by rw [h.voice]; exact s.waits_room 0 []), h.voice, controller]
    exact s.waits_tell 0 [] _ _ somebody
  feed := by rw [Ev.loseTicket_feed, h.feed]
  recompute := by
    unfold Ev.loseTicket Ev.holdNoticeTo
    exact (congrArg Calm.recompute (Ev.notice_calm (ev.onState (·.unindex e.ticket)) _ _ _)).trans h.recompute

/-- The books of a SCRUB whose bay has been rebuilt. -/
def State.scrubBooks (s : State) (q : List Request) (b : BayIx) (l : List IndexEntry) : Books :=
  { ({ s with management := q } : State).books.put b BayBook.rebuilt with
    index := l
    still := { s.still with management := q, nodes := (s.dueBoth b).nodes } }

theorem Ev.Cleared.rebuild_books {ev : Ev} {s : State} {q : List Request} {b : BayIx} {l : List IndexEntry} {k : Nat}
    {fs : List Frame} (h : ev.Cleared s q b l k fs) : (ev.rebuild b).books = s.scrubBooks q b l := by
  have nodes : ev.st.nodes = s.nodes := congrArg (fun k : Books => k.still.nodes) h.books
  have now : ev.st.now = s.now := congrArg (fun k : Books => k.still.now) h.books
  rw [Ev.rebuild_books, State.dueBoth_congr nodes now, h.books]
  rfl

/-- What a SCRUB of a FAULTED bay leaves in its event, `held` telling whether it had an active hold. -/
structure Ev.Scrubs (u : Ev) (s : State) (q : List Request) (b : BayIx) (l : List IndexEntry) (st : BayState)
    (n : BayNote) (k : Nat) (fs : List Frame) : Prop where
  here : u.books.bays b = (s.bay b).book.rebuilt.setDyn (.scrubbed st)
  other : ∀ c, c ≠ b → u.books.bays c = (s.bay c).book
  index : u.books.index = l
  waitlist : u.books.waitlist = s.waitlist
  still : u.books.still = { s.still with management := q, nodes := (s.dueBoth b).nodes }
  lasts : (∃ c, c ≠ b ∧ (s.bay c).dyn.suspect = true) → u.books.degraded = s.scrubber.degraded
  ends : (∀ c, c ≠ b → (s.bay c).dyn.suspect = false) → u.books.degraded = false
  notes : u.desk.notes = [n.met .faultCleared]
  voice : u.voice = s.waits k fs
  feed : u.feed.charging b = false ∧ u.feed.suspect b = false

/-- The note of a bay whose record is rebuilt. -/
def scrubNote (b : BayIx) (held : Bool) : BayNote :=
  if held = true then endNote b .faulted .lost else ⟨b, .faulted, [], none, none⟩

/-- The noted end of the hold a rebuilt bay had. -/
def Ev.noteLost (ev : Ev) (b : BayIx) (held : Bool) : Ev := if held = true then ev.noteEnd b .lost else ev

theorem Ev.noteLost_keeps (ev : Ev) (b : BayIx) (held : Bool) : (ev.noteLost b held).books = ev.books
    ∧ (ev.noteLost b held).voice = ev.voice ∧ (ev.noteLost b held).feed = ev.feed := by
  cases held with
  | false => exact ⟨rfl, rfl, rfl⟩
  | true => exact ⟨Ev.noteEnd_books ev b _, Ev.noteEnd_voice ev b _, Ev.noteEnd_feed ev b _⟩

theorem Ev.noteLost_desk {ev : Ev} {b : BayIx} (held : Bool)
    (desk : ev.desk = ⟨[⟨b, .faulted, [], none, none⟩], false, false⟩) :
    (ev.noteLost b held).desk = ⟨[scrubNote b held], false, false⟩ := by
  cases held with
  | false => exact desk
  | true =>
    refine (Ev.noteEnd_desk ev b _).trans ?_
    rw [desk, Desk.touch_known (b := b) _ rfl, Desk.modNote_known (b := b) _ rfl, Desk.modNote_known (b := b) _ rfl]
    rfl

theorem scrubNote_bay (b : BayIx) (held : Bool) : (scrubNote b held).bay = b := by cases held <;> rfl

theorem Ev.Cleared.scrubs {ev : Ev} {s : State} {q : List Request} {b : BayIx} {l : List IndexEntry} {k : Nat}
    {fs : List Frame} (h : ev.Cleared s q b l k fs) (state : (s.bay b).dyn.state = .faulted)
    (held : Bool) : (Ev.endDegraded (((ev.rebuild b).noteLost b held).scrubState b)).Scrubs s q b l
      (s.scrubbed b (s.bay b).dyn.closeMode) (scrubNote b held) k fs := by
  have books : (ev.rebuild b).books = s.scrubBooks q b l := h.rebuild_books
  have desk : (ev.rebuild b).desk = ⟨[⟨b, .faulted, [], none, none⟩], false, false⟩ := by
    rw [Ev.rebuild_desk, h.desk, state]
  have voice : (ev.rebuild b).voice = s.waits k fs := (Ev.rebuild_voice ev b).trans h.voice
  have feed := Ev.rebuild_feed ev b
  generalize ev.rebuild b = x at books desk voice feed
  obtain ⟨books', voice', feed'⟩ := x.noteLost_keeps b held
  have desk' := Ev.noteLost_desk held desk
  rw [books] at books'
  rw [voice] at voice'
  rw [← feed'] at feed
  generalize x.noteLost b held = y at books' voice' desk' feed
  have record : (y.books.bays b).dyn = (s.bay b).book.rebuilt.dyn := by
    rw [books']; exact congrArg BayBook.dyn (Books.put_same _ b _)
  have nodes : y.st.nodes = (s.dueBoth b).nodes := congrArg (fun k : Books => k.still.nodes) books'
  have reach : y.st.postUnreachable b = s.postUnreachable b := by
    rw [← s.dueBoth_unreachable b b]
    unfold State.postUnreachable State.post
    rw [nodes]
  have taken : y.st.scrubbed b (y.books.bays b).dyn.closeMode = s.scrubbed b (s.bay b).dyn.closeMode := by
    rw [record]; unfold State.scrubbed; rw [reach]; rfl
  have scrubbed := Ev.scrubState_faulted (ev := y) (b := b) (by rw [record]; exact state) (by rw [record]; rfl)
    (by rw [record]; rfl) feed.1
  rw [taken] at scrubbed
  generalize y.scrubState b = z at scrubbed
  obtain ⟨booksZ, deskZ, voiceZ, feedZ⟩ := scrubbed
  have deskZ := deskZ _ _ _ desk' (scrubNote_bay b held)
  obtain ⟨⟨v, sounded, lasts, ends⟩, notes, voiceU, feedU, _⟩ := z.endDegraded_leaves
  generalize z.endDegraded = u at sounded notes voiceU feedU
  have bays (c : BayIx) : u.books.bays c = z.books.bays c := by rw [sounded]; rfl
  have here : z.books.bays b = (s.bay b).book.rebuilt.setDyn (.scrubbed (s.scrubbed b (s.bay b).dyn.closeMode)) := by
    rw [booksZ, Books.put_same, books']
    exact congrArg (BayBook.setDyn · _) (Books.put_same _ b _)
  have other (c : BayIx) (apart : c ≠ b) : z.books.bays c = (s.bay c).book := by
    rw [booksZ, Books.put_other _ _ apart, books']
    exact Books.put_other _ _ apart
  refine ⟨(bays b).trans here, fun c apart => (bays c).trans (other c apart), ?_, ?_, ?_, fun suspect => ?_, fun sound => ?_,
    notes.trans deskZ, voiceU.trans (voiceZ.trans voice'), ?_⟩
  · rw [sounded, show (z.books.sounded v).index = z.books.index from rfl, booksZ, (Books.put_leaves _ _ _).1, books']; rfl
  · rw [sounded, show (z.books.sounded v).waitlist = z.books.waitlist from rfl, booksZ, (Books.put_leaves _ _ _).2.1, books']
    rfl
  · rw [sounded, show (z.books.sounded v).still = z.books.still from rfl, booksZ, (Books.put_leaves _ _ _).2.2.2.2, books']
    rfl
  · obtain ⟨c, apart, flag⟩ := suspect
    rw [sounded, show (z.books.sounded v).degraded = v from rfl, lasts ⟨c, by rw [other c apart]; exact flag⟩, booksZ,
      (Books.put_leaves _ _ _).2.2.2.1, books']
    rfl
  · rw [sounded, show (z.books.sounded v).degraded = v from rfl]
    refine ends fun c => ?_
    by_cases same : c = b
    · rw [same, here]; rfl
    · rw [other c same]; exact sound c same
  · rw [feedU, feedZ]; exact feed

end Sys2Proof.Machine
end

section
/-!
SUPPORT. SCRUB answered, and its settlement (R168, R169).
-/
namespace Sys2Proof.Machine

/-- The records of a part at the end of an event agree with their check words where the books do. -/
theorem Ev.finish_ok (ev : Ev) (scan : ev.scan = false ∨ ev.books.waitlist = [])
    (ok : ev.recompute = false ∨ ev.books.Ok) (b : BayIx) : (ev.finish.bay b).checkOk = (ev.books.bays b).ok := by
  obtain ⟨u, finish, books⟩ := ev.finish_books scan ok
  have same := u.settle_sameRecords
  rw [finish, ← books]
  show _ = (u.bay b).checkOk
  unfold Bay.checkOk
  rw [same.check, same.dyn]

theorem Ev.finish_feed_any (ev : Ev) (scan : ev.scan = false ∨ ev.books.waitlist = [])
    (ok : ev.recompute = false ∨ ev.books.Ok) : ev.finish.feed = ev.feed := by
  cases owed : ev.recompute with
  | true => exact (ev.finish_feed owed scan (ok.resolve_left (by rw [owed]; exact fun h => by cases h))).1
  | false => exact ev.finish_feed_calm owed scan

theorem scrubNote_cleared (s : State) (k : Nat) (b : BayIx) (after : BayState) :
    s.noteAt k ((scrubNote b true).met .faultCleared) after = s.bayNoticeAt k b .faulted after 4 6 0
    ∧ s.noteAt k ((scrubNote b false).met .faultCleared) after = s.bayNoticeAt k b .faulted after 7 0 0 := ⟨rfl, rfl⟩

theorem scrubNote_raised (b : BayIx) (held : Bool) (after : BayState) (changed : held = true ∨ after ≠ .faulted) :
    ((scrubNote b held).met .faultCleared).raised after = true := by
  cases held with
  | true => simp [scrubNote, endNote, BayNote.met, BayNote.raised]
  | false =>
    have change : after ≠ .faulted := changed.resolve_left Bool.false_ne_true
    simp [scrubNote, BayNote.met, BayNote.raised, change.symm]

section
variable {s : State} {r : Request} {q : List Request} {b : BayIx} {l : List IndexEntry} {st : BayState} {held : Bool}
  {k : Nat} {fs : List Frame} {u : Ev}

/-- The dynamic part of a rebuilt bay. -/
def BayDyn.scrubbedTo (st : BayState) (mode : CloseMode) : BayDyn :=
  ⟨st, .unknown, none, 0, .none, none, none, if st = .closed then .none else mode, false⟩

/-- What a SCRUB of a FAULTED bay leaves when it has been answered. -/
structure State.Scrubs (s t : State) (r : Request) (q : List Request) (b : BayIx) (l : List IndexEntry) (st : BayState) :
    Prop where
  here : (t.bay b).dyn = .scrubbedTo st (s.bay b).dyn.closeMode
  ok : (t.bay b).checkOk = true
  copies : (t.bay b).alloc.suspectCopy = false ∧ (t.bay b).alloc.chargingCopy = false
  other : ∀ c, c ≠ b → (t.bay c).dyn = (s.bay c).dyn
  index : t.index = l
  holds : t.waitHolds = []
  still : t.still = { s.still with management := q, nodes := (s.dueBoth b).nodes }
  ends : (∀ c, c ≠ b → (s.bay c).dyn.suspect = false) → t.scrubber = ⟨s.scrubber.cursor, false⟩
  lasts : (∃ c, c ≠ b ∧ (s.bay c).dyn.suspect = true) → t.scrubber = s.scrubber
  answers : s.Answers t r Kind.mgmtAnswer [r.kind, 0]

variable (h : u.Scrubs s q b l st (scrubNote b held) k fs) (suspect : (s.bay b).dyn.suspect = true)
  (empty : s.waitlist = [])

include h in
theorem Ev.Scrubs.controller : u.books.still.controller = s.controller := by rw [h.still]; rfl

include h suspect empty in
theorem Ev.Scrubs.finish (agree : ∀ c, c ≠ b → (s.bay c).checkOk = true) :
    s.Scrubs (u.status r .ok).finish r q b l st := by
  have books : (u.status r .ok).books = u.books := Ev.answer_books _ _
  have rebuilt : (u.books.bays b).ok = true := by
    rw [h.here]; exact BayBook.setDyn_ok _ (BayBook.rebuilt_ok suspect)
  have ok : (u.status r .ok).books.Ok := by
    rw [books]
    intro c
    by_cases same : c = b
    · rw [same]; exact rebuilt
    · rw [h.other c same]; exact agree c same
  have scan : (u.status r .ok).scan = false ∨ (u.status r .ok).books.waitlist = [] :=
    .inr (by rw [books, h.waitlist]; exact empty)
  have shows_ := Ev.finish_shows _ scan (.inr ok)
  have feed := (Ev.finish_feed_any _ scan (.inr ok)).trans (Ev.answer_feed _ _)
  have record := (Ev.finish_ok _ scan (.inr ok) b).trans (congrArg (fun k : Books => (k.bays b).ok) books)
  have answers : s.Answers (u.status r .ok).finish r Kind.mgmtAnswer [r.kind, 0] :=
    State.Answers_of_voice _ _ (by rw [h.voice]; rfl) h.controller
  rw [books] at shows_
  generalize (u.status r .ok).finish = t at shows_ feed record answers
  have scrubber : t.scrubber = ⟨s.scrubber.cursor, u.books.degraded⟩ := by
    rw [← shows_.degraded]
    have cursor : t.scrubber.cursor = s.scrubber.cursor :=
      (congrArg Still.scrubCursor (shows_.still.trans h.still)).trans rfl
    rw [← cursor]
  refine ⟨?_, record.trans rebuilt, ⟨?_, ?_⟩, fun c apart => ?_, shows_.index.trans h.index, ?_, shows_.still.trans h.still,
    fun sound => ?_, fun some => ?_, answers⟩
  · rw [shows_.dyn, h.here]; rfl
  · exact (congrArg (fun k : Feed => k.suspect b) feed).trans h.feed.2
  · exact (congrArg (fun k : Feed => k.charging b) feed).trans h.feed.1
  · rw [shows_.dyn, h.other c apart]; rfl
  · rw [shows_.holds, h.waitlist, empty]; rfl
  · rw [scrubber, h.ends sound]
  · rw [scrubber, h.lasts some]

include h in
theorem Ev.Scrubs.sends (src : r.src ≠ 0) : s.Sends (u.status r .ok).finish (s.okFrame r :: fs) :=
  Ev.answer_sends (k := k) _ _ h.voice h.controller src

include h in
theorem Ev.Scrubs.sends_note (src : r.src ≠ 0) (somebody : s.controller.noticeDest ≠ 0)
    (changed : held = true ∨ st ≠ .faulted) : s.Sends (u.status r .ok).finish
      (s.okFrame r :: fs ++ [s.noteAt k ((scrubNote b held).met .faultCleared) st]) :=
  Ev.finish_sends_note (k := k) (n := (scrubNote b held).met .faultCleared) (after := st)
    (fun room => Ev.answer_placed Kind.mgmtAnswer [r.kind, 0] h.voice h.controller src room)
    (by rw [Ev.status_ok, Ev.answer_desk, h.notes]) (by rw [Ev.status_ok, Ev.answer_books]; exact h.controller)
    (by
      rw [Ev.status_ok, Ev.answer_books, show ((scrubNote b held).met .faultCleared).bay = b from scrubNote_bay b held,
        h.here]
      rfl)
    (scrubNote_raised b held st changed) somebody

end

/-! ## A CLOSED bay -/

section
variable {ev : Ev} {s : State} {q : List Request} {b : BayIx} {r : Request}

/-- The event of a SCRUB of a CLOSED bay that holds nothing. -/
theorem Ev.Cleared.scrub_closed (h : ev.Cleared s q b s.index 0 []) (state : (s.bay b).dyn.state = .closed)
    (charging : (s.bay b).alloc.chargingCopy = false) (queued : s.inQueue b = false) :
    ((ev.rebuild b).scrubState b) = ev.rebuild b ∧ (ev.rebuild b).recompute = false := by
  have books := h.rebuild_books
  have same : s.feed = ev.feed := h.feed.symm
  refine ⟨Ev.scrubState_closed ?_, ?_⟩
  · rw [books]
    refine (congrArg (fun y : BayBook => y.dyn.state) (Books.put_same _ b _)).trans ?_
    exact state
  · rw [Ev.rebuild_calm ev b (by rw [h.feed]; exact charging) (by rw [h.feed]; exact queued), h.recompute]

/-- Settles the case of a CLOSED bay. -/
theorem scrub_closed (suspect : (s.bay b).dyn.suspect = true) (state : (s.bay b).dyn.state = .closed)
    (charging : (s.bay b).alloc.chargingCopy = false) (queued : s.inQueue b = false)
    (empty : s.waitlist = []) : ∃ t,
      (Ev.endDegraded ((((s.managing q).touch b).rebuild b).scrubState b) |>.status r .ok).finish = t
        ∧ (t.bay b).dyn = ⟨.closed, .unknown, none, 0, .none, none, none, (s.bay b).dyn.closeMode, false⟩
        ∧ (t.bay b).checkOk = true ∧ (t.bay b).alloc.suspectCopy = false
        ∧ ((∀ c, c ≠ b → (s.bay c).dyn.suspect = false) → t.scrubber.degraded = false)
        ∧ ((∃ c, c ≠ b ∧ (s.bay c).dyn.suspect = true) → t.scrubber = s.scrubber)
        ∧ (∀ c, c ≠ b → (t.bay c).dyn = (s.bay c).dyn) ∧ t.index = s.index
        ∧ t.suspension = s.suspension ∧ t.classes = s.classes ∧ t.controller = s.controller
        ∧ s.Answers t r Kind.mgmtAnswer [r.kind, 0] := by
  have cleared := State.scrub_cleared s q b
  obtain ⟨stays, calm⟩ := cleared.scrub_closed state charging queued
  have books := cleared.rebuild_books
  have voice : (((s.managing q).touch b).rebuild b).voice = s.waits 0 [] := (Ev.rebuild_voice _ b).trans cleared.voice
  have feed := Ev.rebuild_feed ((s.managing q).touch b) b
  rw [stays]
  generalize ((s.managing q).touch b).rebuild b = x at calm books voice feed
  obtain ⟨⟨v, sounded, lasts, ends⟩, _, voiceU, feedU, recompute⟩ := x.endDegraded_leaves
  generalize x.endDegraded = u at sounded voiceU feedU recompute
  have bays (c : BayIx) : u.books.bays c = (s.scrubBooks q b s.index).bays c := by rw [sounded, books]; rfl
  have here : u.books.bays b = (s.bay b).book.rebuilt := (bays b).trans (Books.put_same _ b _)
  have other (c : BayIx) (apart : c ≠ b) : u.books.bays c = (s.bay c).book := (bays c).trans (Books.put_other _ _ apart)
  have answered : (u.status r .ok).books = u.books := Ev.answer_books _ _
  have scan : (u.status r .ok).scan = false ∨ (u.status r .ok).books.waitlist = [] :=
    .inr (by rw [answered, sounded, books]; exact empty)
  have quiet : (u.status r .ok).recompute = false := (Ev.answer_leaves _ _).2.2.1.trans (recompute.trans calm)
  have shows_ := Ev.finish_shows _ scan (.inl quiet)
  have feedT := (Ev.finish_feed_any _ scan (.inl quiet)).trans (Ev.answer_feed _ _)
  have record := Ev.finish_ok _ scan (.inl quiet) b
  have controller : u.books.still.controller = s.controller := by rw [sounded, books]; rfl
  have answers : s.Answers (u.status r .ok).finish r Kind.mgmtAnswer [r.kind, 0] :=
    State.Answers_of_voice _ _ (by rw [voiceU, voice]; rfl) controller
  have still : u.books.still = { s.still with management := q, nodes := (s.dueBoth b).nodes } := by rw [sounded, books]; rfl
  have index : u.books.index = s.index := by rw [sounded, books]; rfl
  have degraded : u.books.degraded = v := by rw [sounded]; rfl
  rw [answered] at shows_ record
  have states (c : BayIx) (apart : c ≠ b) : (x.books.bays c).dyn = (s.bay c).dyn := by
    rw [books]; exact congrArg BayBook.dyn (Books.put_other _ _ apart)
  generalize (u.status r .ok).finish = t at shows_ feedT record answers
  have kept := shows_.still.trans still
  refine ⟨t, rfl, ?_, ?_, ?_, fun sound => ?_, fun some => ?_, fun c apart => ?_, shows_.index.trans index,
    congrArg Still.suspension kept, congrArg Still.classes kept, congrArg Still.controller kept, answers⟩
  · rw [shows_.dyn, here, BayBook.rebuilt_dyn, show (s.bay b).book.dyn = (s.bay b).dyn from rfl, state]
  · rw [record, here]; exact BayBook.rebuilt_ok suspect
  · refine (congrArg (fun k : Feed => k.suspect b) feedT).trans ?_
    rw [feedU]; exact feed.2
  · rw [shows_.degraded, degraded]
    refine ends fun c => ?_
    by_cases same : c = b
    · rw [same, books]
      exact (congrArg (fun y : BayBook => y.dyn.suspect) (Books.put_same _ b _)).trans rfl
    · rw [states c same]; exact sound c same
  · obtain ⟨c, apart, flag⟩ := some
    have lasting : v = x.books.degraded := lasts ⟨c, by rw [states c apart]; exact flag⟩
    have cursor : t.scrubber.cursor = s.scrubber.cursor := congrArg Still.scrubCursor kept
    have flag' : t.scrubber.degraded = s.scrubber.degraded := by
      rw [shows_.degraded, degraded, lasting, books]; rfl
    exact congrArg₂ Scrubber.mk cursor flag'
  · rw [shows_.dyn, other c apart]; rfl

end

/-! ## The entries at a bay -/

theorem State.entriesAt_of_lost {s : State} {b : BayIx} {lost : List IndexEntry}
    (here : s.index.filter (fun e => e.location = .active b ∨ e.location = .staged b) = lost) :
    s.entriesAt b = lost.filter (fun e => e.location == .active b) ++ lost.filter (fun e => e.location == .staged b) := by
  have part (l : Location) (one : l = .active b ∨ l = .staged b) : s.index.filter (fun e => e.location == l)
      = lost.filter (fun e => e.location == l) := by
    rw [← here, List.filter_filter]
    refine List.filter_congr fun e _ => ?_
    by_cases same : e.location = l
    · rw [show (e.location == l) = true from by simpa using same, Bool.true_and]
      exact (decide_eq_true (same ▸ one)).symm
    · rw [show (e.location == l) = false from by simpa using same, Bool.false_and]
  unfold State.entriesAt
  rw [part _ (.inl rfl), part _ (.inr rfl)]

theorem State.indexed_iff {s : State} {b : BayIx} {lost : List IndexEntry}
    (here : s.index.filter (fun e => e.location = .active b ∨ e.location = .staged b) = lost) :
    s.index.any (·.location == .active b) = true ↔ ∃ e ∈ lost, e.location = .active b := by
  rw [List.any_eq_true, ← here]
  constructor
  · rintro ⟨e, member, at_⟩
    have at_ : e.location = .active b := by simpa using at_
    exact ⟨e, List.mem_filter.2 ⟨member, decide_eq_true (.inl at_)⟩, at_⟩
  · rintro ⟨e, member, at_⟩
    exact ⟨e, (List.mem_filter.1 member).1, by simpa using at_⟩

/-- A SCRUB of a bay at which the entries `lost` stand. -/
theorem State.scrubBay_of_lost {s : State} {q : List Request} {b : BayIx} {lost : List IndexEntry}
    (here : s.index.filter (fun e => e.location = .active b ∨ e.location = .staged b) = lost)
    (active_ : ∀ e ∈ lost, e.location = .active b) (held : Bool)
    (holds : ((s.bay b).dyn.active.isSome || lost.any (fun e => e.location == .active b)) = held) :
    (s.managing q).scrubBay b = Ev.endDegraded
      ((((lost.foldl (Ev.loseTicket b) ((s.managing q).touch b)).rebuild b).noteLost b held).scrubState b) := by
  have entries : s.entriesAt b = lost := by
    rw [State.entriesAt_of_lost here, List.filter_eq_self.2 (fun e member => by simpa using active_ e member),
      List.filter_eq_nil_iff.2 (fun e member => by rw [active_ e member]; simp), List.append_nil]
  have indexed : s.index.any (·.location == .active b) = lost.any (fun e => e.location == .active b) := by
    rw [Bool.eq_iff_iff, State.indexed_iff here, List.any_eq_true]
    exact ⟨fun ⟨e, member, at_⟩ => ⟨e, member, by simpa using at_⟩, fun ⟨e, member, at_⟩ => ⟨e, member, by simpa using at_⟩⟩
  rw [Ev.scrubBay_eq, show (s.managing q).st.entriesAt b = lost from entries,
    show (s.managing q).st.index.any (·.location == .active b) = lost.any (fun e => e.location == .active b) from indexed,
    show ((s.managing q).bay b).dyn.active.isSome = (s.bay b).dyn.active.isSome from rfl, holds]
  rfl

/-- Settles O56: on the books, and on the frames that wait behind the answer. -/
theorem scrub : Obligations.Scrub := by
  intro s r q b running head kind payload d
  have run := execScrub_runs running head kind payload
  refine ⟨fun sound => ?_, fun suspect state active charging queued empty absent => ?_, ?_⟩
  · rw [run, Ev.scrubRequest_sound (ev := s.managing q) sound]
    exact congrArg Host.Outcome.next (Ev.finish_status { s with management := q } r .badIndex)
  · rw [run, Ev.scrubRequest_suspect (ev := s.managing q) suspect,
      State.scrubBay_of_lost (lost := []) (held := false)
        (List.filter_eq_nil_iff.2 fun e member => by simpa using absent e member) (fun e member => by cases member)
        (by rw [active]; rfl)]
    obtain ⟨t, finish, facts⟩ := scrub_closed (r := r) (q := q) suspect state charging queued empty
    exact ⟨t, congrArg Host.Outcome.next finish, facts⟩
  · intro lost suspect state empty agree src somebody here ends st told notice
    have scrubs : ∃ held k l, ((s.managing q).scrubBay b).Scrubs s q b l st (scrubNote b held) k told
        ∧ l = s.index.filter (fun i => lost.all (fun e => i.ticket ≠ e.ticket)) ∧ (held = true ↔ lost ≠ [])
        ∧ notice = s.noteAt k ((scrubNote b held).met .faultCleared) st := by
      rcases ends with ⟨rfl, active⟩ | ⟨t, a, rfl, owner⟩
      · rw [State.scrubBay_of_lost here (fun e member => by cases member) false (by
          rw [show (s.bay b).dyn.active = none from active]; rfl)]
        refine ⟨false, 0, s.index, (State.scrub_cleared s q b).scrubs state false, ?_, by simp, ?_⟩
        · exact (List.filter_eq_self.2 fun _ _ => rfl).symm
        · exact (if_pos rfl).trans (scrubNote_cleared s 0 b st).2.symm
      · rw [State.scrubBay_of_lost here (fun e member => by rw [List.mem_singleton.1 member]) true (by simp)]
        refine ⟨true, 1, _, ((State.scrub_cleared s q b).loseTicket ⟨t, a, .active b⟩ owner).scrubs state true, ?_, by simp, ?_⟩
        · refine List.filter_congr fun e _ => ?_
          simp [bne, beq_eq_decide]
        · exact (if_neg (by simp)).trans (scrubNote_cleared s 1 b st).1.symm
    obtain ⟨held, k, l, scrubs, index, holds, frame⟩ := scrubs
    have left := scrubs.finish (r := r) suspect empty agree
    have answer := scrubs.sends (r := r) src
    have noted (changed : held = true ∨ st ≠ .faulted) := scrubs.sends_note (r := r) src somebody changed
    rw [run, Ev.scrubRequest_suspect (ev := s.managing q) suspect]
    generalize (((s.managing q).scrubBay b).status r .ok).finish = t at left answer noted
    refine ⟨t, rfl, left.here, left.ok, left.copies.1, left.copies.2, left.other, left.index.trans index, left.holds,
      left.ends, left.lasts, fun n e node => ?_, left.answers, fun lostPost none_ => ?_, fun told_ => ?_⟩
    · have nodes : t.nodes = (s.dueBoth b).nodes := congrArg Still.nodes left.still
      rw [← State.dueBoth_node node]
      unfold State.node
      rw [nodes]
    · have silent : told = [] := by rw [show told = lost.map _ from rfl, none_]; rfl
      rw [silent] at answer
      exact answer
    · rw [frame]
      refine noted (told_.symm.imp holds.2 fun reached faulted => ?_)
      have state' : (if s.postUnreachable b = true then BayState.faulted
        else if d.closeMode = .closingAtEnd then .closed else .free) = .faulted := faulted
      rw [if_neg (by rw [reached]; exact Bool.false_ne_true)] at state'
      split at state' <;> cases state'

end Sys2Proof.Machine
end

section
/-!
SUPPORT. A frame that matches the outstanding transaction (R138 to R140): answered, or as if the window had closed; and an
event that owes nothing but a note that raises nothing.
-/
namespace Sys2Proof.Machine

/-! ## The frame matched -/

/-- The part once the frame has been heard: the port idle, its buffer free (R103). -/
def State.heard (s : State) : State := s.setRx .downlink ⟨.idle, []⟩

/-- The frame `f` matches the outstanding transaction `x` in its reply window (R138). -/
structure State.Matches (s : State) (f : Frame) (x : Transaction) : Prop where
  running : s.heldInReset = false
  receiving : s.downlink.rx.state = .assembling
  short : f.payload.length ≤ 48
  outstanding : s.scheduler.transaction = some x
  window : x.phase = .window
  source : f.src = x.frame.dest
  tag : f.tag = x.frame.tag
  role : (s.node f.src).role = .post ∨ (s.node f.src).role = .sensor

section
variable {s : State} {f : Frame} {x : Transaction} (h : s.Matches f x)

include h in
theorem State.Matches.downlinkFrame : (Ev.start s.heard).downlinkFrame f =
    if answersTransaction x (s.node f.src).role f then (Ev.start s.heard).answered x f (s.kinds.get f.kind.toFin).copyUp
    else (Ev.start s.heard).windowClosed x := by
  have outstanding : (Ev.start s.heard).st.scheduler.transaction = some x := h.outstanding
  have matched : ¬ (x.phase ≠ .window ∨ f.src ≠ x.frame.dest ∨ f.tag ≠ x.frame.tag) := by
    rintro (phase | source | tag)
    · exact phase h.window
    · exact source h.source
    · exact tag h.tag
  unfold Ev.downlinkFrame
  rw [outstanding]
  dsimp only
  rw [if_neg matched]
  rfl

include h in
theorem State.Matches.answered (answers : answersTransaction x (s.node f.src).role f = true) :
    exec (.frameReception .downlink f.received) s
      = .next ((Ev.start s.heard).answered x f (s.kinds.get f.kind.toFin).copyUp).finish := by
  rw [frameReception_downlink h.running h.receiving h.short h.role]
  show Host.Outcome.next ((Ev.start s.heard).downlinkFrame f).finish = _
  rw [h.downlinkFrame, if_pos answers]

include h in
theorem State.Matches.unanswered (fails : answersTransaction x (s.node f.src).role f = false) :
    exec (.frameReception .downlink f.received) s = .next ((Ev.start s.heard).windowClosed x).finish := by
  rw [frameReception_downlink h.running h.receiving h.short h.role]
  show Host.Outcome.next ((Ev.start s.heard).downlinkFrame f).finish = _
  rw [h.downlinkFrame, if_neg (by rw [fails]; exact Bool.false_ne_true)]

end

theorem exec_replyWindowClose (s : State) : exec .replyWindowClose s = execReplyWindowClose s := rfl

theorem replyWindowClose_runs {s : State} {x : Transaction} (running : s.heldInReset = false)
    (outstanding : s.scheduler.transaction = some x) (window : x.phase = .window) :
    exec .replyWindowClose s = .next ((Ev.start s).windowClosed x).finish := by
  have opens : s.windowOpen = true := by unfold State.windowOpen; rw [outstanding]; simp [window]
  have closes : (Ev.start s).closeWindow = (Ev.start s).windowClosed x := by
    unfold Ev.closeWindow
    rw [show (Ev.start s).st.scheduler.transaction = some x from outstanding]
  rw [exec_replyWindowClose, execReplyWindowClose, s.event_runs _ running opens, closes]

/-! ## An event that owes notes alone -/

/-- An event that answers no request and owes notes alone. -/
def Ev.noted (u : State) (l : List BayNote) : Ev := { Ev.start u with notes := l }

section
variable (u : State) (l : List BayNote)

theorem Ev.noted_start : Ev.noted u [] = Ev.start u := rfl

theorem Ev.noted_onState (g : State → State) : (Ev.noted u l).onState g = Ev.noted (g u) l := rfl

theorem Ev.noted_place (f : Frame) : (Ev.noted u l).place f = Ev.noted (u.placeUplink f) l := rfl

theorem Ev.noted_log (e : ErrorReport) : (Ev.noted u l).log e = Ev.noted (u.logError e) l := by
  unfold Ev.log State.logError
  show ({ Ev.noted u l with st := (u.recordError e).1 } : Ev).placeOpt (u.recordError e).2 = _
  cases (u.recordError e).2 <;> rfl

/-- The note a touch opens. -/
def openNote (b : BayIx) (before : BayState) : BayNote := ⟨b, before, [], none, none⟩

theorem Ev.start_touch (b : BayIx) : (Ev.start u).touch b = Ev.noted u [openNote b (u.bay b).dyn.state] := rfl

/-- A note that tells of no change raises nothing. -/
theorem openNote_quiet (b : BayIx) (st : BayState) : (openNote b st).raised st = false := by
  simp [openNote, BayNote.raised]

variable {u l}

theorem Ev.raiseNote_quiet {ev : Ev} {n : BayNote} (quiet : n.raised (ev.bay n.bay).dyn.state = false) :
    ev.raiseNote n = ev := by
  unfold Ev.raiseNote
  exact if_neg (by rw [quiet]; exact Bool.false_ne_true)

theorem Ev.noted_flush (quiet : ∀ n ∈ l, n.raised (u.bay n.bay).dyn.state = false) :
    (Ev.noted u l).flushNotes = Ev.start u := by
  show l.foldl Ev.raiseNote (Ev.start u) = Ev.start u
  induction l with
  | nil => rfl
  | cons n l ih =>
    rw [List.foldl_cons, Ev.raiseNote_quiet (quiet n List.mem_cons_self)]
    exact ih fun m here => quiet m (List.mem_cons_of_mem n here)

end

/-! ## The answered transaction -/

/-- The contact record of a node that has just answered (R140). -/
theorem State.heard_answered (s : State) (f : Frame) :
    ((Ev.start s.heard).onState (·.setTransaction none)).onState (·.contactAnswered f.src) = Ev.start (s.answeredBy f) := rfl

section
variable {s : State} {f : Frame} {x : Transaction}

/-- An answer that restores no contact. -/
theorem State.restoreContact_reachable (still_ : (s.node f.src).role = .sensor ∨ (s.node f.src).isUnreachable = false) :
    ((Ev.start s.heard).onState (·.setTransaction none)).restoreContact x f (s.node f.src) = Ev.start (s.answeredBy f) := by
  unfold Ev.restoreContact
  rw [State.heard_answered]
  dsimp only
  rcases still_ with sensor | reachable
  · rw [sensor]
  · split
    · rw [if_neg (by rw [reachable]; exact Bool.false_ne_true)]
    · rfl

/-- The event of an answer, its contact record and evidence taken. -/
def State.evidenced (s : State) (x : Transaction) (f : Frame) : Ev :=
  (((Ev.start s.heard).onState (·.setTransaction none)).restoreContact x f (s.node f.src)).takeEvidence x f (s.node f.src)
    ((s.node f.src).bay.any s.heard.plugEvidence)

theorem Ev.answered_eq (copyUp : Bool) : (Ev.start s.heard).answered x f copyUp
    = match x.kind with
      | .forward _ => (s.evidenced x f).flushNotes.runScan.place f
      | _ => if copyUp then (s.evidenced x f).flushNotes.runScan.placeOpt ((s.evidenced x f).flushNotes.runScan.st.copyOf f)
          else (s.evidenced x f).flushNotes.runScan := rfl

/-- The copy of an answer (R108). -/
theorem Ev.start_copy (u : State) (f : Frame) :
    (if (u.kinds.get f.kind.toFin).copyUp then (Ev.start u).placeOpt (u.copyOf f) else Ev.start u)
      = Ev.start (u.carryUp f) := by
  unfold State.carryUp State.copyOf
  by_cases copy : (u.kinds.get f.kind.toFin).copyUp = true
  · rw [if_pos copy]
    by_cases nobody : u.controller.noticeDest = Config.nullAddr
    · rw [if_pos nobody, if_neg fun both => both.2 nobody]; rfl
    · rw [if_neg nobody, if_pos ⟨copy, nobody⟩]; rfl
  · rw [if_neg copy, if_neg fun both => copy both.1]

/-- An answer to an ALLOT or POLL whose evidence has left the part as `u`, and that owes nothing more. -/
theorem Ev.answered_carries {u : State} (own : ∀ v, x.kind ≠ .forward v)
    (evidence : (s.evidenced x f).flushNotes = Ev.start u) (kinds : u.kinds = s.kinds) :
    ((Ev.start s.heard).answered x f (s.kinds.get f.kind.toFin).copyUp).finish = (u.carryUp f).settle := by
  have scanned : (s.evidenced x f).flushNotes.runScan = Ev.start u := by rw [evidence]; rfl
  have carried : (Ev.start s.heard).answered x f (s.kinds.get f.kind.toFin).copyUp = Ev.start (u.carryUp f) := by
    rw [Ev.answered_eq, scanned, ← kinds, ← Ev.start_copy]
    cases kind : x.kind with
    | forward v => exact absurd kind (own v)
    | poll => rfl
    | allot d q => rfl
  rw [carried]
  exact Ev.finish_quiet _ rfl rfl rfl

end

end Sys2Proof.Machine
end

section
/-!
SUPPORT. The evidence of an OCCUPANCY that answers a POLL (R10 to R12).
-/
namespace Sys2Proof.Machine

/-! ## The part as an answer leaves it, its evidence aside -/

section
variable (s : State) (f : Frame)

@[simp] theorem State.answeredBy_bay (b : BayIx) : (s.answeredBy f).bay b = s.bay b := rfl

@[simp] theorem State.answeredBy_fields : (s.answeredBy f).kinds = s.kinds ∧ (s.answeredBy f).timing = s.timing
    ∧ (s.answeredBy f).now = s.now ∧ (s.answeredBy f).controller = s.controller ∧ (s.answeredBy f).uplink = s.uplink
    ∧ (s.answeredBy f).allocator = s.allocator ∧ (s.answeredBy f).waitlist = s.waitlist
    ∧ (s.answeredBy f).noticeTag = s.noticeTag ∧ (s.answeredBy f).recorder = s.recorder :=
  ⟨rfl, rfl, rfl, rfl, rfl, rfl, rfl, rfl, rfl⟩

/-- The contact record that an answer leaves (R140). -/
def State.fresh (s : State) : Contact := ⟨true, 0, s.now, s.now + BitVec.ofNat 32 s.timing.pollInterval⟩

theorem State.answeredBy_node (a : Addr) : (s.answeredBy f).node a
    = if a = f.src then { s.node f.src with contact := (s.node f.src).contact.map (fun _ => s.fresh) } else s.node a :=
  State.modContact_node ((s.heard).setTransaction none) f.src (fun _ => s.fresh) a

theorem State.answeredBy_post (b : BayIx) :
    (s.answeredBy f).post b = (s.post b).map (fun e => (e.1, (s.answeredBy f).node e.1)) :=
  State.modContact_post ((s.heard).setTransaction none) f.src (fun _ => s.fresh) b

theorem State.answeredBy_sensor (b : BayIx) :
    (s.answeredBy f).sensor b = (s.sensor b).map (fun e => (e.1, (s.answeredBy f).node e.1)) :=
  State.modContact_sensor ((s.heard).setTransaction none) f.src (fun _ => s.fresh) b

/-- An answer of another node leaves the contact of a bay's post alone. -/
theorem State.answeredBy_post_other {b : BayIx} (other : ∀ e, s.post b ≠ some (f.src, e)) :
    (s.answeredBy f).post b = s.post b := by
  rw [State.answeredBy_post]
  cases post : s.post b with
  | none => rfl
  | some x =>
    obtain ⟨a, e⟩ := x
    have apart : a ≠ f.src := fun same => other e (by rw [post, same])
    obtain ⟨entry, _⟩ := State.post_some post
    rw [Option.map_some, State.answeredBy_node, if_neg apart, entry]

theorem State.answeredBy_plugEvidence {b : BayIx} (sensor : (s.node f.src).role = .sensor) :
    (s.answeredBy f).plugEvidence b = s.plugEvidence b := by
  have post : (s.answeredBy f).post b = s.post b := State.answeredBy_post_other s f fun e found => by
    obtain ⟨entry, role, _⟩ := State.post_some found
    rw [entry, role] at sensor; cases sensor
  unfold State.plugEvidence State.postReachable
  rw [post]; rfl

end

/-! ## The OCCUPANCY -/

theorem State.modDyn_congr {s : State} {b : BayIx} {f g : BayDyn → BayDyn} (same : f (s.bay b).dyn = g (s.bay b).dyn) :
    s.modDyn b f = s.modDyn b g := by
  unfold State.modDyn
  refine State.modBay_congr ?_
  unfold Bay.modDyn
  rw [same]

/-- What a sensor of bay `b` answers a POLL with. -/
structure State.Senses (s : State) (f : Frame) (x : Transaction) : Prop where
  matches_ : s.Matches f x
  poll : x.kind = .poll
  role : (s.node f.src).role = .sensor
  kind : f.kind = Kind.occupancy

section
variable {s : State} {f : Frame} {x : Transaction} (h : s.Senses f x)

include h in
theorem State.Senses.answers (long : 2 ≤ f.payload.length) : answersTransaction x (s.node f.src).role f = true := by
  unfold answersTransaction answersPoll
  rw [h.poll, h.role]
  simp [h.kind, long]

include h in
theorem State.Senses.runs (long : 2 ≤ f.payload.length) {u : State} (evidence : (s.evidenced x f).flushNotes = Ev.start u)
    (kinds : u.kinds = s.kinds) : exec (.frameReception .downlink f.received) s = .next (u.carryUp f).settle := by
  rw [h.matches_.answered (h.answers long), Ev.answered_carries (fun v forward => by
    rw [h.poll] at forward; cases forward) evidence kinds]

include h in
theorem State.Senses.evidenced : s.evidenced x f = match (s.node f.src).bay with
    | some b => (Ev.start (s.answeredBy f)).sensorEvidence b f.payload
    | none => Ev.start (s.answeredBy f) := by
  unfold State.evidenced
  rw [State.restoreContact_reachable (.inl h.role)]
  unfold Ev.takeEvidence
  rw [h.poll, h.role]
  cases (s.node f.src).bay with
  | none => rfl
  | some b => exact if_pos h.kind

include h in
/-- A report of health DEGRADED is no evidence (R11). -/
theorem State.Senses.degraded (long : 2 ≤ f.payload.length) (health : byteAt f.payload 1 = 1) :
    exec (.frameReception .downlink f.received) s = .next ((s.answeredBy f).carryUp f).settle := by
  refine h.runs long ?_ rfl
  have none_ (b : BayIx) : (Ev.start (s.answeredBy f)).sensorEvidence b f.payload = Ev.start (s.answeredBy f) :=
    if_neg (by rw [health]; decide)
  rw [h.evidenced]
  cases (s.node f.src).bay with
  | none => rfl
  | some b => dsimp only; rw [none_]; rfl

variable {b : BayIx} {v : Bool} (payload : f.payload = [if v then 1 else 0, 0]) (bay : (s.node f.src).bay = some b)

/-- The state sensed. -/
def sensedBit (v : Bool) : Sensed := if v then .occupied else .vacant

include h payload bay in
theorem State.Senses.reports : s.evidenced x f = (Ev.start (s.answeredBy f)).sensorReport b (sensedBit v) := by
  rw [h.evidenced, bay]
  dsimp only
  unfold Ev.sensorEvidence
  rw [payload]
  cases v <;> rfl

include h payload bay in
theorem State.Senses.runs_report {u : State}
    (evidence : (Ev.start (s.answeredBy f)).sensorReport b (sensedBit v) = Ev.start u) (kinds : u.kinds = s.kinds) :
    exec (.frameReception .downlink f.received) s = .next (u.carryUp f).settle := by
  refine h.runs (by rw [payload]; exact le_refl 2) ?_ kinds
  rw [h.reports payload bay, evidence]; rfl

/-! ### Without plug evidence (R10) -/

section
variable (plug : s.plugEvidence b = false)

include h plug in
theorem State.Senses.unplugged : (Ev.start (s.answeredBy f)).st.plugEvidence b = false :=
  (s.answeredBy_plugEvidence f h.role).trans plug

include h payload bay plug in
theorem State.Senses.agrees (same : (s.bay b).dyn.occupancy = (sensedBit v).occupancy) :
    exec (.frameReception .downlink f.received) s
      = .next (((s.answeredBy f).modDyn b (fun e => { e with candidate := none, debounce := 0 })).carryUp f).settle := by
  refine h.runs_report payload bay ?_ rfl
  have known : ¬ ((Ev.start (s.answeredBy f)).bay b).dyn.occupancy = .unknown := by
    show ¬ (s.bay b).dyn.occupancy = .unknown
    rw [same]; cases v <;> decide
  rw [Ev.sensorReport_unplugged (h.unplugged plug), if_neg known,
    if_pos (c := ((Ev.start (s.answeredBy f)).bay b).dyn.occupancy = _) same]
  rfl

include h payload bay plug in
theorem State.Senses.counts (differs : (s.bay b).dyn.occupancy ≠ (sensedBit v).occupancy)
    (known : (s.bay b).dyn.occupancy ≠ .unknown) {n : Nat}
    (count : n = if (s.bay b).dyn.candidate = some (sensedBit v) then min 7 ((s.bay b).dyn.debounce + 1) else 1)
    (below : n < s.timing.debounce) :
    exec (.frameReception .downlink f.received) s = .next (((s.answeredBy f).modDyn b
      (fun e => { e with candidate := some (sensedBit v), debounce := n })).carryUp f).settle := by
  have advanced : (s.bay b).dyn.advance (sensedBit v)
      = { (s.bay b).dyn with candidate := some (sensedBit v), debounce := n } := by rw [BayDyn.advance_eq, count]
  refine h.runs_report payload bay ?_ rfl
  have short : ¬ (Ev.start (s.answeredBy f)).st.timing.debounce
      ≤ (((Ev.start (s.answeredBy f)).bay b).dyn.advance (sensedBit v)).debounce := by
    show ¬ s.timing.debounce ≤ ((s.bay b).dyn.advance (sensedBit v)).debounce
    rw [advanced]; exact Nat.not_le.2 below
  rw [Ev.sensorReport_unplugged (h.unplugged plug),
    if_neg (c := ((Ev.start (s.answeredBy f)).bay b).dyn.occupancy = .unknown) known,
    if_neg (c := ((Ev.start (s.answeredBy f)).bay b).dyn.occupancy = _) differs, if_neg short]
  exact congrArg Ev.start (State.modDyn_congr advanced)

end

/-! ### Under plug evidence (R12) -/

section
variable (plug : s.plugEvidence b = true)

include h plug in
theorem State.Senses.plugged : (Ev.start (s.answeredBy f)).st.plugEvidence b = true :=
  (s.answeredBy_plugEvidence f h.role).trans plug

include h bay plug in
theorem State.Senses.occupied (payload : f.payload = [1, 0]) : exec (.frameReception .downlink f.received) s
      = .next (((s.answeredBy f).modDyn b (fun e => { e with candidate := none, debounce := 0 })).carryUp f).settle := by
  refine h.runs_report (v := true) payload bay ?_ rfl
  exact Ev.sensorReport_occupied_plugged (h.plugged plug)

include h bay plug in
/-- A VACANT report advances the run, and tells as it reaches D. -/
theorem State.Senses.vacant (payload : f.payload = [0, 0]) {n : Nat} (count : n = min 7 ((s.bay b).dyn.vacantRun + 1)) :
    exec (.frameReception .downlink f.received) s = .next
      ((if (s.bay b).dyn.vacantRun < s.timing.debounce ∧ s.timing.debounce ≤ n then
          State.logError ((s.answeredBy f).modDyn b (fun e => { e with candidate := some .vacant, debounce := n }))
            { kind := .sensorDisagree, bay := some b }
        else (s.answeredBy f).modDyn b (fun e => { e with candidate := some .vacant, debounce := n })).carryUp f).settle := by
  have advanced : (s.bay b).dyn.advance .vacant
      = { (s.bay b).dyn with candidate := some .vacant, debounce := n } := by rw [BayDyn.advance_vacant, count]
  have run : (s.answeredBy f).modDyn b (·.advance .vacant)
      = (s.answeredBy f).modDyn b (fun e => { e with candidate := some .vacant, debounce := n }) :=
    State.modDyn_congr advanced
  have reached : (((Ev.start (s.answeredBy f)).bay b).dyn.advance .vacant).debounce = n := by
    show ((s.bay b).dyn.advance .vacant).debounce = n
    rw [advanced]
  refine h.runs_report (v := false) payload bay ?_ ?_
  · refine (Ev.sensorReport_vacant_plugged (h.plugged plug)).trans ?_
    rw [reached]
    show (if (s.bay b).dyn.vacantRun < s.timing.debounce ∧ s.timing.debounce ≤ n then
      (Ev.noted ((s.answeredBy f).modDyn b (·.advance .vacant)) []).log { kind := .sensorDisagree, bay := some b }
      else Ev.start ((s.answeredBy f).modDyn b (·.advance .vacant))) = _
    rw [Ev.noted_log, run]
    split <;> rfl
  · split
    · have talks := State.logError_talks ((s.answeredBy f).modDyn b (fun e => { e with candidate := some .vacant, debounce := n }))
        { kind := .sensorDisagree, bay := some b }
      unfold Talks at talks
      rw [talks]; rfl
    · rfl

end

end

end Sys2Proof.Machine
end

section
/-!
SUPPORT. An answer carried up behind the notes and the scan of its event (R108, R140), and a change of occupancy at a bay
without a hold (Table 1-5).
-/
namespace Sys2Proof.Machine

/-! ## What is carried up -/

/-- An event whose notes and scan are done, with the frame that it carries up. -/
def Ev.carry (ev : Ev) (o : Option Frame) : Ev := ev.flushNotes.runScan.placeOpt o

section
variable {ev : Ev} (scan : ev.scan = false ∨ ev.books.waitlist = []) (o : Option Frame)

include scan in
theorem Ev.carry_eq : ev.carry o = ({ ev.flushNotes with scan := false } : Ev).placeOpt o := by
  unfold Ev.carry
  rw [Ev.runScan_empty ev.flushNotes (by
    rw [ev.flushNotes_leaves.1]
    exact scan.imp_right fun none_ => (congrArg Books.waitlist ev.flushNotes_books).trans none_)]

include scan in
theorem Ev.carry_books : (ev.carry o).books = ev.books := by
  rw [Ev.carry_eq scan]
  refine Eq.trans ?_ ev.flushNotes_books
  cases o with
  | none => rfl
  | some f => exact (Ev.place_talks _ f).books (Moves.refl.place f).still

include scan in
theorem Ev.carry_feed : (ev.carry o).feed = ev.feed := by
  rw [Ev.carry_eq scan]
  exact (Ev.placeOpt_talks { ev.flushNotes with scan := false } o).feed.trans ev.flushNotes_feed

include scan in
theorem Ev.carry_leaves : (ev.carry o).recompute = ev.recompute ∧ (ev.carry o).scan = false ∧ (ev.carry o).notes = [] := by
  rw [Ev.carry_eq scan]
  obtain ⟨notes, scanned, recompute, _⟩ := Ev.placeOpt_leaves { ev.flushNotes with scan := false } o
  rw [notes, scanned, recompute]
  exact ⟨ev.flushNotes_leaves.2.1, rfl, ev.flushNotes_leaves.2.2⟩

include scan in
theorem Ev.carry_shows (ok : ev.recompute = false ∨ ev.books.Ok) : (ev.carry o).finish.Shows ev.books := by
  have books := Ev.carry_books scan o
  obtain ⟨recompute, scanned, _⟩ := Ev.carry_leaves scan o
  have shows_ := Ev.finish_shows (ev.carry o) (.inl scanned) (ok.imp recompute.trans fun order => by rw [books]; exact order)
  rwa [books] at shows_

include scan in
theorem Ev.carry_finish_feed (calm : ev.recompute = false) : (ev.carry o).finish.feed = ev.feed := by
  obtain ⟨recompute, scanned, _⟩ := Ev.carry_leaves scan o
  exact (Ev.finish_feed_calm _ (recompute.trans calm) (.inl scanned)).trans (Ev.carry_feed scan o)

include scan in
theorem Ev.carry_fifo : ev.flushNotes.st.uplink.fifo <+: (ev.carry o).finish.uplink.fifo := by
  rw [Ev.carry_eq scan]
  have moved : Moves ({ ev.flushNotes with scan := false } : Ev) (({ ev.flushNotes with scan := false } : Ev).placeOpt o) :=
    Moves.refl.placeOpt o
  exact moved.fifo.trans (Ev.finish_fifo _)

include scan in
theorem Ev.carry_sends {s : State} {fs : List Frame}
    (placed : s.uplink.fifo.length + fs.length ≤ 32 → s.uplink.fifo ++ fs <+: ev.flushNotes.voice.uplink.fifo) :
    s.Sends (ev.carry o).finish fs := fun room => (placed room).trans (Ev.carry_fifo scan o)

include scan in
/-- The frame itself stands behind those the event has placed. -/
theorem Ev.carry_sends_frame {s : State} {k : Nat} {fs : List Frame} {f : Frame}
    (placed : s.uplink.fifo.length + fs.length ≤ 32 → ev.flushNotes.voice = s.placed k fs) :
    s.Sends (ev.carry (some f)).finish (fs ++ [f]) := by
  refine Ev.finish_sends_early fun room => ?_
  rw [List.length_append, List.length_singleton] at room
  have voice := placed (by omega)
  rw [Ev.carry_eq scan]
  have same : ({ ev.flushNotes with scan := false } : Ev).voice = s.placed k fs := voice
  generalize ({ ev.flushNotes with scan := false } : Ev) = w at same
  have pushed : (w.place f).voice = (s.placed k fs).push f := by
    rw [w.place_voice (by rw [same]; exact s.placed_room (by omega)), same]
  show _ <+: (w.place f).voice.uplink.fifo
  rw [pushed, ← List.append_assoc]
  exact List.prefix_refl _

end

/-- One BAY-NOTICE raised at the end of an event that has placed `fs`. -/
theorem Ev.flushNotes_note {s : State} {ev : Ev} {k : Nat} {fs : List Frame} {n : BayNote} {after : BayState}
    (voice : s.uplink.fifo.length + fs.length ≤ 32 → ev.voice = s.placed k fs) (notes : ev.desk.notes = [n])
    (controller : ev.books.still.controller = s.controller) (state : (ev.books.bays n.bay).dyn.state = after)
    (raised : n.raised after = true) (somebody : s.controller.noticeDest ≠ 0)
    (room : s.uplink.fifo.length + (fs ++ [s.noteAt k n after]).length ≤ 32) :
    ev.flushNotes.voice = s.placed (k + 1) (fs ++ [s.noteAt k n after]) := by
  rw [List.length_append, List.length_singleton] at room
  have now := voice (by omega)
  rw [Ev.flushNotes_voice _ (by rw [now]; rfl) (by rw [now, notes]; simpa [State.placed, Nat.add_assoc] using room), notes,
    now, List.foldl_cons, List.foldl_nil, State.placed_raise s k fs controller state raised somebody]

/-! ## The answers of a transaction -/

/-- An answer to an ALLOT or POLL carries up a copy, or nothing. -/
theorem Ev.answered_own {s : State} {f : Frame} {x : Transaction} (own : ∀ v, x.kind ≠ .forward v) (copyUp : Bool) :
    ∃ o, (Ev.start s.heard).answered x f copyUp = (s.evidenced x f).carry o := by
  rw [Ev.answered_eq]
  unfold Ev.carry
  cases kind : x.kind with
  | forward v => exact absurd kind (own v)
  | poll => cases copyUp with
    | true => exact ⟨_, rfl⟩
    | false => exact ⟨none, rfl⟩
  | allot d q => cases copyUp with
    | true => exact ⟨_, rfl⟩
    | false => exact ⟨none, rfl⟩

/-- The answer to a forwarded frame is carried up whole. -/
theorem Ev.answered_forward {s : State} {f : Frame} {x : Transaction} {v : Bool} (forward : x.kind = .forward v)
    (copyUp : Bool) : (Ev.start s.heard).answered x f copyUp = (s.evidenced x f).carry (some f) := by
  rw [Ev.answered_eq, forward]; rfl

/-! ## The occupancy of a bay without a hold (Table 1-5) -/

/-- The state that an accepted occupancy leaves at a bay that has no hold, or is CLOSED or FAULTED. -/
def BayState.rested (o : Occupancy) : BayState → BayState
  | .free | .unbooked => if o = .occupied then .unbooked else .free
  | st => st

/-- A state in which a bay has no hold, or takes no part in Table 1-5. -/
def BayState.rests (st : BayState) : Prop := st ∈ [BayState.free, .unbooked, .closed, .faulted]

theorem BayState.rested_quiet {st : BayState} (rests : st.rests) (o : Occupancy) : st.rested o ≠ .charging := by
  intro charging
  cases st <;> cases o <;> cases charging <;> simp [BayState.rests] at rests

theorem BayBook.setDyn_congr {y : BayBook} {f g : BayDyn → BayDyn} (same : f y.dyn = g y.dyn) : y.setDyn f = y.setDyn g := by
  unfold BayBook.setDyn
  simp only [same]

section
variable {ev : Ev} {b : BayIx} {d : BayDyn} (dyn : (ev.books.bays b).dyn = d) (rests : d.state.rests)

include dyn rests in
theorem Ev.occupancyResponse_rests : ev.occupancyResponse b = if d.state.rested d.occupancy = d.state then ev
    else (ev.setState b (d.state.rested d.occupancy)).note b .evidence := by
  unfold Ev.occupancyResponse
  dsimp only
  rw [show (ev.bay b).dyn = d from dyn]
  obtain ⟨st⟩ := d
  simp only [BayState.rests, List.mem_cons, List.not_mem_nil, or_false] at rests
  rcases rests with rests | rests | rests | rests <;> subst rests <;> rename_i o _ _ _ _ _ _ _ <;> cases o <;> rfl

omit rests in
/-- The record of a bay at rest with another occupancy. -/
theorem BayState.rested_state (d : BayDyn) (o : Occupancy) (same : d.state.rested o = d.state) :
    ({ d with occupancy := o } : BayDyn) = { d with occupancy := o, state := d.state.rested o } := by rw [same]

omit rests in
include dyn in
theorem Ev.occupied_dyn (o : Occupancy) :
    (((ev.touch b).modDyn b ({ · with occupancy := o })).books.bays b).dyn = { d with occupancy := o } := by
  rw [Ev.modDyn_books, Ev.touch_books, Books.put_same, BayBook.setDyn_fields .. |>.1, dyn]

include dyn rests in
theorem Ev.setOccupancy_books {o : Occupancy} (differs : d.occupancy ≠ o) : (ev.setOccupancy b o).books
    = ev.books.put b (·.setDyn ({ · with occupancy := o, state := d.state.rested o })) := by
  have first : ((ev.touch b).modDyn b ({ · with occupancy := o })).books
      = ev.books.put b (·.setDyn ({ · with occupancy := o })) := by
    rw [Ev.modDyn_books, Ev.touch_books]
  have changed := Ev.occupied_dyn dyn o
  have response := Ev.occupancyResponse_rests changed rests
  unfold Ev.setOccupancy
  rw [if_neg (c := (ev.bay b).dyn.occupancy = o) (by rw [Ev.bay_dyn, dyn]; exact differs), response]
  split
  · next same =>
    rw [first]
    refine Books.put_congr (BayBook.setDyn_congr ?_)
    rw [dyn]
    exact BayState.rested_state d o same
  · next moves =>
    rw [Ev.note_books, Ev.setState_books, first, Books.put_put]
    refine Books.put_congr ?_
    rw [BayBook.setDyn_setDyn]
    · rw [dyn]; exact fun same => differs (congrArg BayDyn.occupancy same).symm
    · rw [dyn]; exact fun same => differs (congrArg BayDyn.occupancy same).symm

omit dyn rests in
/-- The note of a bay whose state an occupancy changes or leaves. -/
def BayNote.follows (n : BayNote) (moves : Bool) : BayNote := if moves then n.met .evidence else n

include dyn rests in
theorem Ev.setOccupancy_desk {o : Occupancy} (differs : d.occupancy ≠ o) {n : BayNote} {scan captured : Bool}
    (desk : ev.desk.touch b d.state = ⟨[n], scan, captured⟩) (bay : n.bay = b) :
    (ev.setOccupancy b o).desk = ⟨[n.follows (decide (d.state.rested o ≠ d.state))], scan, captured⟩ := by
  have changed := Ev.occupied_dyn dyn o
  have touched : ((ev.touch b).modDyn b ({ · with occupancy := o })).desk = ⟨[n], scan, captured⟩ := by
    rw [Ev.modDyn_desk, Ev.touch_desk, dyn, desk]
  have response := Ev.occupancyResponse_rests changed rests
  unfold Ev.setOccupancy
  rw [if_neg (c := (ev.bay b).dyn.occupancy = o) (by rw [Ev.bay_dyn, dyn]; exact differs), response]
  unfold BayNote.follows
  split
  · next same => rw [touched, if_neg (by simpa using same)]
  · next moves =>
    rw [Ev.note_known (Ev.setState_known touched bay _) bay, if_pos (by simpa using moves)]

include dyn rests in
theorem Ev.setOccupancy_voice (o : Occupancy) : (ev.setOccupancy b o).voice = ev.voice := by
  have changed := Ev.occupied_dyn dyn o
  have response := Ev.occupancyResponse_rests changed rests
  unfold Ev.setOccupancy
  split
  · rfl
  · rw [response]
    split
    · rw [Ev.modDyn_voice, Ev.touch_voice]
    · rw [Ev.note_voice, Ev.setState_voice _ _ (fun charging => absurd charging (BayState.rested_quiet rests o)),
        Ev.modDyn_voice, Ev.touch_voice]

include dyn rests in
theorem Ev.setOccupancy_feed (o : Occupancy) (uncharged : ev.feed.charging b = false) :
    (ev.setOccupancy b o).feed = ev.feed ∧ (ev.setOccupancy b o).recompute = ev.recompute := by
  have changed := Ev.occupied_dyn dyn o
  have feed : ((ev.touch b).modDyn b ({ · with occupancy := o })).feed = ev.feed := by
    rw [Ev.modDyn_feed, Ev.touch_feed]
  have calm : ((ev.touch b).modDyn b ({ · with occupancy := o })).calm = ev.calm := by
    rw [Ev.modDyn_calm, Ev.touch_calm]
  have response := Ev.occupancyResponse_rests changed rests
  have off : (d.state.rested o == .charging) = false := beq_eq_false_iff_ne.2 (BayState.rested_quiet rests o)
  unfold Ev.setOccupancy
  split
  · exact ⟨rfl, rfl⟩
  · rw [response]
    split
    · exact ⟨feed, congrArg Calm.recompute calm⟩
    · constructor
      · rw [Ev.note_feed, Ev.setState_feed (by rw [feed]; exact uncharged.trans off.symm), feed]
      · exact congrArg Calm.recompute ((Ev.note_calm _ b .evidence).trans ((Ev.setState_calm _ _ (by
          rw [calm]; exact uncharged.trans off.symm)).trans calm))

end

end Sys2Proof.Machine
end

section
/-!
SUPPORT. The recovery of a FAULTED bay without a hold (R9), the accepted report of a sensor (R10), and the answer to a
forwarded frame (R140 step 3).
-/
namespace Sys2Proof.Machine

/-! ## Recovery (R9) -/

theorem State.faultCauses_nil {s : State} {b : BayIx} : s.faultCauses b = []
    ↔ (s.bay b).dyn.connector ≠ .fault ∧ s.postUnreachable b = false ∧ (s.bay b).dyn.suspect = false := by
  unfold State.faultCauses
  rw [List.append_eq_nil_iff, List.append_eq_nil_iff, and_assoc]
  refine and_congr ?_ (and_congr ?_ ?_)
  · by_cases fault : (s.bay b).dyn.connector = .fault <;> simp [fault]
  · cases s.postUnreachable b <;> simp
  · cases (s.bay b).dyn.suspect <;> simp

theorem State.postUnreachable_nodes {s t : State} (nodes : t.nodes = s.nodes) (b : BayIx) :
    t.postUnreachable b = s.postUnreachable b := by
  unfold State.postUnreachable State.post; rw [nodes]

theorem Ev.faultCauses_nil {ev : Ev} {b : BayIx} {d : BayDyn} (dyn : (ev.books.bays b).dyn = d) {s : State}
    (nodes : ev.books.still.nodes = s.nodes) (connector : d.connector ≠ .fault)
    (reachable : s.postUnreachable b = false) (suspect : d.suspect = false) : ev.st.faultCauses b = [] :=
  State.faultCauses_nil.2 (by
    rw [State.postUnreachable_nodes (s := s) nodes, show (ev.st.bay b).dyn = d from dyn]
    exact ⟨connector, reachable, suspect⟩)

/-- The state of a bay without a hold by its occupancy (R7 step 1). -/
def Occupancy.freed (o : Occupancy) : BayState := if o = .occupied then .unbooked else .free

theorem Occupancy.freed_quiet (o : Occupancy) : o.freed ≠ .charging := by cases o <;> decide

section
variable {ev : Ev} {b : BayIx} {d : BayDyn} (dyn : (ev.books.bays b).dyn = d)

include dyn in
theorem Ev.recover_fails (unfit : d.state ≠ .faulted ∨ ev.st.faultCauses b ≠ []) : ev.recover b = ev := by
  unfold Ev.recover
  refine if_neg ?_
  rintro ⟨state, causes⟩
  rcases unfit with other | stays
  · exact other ((congrArg BayDyn.state dyn).symm.trans state)
  · exact stays causes

variable (state : d.state = .faulted) (causes : ev.st.faultCauses b = []) (active : d.active = none)
  (mode : d.closeMode = .none)

include dyn state causes active mode in
theorem Ev.recover_eq : ev.recover b = ((ev.note b .faultCleared).setState b d.occupancy.freed).wantScan := by
  have kept : ((ev.note b .faultCleared).books.bays b).dyn = d := by rw [Ev.note_books]; exact dyn
  have faulted : (ev.bay b).dyn.state = .faulted := (congrArg BayDyn.state dyn).trans state
  have open_ : ¬ ((ev.bay b).dyn.closeMode = .closingAtEnd ∧ (ev.bay b).dyn.active = none) := fun both => by
    have closing := both.1
    rw [Ev.bay_dyn, dyn, mode] at closing
    cases closing
  unfold Ev.recover
  rw [if_pos ⟨faulted, causes⟩]
  dsimp only
  rw [if_neg open_, Ev.derive_none (by rw [kept]; exact active), kept]
  rfl

include dyn state causes active mode in
theorem Ev.recover_books : (ev.recover b).books = ev.books.put b (·.setDyn ({ · with state := d.occupancy.freed })) := by
  rw [Ev.recover_eq dyn state causes active mode, Ev.wantScan_books, Ev.setState_books, Ev.note_books]

include dyn state causes active mode in
theorem Ev.recover_voice : (ev.recover b).voice = ev.voice := by
  rw [Ev.recover_eq dyn state causes active mode, Ev.wantScan_voice,
    Ev.setState_voice _ _ (fun charging => absurd charging d.occupancy.freed_quiet), Ev.note_voice]

include dyn state causes active mode in
theorem Ev.recover_desk {n : BayNote} {scan captured : Bool} (desk : ev.desk.touch b d.state = ⟨[n], scan, captured⟩)
    (bay : n.bay = b) : (ev.recover b).desk = ⟨[n.met .faultCleared], true, captured⟩ := by
  rw [Ev.recover_eq dyn state causes active mode, Ev.wantScan_desk,
    Ev.setState_known (n := n.met .faultCleared) (scan := scan) (captured := captured) ?_ bay]
  rw [Ev.note_desk, dyn, desk, Desk.modNote_known _ bay]

include dyn state causes active mode in
theorem Ev.recover_feed (uncharged : ev.feed.charging b = false) :
    (ev.recover b).feed = ev.feed ∧ (ev.recover b).recompute = ev.recompute := by
  have off : (d.occupancy.freed == .charging) = false := beq_eq_false_iff_ne.2 d.occupancy.freed_quiet
  have same : (ev.note b .faultCleared).feed.charging b = (d.occupancy.freed == .charging) := by
    rw [Ev.note_feed]; exact uncharged.trans off.symm
  rw [Ev.recover_eq dyn state causes active mode]
  constructor
  · rw [Ev.wantScan_feed, Ev.setState_feed same, Ev.note_feed]
  · exact congrArg Calm.recompute ((Ev.setState_calm _ _ same).trans (Ev.note_calm ev b .faultCleared))

end

/-! ## The report that is accepted (R10, Table 1-5) -/

section
variable {s : State} {f : Frame}

/-- The books as an answer finds them. -/
theorem State.answeredBy_books : (s.answeredBy f).books
    = { s.books with still := (s.answeredBy f).still } := rfl

theorem State.answeredBy_ok (ok : ∀ e, (s.bay e).checkOk = true) : (s.answeredBy f).books.Ok := ok

theorem State.answeredBy_voice : (Ev.start (s.answeredBy f)).voice = s.placed 0 [] := Ev.start_voice (s.answeredBy f)

/-- What the end of an event shows of a part where one bay's record alone has changed, after an answer. -/
theorem State.Shows.answered {t : State} {b : BayIx} {g : BayDyn → BayDyn} {k : Books} (shows_ : t.Shows k)
    (books : k = (s.answeredBy f).books.put b (·.setDyn g)) :
    (t.bay b).dyn = g (s.bay b).dyn ∧ (∀ e, e ≠ b → (t.bay e).dyn = (s.bay e).dyn) ∧ t.index = s.index
      ∧ t.waitHolds = s.waitHolds ∧ t.nodes = (s.answeredBy f).nodes := by
  subst books
  refine ⟨?_, fun e other => ?_, shows_.index, shows_.holds, congrArg Still.nodes shows_.still⟩
  · rw [shows_.dyn, Books.put_same]; rfl
  · rw [shows_.dyn, Books.put_other _ _ other]; rfl

variable {x : Transaction} (h : s.Senses f x) {b : BayIx} {v : Bool} (payload : f.payload = [if v then 1 else 0, 0])
  (bay : (s.node f.src).bay = some b)

/-- The event of a report that is accepted. -/
def State.accepts (s : State) (f : Frame) (b : BayIx) (v : Bool) : Ev :=
  ((Ev.start (s.answeredBy f)).modDyn b BayDyn.endRun).setOccupancy b (sensedBit v).occupancy

include h payload bay in
theorem State.Senses.accepted (plug : s.plugEvidence b = false)
    (differs : (s.bay b).dyn.occupancy ≠ (sensedBit v).occupancy)
    (reached : (s.bay b).dyn.occupancy = .unknown ∨ s.timing.debounce ≤ ((s.bay b).dyn.advance (sensedBit v)).debounce) :
    ∃ o, exec (.frameReception .downlink f.received) s = .next ((s.accepts f b v).carry o).finish := by
  have evidence : s.evidenced x f = s.accepts f b v := by
    rw [h.reports payload bay, Ev.sensorReport_unplugged (h.unplugged plug)]
    by_cases unknown : (s.bay b).dyn.occupancy = .unknown
    · exact if_pos (c := ((Ev.start (s.answeredBy f)).bay b).dyn.occupancy = .unknown) unknown
    · rw [if_neg (c := ((Ev.start (s.answeredBy f)).bay b).dyn.occupancy = .unknown) unknown,
        if_neg (c := ((Ev.start (s.answeredBy f)).bay b).dyn.occupancy = _) differs,
        if_pos (c := (Ev.start (s.answeredBy f)).st.timing.debounce
          ≤ (((Ev.start (s.answeredBy f)).bay b).dyn.advance (sensedBit v)).debounce) (reached.resolve_left unknown)]
      rfl
  obtain ⟨o, runs⟩ := Ev.answered_own (s := s) (f := f) (x := x) (fun v forward => by rw [h.poll] at forward; cases forward)
    (s.kinds.get f.kind.toFin).copyUp
  refine ⟨o, ?_⟩
  rw [h.matches_.answered (h.answers (by rw [payload]; exact le_refl 2)), runs, evidence]

section
variable (differs : (s.bay b).dyn.occupancy ≠ (sensedBit v).occupancy) (rests : (s.bay b).dyn.state.rests)

theorem State.accepts_dyn : (((Ev.start (s.answeredBy f)).modDyn b BayDyn.endRun).books.bays b).dyn = (s.bay b).dyn.endRun := by
  rw [Ev.modDyn_books, Books.put_same]; rfl

include differs rests in
theorem State.accepts_books : (s.accepts f b v).books = (s.answeredBy f).books.put b (·.setDyn
    (fun d => { d.endRun with occupancy := (sensedBit v).occupancy, state := (s.bay b).dyn.state.rested (sensedBit v).occupancy })) := by
  unfold State.accepts
  rw [Ev.setOccupancy_books State.accepts_dyn rests differs, Ev.modDyn_books, Books.put_put]
  refine Books.put_congr ?_
  by_cases same : (s.bay b).dyn.endRun = (s.bay b).dyn
  · rw [BayBook.setDyn_id (f := BayDyn.endRun) same]
    exact BayBook.setDyn_congr (congrArg (fun d : BayDyn => ({ d with
      occupancy := (sensedBit v).occupancy, state := (s.bay b).dyn.state.rested (sensedBit v).occupancy } : BayDyn)) same.symm)
  · exact BayBook.setDyn_setDyn same fun whole => differs (congrArg BayDyn.occupancy whole).symm

include differs rests in
theorem State.accepts_desk : (s.accepts f b v).desk = ⟨[(openNote b (s.bay b).dyn.state).follows
    (decide ((s.bay b).dyn.state.rested (sensedBit v).occupancy ≠ (s.bay b).dyn.state))], false, false⟩ :=
  Ev.setOccupancy_desk State.accepts_dyn rests differs rfl rfl

include rests in
theorem State.accepts_voice : (s.accepts f b v).voice = s.placed 0 [] :=
  (Ev.setOccupancy_voice State.accepts_dyn rests _).trans (State.answeredBy_voice (f := f))

/-- The notice of a bay whose occupancy has changed its state. -/
theorem evidenceNote_raised (b : BayIx) {before after : BayState} (moves : before ≠ after) :
    ((openNote b before).met .evidence).raised after = true := by simp [openNote, BayNote.met, BayNote.raised, moves]

include differs rests in
theorem State.accepts_told (o : Option Frame) (moves : (s.bay b).dyn.state.rested (sensedBit v).occupancy ≠ (s.bay b).dyn.state)
    (somebody : s.controller.noticeDest ≠ 0) : s.Sends ((s.accepts f b v).carry o).finish
      [s.bayNoticeAt 0 b (s.bay b).dyn.state ((s.bay b).dyn.state.rested (sensedBit v).occupancy) 1 0 0] := by
  have desk := s.accepts_desk (f := f) differs rests
  have books := s.accepts_books (f := f) differs rests
  rw [decide_eq_true moves] at desk
  have state : ((s.accepts f b v).books.bays b).dyn.state = (s.bay b).dyn.state.rested (sensedBit v).occupancy := by
    rw [books, Books.put_same]; rfl
  refine Ev.carry_sends (.inl (congrArg Desk.scan desk)) o fun room => ?_
  rw [Ev.flushNotes_note (n := (openNote b (s.bay b).dyn.state).met .evidence) (fun _ => State.accepts_voice rests)
    (congrArg Desk.notes desk) (by rw [books]; rfl) state (evidenceNote_raised _ moves.symm) somebody room]
  exact List.prefix_refl _

end

end

end Sys2Proof.Machine
end

section
/-!
SUPPORT. The answer to a forwarded frame, and a frame that matches the transaction and does not answer it (R138, R140
step 3, R180, R181).
-/
namespace Sys2Proof.Machine

section
variable {s : State} {f : Frame} {x : Transaction} (h : s.Matches f x)

/-! ## A forwarded frame's answer -/

theorem answersTransaction_forward {v : Bool} (forward : x.kind = .forward v) (role : Role) :
    answersTransaction x role f = true := by unfold answersTransaction; rw [forward]

include h in
theorem State.Matches.forwarded {v : Bool} (forward : x.kind = .forward v) :
    exec (.frameReception .downlink f.received) s = .next ((s.evidenced x f).carry (some f)).finish := by
  rw [h.answered (answersTransaction_forward forward _), Ev.answered_forward forward]

theorem Ev.takeEvidence_forward {v : Bool} (forward : x.kind = .forward v) (ev : Ev) (e : NodeEntry) (was : Bool) :
    ev.takeEvidence x f e was = ev := by unfold Ev.takeEvidence; rw [forward]

include h in
theorem State.Matches.forwarded_plain {v : Bool} (forward : x.kind = .forward v)
    (still_ : (s.node f.src).role = .sensor ∨ (s.node f.src).isUnreachable = false) :
    exec (.frameReception .downlink f.received) s = .next ((s.answeredBy f).placeUplink f).settle := by
  have evidence : s.evidenced x f = Ev.start (s.answeredBy f) := by
    unfold State.evidenced
    rw [State.restoreContact_reachable still_, Ev.takeEvidence_forward forward]
  rw [h.forwarded forward, evidence]
  exact congrArg Host.Outcome.next (Ev.finish_quiet ((Ev.start (s.answeredBy f)).place f) rfl rfl rfl)

/-! ## The contact of a post restored (R9) -/

/-- A frame from a post that was UNREACHABLE, its contact record brought up to date. -/
theorem State.restoreContact_post {b : BayIx} (role : (s.node f.src).role = .post) (bay : (s.node f.src).bay = some b)
    (lost : (s.node f.src).isUnreachable = true) :
    ((Ev.start s.heard).onState (·.setTransaction none)).restoreContact x f (s.node f.src)
      = (Ev.start (s.answeredBy f)).contactRestored b ((Ev.start (s.answeredBy f)).answeredConnector x f b) := by
  unfold Ev.restoreContact
  rw [State.heard_answered]
  dsimp only
  rw [role, bay]
  exact if_pos lost

variable {b : BayIx} (post : s.post b = some (f.src, s.node f.src)) {c : Contact} (contact : (s.node f.src).contact = some c)

include contact in
theorem State.answeredBy_source : ((s.answeredBy f).node f.src).contact = some s.fresh := by
  rw [State.answeredBy_node, if_pos rfl, contact]; rfl

include post contact in
theorem State.answeredBy_reachable : (s.answeredBy f).postReachable b = true
    ∧ (s.answeredBy f).postUnreachable b = false := by
  have now : (s.answeredBy f).post b = some (f.src, (s.answeredBy f).node f.src) := by
    rw [State.answeredBy_post, post]; rfl
  have fresh := State.answeredBy_source (s := s) (f := f) contact
  unfold State.postReachable State.postUnreachable NodeEntry.isReachable NodeEntry.isUnreachable
  rw [now]
  dsimp only
  rw [fresh]
  exact ⟨rfl, rfl⟩

/-- The occupancy of a bay whose post has just come back, by the stored connector (R12). -/
def BayDyn.regained (d : BayDyn) : Occupancy := if d.connector.isPlug then .occupied else d.occupancy

include post contact in
theorem Ev.contactRestored_eq {c' : Connector} (same : c' = (s.bay b).dyn.connector) (fit : c' ≠ .fault) :
    (Ev.start (s.answeredBy f)).contactRestored b c'
      = ((Ev.start (s.answeredBy f)).setOccupancy b (s.bay b).dyn.regained).recover b := by
  have reachable := (State.answeredBy_reachable post contact).1
  have plug : (s.answeredBy f).plugEvidence b = (s.bay b).dyn.connector.isPlug := by
    unfold State.plugEvidence; rw [reachable, Bool.and_true]; rfl
  unfold Ev.contactRestored
  rw [if_neg fit]
  refine congrArg (Ev.recover · b) ?_
  show (if ((s.answeredBy f).plugEvidence b && c'.isPlug) = true then _ else _) = _
  rw [plug, same, Bool.and_self]
  unfold BayDyn.regained
  by_cases plugged : (s.bay b).dyn.connector.isPlug = true
  · rw [if_pos plugged, if_pos plugged]
  · rw [if_neg plugged, if_neg plugged]
    exact (if_pos (c := ((Ev.start (s.answeredBy f)).bay b).dyn.occupancy = (s.bay b).dyn.occupancy) rfl).symm

end

/-! ## The occupancy of a FAULTED bay -/

section
variable {ev : Ev} {b : BayIx} {d : BayDyn} (dyn : (ev.books.bays b).dyn = d) (state : d.state = .faulted) (o : Occupancy)

include dyn in
theorem Ev.setOccupancy_same (same : d.occupancy = o) : ev.setOccupancy b o = ev :=
  if_pos ((congrArg BayDyn.occupancy dyn).trans same)

include dyn state in
/-- A FAULTED bay records its occupancy and keeps its state. -/
theorem Ev.setOccupancy_faulted : (ev.setOccupancy b o).books = ev.books.put b (·.setDyn ({ · with occupancy := o }))
    ∧ (ev.setOccupancy b o).voice = ev.voice
    ∧ ∀ n scan captured, ev.desk.touch b .faulted = ⟨[n], scan, captured⟩ → n.bay = b →
        (ev.setOccupancy b o).desk.touch b .faulted = ⟨[n], scan, captured⟩ := by
  have rests : d.state.rests := by rw [state]; simp [BayState.rests]
  have stays : d.state.rested o = d.state := by rw [state]; rfl
  by_cases same : d.occupancy = o
  · rw [Ev.setOccupancy_same dyn o same]
    refine ⟨(Books.put_id (BayBook.setDyn_id ?_)).symm, rfl, fun n scan captured desk _ => desk⟩
    rw [dyn, ← same]
  · refine ⟨?_, Ev.setOccupancy_voice dyn rests o, fun n scan captured desk bay => ?_⟩
    · rw [Ev.setOccupancy_books dyn rests same]
      refine Books.put_congr (BayBook.setDyn_congr ?_)
      rw [dyn]
      exact (BayState.rested_state d o stays).symm
    · rw [Ev.setOccupancy_desk dyn rests same (by rw [state]; exact desk) bay,
        decide_eq_false (not_not_intro stays)]
      exact Desk.touch_known _ bay

end

section
variable {s : State} {f : Frame} {x : Transaction} {b : BayIx} (post : s.post b = some (f.src, s.node f.src)) {c : Contact}
  (contact : (s.node f.src).contact = some c) (faulted : (s.bay b).dyn.state = .faulted)
  (sound : (s.bay b).dyn.suspect = false) (fit : (s.bay b).dyn.connector ≠ .fault) (empty : (s.bay b).dyn.active = none)
  (mode : (s.bay b).dyn.closeMode = .none)

/-- The event in which the post of a FAULTED bay comes back with nothing new. -/
def State.regains (s : State) (f : Frame) (b : BayIx) : Ev :=
  ((Ev.start (s.answeredBy f)).setOccupancy b (s.bay b).dyn.regained).recover b

/-- What that event leaves of books, voice and desk. -/
structure State.Regained (s : State) (f : Frame) (b : BayIx) : Prop where
  books : (s.regains f b).books = (s.answeredBy f).books.put b (·.setDyn (fun d =>
    { d with occupancy := (s.bay b).dyn.regained, state := (s.bay b).dyn.regained.freed }))
  voice : (s.regains f b).voice = s.placed 0 []
  desk : (s.regains f b).desk = ⟨[(openNote b .faulted).met .faultCleared], true, false⟩

theorem Occupancy.freed_serves (o : Occupancy) : o.freed ≠ .faulted := by cases o <;> decide

/-- Two changes of a record that differ from it together are one. -/
theorem BayBook.setDyn_twice {y : BayBook} {f g : BayDyn → BayDyn} (both : g (f y.dyn) ≠ y.dyn) :
    (y.setDyn f).setDyn g = y.setDyn (fun d => g (f d)) := by
  by_cases first : f y.dyn = y.dyn
  · rw [BayBook.setDyn_id first]
    exact BayBook.setDyn_congr (congrArg g first.symm)
  · exact BayBook.setDyn_setDyn first both

include post contact faulted sound fit empty mode in
theorem State.regained : s.Regained f b := by
  obtain ⟨books, voice, desk⟩ := Ev.setOccupancy_faulted (ev := Ev.start (s.answeredBy f)) (b := b) (d := (s.bay b).dyn) rfl
    faulted (s.bay b).dyn.regained
  have opened := desk (openNote b .faulted) false false rfl rfl
  generalize event : (Ev.start (s.answeredBy f)).setOccupancy b (s.bay b).dyn.regained = w at books voice opened
  have regains : s.regains f b = w.recover b := congrArg (Ev.recover · b) event
  have dyn : (w.books.bays b).dyn = { (s.bay b).dyn with occupancy := (s.bay b).dyn.regained } := by
    rw [books, Books.put_same]; rfl
  have causes : w.st.faultCauses b = [] := Ev.faultCauses_nil dyn (s := s.answeredBy f) (by rw [books]; rfl) fit
    (State.answeredBy_reachable post contact).2 sound
  refine ⟨?_, ?_, (congrArg Ev.desk regains).trans <| Ev.recover_desk dyn faulted causes empty mode (n := openNote b .faulted) (scan := false) (captured := false)
    (by rw [show ({ (s.bay b).dyn with occupancy := (s.bay b).dyn.regained } : BayDyn).state = .faulted from faulted]
        exact opened) rfl⟩
  · rw [regains, Ev.recover_books dyn faulted causes empty mode, books, Books.put_put]
    refine Books.put_congr (BayBook.setDyn_twice fun same => ?_)
    have state : (s.bay b).dyn.regained.freed = (s.bay b).dyn.state := congrArg BayDyn.state same
    exact Occupancy.freed_serves _ (state.trans faulted)
  · rw [regains, Ev.recover_voice dyn faulted causes empty mode, voice, State.answeredBy_voice]

include post contact faulted sound fit empty mode in
theorem State.Matches.forwarded_restores {v : Bool} (h : s.Matches f x) (forward : x.kind = .forward v)
    (lost : c.reachable = false) (waitlist : s.waitlist = []) (ok : ∀ e, (s.bay e).checkOk = true) :
    ∃ t, exec (.frameReception .downlink f.received) s = .next t
      ∧ (t.bay b).dyn = { (s.bay b).dyn with occupancy := (s.bay b).dyn.regained, state := (s.bay b).dyn.regained.freed }
      ∧ (∀ e, e ≠ b → (t.bay e).dyn = (s.bay e).dyn) ∧ t.index = s.index
      ∧ (t.node f.src).contact = some s.fresh
      ∧ (s.controller.noticeDest ≠ 0 →
          s.Sends t [s.bayNoticeAt 0 b .faulted (s.bay b).dyn.regained.freed 7 0 0, f]) := by
  obtain ⟨books, voice, desk⟩ := State.regained post contact faulted sound fit empty mode
  obtain ⟨_, role, bay⟩ := State.post_some post
  have unreachable : (s.node f.src).isUnreachable = true := by
    unfold NodeEntry.isUnreachable; rw [contact]; simp [lost]
  have connector : (Ev.start (s.answeredBy f)).answeredConnector x f b = (s.bay b).dyn.connector := by
    unfold Ev.answeredConnector; rw [forward]; rfl
  have evidence : s.evidenced x f = s.regains f b := by
    unfold State.evidenced
    rw [State.restoreContact_post role bay unreachable, Ev.takeEvidence_forward forward,
      Ev.contactRestored_eq post contact connector (by rw [connector]; exact fit)]
    rfl
  refine ⟨_, h.forwarded forward, ?_⟩
  rw [evidence]
  generalize s.regains f b = w at books voice desk
  have scan : w.scan = false ∨ w.books.waitlist = [] := .inr (by rw [books]; exact waitlist)
  have order : w.books.Ok := by
    rw [books]; exact Books.Ok.put (State.answeredBy_ok ok) b fun y held => BayBook.setDyn_ok _ held
  obtain ⟨here, others, index, _, nodes⟩ := (Ev.carry_shows scan (some f) (.inr order)).answered books
  refine ⟨here, others, index, ?_, fun somebody => ?_⟩
  · rw [show ∀ t : State, t.node f.src = t.nodes.get (addrIx f.src) from fun _ => rfl, nodes]
    exact State.answeredBy_source contact
  · have state : (w.books.bays b).dyn.state = (s.bay b).dyn.regained.freed := by
      rw [books, Books.put_same]; rfl
    refine Ev.carry_sends_frame (k := 1) (fs := [s.bayNoticeAt 0 b .faulted (s.bay b).dyn.regained.freed 7 0 0]) scan
      fun room => ?_
    refine Ev.flushNotes_note (n := (openNote b .faulted).met .faultCleared) (k := 0) (fs := []) (fun _ => voice)
      (congrArg Desk.notes desk) (by rw [books]; rfl) state ?_ somebody room
    simp [openNote, BayNote.met, BayNote.raised, (Occupancy.freed_serves _).symm]

end

/-! ## A frame that does not answer (R138, R180, R181) -/

theorem Connector.reported?_isSome : ∀ n, (Connector.reported? n).isSome = true ↔ 1 ≤ n ∧ n ≤ 5
  | 0 | 1 | 2 | 3 | 4 | 5 => by simp [Connector.reported?]
  | n + 6 => by simp [Connector.reported?]

/-- A payload is a report of Table 11-2 (R180, R181). -/
theorem postReport?_isSome (p : List Byte) : (postReport? p).isSome = true
    ↔ 11 ≤ p.length ∧ 1 ≤ byteAt p 0 ∧ byteAt p 0 ≤ 5 ∧ field16 p 3 ≤ 800 := by
  unfold postReport?
  by_cases short : p.length < 11
  · rw [if_pos short]; simp; omega
  · rw [if_neg short]
    have connector := Connector.reported?_isSome (byteAt p 0)
    cases known : Connector.reported? (byteAt p 0) with
    | none => rw [known] at connector; simp at connector ⊢; omega
    | some k =>
      rw [known] at connector
      by_cases amount : field16 p 3 ≤ 800
      · simp [amount] at connector ⊢; omega
      · simp [amount]

theorem postReport?_ack {p : List Byte} {r : PostReport} (report : postReport? p = some r) : r.ack = byteAt p 5 := by
  unfold postReport? at report
  split at report
  · cases report
  · split at report
    · cases report
    · split at report
      · cases report; rfl
      · cases report

theorem answersAllot_false {q : Nat} {f : Frame} (fails : f.kind ≠ Kind.postStatus
    ∨ (postReport? f.payload).isSome = false ∨ byteAt f.payload 5 ≠ q) : answersAllot q f = false := by
  unfold answersAllot
  rcases fails with kind | report | ack
  · rw [beq_eq_false_iff_ne.2 kind, Bool.false_and]
  · rw [Option.isSome_eq_false_iff.1 report |> Option.isNone_iff_eq_none.1, Bool.and_false]
  · cases report : postReport? f.payload with
    | none => exact Bool.and_false _
    | some r =>
      have same := postReport?_ack report
      simp only [Bool.and_eq_false_iff, beq_eq_false_iff_ne]
      exact .inr (same ▸ ack)

theorem answersPoll_false {f : Frame} {role : Role} (fails : role = .post ∧ (f.kind ≠ Kind.postStatus
    ∨ (postReport? f.payload).isSome = false) ∨ role = .sensor ∧ (f.kind ≠ Kind.occupancy ∨ f.payload.length < 2)) :
    answersPoll role f = false := by
  unfold answersPoll
  rcases fails with ⟨role, fails⟩ | ⟨role, fails⟩
  · rw [role]
    rcases fails with kind | report
    · simp [kind]
    · simp only [report, Bool.and_false]
  · rw [role]
    rcases fails with kind | short
    · simp [kind]
    · simp only [Bool.and_eq_false_iff, decide_eq_false_iff_not]
      exact .inr (Nat.not_le.2 short)

/-- A frame that does not answer closes the attempt as if the window had closed (R138). -/
theorem State.Matches.closes {s : State} {f : Frame} {x : Transaction} (h : s.Matches f x)
    (fails : answersTransaction x (s.node f.src).role f = false) :
    exec (.frameReception .downlink f.received) s = exec .replyWindowClose s.heard := by
  rw [h.unanswered fails]
  exact (replyWindowClose_runs (s := s.heard) h.running h.outstanding h.window).symm

end Sys2Proof.Machine
end

section
/-!
SUPPORT. A POST-STATUS that answers the part's own ALLOT or POLL (R138, R140): its layout read back, the order of its
evidence, and a report that brings nothing new to its bay.
-/
namespace Sys2Proof.Machine

/-! ## The layout read back (Table 11-2) -/

theorem byteOf_toNat (n : Nat) : (byteOf n).toNat = n % 256 := rfl

theorem postReport?_layout {r : PostReport} {last : Byte} (connector : r.connector ≠ .none) (drawn : r.drawn < 65536)
    (inForce : r.inForce ≤ 800) (ack : r.ack < 256) (energy : r.energy < 4294967296) :
    postReport? ([byteOf r.connector.code] ++ be16 r.drawn ++ be16 r.inForce ++ [byteOf r.ack] ++ be32 r.energy ++ [last])
      = some r := by
  generalize payload : [byteOf r.connector.code] ++ be16 r.drawn ++ be16 r.inForce ++ [byteOf r.ack] ++ be32 r.energy
    ++ [last] = p
  have long : ¬ p.length < 11 := by rw [← payload]; exact lt_irrefl 11
  have kind : Connector.reported? (byteAt p 0) = some r.connector := by
    rw [← payload]
    show Connector.reported? (byteOf r.connector.code).toNat = _
    cases reported : r.connector with
    | none => exact absurd reported connector
    | idle | plugged | charging | finished | fault => rfl
  have current : field16 p 1 = r.drawn := by
    rw [← payload]
    show (byteOf (r.drawn / 256)).toNat * 256 + (byteOf r.drawn).toNat = _
    rw [byteOf_toNat, byteOf_toNat]; omega
  have allotment : field16 p 3 = r.inForce := by
    rw [← payload]
    show (byteOf (r.inForce / 256)).toNat * 256 + (byteOf r.inForce).toNat = _
    rw [byteOf_toNat, byteOf_toNat]; omega
  have sequence : byteAt p 5 = r.ack := by
    rw [← payload]
    show (byteOf r.ack).toNat = _
    rw [byteOf_toNat]; omega
  have figure : field32 p 6 = r.energy := by
    rw [← payload]
    show ((byteOf (r.energy / 16777216)).toNat * 256 + (byteOf (r.energy / 65536)).toNat) * 65536
      + ((byteOf (r.energy / 256)).toNat * 256 + (byteOf r.energy).toNat) = _
    simp only [byteOf_toNat]; omega
  unfold postReport?
  rw [if_neg long, kind]
  dsimp only
  rw [allotment, if_pos inForce, current, sequence, figure]

/-! ## An answer taken -/

section
variable {s : State} {f : Frame} {x : Transaction} {b : BayIx} {c : Contact} {r : PostReport} (h : s.PostAnswers f x b c r)

include h in
theorem State.PostAnswers.report : postReport? f.payload = some r := by
  obtain ⟨last, layout⟩ := h.layout
  rw [layout]
  exact postReport?_layout h.connector h.drawn h.inForce h.ack h.energy

include h in
theorem State.PostAnswers.matches_ : s.Matches f x where
  running := h.running
  receiving := h.receiving
  short := by
    obtain ⟨last, layout⟩ := h.layout
    rw [layout]; exact Nat.le_of_ble_eq_true rfl
  outstanding := h.outstanding
  window := h.window
  source := h.source
  tag := h.tag
  role := .inl (State.post_some h.post).2.1

include h in
theorem State.PostAnswers.own (v : Bool) : x.kind ≠ .forward v := by
  intro forward
  rcases h.answers with poll | ⟨d, allot⟩
  · rw [poll] at forward; cases forward
  · rw [allot] at forward; cases forward

include h in
theorem State.PostAnswers.taken : answersTransaction x (s.node f.src).role f = true := by
  have report := h.report
  unfold answersTransaction
  rcases h.answers with poll | ⟨d, allot⟩
  · rw [poll, (State.post_some h.post).2.1]
    unfold answersPoll
    rw [report, h.kind]; rfl
  · rw [allot]
    unfold answersAllot
    rw [report, h.kind]
    exact beq_self_eq_true r.ack

/-- The answer's kind of transaction. -/
def Transaction.polls (x : Transaction) : Bool := x.kind == .poll

/-- Step 1 of R140 for the post of a bay. -/
def State.restoring (s : State) (f : Frame) (b : BayIx) (c : Contact) (r : PostReport) : Ev :=
  if c.reachable then Ev.start (s.answeredBy f) else (Ev.start (s.answeredBy f)).contactRestored b r.connector

include h in
theorem State.PostAnswers.evidenced :
    s.evidenced x f = (s.restoring f b c r).postEvidence b r (s.plugEvidence b) x.polls := by
  obtain ⟨_, role, bay⟩ := State.post_some h.post
  have connector : (Ev.start (s.answeredBy f)).answeredConnector x f b = r.connector := by
    unfold Ev.answeredConnector
    rw [h.report]
    cases kind : x.kind with
    | forward v => exact absurd kind (h.own v)
    | poll | allot d q => rfl
  have contact : (s.node f.src).isUnreachable = !c.reachable := by
    unfold NodeEntry.isUnreachable; rw [h.contact]
  have first : ((Ev.start s.heard).onState (·.setTransaction none)).restoreContact x f (s.node f.src)
      = s.restoring f b c r := by
    unfold State.restoring
    by_cases reachable : c.reachable = true
    · rw [if_pos reachable, State.restoreContact_reachable (.inr (by rw [contact, reachable]; rfl))]
    · rw [if_neg reachable, State.restoreContact_post role bay (by
        rw [contact]; simpa using reachable), connector]
  have was : (s.node f.src).bay.any s.heard.plugEvidence = s.plugEvidence b := by rw [bay]; rfl
  unfold State.evidenced
  rw [first, was]
  unfold Ev.takeEvidence Transaction.polls
  rw [role, bay, h.report]
  cases kind : x.kind with
  | forward v => exact absurd kind (h.own v)
  | poll | allot d q => rfl

include h in
theorem State.PostAnswers.runs : ∃ o, exec (.frameReception .downlink f.received) s
    = .next (((s.restoring f b c r).postEvidence b r (s.plugEvidence b) x.polls).carry o).finish := by
  obtain ⟨o, runs⟩ := Ev.answered_own (s := s) (f := f) (x := x) h.own (s.kinds.get f.kind.toFin).copyUp
  refine ⟨o, ?_⟩
  rw [h.matches_.answered h.taken, runs, h.evidenced]

include h in
theorem State.PostAnswers.carries {u : State}
    (evidence : ((s.restoring f b c r).postEvidence b r (s.plugEvidence b) x.polls).flushNotes = Ev.start u)
    (kinds : u.kinds = s.kinds) : exec (.frameReception .downlink f.received) s = .next (u.carryUp f).settle := by
  rw [h.matches_.answered h.taken, Ev.answered_carries h.own (by rw [h.evidenced]; exact evidence) kinds]

end

/-! ## A report that brings nothing new -/

theorem State.modDyn_id {s : State} {b : BayIx} {f : BayDyn → BayDyn} (same : f (s.bay b).dyn = (s.bay b).dyn) :
    s.modDyn b f = s := by
  have keeps : s.modDyn b f = s.modDyn b id := State.modDyn_congr same
  have nothing : s.modDyn b id = s.modBay b id := State.modBay_congr (if_pos rfl)
  rw [keeps, nothing]
  have bays : s.bays.modify b id = s.bays := Table.ext_get fun e => by
    by_cases here : e = b
    · rw [here, Table.get_modify_same]; rfl
    · exact Table.get_modify_other _ _ here
  show ({ s with bays := s.bays.modify b id } : State) = s
  rw [bays]

section
variable {u : State} {l : List BayNote} {b : BayIx}

theorem Ev.noted_modDyn {f : BayDyn → BayDyn} (same : f (u.bay b).dyn = (u.bay b).dyn) :
    (Ev.noted u l).modDyn b f = Ev.noted u l := by
  show Ev.noted (u.modDyn b f) l = _
  rw [State.modDyn_id same]

theorem Ev.noted_setOccupancy {o : Occupancy} (same : (u.bay b).dyn.occupancy = o) :
    (Ev.noted u l).setOccupancy b o = Ev.noted u l := if_pos same

variable {s : State} {f : Frame} {c : Contact} {r : PostReport} (post : s.post b = some (f.src, s.node f.src))
  (contact : (s.node f.src).contact = some c) (n : s.NothingNew b r)

include n in
theorem State.NothingNew.restoring : s.restoring f b c r = Ev.start (s.answeredBy f) := by
  unfold State.restoring
  split
  · rfl
  · have occupied : (if ((Ev.start (s.answeredBy f)).st.plugEvidence b && r.connector.isPlug) = true then
        (Ev.start (s.answeredBy f)).setOccupancy b .occupied else Ev.start (s.answeredBy f)) = Ev.start (s.answeredBy f) := by
      split
      · next plug =>
        exact Ev.noted_setOccupancy (l := []) (n.plugged ((Connector.isPlug_iff _).1 (Bool.and_eq_true_iff.1 plug).2))
      · rfl
    unfold Ev.contactRestored
    dsimp only
    rw [occupied]
    split
    · rfl
    · exact Ev.recover_fails (ev := Ev.start (s.answeredBy f)) (b := b) (d := (s.bay b).dyn) rfl (.inl n.inService)

include n post contact in
theorem State.NothingNew.reportOccupancy (l : List BayNote) :
    (Ev.noted (s.answeredBy f) l).reportOccupancy b (s.plugEvidence b) = Ev.noted (s.answeredBy f) l := by
  have reachable := (State.answeredBy_reachable post contact).1
  have occupied (plug : r.connector.isPlug = true) : (s.bay b).dyn.occupancy = .occupied :=
    n.plugged ((Connector.isPlug_iff _).1 plug)
  have alone (none_ : s.sensor b = none) := n.alone none_
  unfold Ev.reportOccupancy
  rw [show (Ev.noted (s.answeredBy f) l).st.sensor b = (s.answeredBy f).sensor b from rfl, State.answeredBy_sensor]
  cases sensor : s.sensor b with
  | none =>
    obtain ⟨candidate, debounce, idle, finished⟩ := alone sensor
    dsimp only [Option.map_none]
    rw [Ev.noted_modDyn (f := BayDyn.endRun) (by
      show ({ (s.bay b).dyn with candidate := none, debounce := 0 } : BayDyn) = (s.bay b).dyn
      rw [← candidate, ← debounce])]
    show (match (s.bay b).dyn.connector with
      | .idle => (Ev.noted (s.answeredBy f) l).setOccupancy b .vacant
      | .plugged | .charging | .finished => (Ev.noted (s.answeredBy f) l).setOccupancy b .occupied
      | _ => Ev.noted (s.answeredBy f) l) = _
    rw [n.connector]
    cases reported : r.connector with
    | none | fault => rfl
    | idle => exact Ev.noted_setOccupancy (idle reported)
    | finished => exact Ev.noted_setOccupancy (finished reported)
    | plugged | charging => exact Ev.noted_setOccupancy (occupied (by rw [reported]; rfl))
  | some e =>
    dsimp only [Option.map_some]
    have now : (Ev.noted (s.answeredBy f) l).st.plugEvidence b = r.connector.isPlug := by
      show ((s.bay b).dyn.connector.isPlug && (s.answeredBy f).postReachable b) = _
      rw [reachable, Bool.and_true, n.connector]
    rw [now]
    by_cases plug : r.connector.isPlug = true
    · rw [if_pos plug]; exact Ev.noted_setOccupancy (occupied plug)
    · have before : ¬ s.plugEvidence b = true := fun was => plug (by
        rw [← n.connector]; exact (Bool.and_eq_true_iff.1 was).1)
      rw [if_neg plug, if_neg before]

include n post contact in
theorem State.NothingNew.connectorReport : (Ev.start (s.answeredBy f)).connectorReport b r.connector (s.plugEvidence b)
    = Ev.noted (s.answeredBy f) [openNote b (s.bay b).dyn.state] := by
  have same : ({ (s.bay b).dyn with connector := r.connector } : BayDyn) = (s.bay b).dyn := by rw [← n.connector]
  have opened : ((Ev.start (s.answeredBy f)).touch b).modDyn b (fun d => { d with connector := r.connector })
      = Ev.noted (s.answeredBy f) [openNote b (s.bay b).dyn.state] := Ev.noted_modDyn same
  unfold Ev.connectorReport
  dsimp only
  rw [opened, if_neg (c := r.connector = .fault ∧ ((Ev.start (s.answeredBy f)).bay b).dyn.connector ≠ .fault)
      (fun both => both.2 (n.connector.trans both.1)),
    if_neg (c := ((Ev.start (s.answeredBy f)).bay b).dyn.state = .faulted) n.inService, n.reportOccupancy post contact]
  exact if_pos rfl

include n in
theorem State.NothingNew.energyFigure {plugIn : Bool} (plugIn_ : plugIn = false) (l : List BayNote) :
    (Ev.noted (s.answeredBy f) l).energyFigure b r.energy plugIn = Ev.noted (s.answeredBy f) l := by
  unfold Ev.energyFigure
  show (match (s.bay b).dyn.active with | none => _ | some h => _) = _
  cases active : (s.bay b).dyn.active with
  | none => rfl
  | some h =>
    dsimp only
    rcases n.energy h active with none_ | ⟨last, top⟩
    · exact if_neg (by unfold Hold.arrived; rw [none_]; exact Bool.false_ne_true)
    · have kept : min Config.counterMax (h.energyDelivered + (r.energy - r.energy)) = h.energyDelivered := by
        rw [Nat.sub_self, Nat.add_zero]
        exact Nat.min_eq_right top
      have same : ({ (s.bay b).dyn with active := some { h with lastPostEnergy := some r.energy, energyDelivered := h.energyDelivered } } : BayDyn)
          = (s.bay b).dyn := by rw [← last, ← active]
      have none_ : h.energyWanted.any (fun w => h.energyDelivered < w && w ≤ h.energyDelivered) = false := by
        cases h.energyWanted with
        | none => rfl
        | some w => simp
      split
      · rw [plugIn_, last]
        show (if r.energy ≤ r.energy then _ else _) = _
        rw [if_pos (le_refl _), kept, Ev.noted_modDyn same, none_]
        rfl
      · rfl

include n post contact in
theorem State.NothingNew.postEvidence (polls : Bool) : (s.restoring f b c r).postEvidence b r (s.plugEvidence b) polls
    = ((Ev.noted (s.answeredBy f) [openNote b (s.bay b).dyn.state]).ceilingTest b r.drawn r.inForce).deliveryReport b r polls := by
  have plugIn : (!((Ev.start (s.answeredBy f)).bay b).dyn.connector.isPlug && r.connector.isPlug) = false := by
    rw [← n.connector]; exact Bool.not_and_self _
  rw [n.restoring]
  unfold Ev.postEvidence
  dsimp only
  rw [n.connectorReport post contact, n.energyFigure plugIn]

end

end Sys2Proof.Machine
end

section
/-!
SUPPORT. The report reaches the scheduler (R131, R135), and the obligation on the reports that answer (O16).
-/
namespace Sys2Proof.Machine

/-! ## The delivery record -/

theorem Delivery.acknowledge_eq (d : Delivery) (r : PostReport) : d.acknowledge r
    = ⟨d.target, some r.inForce, none, r.drawn, d.sequence, d.repeatMark, d.overdrawCount, false,
      if r.inForce = d.target ∧ d.repeatMark = false then .settled else .pending⟩ := by
  unfold Delivery.acknowledge Delivery.settle
  simp only [Option.some.injEq]

section
variable {d : Delivery} {v : Nat} {n : Nat} (inForce : d.inForce = some n)

include inForce in
theorem Delivery.overdrawTest_within (within : d.drawn ≤ n + v) :
    d.overdrawTest v = ({ d with overdrawCount := 0 }, false) := by
  unfold Delivery.overdrawTest
  rw [inForce]
  exact if_neg (by simpa using within)

include inForce in
theorem Delivery.overdrawTest_first (beyond : n + v < d.drawn) (first : d.overdrawCount = 0) :
    d.overdrawTest v = ({ d with overdrawCount := 1 }, false) := by
  unfold Delivery.overdrawTest
  rw [inForce, if_pos (by simpa using beyond), first]
  exact if_neg (by decide)

include inForce in
theorem Delivery.overdrawTest_second (beyond : n + v < d.drawn) (second : 1 ≤ d.overdrawCount) :
    d.overdrawTest v = ({ d with
      overdrawCount := 0, repeatMark := true, state := if d.state = .settled then .pending else d.state }, true) := by
  unfold Delivery.overdrawTest
  rw [inForce, if_pos (by simpa using beyond), if_pos (by omega)]

end

theorem State.modDelivery_bay (s : State) (b c : BayIx) (g : Delivery → Delivery) :
    ((s.modDelivery b g).bay c).dyn = (s.bay c).dyn := by
  unfold State.modDelivery
  rw [State.bay_modBay]
  split
  · next same => rw [same]
  · rfl

theorem State.modDelivery_modDelivery (s : State) (b : BayIx) (f g : Delivery → Delivery) :
    (s.modDelivery b f).modDelivery b g = s.modDelivery b (fun d => g (f d)) := State.modBay_modBay s b _ _

/-- An error logged between two writes of a delivery record, the second of which sets it whole. -/
theorem State.logError_modDelivery (u : State) (b : BayIx) (g : Delivery → Delivery) (e : ErrorReport) (d : Delivery) :
    ((u.modDelivery b g).logError e).modDelivery b (fun _ => d) = (u.logError e).modDelivery b (fun _ => d) := by
  have same : SameErrors u (u.modDelivery b g) := ⟨rfl, rfl, rfl, rfl, rfl, rfl⟩
  obtain ⟨recorder, fifo, tag⟩ := same.logError e
  have uplink : ((u.modDelivery b g).logError e).uplink = (u.logError e).uplink := by
    rw [State.logError_uplink, State.logError_uplink u, fifo]; rfl
  have second := State.logError_talks (u.modDelivery b g) e
  have first := State.logError_talks u e
  unfold Talks at first second
  rw [recorder, uplink, tag] at second
  rw [second, first]
  have bays : (u.modDelivery b g).modDelivery b (fun _ => d) = u.modDelivery b (fun _ => d) :=
    State.modDelivery_modDelivery u b g _
  exact congrArg (fun t : State => ({ t with uplink := (u.logError e).uplink, noticeTag := (u.logError e).noticeTag, recorder := (u.logError e).recorder } : State)) bays

/-- The delivery record of a bay after a report, and whether OVERDRAW is logged (R131, R135). -/
def State.tested (u : State) (b : BayIx) (r : PostReport) : Delivery × Bool :=
  ((u.bay b).delivery.acknowledge r).overdrawTest u.allocator.settings.overdraw

section
variable (u : State) (l : List BayNote) (b : BayIx) (r : PostReport)

theorem State.acknowledge_here : (u.modDelivery b (·.acknowledge r)).modDelivery b (fun _ => (u.bay b).delivery.acknowledge r)
    = u.modDelivery b (·.acknowledge r) := by
  rw [State.modDelivery_modDelivery]
  exact State.modBay_congr rfl

theorem Ev.noted_deliveryReport : (Ev.noted u l).deliveryReport b r true
    = Ev.noted ((if (u.tested b r).2 then u.logError { kind := .overdraw, bay := some b } else u).modDelivery b
        (fun _ => (u.tested b r).1)) l := by
  have here : ((u.modDelivery b (·.acknowledge r)).bay b).delivery = (u.bay b).delivery.acknowledge r := by
    unfold State.modDelivery; rw [State.bay_modBay, if_pos rfl]
  have tested : (((Ev.noted (u.modDelivery b (·.acknowledge r)) l).bay b).delivery.overdrawTest
      u.allocator.settings.overdraw) = u.tested b r := by
    show ((u.modDelivery b (·.acknowledge r)).bay b).delivery.overdrawTest _ = _
    rw [here]; rfl
  have runs : (Ev.noted u l).deliveryReport b r true
      = (if (u.tested b r).2 then (Ev.noted (u.modDelivery b (·.acknowledge r)) l).log { kind := .overdraw, bay := some b }
        else Ev.noted (u.modDelivery b (·.acknowledge r)) l).modDelivery b (fun _ => (u.tested b r).1) := by
    rw [← tested]; rfl
  rw [runs]
  by_cases beyond : (u.tested b r).2 = true
  · rw [if_pos beyond, if_pos beyond, Ev.noted_log]
    exact congrArg (Ev.noted · l) (State.logError_modDelivery u b _ _ _)
  · rw [if_neg beyond, if_neg beyond]
    exact congrArg (Ev.noted · l) (State.modDelivery_modDelivery u b (·.acknowledge r) (fun _ => (u.tested b r).1))

end

/-! ## The report of a bay outside the Charge Queue -/

/-- The part with the under-draw count of a bay 0, after an answer. -/
def State.rested (s : State) (f : Frame) (b : BayIx) : State := (s.answeredBy f).modAlloc b (fun a => { a with underDraw := 0 })

theorem State.rested_bay (s : State) (f : Frame) (b c : BayIx) : ((s.rested f b).bay c).dyn = (s.bay c).dyn
    ∧ ((s.rested f b).bay c).delivery = (s.bay c).delivery := by
  unfold State.rested State.modAlloc
  rw [State.bay_modBay]
  split
  · next same => rw [same]; exact ⟨rfl, rfl⟩
  · exact ⟨rfl, rfl⟩

section
variable {s : State} {f : Frame} {x : Transaction} {b : BayIx} {c : Contact} {r : PostReport} (h : s.PostAnswers f x b c r)
  (n : s.NothingNew b r) (out : s.inQueue b = false)

include h n out in
theorem State.PostAnswers.quiet (polls : Bool) : (s.restoring f b c r).postEvidence b r (s.plugEvidence b) polls
    = (Ev.noted (s.rested f b) [openNote b (s.bay b).dyn.state]).deliveryReport b r polls := by
  rw [n.postEvidence h.post h.contact]
  refine congrArg (Ev.deliveryReport · b r polls) ?_
  refine if_neg fun fits => ?_
  have queued : s.inQueue b = true := (Bool.and_eq_true_iff.1 (Bool.and_eq_true_iff.1 fits).1).1
  rw [out] at queued
  cases queued

include h n out in
theorem State.PostAnswers.settles {u : State}
    (evidence : (Ev.noted (s.rested f b) [openNote b (s.bay b).dyn.state]).deliveryReport b r x.polls
      = Ev.noted u [openNote b (s.bay b).dyn.state])
    (state : (u.bay b).dyn.state = (s.bay b).dyn.state) (kinds : u.kinds = s.kinds) :
    exec (.frameReception .downlink f.received) s = .next (u.carryUp f).settle := by
  refine h.carries ?_ kinds
  rw [h.quiet n out, evidence]
  refine Ev.noted_flush fun m here => ?_
  rw [List.mem_singleton.1 here, show (openNote b (s.bay b).dyn.state).bay = b from rfl, state]
  exact openNote_quiet b _

include h n out in
theorem State.PostAnswers.settles_poll (poll : x.kind = .poll) (quiet : ((s.rested f b).tested b r).2 = false) :
    exec (.frameReception .downlink f.received) s
      = .next (((s.rested f b).modDelivery b (fun _ => ((s.rested f b).tested b r).1)).carryUp f).settle := by
  have polls : x.polls = true := beq_iff_eq.2 poll
  refine h.settles n out (u := (s.rested f b).modDelivery b (fun _ => ((s.rested f b).tested b r).1)) ?_ ?_ rfl
  · rw [polls, Ev.noted_deliveryReport, quiet]; rfl
  · rw [State.modDelivery_bay, (s.rested_bay f b b).1]

include h n out in
theorem State.PostAnswers.settles_allot {d : BayIx} {q : Nat} (allot : x.kind = .allot d q) :
    exec (.frameReception .downlink f.received) s
      = .next (((s.rested f b).modDelivery b (·.acknowledge r)).carryUp f).settle := by
  have polls : x.polls = false := by unfold Transaction.polls; rw [allot]; rfl
  refine h.settles n out (u := (s.rested f b).modDelivery b (·.acknowledge r)) ?_ ?_ rfl
  · rw [polls]; rfl
  · rw [State.modDelivery_bay, (s.rested_bay f b b).1]

include h n out in
theorem State.PostAnswers.settles_over (poll : x.kind = .poll) (beyond : ((s.rested f b).tested b r).2 = true) :
    exec (.frameReception .downlink f.received) s
      = .next ((((s.rested f b).logError { kind := .overdraw, bay := some b }).modDelivery b
        (fun _ => ((s.rested f b).tested b r).1)).carryUp f).settle := by
  have polls : x.polls = true := beq_iff_eq.2 poll
  have talks := State.logError_talks (s.rested f b) { kind := .overdraw, bay := some b }
  unfold Talks at talks
  refine h.settles n out (u := ((s.rested f b).logError { kind := .overdraw, bay := some b }).modDelivery b
    (fun _ => ((s.rested f b).tested b r).1)) ?_ ?_ (by rw [talks]; rfl)
  · rw [polls, Ev.noted_deliveryReport, beyond]; rfl
  · rw [State.modDelivery_bay, talks]; exact congrArg BayDyn.state (s.rested_bay f b b).1

/-- The record that the report leaves, its overdraw test aside. -/
theorem State.rested_tested : (s.rested f b).tested b r
    = ((s.bay b).delivery.acknowledge r).overdrawTest s.allocator.settings.overdraw := by
  unfold State.tested
  rw [(s.rested_bay f b b).2]; rfl

end

end Sys2Proof.Machine
end

section
/-!
SUPPORT. The obligation on the reports that answer (O16), part by part.
-/
namespace Sys2Proof.Machine

section
variable {s : State} {f : Frame} {x : Transaction} {c : Contact}

/-! ## The OCCUPANCY of a sensor -/

theorem State.Senses.accepted_shows (h : s.Senses f x) {b : BayIx} {v : Bool} (payload : f.payload = [if v then 1 else 0, 0])
    (bay : (s.node f.src).bay = some b) (plug : s.plugEvidence b = false)
    (differs : (s.bay b).dyn.occupancy ≠ (sensedBit v).occupancy)
    (reached : (s.bay b).dyn.occupancy = .unknown ∨ s.timing.debounce ≤ ((s.bay b).dyn.advance (sensedBit v)).debounce)
    (rests : (s.bay b).dyn.state.rests) (ok : ∀ e, (s.bay e).checkOk = true) {o : Occupancy}
    (reported : o = (sensedBit v).occupancy) {after : BayState}
    (follows : after = (s.bay b).dyn.state.rested (sensedBit v).occupancy) :
    ∃ t, exec (.frameReception .downlink f.received) s = .next t
      ∧ (t.bay b).dyn = { (s.bay b).dyn with
        occupancy := o, candidate := none, debounce := 0, state := after }
      ∧ (∀ e, e ≠ b → (t.bay e).dyn = (s.bay e).dyn) ∧ t.index = s.index ∧ t.waitHolds = s.waitHolds
      ∧ (after ≠ (s.bay b).dyn.state → s.controller.noticeDest ≠ 0 →
          s.Sends t [s.bayNoticeAt 0 b (s.bay b).dyn.state after 1 0 0]) := by
  subst reported
  subst follows
  obtain ⟨o, runs⟩ := h.accepted payload bay plug differs reached
  have books := s.accepts_books (f := f) differs rests
  have desk := s.accepts_desk (f := f) differs rests
  have order : (s.accepts f b v).books.Ok := by
    rw [books]; exact Books.Ok.put (State.answeredBy_ok ok) b fun y held => BayBook.setDyn_ok _ held
  obtain ⟨here, others, index, holds, _⟩ :=
    (Ev.carry_shows (.inl (congrArg Desk.scan desk)) o (.inr order)).answered books
  exact ⟨_, runs, here, others, index, holds, s.accepts_told differs rests o⟩

theorem State.Senses.clauses (h : s.Senses f x) :
    (2 ≤ f.payload.length → byteAt f.payload 1 = 1 → (s.kinds.get f.kind.toFin).copyUp = false →
      let record : Contact → Contact := fun _ =>
        ⟨true, 0, s.now, s.now + BitVec.ofNat 32 s.timing.pollInterval⟩
      exec (.frameReception .downlink f.received) s
        = .next (((s.setRx .downlink ⟨.idle, []⟩).setTransaction none).modContact f.src record).deliverDue.arbitrate)
    ∧ (∀ (b : BayIx) (v : Bool), f.payload = [if v then 1 else 0, 0] → (s.node f.src).bay = some b →
        s.plugEvidence b = false →
        let d := (s.bay b).dyn
        let sensed : Sensed := if v then .occupied else .vacant
        let reported : Occupancy := if v then .occupied else .vacant
        let count := if d.candidate = some sensed then min 7 (d.debounce + 1) else 1
        (d.occupancy = reported →
          exec (.frameReception .downlink f.received) s
            = .next (((s.answeredBy f).modDyn b (fun e => { e with candidate := none, debounce := 0 })).carryUp
                f).deliverDue.arbitrate)
        ∧ (d.occupancy ≠ reported → d.occupancy ≠ .unknown → count < s.timing.debounce →
            exec (.frameReception .downlink f.received) s
              = .next (((s.answeredBy f).modDyn b (fun e => { e with candidate := some sensed, debounce := count })).carryUp
                  f).deliverDue.arbitrate)
        ∧ (d.occupancy ≠ reported → d.occupancy = .unknown ∨ s.timing.debounce ≤ count →
            d.state ∈ [BayState.free, .unbooked, .closed, .faulted] → (∀ e, (s.bay e).checkOk = true) →
            let after : BayState := if v = true ∧ d.state = .free then .unbooked
              else if v = false ∧ d.state = .unbooked then .free else d.state
            ∃ t, exec (.frameReception .downlink f.received) s = .next t
              ∧ (t.bay b).dyn = { d with occupancy := reported, candidate := none, debounce := 0, state := after }
              ∧ (∀ e, e ≠ b → (t.bay e).dyn = (s.bay e).dyn) ∧ t.index = s.index ∧ t.waitHolds = s.waitHolds
              ∧ (after ≠ d.state → s.controller.noticeDest ≠ 0 →
                  s.Sends t [s.bayNoticeAt 0 b d.state after 1 0 0])))
    ∧ (∀ (b : BayIx) (v : Bool), f.payload = [if v then 1 else 0, 0] → (s.node f.src).bay = some b →
        s.plugEvidence b = true →
        let d := (s.bay b).dyn
        let before := if d.candidate = some .vacant then d.debounce else 0
        let count := min 7 (before + 1)
        let run := fun (c : Option Sensed) (n : Nat) =>
          (s.answeredBy f).modDyn b (fun e => { e with candidate := c, debounce := n })
        let ends := fun (t : State) =>
          exec (.frameReception .downlink f.received) s = .next (t.carryUp f).deliverDue.arbitrate
        (v = true → ends (run none 0))
        ∧ (v = false → before < s.timing.debounce → s.timing.debounce ≤ count →
            ends ((run (some .vacant) count).logError { kind := .sensorDisagree, bay := some b }))
        ∧ (v = false → s.timing.debounce ≤ before ∨ count < s.timing.debounce → ends (run (some .vacant) count))) := by
  refine ⟨fun long health copy => ?_, fun b v payload bay plug => ⟨fun same => ?_, fun differs known below => ?_,
    fun differs reached rests ok => ?_⟩, fun b v payload bay plug => ⟨fun occupied => ?_, fun vacant before reached => ?_,
    fun vacant short => ?_⟩⟩
  · have kept : (s.answeredBy f).carryUp f = s.answeredBy f := if_neg fun both => by
      have on : (s.kinds.get f.kind.toFin).copyUp = true := both.1
      rw [copy] at on; cases on
    have runs := h.degraded long health
    rwa [kept] at runs
  · exact h.agrees payload bay plug (by cases v <;> exact same)
  · exact h.counts payload bay plug (by cases v <;> exact differs) known (by cases v <;> rfl) (by cases v <;> exact below)
  · refine h.accepted_shows payload bay plug (by cases v <;> exact differs) (reached.imp_right fun count => ?_) rests ok
      (by cases v <;> rfl) ?_
    · rw [BayDyn.advance_eq]
      cases v <;> exact count
    · simp only [List.mem_cons, List.not_mem_nil, or_false] at rests
      rcases rests with st | st | st | st <;> rw [st] <;> cases v <;> rfl
  · subst occupied; exact h.occupied bay plug payload
  · subst vacant
    have runs := h.vacant bay plug payload rfl
    rw [if_pos ⟨before, reached⟩] at runs
    exact runs
  · subst vacant
    have runs := h.vacant bay plug payload rfl
    rw [if_neg (fun both => by
      rcases short with high | low
      · exact absurd both.1 (Nat.not_lt.2 high)
      · exact absurd both.2 (Nat.not_le.2 low))] at runs
    exact runs

/-! ## The POST-STATUS that brings nothing new -/

theorem State.PostAnswers.clauses {b : BayIx} {r : PostReport} (h : s.PostAnswers f x b c r) (n : s.NothingNew b r)
    (out : s.inQueue b = false) :
    let d := (s.bay b).delivery
    let after := (s.answeredBy f).modAlloc b (fun a => { a with underDraw := 0 })
    let record : Delivery := ⟨d.target, some r.inForce, none, r.drawn, d.sequence, d.repeatMark, d.overdrawCount,
      false, if r.inForce = d.target ∧ d.repeatMark = false then .settled else .pending⟩
    let tolerated := r.inForce + s.allocator.settings.overdraw
    (∀ e q, x.kind = .allot e q →
      exec (.frameReception .downlink f.received) s
        = .next ((after.modDelivery b (fun _ => record)).carryUp f).deliverDue.arbitrate)
    ∧ (x.kind = .poll → r.drawn ≤ tolerated →
        exec (.frameReception .downlink f.received) s
          = .next ((after.modDelivery b (fun _ => { record with overdrawCount := 0 })).carryUp
              f).deliverDue.arbitrate)
    ∧ (x.kind = .poll → tolerated < r.drawn → d.overdrawCount = 0 →
        exec (.frameReception .downlink f.received) s
          = .next ((after.modDelivery b (fun _ => { record with overdrawCount := 1 })).carryUp
              f).deliverDue.arbitrate)
    ∧ (x.kind = .poll → tolerated < r.drawn → 1 ≤ d.overdrawCount →
        exec (.frameReception .downlink f.received) s
          = .next (((after.logError { kind := .overdraw, bay := some b }).modDelivery b (fun _ =>
              { record with overdrawCount := 0, repeatMark := true, state := .pending })).carryUp
              f).deliverDue.arbitrate) := by
  intro d after record tolerated
  have told : d.acknowledge r = record := d.acknowledge_eq r
  have tested : (s.rested f b).tested b r = record.overdrawTest s.allocator.settings.overdraw := by
    rw [State.rested_tested, ← told]
  refine ⟨fun e q allot => ?_, fun poll within => ?_, fun poll beyond first => ?_, fun poll beyond second => ?_⟩
  · have runs := h.settles_allot n out allot
    rwa [show (s.rested f b).modDelivery b (·.acknowledge r) = after.modDelivery b (fun _ => record) from
      State.modBay_congr (congrArg (fun k : Delivery => { (s.rested f b).bay b with delivery := k })
        ((congrArg (·.acknowledge r) (s.rested_bay f b b).2).trans told))] at runs
  · have here := tested.trans (Delivery.overdrawTest_within (n := r.inForce) rfl within)
    have runs := h.settles_poll n out poll (congrArg Prod.snd here)
    rwa [here] at runs
  · have here := tested.trans (Delivery.overdrawTest_first (n := r.inForce) rfl beyond first)
    have runs := h.settles_poll n out poll (congrArg Prod.snd here)
    rwa [here] at runs
  · have here := tested.trans (Delivery.overdrawTest_second (n := r.inForce) rfl beyond second)
    have runs := h.settles_over n out poll (congrArg Prod.snd here)
    have pending : (if record.state = .settled then DeliveryState.pending else record.state) = .pending := by
      rw [show record.state = if r.inForce = d.target ∧ d.repeatMark = false then .settled else .pending from rfl]
      by_cases even : r.inForce = d.target ∧ d.repeatMark = false
      · rw [if_pos even]; rfl
      · rw [if_neg even]; rfl
    rw [here] at runs
    dsimp only at runs
    rwa [pending] at runs

/-! ## The frame that carries no evidence -/

theorem State.Matches.clauses (h : s.Matches f x) (contact : (s.node f.src).contact = some c) :
    let post := (s.node f.src).role = .post
    let sensor := (s.node f.src).role = .sensor
    let report := fun (p : List Byte) => 11 ≤ p.length ∧ 1 ≤ byteAt p 0 ∧ byteAt p 0 ≤ 5 ∧ field16 p 3 ≤ 800
    let carried := ((s.answeredBy f).placeUplink f).deliverDue.arbitrate
    (∀ v, x.kind = .forward v → sensor ∨ post ∧ c.reachable = true →
      exec (.frameReception .downlink f.received) s = .next carried)
    ∧ ((x.kind = .poll ∧ (post ∧ (f.kind ≠ Kind.postStatus ∨ ¬ report f.payload)
          ∨ sensor ∧ (f.kind ≠ Kind.occupancy ∨ f.payload.length < 2))
        ∨ (post ∨ sensor) ∧ ∃ e q, x.kind = .allot e q
            ∧ (f.kind ≠ Kind.postStatus ∨ ¬ report f.payload ∨ byteAt f.payload 5 ≠ q)) →
        exec (.frameReception .downlink f.received) s
          = exec .replyWindowClose (s.setRx .downlink ⟨.idle, []⟩)) := by
  intro post sensor report carried
  have malformed (bad : ¬ report f.payload) : (postReport? f.payload).isSome = false :=
    Bool.eq_false_iff.2 fun good => bad ((postReport?_isSome f.payload).1 good)
  refine ⟨fun v forward still_ => h.forwarded_plain forward (still_.imp_right fun both => ?_), fun fails => h.closes ?_⟩
  · unfold NodeEntry.isUnreachable; rw [contact]; simp [both.2]
  · unfold answersTransaction
    rcases fails with ⟨poll, fails⟩ | ⟨_, e, q, allot, fails⟩
    · rw [poll]
      exact answersPoll_false (fails.imp_left (And.imp_right (Or.imp_right malformed)))
    · rw [allot]
      exact answersAllot_false (fails.imp_right (Or.imp_left malformed))

end

/-- Settles O16: the OCCUPANCY of a sensor, the POST-STATUS that brings nothing new, and the frame that carries none. -/
theorem answeredReports : Obligations.AnsweredReports := by
  unfold Obligations.AnsweredReports
  refine ⟨fun s f x running receiving short outstanding window poll source tag sensor kind => ?_,
    fun s f x b c r h n out => h.clauses n out,
    fun s f x c running receiving short outstanding window source tag contact => ⟨fun v forward still_ => ?_,
      fun v b forward lost post faulted sound fit empty mode waitlist ok => ?_, fun fails => ?_⟩⟩
  · exact State.Senses.clauses ⟨⟨running, receiving, short, outstanding, window, source, tag, .inr sensor⟩, poll, sensor, kind⟩
  · have h : s.Matches f x := ⟨running, receiving, short, outstanding, window, source, tag,
      still_.symm.imp_left And.left⟩
    exact (h.clauses contact).1 v forward still_
  · have h : s.Matches f x := ⟨running, receiving, short, outstanding, window, source, tag, .inl (State.post_some post).2.1⟩
    have regained : (s.bay b).dyn.regained = if (s.bay b).dyn.connector = .plugged ∨ (s.bay b).dyn.connector = .charging
        then Occupancy.occupied else (s.bay b).dyn.occupancy := by
      unfold BayDyn.regained
      simp only [Connector.isPlug_iff]
    have shown := h.forwarded_restores post contact faulted sound fit empty mode forward lost waitlist ok
    rw [regained] at shown
    exact shown
  · have role : (s.node f.src).role = .post ∨ (s.node f.src).role = .sensor := by
      rcases fails with ⟨_, ⟨post, _⟩ | ⟨sensor, _⟩⟩ | ⟨role, _⟩
      · exact .inl post
      · exact .inr sensor
      · exact role
    have h : s.Matches f x := ⟨running, receiving, short, outstanding, window, source, tag, role⟩
    exact (h.clauses contact).2 fails

end Sys2Proof.Machine
end

section
/-!
SUPPORT. The drawn current of a bay in the Charge Queue (R82 to R84), and the obligation on it (O17).
-/
namespace Sys2Proof.Machine

/-! ## What a recompute leaves of one bay's ceiling and report -/

/-- The ceiling of a bay, its under-draw count 0, and what its post last reported. -/
structure Bay.Draws (y : Bay) (ceiling inForce drawn : Nat) : Prop where
  ceiling : y.alloc.ceiling = ceiling
  underDraw : y.alloc.underDraw = 0
  inForce : y.delivery.inForce = some inForce
  drawn : y.delivery.drawn = drawn

section
variable {n k m : Nat} {b : BayIx}

theorem Bay.admission_draws {now : Time} {rotates : Bool} {value : Time} {v : Bool} {y : Bay} (h : y.Draws n k m) :
    (y.admission now rotates value v).Draws n k m := by
  unfold Bay.admission
  split
  · exact h
  · exact ⟨h.ceiling, h.underDraw, h.inForce, h.drawn⟩
  · exact ⟨h.ceiling, h.underDraw, h.inForce, h.drawn⟩

theorem State.retarget_draws {s : State} (h : (s.bay b).Draws n k m) : (s.retarget.bay b).Draws n k m := by
  rw [State.retarget_bay]
  have admitted := Bay.admission_draws (now := s.now) (rotates := s.rotates b) (value := s.rotationValue)
    (v := s.targets.any (fun e => e.1 == b)) h
  generalize (s.bay b).admission s.now (s.rotates b) s.rotationValue (s.targets.any (fun e => e.1 == b)) = y at admitted
  obtain ⟨ceiling, underDraw, inForce, drawn⟩ := admitted
  dsimp only
  rw [Delivery.handTarget_eq]
  refine ⟨?_, ?_, inForce, drawn⟩ <;> unfold BayAlloc.retarget <;> split
  · exact ceiling
  · exact ceiling
  · exact underDraw
  · rfl

theorem State.rotate_draws {s : State} (e : ChargeEntry) (h : (s.bay b).Draws n k m) : ((s.rotate e).bay b).Draws n k m := by
  obtain ⟨ceiling, underDraw, inForce, drawn⟩ := h
  have cleared (t : State) (c : BayIx) : (t.clearRotation c).bay b = if b = c then _ else t.bay b := t.bay_modBay c b _
  unfold State.rotate
  rw [cleared, State.modAlloc]
  split <;> rw [State.bay_modBay] <;> split <;> exact ⟨ceiling, underDraw, inForce, drawn⟩

theorem Ev.recomputeFuel_draws (n' : Nat) (ev : Ev) (ok : ev.books.Ok) (h : (ev.bay b).Draws n k m) :
    ((Ev.recomputeFuel n' ev).bay b).Draws n k m := by
  induction n' generalizing ev with
  | zero => exact h
  | succ n' ih =>
    have compared := Ev.compareQueue_ok ev ok
    have talks := ev.flushNotes_talks
    unfold Talks at talks
    have first : ((ev.compareQueue.onState State.retarget).bay b).Draws n k m := by
      refine State.retarget_draws (s := ev.compareQueue.st) ?_
      rw [compared, talks]; exact h
    have books : (ev.compareQueue.onState State.retarget).books = ev.books := by
      rw [compared]; exact (State.retarget_books _).trans ev.flushNotes_books
    unfold Ev.recomputeFuel
    dsimp only
    split
    · exact first
    · next e _ =>
      refine ih _ ?_ (State.rotate_draws e first)
      have rotated : ((ev.compareQueue.onState State.retarget).onState (·.rotate e)).books = ev.books :=
        (State.rotate_books _ e).trans books
      rw [rotated]
      exact ok

theorem Ev.finish_draws {ev : Ev} (scan : ev.scan = false ∨ ev.books.waitlist = []) (ok : ev.books.Ok)
    (h : (ev.bay b).Draws n k m) : (ev.finish.bay b).Draws n k m := by
  obtain ⟨v, finish, _, _, books, _, same⟩ := ev.finish_recompute scan
  have talks := ev.flushNotes_talks
  unfold Talks at talks
  have here : (v.bay b).Draws n k m := by
    rw [same, show ({ ev.flushNotes with scan := false } : Ev).bay b = ev.flushNotes.st.bay b from rfl, talks]; exact h
  have ran : (v.runRecompute.bay b).Draws n k m := by
    unfold Ev.runRecompute
    split
    · have fueled := Ev.recomputeFuel_draws 130 v (by rw [books]; exact ok) here
      generalize Ev.recomputeFuel (129 + 1) v = x at fueled ⊢
      exact fueled
    · exact here
  have told := v.runRecompute.flushNotes_talks
  unfold Talks at told
  obtain ⟨ceiling, underDraw, inForce, drawn⟩ : (v.runRecompute.flushNotes.st.bay b).Draws n k m := by rw [told]; exact ran
  have settled := (v.runRecompute.flushNotes.st.deliverDue.arbitrate_bay b).2.2.2
  rw [State.deliverDue_bay] at settled
  obtain ⟨alloc, _, _, inForce', drawn', _⟩ := settled
  rw [finish]
  refine ⟨?_, ?_, inForce'.trans inForce, drawn'.trans drawn⟩
  · rw [State.settle_alloc]; exact ceiling
  · rw [State.settle_alloc]; exact underDraw

theorem Ev.carry_bay {ev : Ev} (scan : ev.scan = false ∨ ev.books.waitlist = []) (o : Option Frame) (b : BayIx) :
    (ev.carry o).bay b = ev.bay b := by
  have placed := Ev.placeOpt_talks { ev.flushNotes with scan := false } o
  have flushed := ev.flushNotes_talks
  unfold Talks at placed flushed
  rw [Ev.carry_eq scan]
  show (({ ev.flushNotes with scan := false } : Ev).placeOpt o).st.bay b = ev.st.bay b
  rw [placed]
  show ev.flushNotes.st.bay b = _
  rw [flushed]; rfl

end

/-! ## The ceiling test (R83, R84) -/

section
variable {u : State} {l : List BayNote} {b : BayIx} {r : PostReport}

theorem Ev.noted_deliveryReport_owing (within : (u.tested b r).2 = false) :
    (Ev.noted u l).wantRecompute.deliveryReport b r true
      = (Ev.noted (u.modDelivery b (fun _ => (u.tested b r).1)) l).wantRecompute := by
  have plain := Ev.noted_deliveryReport u l b r
  rw [within] at plain
  have here : ((u.modDelivery b (·.acknowledge r)).bay b).delivery = (u.bay b).delivery.acknowledge r := by
    unfold State.modDelivery; rw [State.bay_modBay, if_pos rfl]
  have tested : (((Ev.noted (u.modDelivery b (·.acknowledge r)) l).wantRecompute.bay b).delivery.overdrawTest
      u.allocator.settings.overdraw) = u.tested b r := by
    show ((u.modDelivery b (·.acknowledge r)).bay b).delivery.overdrawTest _ = _
    rw [here]; rfl
  have runs : (Ev.noted u l).wantRecompute.deliveryReport b r true
      = (if (u.tested b r).2 then (Ev.noted (u.modDelivery b (·.acknowledge r)) l).wantRecompute.log { kind := .overdraw, bay := some b }
        else (Ev.noted (u.modDelivery b (·.acknowledge r)) l).wantRecompute).modDelivery b (fun _ => (u.tested b r).1) := by
    rw [← tested]; rfl
  rw [runs, within]
  exact congrArg (fun t => (Ev.noted t l).wantRecompute)
    (State.modDelivery_modDelivery u b (·.acknowledge r) (fun _ => (u.tested b r).1))

end

section
variable {s : State} {f : Frame} {x : Transaction} {b : BayIx} {c : Contact} {r : PostReport} (h : s.PostAnswers f x b c r)
  (n : s.NothingNew b r) (poll : x.kind = .poll) (within : r.drawn ≤ r.inForce + s.allocator.settings.overdraw)

/-- The delivery record that such a report leaves (R131). -/
def Delivery.told (d : Delivery) (r : PostReport) : Delivery :=
  ⟨d.target, some r.inForce, none, r.drawn, d.sequence, d.repeatMark, 0, false,
    if r.inForce = d.target ∧ d.repeatMark = false then .settled else .pending⟩

include within in
theorem State.tested_told {u : State} (delivery : (u.bay b).delivery = (s.bay b).delivery) (settings : u.allocator = s.allocator) :
    u.tested b r = ((s.bay b).delivery.told r, false) := by
  unfold State.tested
  rw [delivery, settings, Delivery.acknowledge_eq]
  exact Delivery.overdrawTest_within (n := r.inForce) rfl within

/-- The event of such a report at its ceiling test. -/
def State.drawing (s : State) (f : Frame) (b : BayIx) : Ev := Ev.noted (s.answeredBy f) [openNote b (s.bay b).dyn.state]

theorem State.modAlloc_bay (u : State) (b c : BayIx) (g : BayAlloc → BayAlloc) :
    (u.modAlloc b g).bay c = if c = b then { u.bay c with alloc := g (u.bay c).alloc } else u.bay c := State.bay_modBay u b c _

include h n poll within in
theorem State.PostAnswers.stays {g : BayAlloc → BayAlloc}
    (ceiling : (s.drawing f b).ceilingTest b r.drawn r.inForce = Ev.noted ((s.answeredBy f).modAlloc b g) [openNote b (s.bay b).dyn.state]) :
    exec (.frameReception .downlink f.received) s
      = .next ((((s.answeredBy f).modAlloc b g).modDelivery b (fun _ => (s.bay b).delivery.told r)).carryUp f).settle := by
  have here : (((s.answeredBy f).modAlloc b g).bay b) = { s.bay b with alloc := g (s.bay b).alloc } := by
    rw [State.modAlloc_bay, if_pos rfl]; rfl
  have tested := State.tested_told within (u := (s.answeredBy f).modAlloc b g) (by rw [here]) rfl
  have polls : x.polls = true := beq_iff_eq.2 poll
  refine h.carries (u := ((s.answeredBy f).modAlloc b g).modDelivery b (fun _ => (s.bay b).delivery.told r)) ?_ rfl
  rw [n.postEvidence h.post h.contact, polls, show Ev.noted _ _ = s.drawing f b from rfl, ceiling, Ev.noted_deliveryReport,
    tested]
  refine Ev.noted_flush fun m one => ?_
  rw [List.mem_singleton.1 one, if_neg Bool.false_ne_true, State.modDelivery_bay]
  refine Eq.trans ?_ (openNote_quiet b (s.bay b).dyn.state)
  refine congrArg (openNote b (s.bay b).dyn.state).raised ?_
  show (((s.answeredBy f).modAlloc b g).bay b).dyn.state = _
  rw [here]

include h n poll within in
/-- The reports that change a ceiling end in a recompute (R82). -/
theorem State.PostAnswers.ceils {v : Nat} (differs : (s.bay b).alloc.ceiling ≠ v)
    (ceiling : (s.drawing f b).ceilingTest b r.drawn r.inForce
      = ((s.drawing f b).modAlloc b (fun y => { y with underDraw := 0 })).setCeiling b v)
    (ok : ∀ e, (s.bay e).checkOk = true) :
    ∃ t, exec (.frameReception .downlink f.received) s = .next t ∧ (t.bay b).alloc.ceiling = v
      ∧ (t.bay b).alloc.underDraw = 0 ∧ t.WithinBudget ∧ t.dyns = s.dyns
      ∧ (t.bay b).delivery.inForce = some r.inForce ∧ (t.bay b).delivery.drawn = r.drawn := by
  have here : (((s.answeredBy f).modAlloc b (fun y => { y with underDraw := 0 })).bay b)
      = { s.bay b with alloc := { (s.bay b).alloc with underDraw := 0 } } := by
    rw [State.modAlloc_bay, if_pos rfl]; rfl
  generalize set : ((s.answeredBy f).modAlloc b (fun y => { y with underDraw := 0 })).modAlloc b
    (fun y => { y with ceiling := v }) = u
  have bay : u.bay b = { s.bay b with alloc := { (s.bay b).alloc with underDraw := 0, ceiling := v } } := by
    rw [← set, State.modAlloc_bay, if_pos rfl, here]
  have changes : (s.drawing f b).ceilingTest b r.drawn r.inForce
      = (Ev.noted u [openNote b (s.bay b).dyn.state]).wantRecompute := by
    rw [ceiling, ← set]
    refine if_neg fun same => differs ?_
    have read : ((s.answeredBy f).modAlloc b (fun y => { y with underDraw := 0 })).bay b = _ := here
    exact (congrArg (fun y : Bay => y.alloc.ceiling) read).symm.trans same
  have tested := State.tested_told within (u := u) (by rw [bay]) (by rw [← set]; rfl)
  have polls : x.polls = true := beq_iff_eq.2 poll
  obtain ⟨o, runs⟩ := h.runs
  rw [n.postEvidence h.post h.contact, polls, show Ev.noted _ _ = s.drawing f b from rfl, changes,
    Ev.noted_deliveryReport_owing (by rw [tested]), tested] at runs
  generalize event : (Ev.noted (u.modDelivery b (fun _ => (s.bay b).delivery.told r)) [openNote b (s.bay b).dyn.state]).wantRecompute
    = ev at runs
  have scan : ev.scan = false := by rw [← event]; rfl
  have owed : ev.recompute = true := by rw [← event]; rfl
  have books : ev.books = (s.answeredBy f).books := by
    rw [← event, ← set]
    exact (State.modDelivery_books _ b _).trans ((State.modAlloc_books _ b _).trans (State.modAlloc_books _ b _))
  have order : ev.books.Ok := by rw [books]; exact State.answeredBy_ok ok
  have draws : (ev.bay b).Draws v r.inForce r.drawn := by
    rw [← event]
    have read : (u.modDelivery b (fun _ => (s.bay b).delivery.told r)).bay b
        = { u.bay b with delivery := (s.bay b).delivery.told r } := by
      unfold State.modDelivery; rw [State.bay_modBay, if_pos rfl]
    show ((u.modDelivery b (fun _ => (s.bay b).delivery.told r)).bay b).Draws v r.inForce r.drawn
    rw [read, bay]
    exact ⟨rfl, rfl, rfl, rfl⟩
  obtain ⟨recompute, scanned, _⟩ := Ev.carry_leaves (.inl scan) o (ev := ev)
  have kept := Ev.carry_books (.inl scan) o (ev := ev)
  obtain ⟨ceiled, under, inForce, drawn⟩ := Ev.finish_draws (ev := ev.carry o) (.inl scanned) (by rw [kept]; exact order)
    (by rw [Ev.carry_bay (.inl scan)]; exact draws)
  have shows_ := Ev.carry_shows (.inl scan) o (.inr order) (ev := ev)
  refine ⟨_, runs, ceiled, under, Ev.finish_recomputed _ (recompute.trans owed), shows_.dyns ?_, inForce, drawn⟩
  exact fun e => by rw [books]; rfl

/-! ## The obligation -/

/-- The report speaks of the target in force (R83). -/
theorem State.drawing_tests (queued : s.inQueue b = true) (served : s.allocator.settings.minimum ≤ (s.bay b).alloc.target)
    (inForce : r.inForce = (s.bay b).alloc.target) : (s.drawing f b).ceilingTest b r.drawn r.inForce
      = if r.drawn + s.allocator.settings.reclaim < (s.bay b).alloc.target then
          if (s.bay b).alloc.underDraw + 1 ≥ 2 then
            ((s.drawing f b).modAlloc b (fun y => { y with underDraw := 0 })).setCeiling b
              (max s.allocator.settings.minimum (min (s.bay b).postMax (r.drawn + s.allocator.settings.margin)))
          else (s.drawing f b).modAlloc b (fun y => { y with underDraw := y.underDraw + 1 })
        else
          if (s.bay b).alloc.target ≤ r.drawn + 10 ∧ (s.bay b).alloc.ceiling < (s.bay b).postMax then
            ((s.drawing f b).modAlloc b (fun y => { y with underDraw := 0 })).setCeiling b (s.bay b).postMax
          else (s.drawing f b).modAlloc b (fun y => { y with underDraw := 0 }) := by
  refine if_pos (c := (s.inQueue b && decide (s.allocator.settings.minimum ≤ (s.bay b).alloc.target)
    && (r.inForce == (s.bay b).alloc.target)) = true) ?_
  rw [queued, decide_eq_true served, inForce, beq_self_eq_true]
  rfl

/-- It speaks of another, or of one below M: the count starts anew. -/
theorem State.drawing_rests (other : (s.bay b).alloc.target < s.allocator.settings.minimum ∨ r.inForce ≠ (s.bay b).alloc.target) :
    (s.drawing f b).ceilingTest b r.drawn r.inForce = (s.drawing f b).modAlloc b (fun y => { y with underDraw := 0 }) := by
  refine if_neg (c := (s.inQueue b && decide (s.allocator.settings.minimum ≤ (s.bay b).alloc.target)
    && (r.inForce == (s.bay b).alloc.target)) = true) fun fits => ?_
  obtain ⟨both, same⟩ := Bool.and_eq_true_iff.1 fits
  have served := of_decide_eq_true (Bool.and_eq_true_iff.1 both).2
  rcases other with below | differs
  · exact absurd served (Nat.not_le.2 below)
  · exact differs (beq_iff_eq.1 same)

end

/-- Settles O17: the ceiling test branch by branch. -/
theorem drawnCurrentReports : Obligations.DrawnCurrentReports := by
  intro s f x b c r h n queued poll within a y d record stays ceiling lowered under near
  have rests (same : (s.drawing f b).ceilingTest b r.drawn r.inForce
      = (s.drawing f b).modAlloc b (fun v => { v with underDraw := 0 })) : stays 0 :=
    h.stays n poll within (g := fun v => { v with underDraw := 0 }) same
  refine ⟨fun served inForce => ?_, fun other => rests (State.drawing_rests other)⟩
  have tests := State.drawing_tests (f := f) (r := r) queued served inForce
  refine ⟨fun low first => ?_, fun low second differs ok => ?_, fun high close ok => ?_, fun high away => ?_⟩
  · rw [if_pos (c := r.drawn + a.reclaim < y.alloc.target) low, if_neg (c := y.alloc.underDraw + 1 ≥ 2) (by omega)] at tests
    have counted : (s.answeredBy f).modAlloc b (fun v => { v with underDraw := v.underDraw + 1 })
        = (s.answeredBy f).modAlloc b (fun v => { v with underDraw := 1 }) :=
      State.modBay_congr (congrArg (fun k => ({ s.bay b with alloc := { (s.bay b).alloc with underDraw := k } } : Bay))
        (congrArg (· + 1) (show ((s.answeredBy f).bay b).alloc.underDraw = 0 from first)))
    exact h.stays n poll within (g := fun v => { v with underDraw := 1 })
      (tests.trans (congrArg (Ev.noted · [openNote b (s.bay b).dyn.state]) counted))
  · rw [if_pos (c := r.drawn + a.reclaim < y.alloc.target) low, if_pos (c := y.alloc.underDraw + 1 ≥ 2) (by omega)] at tests
    exact h.ceils n poll within (fun same => differs same.symm) tests ok
  · rw [if_neg (c := r.drawn + a.reclaim < y.alloc.target) high,
      if_pos (c := y.alloc.target ≤ r.drawn + 10 ∧ y.alloc.ceiling < y.postMax) close] at tests
    exact h.ceils n poll within (Nat.ne_of_lt close.2) tests ok
  · rw [if_neg (c := r.drawn + a.reclaim < y.alloc.target) high,
      if_neg (c := y.alloc.target ≤ r.drawn + 10 ∧ y.alloc.ceiling < y.postMax) away] at tests
    exact rests tests

end Sys2Proof.Machine
end

section
/-!
SUPPORT. An event of one bay followed step by step: the record of the bay, its hold deadlines, the Ticket Index and the
bay's note, on the part as an answer has found it.
-/
namespace Sys2Proof.Machine

/-! ## The track of one bay -/

/-- What an event has made of its bay so far. -/
structure Track where
  dyn : BayDyn
  noShow : Option Deadline
  overstay : Option Deadline
  index : List IndexEntry
  note : BayNote
  captured : Bool

/-- The bay as an answer finds it. -/
def State.track (s : State) (b : BayIx) : Track :=
  ⟨(s.bay b).dyn, (s.bay b).timer.noShow, (s.bay b).timer.overstay, s.index, openNote b (s.bay b).dyn.state, false⟩

/-- The book of a bay on its track; the displacement check is as it was, and the check word agrees. -/
def Track.book (t : Track) (s : State) (b : BayIx) : BayBook :=
  ⟨t.dyn, t.noShow, t.overstay, (s.bay b).timer.displacement, true⟩

/-- The books of the part with one bay on its track. -/
def Track.books (t : Track) (s : State) (f : Frame) (b : BayIx) : Books :=
  { (s.answeredBy f).books with index := t.index }.put b (fun _ => t.book s b)

/-- An event that has brought bay `b` as far as the track `t`. -/
structure Ev.Tracks (s : State) (f : Frame) (b : BayIx) (ev : Ev) (t : Track) : Prop where
  books : ev.books = t.books s f b
  desk : ∃ scan, ev.desk.touch b t.dyn.state = ⟨[t.note], scan, t.captured⟩
  captured : ev.captured = t.captured
  bay : t.note.bay = b

section
variable {s : State} {f : Frame} {b : BayIx} {ev : Ev} {t : Track} (h : ev.Tracks s f b t)

theorem Track.books_here : (t.books s f b).bays b = t.book s b := Books.put_same _ _ _

theorem BayBook.setDyn_true {d : BayDyn} {n o c : Option Deadline} (g : BayDyn → BayDyn) :
    (⟨d, n, o, c, true⟩ : BayBook).setDyn g = ⟨g d, n, o, c, true⟩ := by
  unfold BayBook.setDyn; rw [ite_self]

/-- A change of the record on the track. -/
def Track.write (t : Track) (g : BayDyn → BayDyn) : Track := { t with dyn := g t.dyn }

theorem Track.books_write (g : BayDyn → BayDyn) : (t.books s f b).put b (·.setDyn g) = (t.write g).books s f b := by
  unfold Track.books
  rw [Books.put_put]
  exact Books.put_congr (BayBook.setDyn_true g)

include h in
theorem Ev.Tracks.dyn : (ev.books.bays b).dyn = t.dyn := by rw [h.books, Track.books_here]; rfl

include h in
theorem Ev.Tracks.still : ev.books.still = (s.answeredBy f).still := by rw [h.books]; rfl

include h in
theorem Ev.Tracks.ok (ok : ∀ e, (s.bay e).checkOk = true) : ev.books.Ok := by
  rw [h.books]
  exact Books.Ok.put (k := { (s.answeredBy f).books with index := t.index }) (State.answeredBy_ok ok) b fun _ _ => rfl

include h in
theorem Ev.Tracks.waitlist : ev.books.waitlist = s.waitlist := by rw [h.books]; rfl

include h in
theorem Ev.Tracks.deskTouched : (ev.desk.touch b t.dyn.state).touch b t.dyn.state = ev.desk.touch b t.dyn.state := by
  obtain ⟨scan, desk⟩ := h.desk
  rw [desk]; exact Desk.touch_known _ h.bay

/-! ## Steps -/

include h in
theorem Ev.Tracks.modDyn {g : BayDyn → BayDyn} (state : (g t.dyn).state = t.dyn.state) :
    (ev.modDyn b g).Tracks s f b (t.write g) where
  books := by rw [Ev.modDyn_books, h.books, Track.books_write]
  desk := by rw [Ev.modDyn_desk]; unfold Track.write; dsimp only; rw [state]; exact h.desk
  captured := h.captured
  bay := h.bay

include h in
theorem Ev.Tracks.touch : (ev.touch b).Tracks s f b t where
  books := by rw [Ev.touch_books]; exact h.books
  desk := by rw [Ev.touch_desk, h.dyn, h.deskTouched]; exact h.desk
  captured := by
    obtain ⟨scan, desk⟩ := h.desk
    have touched := congrArg Desk.captured (Ev.touch_desk ev b)
    rw [h.dyn, desk] at touched
    exact touched
  bay := h.bay

include h in
/-- After a touch the desk holds the bay's note alone. -/
theorem Ev.Tracks.opened : ∃ scan, (ev.touch b).desk = ⟨[t.note], scan, t.captured⟩ := by
  rw [Ev.touch_desk, h.dyn]; exact h.desk

include h in
theorem Ev.Tracks.setState (st : BayState) : (ev.setState b st).Tracks s f b (t.write ({ · with state := st })) := by
  obtain ⟨scan, desk⟩ := h.desk
  have written : (ev.setState b st).desk = ⟨[t.note], scan, t.captured⟩ := by rw [Ev.setState_desk, h.dyn, desk]
  exact ⟨by rw [Ev.setState_books, h.books, Track.books_write], ⟨scan, by rw [written]; exact Desk.touch_known _ h.bay⟩,
    congrArg Desk.captured written, h.bay⟩

/-- One more cause on the bay's note. -/
def Track.met (t : Track) (c : BayCause) : Track := { t with note := t.note.met c }

include h in
theorem Ev.Tracks.note (c : BayCause) : (ev.note b c).Tracks s f b (t.met c) := by
  obtain ⟨scan, desk⟩ := h.desk
  have written : (ev.note b c).desk = ⟨[t.note.met c], scan, t.captured⟩ := by
    rw [Ev.note_desk, h.dyn, desk, Desk.modNote_known _ h.bay]
  exact ⟨by rw [Ev.note_books]; exact h.books, ⟨scan, by rw [written]; exact Desk.touch_known (n := t.note.met c) _ h.bay⟩,
    congrArg Desk.captured written, h.bay⟩

include h in
theorem Ev.Tracks.noteFault (c : FaultCause) :
    (ev.noteFault b c).Tracks s f b { t with note := t.note.failed c } := by
  obtain ⟨scan, desk⟩ := h.desk
  have written : (ev.noteFault b c).desk = ⟨[t.note.failed c], scan, t.captured⟩ := by
    rw [Ev.noteFault_desk, h.dyn, desk, Desk.modNote_known _ h.bay]
  exact ⟨by rw [Ev.noteFault_books]; exact h.books,
    ⟨scan, by rw [written]; exact Desk.touch_known (n := t.note.failed c) _ h.bay⟩, congrArg Desk.captured written, h.bay⟩

include h in
theorem Ev.Tracks.wantScan : ev.wantScan.Tracks s f b t where
  books := h.books
  desk := by
    obtain ⟨scan, desk⟩ := h.desk
    refine ⟨true, ?_⟩
    have same : ev.wantScan.desk.touch b t.dyn.state = { ev.desk.touch b t.dyn.state with scan := true } := by
      rw [Ev.wantScan_desk]; unfold Desk.touch; split <;> rfl
    rw [same, desk]
  captured := h.captured
  bay := h.bay

include h in
theorem Ev.Tracks.leaves {ev' : Ev} (books : ev'.books = ev.books) (desk : ev'.desk = ev.desk) : ev'.Tracks s f b t where
  books := books.trans h.books
  desk := by rw [desk]; exact h.desk
  captured := (congrArg Desk.captured desk).trans h.captured
  bay := h.bay

/-- A hold made arrived on the track (R18). -/
def Track.capture (t : Track) (s : State) (k : Hold) : Track :=
  { t with
    dyn := { t.dyn with active := some { k with arrival := some s.now } }
    noShow := none, overstay := some (s.overstayAt k), captured := true }

include h in
theorem Ev.Tracks.capture (k : Hold) : (ev.capture b k).Tracks s f b (t.capture s k) where
  books := by
    rw [Ev.capture_books, h.books]
    unfold Track.books
    rw [Books.put_put]
    refine Books.put_congr ?_
    unfold Track.book
    rw [BayBook.setDyn_true]
    rfl
  desk := by
    obtain ⟨scan, desk⟩ := h.desk
    refine ⟨scan, ?_⟩
    have same : (ev.capture b k).desk.touch b t.dyn.state = { ev.desk.touch b t.dyn.state with captured := true } := by
      rw [Ev.capture_desk]; unfold Desk.touch; split <;> rfl
    show (ev.capture b k).desk.touch b t.dyn.state = _
    rw [same, desk]; rfl
  captured := rfl
  bay := h.bay

end

/-! ## The start, and contact -/

section
variable {s : State} {f : Frame} {b : BayIx}

theorem State.track_starts (ok : (s.bay b).checkOk = true) : (Ev.start (s.answeredBy f)).Tracks s f b (s.track b) where
  books := by
    unfold Track.books
    refine (Books.put_id (k := (s.answeredBy f).books) (b := b) (f := fun _ => (s.track b).book s b) ?_).symm
    show (⟨_, _, _, _, true⟩ : BayBook) = ⟨_, _, _, _, (s.bay b).checkOk⟩
    rw [ok]; rfl
  desk := ⟨false, rfl⟩
  captured := rfl
  bay := rfl

variable {ev : Ev} {t : Track} (h : ev.Tracks s f b t) {c : Contact} (post : s.post b = some (f.src, s.node f.src))
  (contact : (s.node f.src).contact = some c)

theorem State.postReachable_nodes {s u : State} (nodes : u.nodes = s.nodes) (b : BayIx) :
    u.postReachable b = s.postReachable b := by
  unfold State.postReachable State.post; rw [nodes]

include h post contact in
/-- The post has just answered, so its connector alone is plug evidence (R12). -/
theorem Ev.Tracks.plugEvidence : ev.st.plugEvidence b = t.dyn.connector.isPlug := by
  have reachable : ev.st.postReachable b = true :=
    (State.postReachable_nodes (s := s.answeredBy f) (congrArg Still.nodes h.still) b).trans
      (State.answeredBy_reachable post contact).1
  unfold State.plugEvidence
  rw [reachable, Bool.and_true, show (ev.st.bay b).dyn = t.dyn from h.dyn]

include h post contact in
theorem Ev.Tracks.causes (connector : t.dyn.connector ≠ .fault) (suspect : t.dyn.suspect = false) :
    ev.st.faultCauses b = [] :=
  Ev.faultCauses_nil h.dyn (s := s.answeredBy f) (congrArg Still.nodes h.still) connector
    (State.answeredBy_reachable post contact).2 suspect

include h in
theorem Ev.Tracks.sensor : ev.st.sensor b = (s.answeredBy f).sensor b := by
  unfold State.sensor
  rw [show ev.st.nodes = (s.answeredBy f).nodes from congrArg Still.nodes h.still]

end

end Sys2Proof.Machine
end

section
/-!
SUPPORT. The answers of a bay to its occupancy and its connector, on the track: arrival, departure, step 3 of the
derivation, recovery, the walk-in hold and the fault (R7 to R9, R14 to R18, R22).
-/
namespace Sys2Proof.Machine

/-- An event on its track whose frames are known where `p` holds. -/
structure Ev.Follows (s : State) (f : Frame) (b : BayIx) (p : Prop) (ev : Ev) (t : Track) (v : Voice) : Prop where
  tracks : ev.Tracks s f b t
  voice : p → ev.voice = v

/-- The bay may enter CHARGING without an error (R79). -/
def State.Serves (s : State) (b : BayIx) : Prop := s.allocator.settings.minimum ≤ (s.bay b).postMax

theorem State.serves_still {s : State} {f : Frame} {b : BayIx} : (s.answeredBy f).still.Serves b ↔ s.Serves b := by
  unfold Still.Serves State.still State.Serves
  rw [Table.get_map]; rfl

section
variable {s : State} {f : Frame} {b : BayIx} {p : Prop} {ev : Ev} {t : Track} {v : Voice} (h : ev.Follows s f b p t v)

/-! ## Plain steps -/

include h in
theorem Ev.Follows.modDyn {g : BayDyn → BayDyn} (state : (g t.dyn).state = t.dyn.state) :
    (ev.modDyn b g).Follows s f b p (t.write g) v := ⟨h.tracks.modDyn state, h.voice⟩

include h in
theorem Ev.Follows.touch : (ev.touch b).Follows s f b p t v :=
  ⟨h.tracks.touch, fun room => (Ev.touch_voice ev b).trans (h.voice room)⟩

include h in
theorem Ev.Follows.note (c : BayCause) : (ev.note b c).Follows s f b p (t.met c) v :=
  ⟨h.tracks.note c, fun room => (Ev.note_voice ev b c).trans (h.voice room)⟩

include h in
theorem Ev.Follows.wantScan : ev.wantScan.Follows s f b p t v := ⟨h.tracks.wantScan, h.voice⟩

include h in
theorem Ev.Follows.capture (k : Hold) : (ev.capture b k).Follows s f b p (t.capture s k) v :=
  ⟨h.tracks.capture k, h.voice⟩

include h in
theorem Ev.Follows.setState {st : BayState} (quiet : st = .charging → s.Serves b) :
    (ev.setState b st).Follows s f b p (t.write ({ · with state := st })) v := by
  refine ⟨h.tracks.setState st, fun room => (Ev.setState_voice _ _ fun charging => ?_).trans (h.voice room)⟩
  rw [h.tracks.still]
  exact State.serves_still.2 (quiet charging)

include h in
theorem Ev.Follows.leaves {ev' : Ev} (books : ev'.books = ev.books) (desk : ev'.desk = ev.desk) (voice : ev'.voice = ev.voice) :
    ev'.Follows s f b p t v := ⟨h.tracks.leaves books desk, fun room => voice.trans (h.voice room)⟩

/-! ## Step 3 of the derivation -/

/-- The state that step 3 gives the hold of the bay (R7). -/
def State.third (s : State) (d : BayDyn) (k : Hold) : BayState := s.still.third d k


include h in
theorem Ev.Follows.rederive {k : Hold} (active : t.dyn.active = some k) (arrival : k.arrival ≠ none)
    (occupancy : t.dyn.occupancy ≠ .vacant) (serves : s.Serves b) :
    (ev.rederive b).Follows s f b p (t.write ({ · with state := s.third t.dyn k })) v := by
  rw [Ev.rederive_arrived (by rw [h.tracks.dyn]; exact active) arrival (by rw [h.tracks.dyn]; exact occupancy),
    h.tracks.dyn, h.tracks.still]
  exact h.setState fun _ => serves

/-! ## Departure (R22) -/

/-- The track of a bay whose active hold has ended DEPARTED with nothing staged. -/
def Track.departed (t : Track) (k : Ticket) : Track :=
  { t with
    dyn := { t.dyn with active := none, state := t.dyn.vacated }
    noShow := none, overstay := none
    index := t.index.filter (fun i => i.ticket ≠ k)
    note := (t.note.met .holdEnded).ended .departed }

include h in
theorem Ev.Follows.depart {k : Hold} {n : Ticket} {a : Addr} (active : t.dyn.active = some k) (staged : t.dyn.staged = none)
    (inService : t.dyn.state ≠ .closed ∧ t.dyn.state ≠ .faulted) (mode : t.dyn.closeMode = .none)
    (ticket : k.ticket = some n) (requester : k.requester = some a) (room : p → v.Room) :
    (ev.endActive b (.ended .departed)).Follows s f b p (t.departed n)
      (v.tell s.controller.own a Kind.holdNotice (s.leaveBytes n b k (.ended .departed))) := by
  have dyn := h.tracks.dyn
  have books := h.tracks.books
  rw [Ev.endActive_derived (h := k) _ (by rw [dyn]; exact active) (by rw [dyn]; exact staged) (by rw [dyn]; exact inService.1)
    (by rw [dyn]; exact inService.2) (by rw [dyn]; exact mode), dyn]
  have quiet : t.dyn.vacated ≠ .charging := by
    rcases BayDyn.vacated_cases t.dyn with st | st <;> rw [st] <;> decide
  have vacated : (ev.vacate b k (.ended .departed)).Tracks s f b { t with
      dyn := { t.dyn with active := none }, noShow := none, overstay := none
      index := t.index.filter (fun i => i.ticket ≠ n), note := (t.note.met .holdEnded).ended .departed } := by
    have left : (ev.vacate b k (.ended .departed)).books = ({ t with
        dyn := { t.dyn with active := none }, noShow := none, overstay := none
        index := t.index.filter (fun i => i.ticket ≠ n) } : Track).books s f b := by
      rw [Ev.vacate_books_none k _ (by rw [dyn]; exact staged), books]
      unfold Track.books
      rw [Books.put_leave, Books.put_put]
      have index : ({ (s.answeredBy f).books with index := t.index } : Books).leave k (.ended .departed)
          = { (s.answeredBy f).books with index := t.index.filter (fun i => i.ticket ≠ n) } := by
        refine congrArg (fun l => ({ (s.answeredBy f).books with index := l } : Books)) ?_
        exact Books.unindex_index (k := { (s.answeredBy f).books with index := t.index }) ticket
      rw [index]
      refine Books.put_congr ?_
      exact BayBook.setDyn_true _
    obtain ⟨scan, desk⟩ := h.tracks.desk
    have written : (ev.vacate b k (.ended .departed)).desk = ⟨[(t.note.met .holdEnded).ended .departed], scan, t.captured⟩ := by
      rw [Ev.vacate_desk, dyn, desk, Desk.touch_known _ h.tracks.bay, Desk.modNote_known _ h.tracks.bay,
        Desk.modNote_known (n := t.note.met .holdEnded) _ h.tracks.bay]
      rfl
    exact ⟨left, ⟨scan, by rw [written]; exact Desk.touch_known (n := (t.note.met .holdEnded).ended .departed) _ h.tracks.bay⟩,
      congrArg Desk.captured written, h.tracks.bay⟩
  refine ⟨(vacated.setState _).wantScan, fun fits => ?_⟩
  have voice := h.voice fits
  rw [Ev.ended_voice _ quiet, Ev.vacate_voice _ ticket requester (by rw [voice]; exact room fits), voice, h.tracks.still]
  have site : ev.st.siteOffset = s.siteOffset := congrArg Still.siteOffset h.tracks.still
  refine congrArg (Voice.tell v _ a Kind.holdNotice) ?_
  show ev.st.summaryBytes _ _ _ _ _ = s.summaryBytes _ _ _ _ _
  unfold State.summaryBytes
  rw [site]

/-! ## Recovery (R9) -/

variable {c : Contact} (post : s.post b = some (f.src, s.node f.src)) (contact : (s.node f.src).contact = some c)

include h post contact in
theorem Ev.Follows.recover_empty (state : t.dyn.state = .faulted) (connector : t.dyn.connector ≠ .fault)
    (suspect : t.dyn.suspect = false) (active : t.dyn.active = none) (mode : t.dyn.closeMode = .none) :
    (ev.recover b).Follows s f b p ((t.met .faultCleared).write ({ · with state := t.dyn.occupancy.freed })) v := by
  rw [Ev.recover_eq h.tracks.dyn state (h.tracks.causes post contact connector suspect) active mode]
  exact ((h.note .faultCleared).setState fun charging => absurd charging t.dyn.occupancy.freed_quiet).wantScan

include h post contact in
theorem Ev.Follows.recover_arrived {k : Hold} (state : t.dyn.state = .faulted) (connector : t.dyn.connector ≠ .fault)
    (suspect : t.dyn.suspect = false) (active : t.dyn.active = some k) (arrival : k.arrival ≠ none)
    (occupancy : t.dyn.occupancy ≠ .vacant) (serves : s.Serves b) :
    (ev.recover b).Follows s f b p ((t.met .faultCleared).write ({ · with state := s.third t.dyn k })) v := by
  have noted := h.note .faultCleared
  have dyn : ((ev.note b .faultCleared).books.bays b).dyn = t.dyn := noted.tracks.dyn
  have open_ : ¬ ((ev.bay b).dyn.closeMode = .closingAtEnd ∧ (ev.bay b).dyn.active = none) := fun both => by
    have none_ := both.2
    rw [Ev.bay_dyn, h.tracks.dyn, active] at none_
    cases none_
  have runs : ev.recover b = ((ev.note b .faultCleared).setState b (s.third t.dyn k)).wantScan := by
    unfold Ev.recover
    rw [if_pos ⟨(congrArg BayDyn.state h.tracks.dyn).trans state, h.tracks.causes post contact connector suspect⟩]
    dsimp only
    rw [if_neg open_, Ev.derive_arrived (by rw [dyn]; exact active) arrival (by rw [dyn]; exact occupancy), dyn,
      noted.tracks.still]
    rfl
  rw [runs]
  exact (noted.setState fun _ => serves).wantScan

include h in
theorem Ev.Follows.recover_none (state : t.dyn.state ≠ .faulted) : ev.recover b = ev :=
  Ev.recover_fails h.tracks.dyn (.inl state)

/-! ## Occupancy (R14) -/

/-- The occupancy of the record on the track. -/
def Track.occ (t : Track) (o : Occupancy) : Track := t.write ({ · with occupancy := o })

include h in
theorem Ev.Follows.occ (o : Occupancy) : ((ev.touch b).modDyn b ({ · with occupancy := o })).Follows s f b p (t.occ o) v :=
  h.touch.modDyn rfl

include h in
theorem Ev.Follows.setOccupancy_eq {o : Occupancy} (differs : t.dyn.occupancy ≠ o) :
    ev.setOccupancy b o = ((ev.touch b).modDyn b ({ · with occupancy := o })).occupancyResponse b :=
  if_neg (c := (ev.bay b).dyn.occupancy = o) (by rw [Ev.bay_dyn, h.tracks.dyn]; exact differs)

/-- A bay without a hold, or CLOSED or FAULTED, answers by Table 1-5. -/
def Track.rested (t : Track) (o : Occupancy) : Track :=
  if t.dyn.state.rested o = t.dyn.state then t.occ o
  else ((t.occ o).write ({ · with state := t.dyn.state.rested o })).met .evidence

include h in
theorem Ev.Follows.setOccupancy_rests {o : Occupancy} (differs : t.dyn.occupancy ≠ o) (rests : t.dyn.state.rests) :
    (ev.setOccupancy b o).Follows s f b p (t.rested o) v := by
  have written := h.occ o
  rw [h.setOccupancy_eq differs, Ev.occupancyResponse_rests written.tracks.dyn rests]
  unfold Track.rested
  by_cases same : t.dyn.state.rested o = t.dyn.state
  · rw [if_pos same, if_pos (c := (t.occ o).dyn.state.rested (t.occ o).dyn.occupancy = (t.occ o).dyn.state) same]
    exact written
  · rw [if_neg same, if_neg (c := (t.occ o).dyn.state.rested (t.occ o).dyn.occupancy = (t.occ o).dyn.state) same]
    exact (written.setState fun charging => absurd charging (BayState.rested_quiet rests o)).note .evidence

/-- Where Table 1-5 has no answer the occupancy is recorded alone. -/
theorem Ev.occupancyResponse_none {ev : Ev} {d : BayDyn} (dyn : (ev.books.bays b).dyn = d) (arrived : d.occupancy ≠ .vacant)
    (state : d.state ∈ [BayState.arrived, .charging, .done, .overstay]) : ev.occupancyResponse b = ev := by
  unfold Ev.occupancyResponse
  dsimp only
  rw [show (ev.bay b).dyn = d from dyn]
  simp only [List.mem_cons, List.not_mem_nil, or_false] at state
  cases occupancy : d.occupancy with
  | vacant => exact absurd occupancy arrived
  | occupied | unknown => rcases state with st | st | st | st <;> rw [st]

theorem Ev.occupancyResponse_departs {ev : Ev} {d : BayDyn} (dyn : (ev.books.bays b).dyn = d) (vacant : d.occupancy = .vacant)
    (state : d.state ∈ [BayState.arrived, .charging, .done, .overstay]) :
    ev.occupancyResponse b = (ev.endActive b (.ended .departed)).note b .evidence := by
  unfold Ev.occupancyResponse
  dsimp only
  rw [show (ev.bay b).dyn = d from dyn, vacant]
  simp only [List.mem_cons, List.not_mem_nil, or_false] at state
  rcases state with st | st | st | st <;> rw [st]

/-- A hold that is to be verified and has not been seen (R18). -/
def State.unseen (s : State) (b : BayIx) (k : Hold) : Bool := (s.classOf (s.bay b).cls).verify && !k.entrySeen

theorem Ev.occupancyResponse_held {ev : Ev} {d : BayDyn} (dyn : (ev.books.bays b).dyn = d) (occupied : d.occupancy = .occupied)
    (state : d.state = .held) {k : Hold} (active : d.active = some k) (still_ : ev.books.still = (s.answeredBy f).still) :
    ev.occupancyResponse b = if s.unseen b k then (ev.setState b .contested).note b .evidence
      else (((ev.touch b).capture b k).rederive b).note b .evidence := by
  have verifies : ((ev.st.classOf (ev.bay b).cls).verify && !k.entrySeen) = s.unseen b k := by
    rw [← Ev.verifies_iff, still_]
    unfold Still.verifies State.still
    rw [Table.get_map]
    rfl
  unfold Ev.occupancyResponse
  dsimp only
  rw [show (ev.bay b).dyn = d from dyn, occupied, state, active]
  dsimp only
  rw [verifies]

include h in
theorem Ev.Follows.setOccupancy_arrived {o : Occupancy} (occupied : o ≠ .vacant)
    (state : t.dyn.state ∈ [BayState.arrived, .charging, .done, .overstay]) :
    (ev.setOccupancy b o).Follows s f b p (t.occ o) v := by
  by_cases same : t.dyn.occupancy = o
  · rw [Ev.setOccupancy_same h.tracks.dyn o same]
    have unchanged : t.occ o = t := by unfold Track.occ Track.write; rw [← same]
    rw [unchanged]; exact h
  · rw [h.setOccupancy_eq same, Ev.occupancyResponse_none (h.occ o).tracks.dyn occupied state]
    exact h.occ o

include h in
theorem Ev.Follows.setOccupancy_departs {k : Hold} {n : Ticket} {a : Addr} (differs : t.dyn.occupancy ≠ .vacant)
    (state : t.dyn.state ∈ [BayState.arrived, .charging, .done, .overstay]) (active : t.dyn.active = some k)
    (staged : t.dyn.staged = none) (mode : t.dyn.closeMode = .none) (ticket : k.ticket = some n)
    (requester : k.requester = some a) (room : p → v.Room) :
    (ev.setOccupancy b .vacant).Follows s f b p (((t.occ .vacant).departed n).met .evidence)
      (v.tell s.controller.own a Kind.holdNotice (s.leaveBytes n b k (.ended .departed))) := by
  have written := h.occ .vacant
  have inService : t.dyn.state ≠ .closed ∧ t.dyn.state ≠ .faulted := by
    constructor <;> intro st <;> rw [st] at state <;> simp at state
  have departs := (written.depart active staged inService mode ticket requester room).note .evidence
  rw [h.setOccupancy_eq differs, Ev.occupancyResponse_departs written.tracks.dyn rfl state]
  exact departs

include h in
/-- At a HELD bay whose hold is not verified in vain the arrival is captured (R14, R18). -/
theorem Ev.Follows.setOccupancy_captures {k : Hold} (differs : t.dyn.occupancy ≠ .occupied) (state : t.dyn.state = .held)
    (active : t.dyn.active = some k) (open_ : (s.classOf (s.bay b).cls).verify = false ∨ k.entrySeen = true)
    (serves : s.Serves b) :
    (ev.setOccupancy b .occupied).Follows s f b p ((((t.occ .occupied).capture s k).write
      ({ · with state := s.third t.dyn k })).met .evidence) v := by
  have written := h.occ .occupied
  have captured := written.touch.capture k
  have again := (captured.rederive (k := { k with arrival := some s.now }) rfl (by simp)
    (show Occupancy.occupied ≠ .vacant by decide) serves).note .evidence
  have plain : s.unseen b k = false := by
    unfold State.unseen
    rcases open_ with plain | seen
    · rw [plain]; rfl
    · rw [seen]; simp
  rw [h.setOccupancy_eq differs, Ev.occupancyResponse_held written.tracks.dyn rfl state active written.tracks.still, plain,
    if_neg Bool.false_ne_true]
  exact again

include h in
theorem Ev.Follows.setOccupancy_contests {k : Hold} (differs : t.dyn.occupancy ≠ .occupied) (state : t.dyn.state = .held)
    (active : t.dyn.active = some k) (verify : (s.classOf (s.bay b).cls).verify = true) (seen : k.entrySeen = false) :
    (ev.setOccupancy b .occupied).Follows s f b p (((t.occ .occupied).write ({ · with state := .contested })).met .evidence) v := by
  have written := h.occ .occupied
  have unseen : s.unseen b k = true := by unfold State.unseen; rw [verify, seen]; rfl
  rw [h.setOccupancy_eq differs, Ev.occupancyResponse_held written.tracks.dyn rfl state active written.tracks.still, unseen,
    if_pos rfl]
  exact (written.setState fun charging => by cases charging).note .evidence

end

end Sys2Proof.Machine
end

section
/-!
SUPPORT. The connector and occupancy effects of a POST-STATUS on the track of its bay (R12, R13, R15 to R17).
-/
namespace Sys2Proof.Machine

section
variable {s : State} {f : Frame} {b : BayIx} {p : Prop} {ev : Ev} {t : Track} {v : Voice} (h : ev.Follows s f b p t v)
  {c : Contact} (post : s.post b = some (f.src, s.node f.src)) (contact : (s.node f.src).contact = some c)

/-! ## The occupancy that a report gives (R12, R13) -/

/-- Without a sensor a report ends the debounce run (R13). -/
def State.ended (s : State) (b : BayIx) (d : BayDyn) : BayDyn := if s.sensor b = none then d.endRun else d

theorem State.ended_fields (s : State) (b : BayIx) (d : BayDyn) : (s.ended b d).state = d.state
    ∧ (s.ended b d).occupancy = d.occupancy ∧ (s.ended b d).connector = d.connector ∧ (s.ended b d).active = d.active
    ∧ (s.ended b d).staged = d.staged ∧ (s.ended b d).closeMode = d.closeMode ∧ (s.ended b d).suspect = d.suspect := by
  unfold State.ended
  split <;> exact ⟨rfl, rfl, rfl, rfl, rfl, rfl, rfl⟩

/-- The event with the debounce run ended where there is no sensor. -/
def Ev.runEnds (ev : Ev) (s : State) (b : BayIx) : Ev := if s.sensor b = none then ev.modDyn b BayDyn.endRun else ev

include h in
theorem Ev.Follows.runEnds : (ev.runEnds s b).Follows s f b p (t.write (s.ended b)) v := by
  unfold Ev.runEnds
  by_cases alone : s.sensor b = none
  · rw [if_pos alone]
    have written := h.modDyn (g := BayDyn.endRun) rfl
    rwa [show t.write BayDyn.endRun = t.write (s.ended b) from by
      unfold Track.write State.ended; rw [if_pos alone]] at written
  · rw [if_neg alone]
    have same : t.write (s.ended b) = t := by unfold Track.write State.ended; rw [if_neg alone]
    rw [same]; exact h

theorem State.answeredBy_alone : (s.answeredBy f).sensor b = none ↔ s.sensor b = none := by
  rw [State.answeredBy_sensor, Option.map_eq_none_iff]

include h in
theorem Ev.Follows.sensor_none (alone : s.sensor b = none) : ev.st.sensor b = none := by
  rw [h.tracks.sensor]; exact State.answeredBy_alone.2 alone

include post in
/-- The sensor of the bay is another node than its post. -/
theorem State.answeredBy_sensor_some {a : Addr} {e : NodeEntry} (sensor : s.sensor b = some (a, e)) :
    (s.answeredBy f).sensor b = some (a, e) := by
  obtain ⟨entry, role, _⟩ := State.sensor_some sensor
  have apart : a ≠ f.src := fun same => by
    have postRole := (State.post_some post).2.1
    rw [← same, entry, role] at postRole; cases postRole
  rw [State.answeredBy_sensor, sensor, Option.map_some, State.answeredBy_node, if_neg apart, entry]

include h post contact in
theorem Ev.Follows.reportOccupancy_occupied {was : Bool}
    (occupied : t.dyn.connector.isPlug = true ∨ s.sensor b = none ∧ t.dyn.connector = .finished) :
    ev.reportOccupancy b was = (ev.runEnds s b).setOccupancy b .occupied := by
  unfold Ev.reportOccupancy Ev.runEnds
  cases sensor : s.sensor b with
  | none =>
    have written := h.modDyn (g := BayDyn.endRun) rfl
    rw [h.sensor_none sensor, if_pos rfl]
    dsimp only
    rw [show ((ev.modDyn b BayDyn.endRun).bay b).dyn = (t.write BayDyn.endRun).dyn from written.tracks.dyn]
    show (match t.dyn.connector with | .idle => _ | .plugged | .charging | .finished => _ | _ => _) = _
    rcases occupied with plug | ⟨_, finished⟩
    · rcases (Connector.isPlug_iff _).1 plug with plugged | charging
      · rw [plugged]
      · rw [charging]
    · rw [finished]
  | some e =>
    obtain ⟨a, e⟩ := e
    have plug : t.dyn.connector.isPlug = true := occupied.resolve_right fun both => by
      rw [sensor] at both; cases both.1
    rw [h.tracks.sensor, State.answeredBy_sensor_some post sensor]
    dsimp only
    rw [h.tracks.plugEvidence post contact, if_pos plug, if_neg (by simp)]

include h in
theorem Ev.Follows.reportOccupancy_vacant {was : Bool} (alone : s.sensor b = none) (idle : t.dyn.connector = .idle) :
    ev.reportOccupancy b was = (ev.runEnds s b).setOccupancy b .vacant := by
  have written := h.modDyn (g := BayDyn.endRun) rfl
  unfold Ev.reportOccupancy Ev.runEnds
  rw [h.sensor_none alone, if_pos alone]
  dsimp only
  rw [show ((ev.modDyn b BayDyn.endRun).bay b).dyn = (t.write BayDyn.endRun).dyn from written.tracks.dyn]
  show (match t.dyn.connector with | .idle => _ | .plugged | .charging | .finished => _ | _ => _) = _
  rw [idle]

include h in
theorem Ev.Follows.reportOccupancy_fault {was : Bool} (alone : s.sensor b = none) (fault : t.dyn.connector = .fault) :
    ev.reportOccupancy b was = ev.runEnds s b := by
  have written := h.modDyn (g := BayDyn.endRun) rfl
  unfold Ev.reportOccupancy Ev.runEnds
  rw [h.sensor_none alone, if_pos alone]
  dsimp only
  rw [show ((ev.modDyn b BayDyn.endRun).bay b).dyn = (t.write BayDyn.endRun).dyn from written.tracks.dyn]
  show (match t.dyn.connector with | .idle => _ | .plugged | .charging | .finished => _ | _ => _) = _
  rw [fault]

include h post contact in
theorem Ev.Follows.reportOccupancy_sensor {was : Bool} {a : Addr} {e : NodeEntry} (sensor : s.sensor b = some (a, e))
    (unplugged : t.dyn.connector.isPlug = false) : ev.reportOccupancy b was = if was then ev.plugEnds b e else ev := by
  unfold Ev.reportOccupancy
  rw [h.tracks.sensor, State.answeredBy_sensor_some post sensor]
  dsimp only
  rw [h.tracks.plugEvidence post contact, if_neg (by rw [unplugged]; exact Bool.false_ne_true)]

/-! ## The connector (R15 to R17) -/

/-- The connector of the record on the track. -/
def Track.connect (t : Track) (c : Connector) : Track := t.write ({ · with connector := c })

/-- The event once the connector is set. -/
def Ev.connect (ev : Ev) (b : BayIx) (c : Connector) : Ev := (ev.touch b).modDyn b ({ · with connector := c })

include h in
theorem Ev.Follows.connect (k : Connector) : (ev.connect b k).Follows s f b p (t.connect k) v := h.touch.modDyn rfl

include h in
theorem Ev.Follows.connectorReport_eq {k : Connector} {was : Bool} (plain : k ≠ .fault ∨ t.dyn.connector = .fault) :
    ev.connectorReport b k was = if t.dyn.state = .faulted then ((ev.connect b k).reportOccupancy b was).recover b
      else ((ev.connect b k).reportOccupancy b was).connectorChange b t.dyn.connector := by
  have dyn : (ev.bay b).dyn = t.dyn := h.tracks.dyn
  unfold Ev.connectorReport
  dsimp only
  rw [dyn, if_neg (c := k = .fault ∧ t.dyn.connector ≠ .fault) (fun both => plain.elim (· both.1) both.2)]
  rfl

include h in
theorem Ev.Follows.connectorChange_same {old : Connector} (same : t.dyn.connector = old) : ev.connectorChange b old = ev :=
  if_pos ((congrArg BayDyn.connector h.tracks.dyn).trans same)

include h in
theorem Ev.Follows.connectorChange_none {old : Connector}
    (state : t.dyn.state ∉ [BayState.unbooked, .arrived, .charging, .done]) : ev.connectorChange b old = ev := by
  unfold Ev.connectorChange
  dsimp only
  rw [show (ev.bay b).dyn = t.dyn from h.tracks.dyn]
  split
  · rfl
  · cases st : t.dyn.state with
    | unbooked | arrived | charging | done => rw [st] at state; simp at state
    | free | held | contested | overstay | faulted | closed => rfl

include h in
theorem Ev.Follows.connectorChange_arrived {old : Connector} {k : Hold} (differs : t.dyn.connector ≠ old)
    (state : t.dyn.state ∈ [BayState.arrived, .charging, .done]) (active : t.dyn.active = some k)
    (arrival : k.arrival ≠ none) (occupancy : t.dyn.occupancy ≠ .vacant) (serves : s.Serves b) :
    (ev.connectorChange b old).Follows s f b p ((t.write ({ · with state := s.third t.dyn k })).met .evidence) v := by
  have runs : ev.connectorChange b old = (ev.rederive b).note b .evidence := by
    unfold Ev.connectorChange
    dsimp only
    rw [show (ev.bay b).dyn = t.dyn from h.tracks.dyn, if_neg differs]
    simp only [List.mem_cons, List.not_mem_nil, or_false] at state
    rcases state with st | st | st <;> rw [st]
  rw [runs]
  exact (h.rederive active arrival occupancy serves).note .evidence

/-- Whether a plug-in at a bay makes a walk-in hold (R17). -/
def State.walksIn (s : State) (b : BayIx) : Bool := (s.classOf (s.bay b).cls).walkIn

include h in
theorem Ev.Follows.connectorChange_unbooked {old : Connector} (differs : t.dyn.connector ≠ old)
    (state : t.dyn.state = .unbooked) : ev.connectorChange b old
      = if !old.isPlug && t.dyn.connector.isPlug && s.walksIn b then ev.walkIn b else ev := by
  have permits : (ev.st.classOf (ev.bay b).cls).walkIn = s.walksIn b := by
    have read (u : State) : (u.classOf (u.bay b).cls).walkIn = (u.still.classes.get (u.still.bays.get b).cls.ix).walkIn := by
      unfold State.still; rw [Table.get_map]; rfl
    show (ev.st.classOf (ev.st.bay b).cls).walkIn = (s.classOf (s.bay b).cls).walkIn
    rw [read, read, show ev.st.still = (s.answeredBy f).still from h.tracks.still]
    rfl
  unfold Ev.connectorChange
  dsimp only
  rw [permits, show (ev.bay b).dyn = t.dyn from h.tracks.dyn, if_neg differs, state]

/-- The walk-in hold by what no event of the bookings changes (Table 1-3). -/
def Still.walkInHold (k : Still) (b : BayIx) : Hold :=
  ⟨none, none, 0, k.now, k.now + mins (k.classes.get (k.bays.get b).cls.ix).stay,
    k.now + mins (k.classes.get (k.bays.get b).cls.ix).grace, none, true, some k.now, 0, 0, 0, none⟩

theorem State.walkInHold_still (u : State) (b : BayIx) : u.walkInHold b = u.still.walkInHold b := by
  unfold Still.walkInHold State.still; rw [Table.get_map]; rfl

/-- The track of a bay at which a walk-in hold has been made. -/
def Track.walkIn (t : Track) (s : State) (b : BayIx) : Track :=
  (((t.capture s (s.walkInHold b)).write ({ · with state := s.third t.dyn (s.walkInHold b) })).met .walkIn)

include h in
theorem Ev.Follows.walkIn (occupancy : t.dyn.occupancy ≠ .vacant) (serves : s.Serves b) :
    (ev.walkIn b).Follows s f b p (t.walkIn s b) v := by
  have made : ev.st.walkInHold b = s.walkInHold b := by
    rw [State.walkInHold_still, show ev.st.still = (s.answeredBy f).still from h.tracks.still, ← State.walkInHold_still]
    rfl
  have captured := h.touch.capture (s.walkInHold b)
  have runs : ev.walkIn b = ((((ev.touch b).capture b (s.walkInHold b))).rederive b).note b .walkIn := by
    unfold Ev.walkIn; rw [made]; rfl
  rw [runs]
  exact (captured.rederive (k := s.walkInHold b) rfl (fun none_ => by cases none_) occupancy serves).note .walkIn

end

end Sys2Proof.Machine
end

section
/-!
SUPPORT. The rest of the evidence of a POST-STATUS on the track of its bay (R72 to R74, R83, R131, R135), and what the
end of its event shows.
-/
namespace Sys2Proof.Machine

section
variable {s : State} {f : Frame} {b : BayIx} {p : Prop} {ev : Ev} {t : Track} {v : Voice} (h : ev.Follows s f b p t v)

/-! ## The session energy (R72 to R74) -/

/-- The energy figure of a bay whose active hold has none, or is not metered: nothing (R72). -/
def Track.Unmetered (t : Track) : Prop :=
  ∀ k, t.dyn.active = some k → k.arrival = none ∨ t.dyn.connector.isPlug = false ∧ t.dyn.connector ≠ .finished

include h in
theorem Ev.Follows.energyFigure_unmetered (unmetered : t.Unmetered) (e : Nat) (plugIn : Bool) :
    ev.energyFigure b e plugIn = ev := by
  unfold Ev.energyFigure
  dsimp only
  rw [show (ev.bay b).dyn = t.dyn from h.tracks.dyn]
  cases active : t.dyn.active with
  | none => rfl
  | some k =>
    dsimp only
    refine if_neg fun metered => ?_
    obtain ⟨arrived, plugged⟩ := Bool.and_eq_true_iff.1 metered
    rcases unmetered k active with none_ | ⟨unplugged, unfinished⟩
    · unfold Hold.arrived at arrived; rw [none_] at arrived; cases arrived
    · rw [unplugged, Bool.false_or, beq_iff_eq] at plugged
      exact unfinished plugged

/-- The figure of a report as the base of an arrived hold (R72). -/
def Track.based (t : Track) (k : Hold) (e : Nat) : Track :=
  t.write ({ · with active := some { k with lastPostEnergy := some e } })

include h in
theorem Ev.Follows.energyFigure_base {k : Hold} (active : t.dyn.active = some k) (arrival : k.arrival ≠ none)
    (plug : t.dyn.connector.isPlug = true) (captured : t.captured = true) (e : Nat) (plugIn : Bool) :
    (ev.energyFigure b e plugIn).Follows s f b p (t.based k e) v := by
  have runs : ev.energyFigure b e plugIn = ev.modDyn b ({ · with active := some { k with lastPostEnergy := some e } }) := by
    unfold Ev.energyFigure
    dsimp only
    rw [show (ev.bay b).dyn = t.dyn from h.tracks.dyn, active]
    dsimp only
    rw [if_pos (by rw [plug]; simpa [Hold.arrived] using Option.isSome_iff_ne_none.2 arrival), h.tracks.captured, captured,
      Bool.or_true, if_pos rfl]
  rw [runs]
  exact h.modDyn rfl

include h in
/-- A figure that the hold has already changes nothing but the figure kept (R73). -/
theorem Ev.Follows.energyFigure_kept {k : Hold} {e : Nat} (active : t.dyn.active = some k)
    (last : k.lastPostEnergy = some e) (top : k.energyDelivered ≤ 4294967295) (plugIn : Bool) :
    ev.energyFigure b e plugIn = ev
      ∨ ev.energyFigure b e plugIn = ev.modDyn b ({ · with active := some { k with lastPostEnergy := some e } }) := by
  have kept : min Config.counterMax (k.energyDelivered + (e - e)) = k.energyDelivered := by
    rw [Nat.sub_self, Nat.add_zero]; exact Nat.min_eq_right top
  have none_ : k.energyWanted.any (fun w => k.energyDelivered < w && w ≤ k.energyDelivered) = false := by
    cases k.energyWanted with
    | none => rfl
    | some w => simp
  unfold Ev.energyFigure
  dsimp only
  rw [show (ev.bay b).dyn = t.dyn from h.tracks.dyn, active]
  dsimp only
  split
  · refine .inr ?_
    by_cases anew : (plugIn || ev.captured) = true
    · rw [if_pos anew]
    · rw [if_neg anew, last]
      dsimp only
      rw [if_pos (le_refl e), kept, none_, Bool.false_and, if_neg Bool.false_ne_true]
  · exact .inl rfl

include h in
theorem Ev.Follows.energyFigure_same {k : Hold} {e : Nat} (active : t.dyn.active = some k)
    (last : k.lastPostEnergy = some e) (top : k.energyDelivered ≤ 4294967295) (plugIn : Bool) :
    (ev.energyFigure b e plugIn).Follows s f b p t v := by
  rcases h.energyFigure_kept active last top plugIn with same | written
  · rw [same]; exact h
  · have base := h.modDyn (g := ({ · with active := some { k with lastPostEnergy := some e } })) rfl
    have unchanged : t.write ({ · with active := some { k with lastPostEnergy := some e } }) = t := by
      unfold Track.write
      rw [show ({ k with lastPostEnergy := some e } : Hold) = k from by rw [← last], ← active]
    rw [unchanged] at base
    rw [written]; exact base

/-! ## Drawn current and delivery record -/

theorem Ev.setCeiling_leaves (ev : Ev) (b : BayIx) (n : Nat) : (ev.setCeiling b n).books = ev.books
    ∧ (ev.setCeiling b n).desk = ev.desk ∧ (ev.setCeiling b n).voice = ev.voice := by
  unfold Ev.setCeiling
  split
  · exact ⟨rfl, rfl, rfl⟩
  · exact ⟨Ev.modAlloc_books ev b _, rfl, rfl⟩

theorem Ev.ceilingTest_leaves (ev : Ev) (b : BayIx) (drawn inForce : Nat) :
    (ev.ceilingTest b drawn inForce).books = ev.books ∧ (ev.ceilingTest b drawn inForce).desk = ev.desk
      ∧ (ev.ceilingTest b drawn inForce).voice = ev.voice := by
  have count (g : BayAlloc → BayAlloc) : (ev.modAlloc b g).books = ev.books := Ev.modAlloc_books ev b g
  have set (g : BayAlloc → BayAlloc) (n : Nat) : ((ev.modAlloc b g).setCeiling b n).books = ev.books
      ∧ ((ev.modAlloc b g).setCeiling b n).desk = ev.desk ∧ ((ev.modAlloc b g).setCeiling b n).voice = ev.voice := by
    obtain ⟨books, desk, voice⟩ := Ev.setCeiling_leaves (ev.modAlloc b g) b n
    exact ⟨books.trans (count g), desk, voice⟩
  unfold Ev.ceilingTest
  dsimp only
  split
  · split
    · split
      · exact set _ _
      · exact ⟨count _, rfl, rfl⟩
    · split
      · exact set _ _
      · exact ⟨count _, rfl, rfl⟩
  · exact ⟨count _, rfl, rfl⟩

theorem Ev.deliveryReport_leaves (ev : Ev) {b : BayIx} {r : PostReport} (within : r.drawn ≤ r.inForce) (polls : Bool) :
    (ev.deliveryReport b r polls).books = ev.books ∧ (ev.deliveryReport b r polls).desk = ev.desk
      ∧ (ev.deliveryReport b r polls).voice = ev.voice := by
  have once (g : Delivery → Delivery) : (ev.modDelivery b g).books = ev.books := Ev.modDelivery_books ev b g
  cases polls with
  | false => exact ⟨once _, rfl, rfl⟩
  | true =>
    have here : ((ev.modDelivery b (·.acknowledge r)).bay b).delivery = (ev.bay b).delivery.acknowledge r :=
      congrArg Bay.delivery ((ev.st.bay_modBay b b _).trans (if_pos rfl))
    have quiet : (((ev.modDelivery b (·.acknowledge r)).bay b).delivery.overdrawTest
        (ev.modDelivery b (·.acknowledge r)).st.allocator.settings.overdraw).2 = false := by
      rw [here, Delivery.acknowledge_eq, Delivery.overdrawTest_within (n := r.inForce) rfl (Nat.le_add_right_of_le within)]
    unfold Ev.deliveryReport
    dsimp only
    rw [if_pos rfl, quiet, if_neg Bool.false_ne_true]
    exact ⟨(Ev.modDelivery_books _ b _).trans (once _), rfl, rfl⟩

/-- The evidence of a report behind its connector and its energy. -/
def Ev.tail (ev : Ev) (b : BayIx) (r : PostReport) (polls : Bool) : Ev :=
  (ev.ceilingTest b r.drawn r.inForce).deliveryReport b r polls

include h in
theorem Ev.Follows.tail {r : PostReport} (within : r.drawn ≤ r.inForce) (polls : Bool) :
    (ev.tail b r polls).Follows s f b p t v := by
  obtain ⟨books, desk, voice⟩ := Ev.ceilingTest_leaves ev b r.drawn r.inForce
  obtain ⟨books', desk', voice'⟩ := Ev.deliveryReport_leaves (ev.ceilingTest b r.drawn r.inForce) (b := b) within polls
  exact h.leaves (books'.trans books) (desk'.trans desk) (voice'.trans voice)

theorem Ev.postEvidence_eq (ev : Ev) (b : BayIx) (r : PostReport) (was polls : Bool) : ev.postEvidence b r was polls
    = ((ev.connectorReport b r.connector was).energyFigure b r.energy
      (!(ev.bay b).dyn.connector.isPlug && r.connector.isPlug)).tail b r polls := rfl

/-! ## The end of the event -/

/-- What the end of an event shows that has brought bay `b` as far as the track `t`. -/
structure State.Moved (s : State) (f : Frame) (b : BayIx) (x : State) (t : Track) : Prop where
  dyn : (x.bay b).dyn = t.dyn
  others : ∀ e, e ≠ b → (x.bay e).dyn = (s.bay e).dyn ∧ s.AwaitsAs x e
  awaits : x.Awaits b t.noShow t.overstay (s.bay b).timer.displacement
  index : x.index = t.index
  waits : x.waitHolds = []
  nodes : x.nodes = (s.answeredBy f).nodes

include h in
theorem Ev.Follows.moved (ok : ∀ e, (s.bay e).checkOk = true) (waitlist : s.waitlist = []) (o : Option Frame) :
    s.Moved f b (ev.carry o).finish t := by
  have shows_ := Ev.carry_shows (ev := ev) (.inr (h.tracks.waitlist.trans waitlist)) o (.inr (h.tracks.ok ok))
  rw [h.tracks.books] at shows_
  refine ⟨?_, fun e other => ⟨?_, ?_⟩, ?_, shows_.index, ?_, congrArg Still.nodes shows_.still⟩
  · rw [shows_.dyn, Track.books_here]; rfl
  · rw [shows_.dyn]; unfold Track.books; rw [Books.put_other _ _ other]; rfl
  · have awaits := shows_.awaits e
    unfold Track.books at awaits
    rw [Books.put_other _ _ other] at awaits
    exact awaits
  · have awaits := shows_.awaits b
    rw [Track.books_here] at awaits
    exact awaits
  · rw [shows_.holds]
    show s.waitlist.map _ = []
    rw [waitlist]; rfl

/-- The room for the frames of an event. -/
abbrev State.Room (s : State) (fs : List Frame) : Prop := s.uplink.fifo.length + fs.length ≤ 32

theorem Ev.Follows.sends {k : Nat} {fs : List Frame} (h : ev.Follows s f b (s.Room fs) t (s.placed k fs))
    (waitlist : s.waitlist = []) (o : Option Frame) : s.Sends (ev.carry o).finish fs := by
  refine Ev.carry_sends (.inr (h.tracks.waitlist.trans waitlist)) o fun room => ?_
  have flushed : Moves ev ev.flushNotes := Moves.refl.flushNotes
  have voice := congrArg (fun v : Voice => v.uplink.fifo) (h.voice room)
  have start : ev.st.uplink.fifo = s.uplink.fifo ++ fs := voice
  rw [← start]
  exact flushed.fifo

theorem Ev.Follows.sends_note {k : Nat} {fs : List Frame} (h : ev.Follows s f b (s.Room fs) t (s.placed k fs))
    (waitlist : s.waitlist = []) (o : Option Frame) (raised : t.note.raised t.dyn.state = true)
    (somebody : s.controller.noticeDest ≠ 0) :
    s.Sends (ev.carry o).finish (fs ++ [s.noteAt k t.note t.dyn.state]) := by
  refine Ev.carry_sends (.inr (h.tracks.waitlist.trans waitlist)) o fun room => ?_
  obtain ⟨scan, desk⟩ := h.tracks.desk
  have state : (ev.books.bays t.note.bay).dyn.state = t.dyn.state := by rw [h.tracks.bay, h.tracks.dyn]
  have controller : ev.books.still.controller = s.controller := by rw [h.tracks.still]; rfl
  have notes : ev.desk.notes = [t.note] := by
    have touched := congrArg Desk.notes desk
    unfold Desk.touch at touched
    split at touched
    · exact touched
    · have opened : ev.desk.notes ++ [openNote b t.dyn.state] = [t.note] := touched
      have last : openNote b t.dyn.state = t.note := by simpa using congrArg List.getLast? opened
      rw [← last, openNote_quiet] at raised
      cases raised
  rw [Ev.flushNotes_note (k := k) (fs := fs) (after := t.dyn.state) (fun _ => h.voice (by
    unfold State.Room; rw [List.length_append] at room; omega)) notes controller state raised somebody room]
  exact List.prefix_refl _

/-- The last frame of an event that tells of its bay. -/
theorem Ev.Follows.sends_told {k : Nat} {fs : List Frame} (h : ev.Follows s f b (s.Room fs) t (s.placed k fs))
    (waitlist : s.waitlist = []) (o : Option Frame) {before : BayState} (opened : t.note.before = before)
    (ends : t.note.causes.contains .holdEnded = false) (waiting : t.note.causes.contains .holderWaiting = false)
    (somebody : s.controller.noticeDest ≠ 0) : s.Sends (ev.carry o).finish
      (if before = t.dyn.state then fs else fs ++ [s.noteAt k t.note t.dyn.state]) := by
  by_cases same : before = t.dyn.state
  · rw [if_pos same]; exact h.sends waitlist o
  · rw [if_neg same]
    refine h.sends_note waitlist o ?_ somebody
    unfold BayNote.raised
    rw [opened, ends, waiting, Bool.or_false, Bool.or_false]
    simpa using same

end

/-! ## The beginning -/

section
variable {s : State} {f : Frame} {x : Transaction} {b : BayIx} {c : Contact} {r : PostReport} (h : s.PostAnswers f x b c r)

theorem State.starts (ok : ∀ e, (s.bay e).checkOk = true) (p : Prop) :
    (Ev.start (s.answeredBy f)).Follows s f b p (s.track b) (s.placed 0 []) :=
  ⟨State.track_starts (ok b), fun _ => State.answeredBy_voice⟩

include h in
/-- The contact of the post restored, or as it was; a report that is no plug-in while the stored connector is none
restores nothing of the occupancy (R9, R12). -/
theorem State.PostAnswers.restoring_eq (ok : ∀ e, (s.bay e).checkOk = true) : s.restoring f b c r
    = if c.reachable = true then Ev.start (s.answeredBy f)
      else
        let w := if (s.bay b).dyn.connector.isPlug && r.connector.isPlug then
          (Ev.start (s.answeredBy f)).setOccupancy b .occupied else Ev.start (s.answeredBy f)
        if r.connector = .fault then w else w.recover b := by
  have plug : (Ev.start (s.answeredBy f)).st.plugEvidence b = (s.bay b).dyn.connector.isPlug :=
    (State.starts ok True).tracks.plugEvidence h.post h.contact
  unfold State.restoring Ev.contactRestored
  rw [plug]

include h in
theorem State.PostAnswers.moved {p : Prop} {t : Track} {v : Voice} (ok : ∀ e, (s.bay e).checkOk = true)
    (waitlist : s.waitlist = [])
    (follows : ((s.restoring f b c r).postEvidence b r (s.plugEvidence b) x.polls).Follows s f b p t v) :
    ∃ o, exec (.frameReception .downlink f.received) s
        = .next ((((s.restoring f b c r).postEvidence b r (s.plugEvidence b) x.polls).carry o).finish)
      ∧ s.Moved f b (((s.restoring f b c r).postEvidence b r (s.plugEvidence b) x.polls).carry o).finish t := by
  obtain ⟨o, runs⟩ := h.runs
  exact ⟨o, runs, follows.moved ok waitlist o⟩

end

end Sys2Proof.Machine
end

section
/-!
SUPPORT. A plug-in at a bay without a hold: the walk-in hold, or UNBOOKED (R14, R17).
-/
namespace Sys2Proof.Machine

/-! ## What a report shows -/

/-- What an answered POST-STATUS makes of its bay, and the first frames it sends. -/
def State.Shown (s : State) (f : Frame) (b : BayIx) (d : BayDyn) (index : List IndexEntry) (late : State → Prop)
    (fs : List Frame) : Prop :=
  ∃ t, exec (.frameReception .downlink f.received) s = .next t ∧ (t.bay b).dyn = d
    ∧ (∀ e, e ≠ b → (t.bay e).dyn = (s.bay e).dyn ∧ s.AwaitsAs t e) ∧ late t ∧ t.index = index ∧ t.waitHolds = []
    ∧ (t.node f.src).contact = some ⟨true, 0, s.now, s.now + BitVec.ofNat 32 s.timing.pollInterval⟩
    ∧ (s.controller.noticeDest ≠ 0 → s.Sends t fs)

/-- The event of an answered POST-STATUS, its evidence taken. -/
def State.evident (s : State) (f : Frame) (x : Transaction) (b : BayIx) (c : Contact) (r : PostReport) : Ev :=
  (s.restoring f b c r).postEvidence b r (s.plugEvidence b) x.polls

section
variable {s : State} {f : Frame} {x : Transaction} {b : BayIx} {c : Contact} {r : PostReport} (h : s.PostAnswers f x b c r)
  (ok : ∀ e, (s.bay e).checkOk = true) (waitlist : s.waitlist = [])

include h ok waitlist in
theorem State.PostAnswers.shown {p : Prop} {t : Track} {v : Voice} (follows : (s.evident f x b c r).Follows s f b p t v)
    {fs : List Frame} (tells : s.controller.noticeDest ≠ 0 → ∀ o, s.Sends ((s.evident f x b c r).carry o).finish fs)
    {late : State → Prop} (awaits : ∀ y : State, y.Awaits b t.noShow t.overstay (s.bay b).timer.displacement → late y) :
    s.Shown f b t.dyn t.index late fs := by
  obtain ⟨o, runs, moved⟩ := h.moved ok waitlist follows
  refine ⟨_, runs, moved.dyn, moved.others, awaits _ moved.awaits, moved.index, moved.waits, ?_, fun somebody => tells somebody o⟩
  rw [show ∀ y : State, y.node f.src = y.nodes.get (addrIx f.src) from fun _ => rfl, moved.nodes]
  exact State.answeredBy_source h.contact

include h ok waitlist in
/-- A report that tells of its bay, or of nothing, behind the frames that its event has placed. -/
theorem State.PostAnswers.shown_told {t : Track} {k : Nat} {fs : List Frame}
    (follows : (s.evident f x b c r).Follows s f b (s.Room fs) t (s.placed k fs)) {before : BayState}
    (opened : t.note.before = before) (ends : t.note.causes.contains .holdEnded = false)
    (waiting : t.note.causes.contains .holderWaiting = false)
    {late : State → Prop} (awaits : ∀ y : State, y.Awaits b t.noShow t.overstay (s.bay b).timer.displacement → late y) :
    s.Shown f b t.dyn t.index late
      (if before = t.dyn.state then fs else fs ++ [s.noteAt k t.note t.dyn.state]) :=
  h.shown ok waitlist follows (fun somebody o => follows.sends_told waitlist o opened ends waiting somebody) awaits

end

/-! ## The event before the connector -/

section
variable {s : State} {f : Frame} {x : Transaction} {b : BayIx} {c : Contact} {r : PostReport} (h : s.PostAnswers f x b c r)
  (ok : ∀ e, (s.bay e).checkOk = true)

include h ok in
/-- No plug evidence comes into force before the connector, and no fault cause ends. -/
theorem State.PostAnswers.restoring_plain (plain : c.reachable = true ∨ r.connector = .fault
    ∨ ((s.bay b).dyn.connector.isPlug && r.connector.isPlug) = false ∧ (s.bay b).dyn.state ≠ .faulted) :
    s.restoring f b c r = Ev.start (s.answeredBy f) := by
  rw [h.restoring_eq ok]
  by_cases reachable : c.reachable = true
  · rw [if_pos reachable]
  · rw [if_neg reachable]
    dsimp only
    rcases plain.resolve_left reachable with fault | ⟨unplugged, state⟩
    · rw [if_pos fault, if_neg (by rw [fault]; simp [Connector.isPlug])]
    · rw [unplugged, if_neg Bool.false_ne_true]
      split
      · rfl
      · exact (State.starts (f := f) ok True).recover_none state

include h ok in
/-- Both connectors are plug evidence at a bay in service: it is occupied before the report is taken, or as it was. -/
theorem State.PostAnswers.restoring_plugged (plugged : (s.bay b).dyn.connector.isPlug = true) (plugs : r.connector.isPlug = true)
    {p : Prop} {t : Track} {v : Voice} (state : t.dyn.state ≠ .faulted)
    (occupied : ((Ev.start (s.answeredBy f)).setOccupancy b .occupied).Follows s f b p t v) :
    s.restoring f b c r = if c.reachable = true then Ev.start (s.answeredBy f)
      else (Ev.start (s.answeredBy f)).setOccupancy b .occupied := by
  have noFault : r.connector ≠ .fault := fun fault => by rw [fault] at plugs; cases plugs
  rw [h.restoring_eq ok, plugged, plugs]
  dsimp only
  rw [Bool.and_self, if_pos rfl, if_neg noFault, occupied.recover_none state]

end

/-! ## A plug-in at a bay without a hold -/

section
variable {s : State} {f : Frame} {b : BayIx} {p : Prop} {ev : Ev} {t : Track} {v : Voice} (h : ev.Follows s f b p t v)
  {c : Contact} (post : s.post b = some (f.src, s.node f.src)) (contact : (s.node f.src).contact = some c)

/-- The record as a report finds it: its connector, and no debounce run where there is no sensor. -/
def State.hears (s : State) (b : BayIx) (k : Connector) (d : BayDyn) : BayDyn := s.ended b { d with connector := k }

theorem State.hears_fields (s : State) (b : BayIx) (k : Connector) (d : BayDyn) : (s.hears b k d).state = d.state
    ∧ (s.hears b k d).occupancy = d.occupancy ∧ (s.hears b k d).connector = k ∧ (s.hears b k d).active = d.active
    ∧ (s.hears b k d).staged = d.staged ∧ (s.hears b k d).closeMode = d.closeMode ∧ (s.hears b k d).suspect = d.suspect :=
  s.ended_fields b { d with connector := k }

include h in
theorem Ev.Follows.hears (k : Connector) : ((ev.connect b k).runEnds s b).Follows s f b p (t.write (s.hears b k)) v :=
  (h.connect k).runEnds

/-- The track of a bay without a hold at which a vehicle plugs in. -/
def Track.seated (t : Track) (s : State) (b : BayIx) (k : Connector) : Track :=
  { t with
    dyn := { s.hears b k t.dyn with occupancy := .occupied, state := .unbooked }
    note := t.note.follows (decide (t.dyn.state = .free)) }

include h post contact in
theorem Ev.Follows.seats {k : Connector} {was : Bool} (plugs : k.isPlug = true)
    (state : t.dyn.state = .unbooked ∨ t.dyn.state = .free ∧ t.dyn.occupancy ≠ .occupied) :
    ((ev.connect b k).reportOccupancy b was).Follows s f b p (t.seated s b k) v := by
  have heard := h.hears k
  obtain ⟨stateKept, occupancyKept, _⟩ := s.hears_fields b k t.dyn
  rw [(h.connect k).reportOccupancy_occupied post contact (.inl plugs)]
  by_cases occupied : t.dyn.occupancy = .occupied
  · have unbooked : t.dyn.state = .unbooked := state.resolve_right fun both => both.2 occupied
    rw [Ev.setOccupancy_same heard.tracks.dyn .occupied (occupancyKept.trans occupied)]
    have same : t.write (s.hears b k) = t.seated s b k := by
      unfold Track.write Track.seated BayNote.follows
      rw [unbooked, if_neg (by decide)]
      refine congrArg (fun d => ({ t with dyn := d } : Track)) ?_
      rw [← occupied, ← unbooked, ← occupancyKept, ← stateKept]
    rw [← same]; exact heard
  · have rests : (t.write (s.hears b k)).dyn.state.rests := by
      show (s.hears b k t.dyn).state.rests
      rw [stateKept]
      rcases state with st | ⟨st, _⟩ <;> rw [st] <;> simp [BayState.rests]
    have answers := heard.setOccupancy_rests (o := .occupied)
      (show (s.hears b k t.dyn).occupancy ≠ .occupied by rw [occupancyKept]; exact occupied) rests
    have same : (t.write (s.hears b k)).rested .occupied = t.seated s b k := by
      unfold Track.rested Track.seated BayNote.follows
      show (if (s.hears b k t.dyn).state.rested .occupied = (s.hears b k t.dyn).state then _ else _) = _
      rw [stateKept]
      rcases state with st | ⟨st, _⟩
      · rw [st, if_pos (by decide), if_neg (by decide)]
        refine congrArg (fun d => ({ t with dyn := d } : Track)) ?_
        show ({ s.hears b k t.dyn with occupancy := _ } : BayDyn) = _
        rw [← st, ← stateKept]
      · rw [st, if_neg (by decide), if_pos (by decide), show (t.write (s.hears b k)).dyn.state = .free from stateKept.trans st]
        rfl
    rw [← same]; exact answers

include h post contact in
/-- A plug-in where no walk-in is permitted, or where the connector was plugged already. -/
theorem Ev.Follows.report_seats {r : PostReport} {was polls : Bool} (plugs : r.connector.isPlug = true)
    (state : t.dyn.state = .unbooked ∨ t.dyn.state = .free ∧ t.dyn.occupancy ≠ .occupied) (active : t.dyn.active = none)
    (refused : t.dyn.connector.isPlug = true ∨ s.walksIn b = false) (within : r.drawn ≤ r.inForce) :
    (ev.postEvidence b r was polls).Follows s f b p (t.seated s b r.connector) v := by
  have seats := h.seats post contact (was := was) plugs state
  have notFault : r.connector ≠ .fault := fun fault => by rw [fault] at plugs; cases plugs
  have notFaulted : t.dyn.state ≠ .faulted := by rcases state with st | ⟨st, _⟩ <;> rw [st] <;> decide
  have kept : (s.hears b r.connector t.dyn).active = t.dyn.active := (s.hears_fields b r.connector t.dyn).2.2.2.1
  have connector : (t.seated s b r.connector).dyn.connector = r.connector := (s.hears_fields b r.connector t.dyn).2.2.1
  have change : ((ev.connect b r.connector).reportOccupancy b was).connectorChange b t.dyn.connector
      = (ev.connect b r.connector).reportOccupancy b was := by
    by_cases same : (t.seated s b r.connector).dyn.connector = t.dyn.connector
    · exact seats.connectorChange_same same
    · rw [seats.connectorChange_unbooked same rfl]
      refine if_neg fun walks => ?_
      obtain ⟨both, permits⟩ := Bool.and_eq_true_iff.1 walks
      rcases refused with plugged | off
      · rw [plugged] at both; cases both
      · rw [off] at permits; cases permits
  rw [Ev.postEvidence_eq, h.connectorReport_eq (.inl notFault), if_neg notFaulted, change,
    seats.energyFigure_unmetered (fun k held => by
      rw [show (t.seated s b r.connector).dyn.active = t.dyn.active from kept, active] at held; cases held)]
  exact seats.tail within polls

/-- The walk-in hold with the session energy as its base. -/
def State.walkInBased (s : State) (b : BayIx) (e : Nat) : Hold := { s.walkInHold b with lastPostEnergy := some e }

include h post contact in
theorem Ev.Follows.report_walksIn {r : PostReport} {was polls : Bool} (plugs : r.connector.isPlug = true)
    (state : t.dyn.state = .unbooked ∨ t.dyn.state = .free ∧ t.dyn.occupancy ≠ .occupied)
    (unplugged : t.dyn.connector.isPlug = false) (permits : s.walksIn b = true) (serves : s.Serves b)
    (within : r.drawn ≤ r.inForce) : (ev.postEvidence b r was polls).Follows s f b p
      (((t.seated s b r.connector).walkIn s b).based (s.walkInHold b) r.energy) v := by
  have seats := h.seats post contact (was := was) plugs state
  have notFault : r.connector ≠ .fault := fun fault => by rw [fault] at plugs; cases plugs
  have notFaulted : t.dyn.state ≠ .faulted := by rcases state with st | ⟨st, _⟩ <;> rw [st] <;> decide
  have connector : (t.seated s b r.connector).dyn.connector = r.connector := (s.hears_fields b r.connector t.dyn).2.2.1
  have differs : (t.seated s b r.connector).dyn.connector ≠ t.dyn.connector := fun same => by
    rw [← same, connector, plugs] at unplugged; cases unplugged
  have change : ((ev.connect b r.connector).reportOccupancy b was).connectorChange b t.dyn.connector
      = ((ev.connect b r.connector).reportOccupancy b was).walkIn b := by
    rw [seats.connectorChange_unbooked differs rfl]
    exact if_pos (by rw [unplugged, connector, plugs, permits]; rfl)
  have walks := seats.walkIn (show Occupancy.occupied ≠ .vacant by decide) serves
  rw [Ev.postEvidence_eq, h.connectorReport_eq (.inl notFault), if_neg notFaulted, change]
  exact (walks.energyFigure_base (k := s.walkInHold b) rfl (fun none_ => by cases none_)
    (by rw [show ((t.seated s b r.connector).walkIn s b).dyn.connector = _ from connector]; exact plugs) rfl _ _).tail within polls

end

end Sys2Proof.Machine
end

section
/-!
SUPPORT. A report at a bay with an active hold: its arrival captured, its state derived again by step 3, its departure (R7,
R14, R16, R18, R22).
-/
namespace Sys2Proof.Machine

/-! ## Step 3 by the connector -/

/-- The state that step 3 gives a hold under a connector (R7). -/
def State.thirdBy (s : State) (k : Connector) (h : Hold) : BayState :=
  if atOrAfter s.now (h.windowEnd + BitVec.ofNat 32 (s.timing.overstay * 60)) then BayState.overstay
  else if k = .finished ∨ (∃ w, h.energyWanted = some w ∧ w ≤ h.energyDelivered) then .done
  else if k = .plugged ∨ k = .charging then .charging
  else .arrived

theorem State.third_by (s : State) (d : BayDyn) (h : Hold) : s.third d h = s.thirdBy d.connector h := rfl

theorem State.thirdBy_mem (s : State) (k : Connector) (h : Hold) :
    s.thirdBy k h ∈ [BayState.arrived, .charging, .done, .overstay] := by
  unfold State.thirdBy
  split
  · simp
  · split
    · simp
    · split <;> simp

/-- OVERSTAY goes by the clock alone. -/
theorem State.thirdBy_overstay {s : State} {k : Connector} {h : Hold} (late : s.thirdBy k h = .overstay) (k' : Connector) :
    s.thirdBy k' h = .overstay := by
  unfold State.thirdBy at late ⊢
  split at late
  · next due => exact if_pos due
  · split at late
    · cases late
    · split at late <;> cases late

section
variable {s : State} {f : Frame} {b : BayIx} {p : Prop} {ev : Ev} {t : Track} {v : Voice} (h : ev.Follows s f b p t v)
  {c : Contact} (post : s.post b = some (f.src, s.node f.src)) (contact : (s.node f.src).contact = some c)

/-- A track whose bay has another state and perhaps one more cause of evidence. -/
def Track.restated (t : Track) (st : BayState) (again : Bool) : Track :=
  { t with dyn := { t.dyn with state := st }, note := t.note.follows again }

include h in
/-- A bay in the state that step 3 gives takes, by a change of connector, the state it gives under the new one. -/
theorem Ev.Follows.connectorChange_thirds {old k : Connector} {hold : Hold} (active : t.dyn.active = some hold)
    (arrival : hold.arrival ≠ none) (occupancy : t.dyn.occupancy ≠ .vacant) (serves : s.Serves b)
    (state : t.dyn.state = s.thirdBy k hold) (since : t.dyn.connector = old → k = t.dyn.connector) :
    ∃ again, (ev.connectorChange b old).Follows s f b p (t.restated (s.thirdBy t.dyn.connector hold) again) v := by
  have stays (settled : t.dyn.state = s.thirdBy t.dyn.connector hold) : t.restated (s.thirdBy t.dyn.connector hold) false = t := by
    unfold Track.restated; rw [← settled]; rfl
  by_cases same : t.dyn.connector = old
  · refine ⟨false, ?_⟩
    rw [h.connectorChange_same same, stays (by rw [← since same]; exact state)]
    exact h
  · by_cases late : t.dyn.state = .overstay
    · refine ⟨false, ?_⟩
      rw [h.connectorChange_none (by rw [late]; simp), stays (by
        rw [late] at state ⊢; exact (State.thirdBy_overstay state.symm _).symm)]
      exact h
    · have mem := s.thirdBy_mem k hold
      rw [← state] at mem
      have listed : t.dyn.state ∈ [BayState.arrived, .charging, .done] := by
        simp only [List.mem_cons, List.not_mem_nil, or_false] at mem ⊢
        rcases mem with st | st | st | st
        · exact .inl st
        · exact .inr (.inl st)
        · exact .inr (.inr st)
        · exact absurd st late
      exact ⟨true, h.connectorChange_arrived same listed active arrival occupancy serves⟩

include h post contact in
/-- Plug evidence, or FINISHED without a sensor, at a bay whose hold is arrived: it is occupied. -/
theorem Ev.Follows.occupies {k : Connector} {was : Bool} (occupied : k.isPlug = true ∨ s.sensor b = none ∧ k = .finished)
    (state : t.dyn.state ∈ [BayState.arrived, .charging, .done, .overstay]) :
    ((ev.connect b k).reportOccupancy b was).Follows s f b p ((t.write (s.hears b k)).occ .occupied) v := by
  rw [(h.connect k).reportOccupancy_occupied post contact occupied]
  exact (h.hears k).setOccupancy_arrived (by decide) (by
    rw [show (t.write (s.hears b k)).dyn.state = t.dyn.state from (s.hears_fields b k t.dyn).1]; exact state)

/-- The record of an arrived hold's bay that a report has found occupied. -/
def State.finds (s : State) (b : BayIx) (k : Connector) (d : BayDyn) (h : Hold) : BayDyn :=
  { s.hears b k d with occupancy := .occupied, state := s.thirdBy k h }

include h post contact in
theorem Ev.Follows.connectorReport_thirds {k : Connector} {was : Bool} (occupied : k.isPlug = true ∨ s.sensor b = none ∧ k = .finished)
    {hold : Hold} (active : t.dyn.active = some hold) (arrival : hold.arrival ≠ none)
    (state : t.dyn.state = s.thirdBy t.dyn.connector hold) (serves : s.Serves b) :
    ∃ again, (ev.connectorReport b k was).Follows s f b p
      { t with dyn := s.finds b k t.dyn hold, note := t.note.follows again } v := by
  have mem := s.thirdBy_mem t.dyn.connector hold
  rw [← state] at mem
  have notFault : k ≠ .fault := fun fault => by
    rcases occupied with plug | ⟨_, finished⟩
    · rw [fault] at plug; cases plug
    · rw [fault] at finished; cases finished
  have notFaulted : t.dyn.state ≠ .faulted := fun st => by rw [st] at mem; simp at mem
  have found := h.occupies post contact (was := was) occupied mem
  obtain ⟨stateKept, _, connector, activeKept, _⟩ := s.hears_fields b k t.dyn
  obtain ⟨again, follows⟩ := found.connectorChange_thirds (old := t.dyn.connector) (k := t.dyn.connector) (hold := hold)
    (activeKept.trans active) arrival (show Occupancy.occupied ≠ .vacant by decide) serves (stateKept.trans state)
    (fun same => same.symm)
  refine ⟨again, ?_⟩
  rw [h.connectorReport_eq (.inl notFault), if_neg notFaulted]
  have shape : ((t.write (s.hears b k)).occ .occupied).restated (s.thirdBy ((t.write (s.hears b k)).occ .occupied).dyn.connector hold) again
      = { t with dyn := s.finds b k t.dyn hold, note := t.note.follows again } := by
    unfold Track.restated State.finds
    rw [show ((t.write (s.hears b k)).occ .occupied).dyn.connector = k from connector]
    rfl
  rw [← shape]; exact follows

include h post contact in
/-- A change of connector at an arrived hold (R16). -/
theorem Ev.Follows.report_changes {r : PostReport} {was polls : Bool}
    (occupied : r.connector.isPlug = true ∨ s.sensor b = none ∧ r.connector = .finished) (differs : t.dyn.connector ≠ r.connector)
    (state : t.dyn.state ∈ [BayState.arrived, .charging, .done]) {hold : Hold} (active : t.dyn.active = some hold)
    (arrival : hold.arrival ≠ none) (serves : s.Serves b) (last : hold.lastPostEnergy = some r.energy)
    (top : hold.energyDelivered ≤ 4294967295) (within : r.drawn ≤ r.inForce) :
    (ev.postEvidence b r was polls).Follows s f b p
      { t with dyn := s.finds b r.connector t.dyn hold, note := t.note.met .evidence } v := by
  have listed : t.dyn.state ∈ [BayState.arrived, .charging, .done, .overstay] := by
    simp only [List.mem_cons, List.not_mem_nil, or_false] at state ⊢; tauto
  have notFault : r.connector ≠ .fault := fun fault => by
    rcases occupied with plug | ⟨_, finished⟩
    · rw [fault] at plug; cases plug
    · rw [fault] at finished; cases finished
  have notFaulted : t.dyn.state ≠ .faulted := fun st => by rw [st] at state; simp at state
  have found := h.occupies post contact (was := was) occupied listed
  obtain ⟨stateKept, _, connector, activeKept, _⟩ := s.hears_fields b r.connector t.dyn
  have changed := found.connectorChange_arrived (old := t.dyn.connector) (k := hold)
    (by rw [show ((t.write (s.hears b r.connector)).occ .occupied).dyn.connector = r.connector from connector]; exact differs.symm)
    (by rw [show ((t.write (s.hears b r.connector)).occ .occupied).dyn.state = t.dyn.state from stateKept]; exact state)
    (activeKept.trans active) arrival (show Occupancy.occupied ≠ .vacant by decide) serves
  have shape : (((t.write (s.hears b r.connector)).occ .occupied).write ({ · with
        state := s.third ((t.write (s.hears b r.connector)).occ .occupied).dyn hold })).met .evidence
      = { t with dyn := s.finds b r.connector t.dyn hold, note := t.note.met .evidence } := by
    unfold State.finds
    rw [State.third_by, show ((t.write (s.hears b r.connector)).occ .occupied).dyn.connector = r.connector from connector]
    rfl
  rw [shape] at changed
  rw [Ev.postEvidence_eq, h.connectorReport_eq (.inl notFault), if_neg notFaulted]
  exact (changed.energyFigure_same (k := hold) (activeKept.trans active) last top _).tail within polls

include h in
/-- IDLE without a sensor at an arrived hold: it departs (R22). -/
theorem Ev.Follows.report_departs {r : PostReport} {was polls : Bool} (alone : s.sensor b = none) (idle : r.connector = .idle)
    (state : t.dyn.state ∈ [BayState.arrived, .charging, .done, .overstay]) (occupancy : t.dyn.occupancy ≠ .vacant)
    {hold : Hold} (active : t.dyn.active = some hold) (staged : t.dyn.staged = none) (mode : t.dyn.closeMode = .none)
    {n : Ticket} {a : Addr} (ticket : hold.ticket = some n) (requester : hold.requester = some a) (room : p → v.Room)
    (within : r.drawn ≤ r.inForce) :
    (ev.postEvidence b r was polls).Follows s f b p
      ((((t.write (s.hears b .idle)).occ .vacant).departed n).met .evidence)
      (v.tell s.controller.own a Kind.holdNotice (s.leaveBytes n b hold (.ended .departed))) := by
  have notFaulted : t.dyn.state ≠ .faulted := fun st => by rw [st] at state; simp at state
  obtain ⟨stateKept, occupancyKept, connector, activeKept, stagedKept, modeKept, _⟩ := s.hears_fields b .idle t.dyn
  have heard := h.hears .idle
  have departs := heard.setOccupancy_departs (k := hold) (n := n) (a := a)
    (show (s.hears b .idle t.dyn).occupancy ≠ .vacant by rw [occupancyKept]; exact occupancy)
    (by rw [show (t.write (s.hears b .idle)).dyn.state = t.dyn.state from stateKept]; exact state)
    (activeKept.trans active) (stagedKept.trans staged) (modeKept.trans mode) ticket requester room
  have free : ((((t.write (s.hears b .idle)).occ .vacant).departed n).met .evidence).dyn.state = .free := rfl
  rw [Ev.postEvidence_eq, idle, h.connectorReport_eq (.inl (by decide)), if_neg notFaulted,
    (h.connect .idle).reportOccupancy_vacant alone rfl, departs.connectorChange_none (by rw [free]; simp),
    departs.energyFigure_unmetered (fun k held => by cases held)]
  exact departs.tail within polls

include h post contact in
/-- A plug-in at a HELD bay captures the arrival (R14, R18). -/
theorem Ev.Follows.report_captures {r : PostReport} {was polls : Bool} (plugs : r.connector.isPlug = true)
    (state : t.dyn.state = .held) (occupancy : t.dyn.occupancy ≠ .occupied) {hold : Hold} (active : t.dyn.active = some hold)
    (open_ : (s.classOf (s.bay b).cls).verify = false ∨ hold.entrySeen = true) (serves : s.Serves b)
    (within : r.drawn ≤ r.inForce) : ∃ again,
    (ev.postEvidence b r was polls).Follows s f b p { t.capture s hold with
      dyn := { s.finds b r.connector t.dyn hold with
        active := some { hold with arrival := some s.now, lastPostEnergy := some r.energy } }
      note := (t.note.met .evidence).follows again } v := by
  have notFault : r.connector ≠ .fault := fun fault => by rw [fault] at plugs; cases plugs
  obtain ⟨stateKept, occupancyKept, connector, activeKept, _⟩ := s.hears_fields b r.connector t.dyn
  have captures := (h.hears r.connector).setOccupancy_captures (k := hold)
    (show (s.hears b r.connector t.dyn).occupancy ≠ .occupied by rw [occupancyKept]; exact occupancy)
    (stateKept.trans state) (activeKept.trans active) open_ serves
  have third : s.third (t.write (s.hears b r.connector)).dyn hold = s.thirdBy r.connector hold := by
    rw [State.third_by]; exact congrArg (s.thirdBy · hold) connector
  rw [third] at captures
  rw [← (h.connect r.connector).reportOccupancy_occupied post contact (was := was) (.inl plugs)] at captures
  obtain ⟨again, changed⟩ := captures.connectorChange_thirds (old := t.dyn.connector) (k := r.connector)
    (hold := { hold with arrival := some s.now }) rfl (fun none_ => by cases none_)
    (show Occupancy.occupied ≠ .vacant by decide) serves rfl (fun _ => connector.symm)
  refine ⟨again, ?_⟩
  have metered := changed.energyFigure_base (k := { hold with arrival := some s.now }) rfl (fun none_ => by cases none_)
    (by show (s.hears b r.connector t.dyn).connector.isPlug = true; rw [connector]; exact plugs) rfl r.energy
    (!(ev.bay b).dyn.connector.isPlug && r.connector.isPlug)
  rw [Ev.postEvidence_eq, h.connectorReport_eq (.inl notFault), if_neg (by rw [state]; decide)]
  refine Eq.mp (congrArg (fun y => Ev.Follows s f b p _ y v) ?_) (metered.tail within polls)
  unfold Track.based Track.restated State.finds
  dsimp only [Track.write, Track.met, Track.capture, Track.occ]
  rw [show s.thirdBy (s.hears b r.connector t.dyn).connector { hold with arrival := some s.now } = s.thirdBy r.connector hold from
    congrArg (s.thirdBy · hold) connector]

include h post contact in
/-- A plug-in at a HELD bay whose hold is verified and has not been seen (R18). -/
theorem Ev.Follows.report_contests {r : PostReport} {was polls : Bool} (plugs : r.connector.isPlug = true)
    (state : t.dyn.state = .held) (occupancy : t.dyn.occupancy ≠ .occupied) {hold : Hold} (active : t.dyn.active = some hold)
    (arrival : hold.arrival = none) (verify : (s.classOf (s.bay b).cls).verify = true) (seen : hold.entrySeen = false)
    (within : r.drawn ≤ r.inForce) :
    (ev.postEvidence b r was polls).Follows s f b p { t with
      dyn := { s.hears b r.connector t.dyn with occupancy := .occupied, state := .contested }
      note := t.note.met .evidence } v := by
  have notFault : r.connector ≠ .fault := fun fault => by rw [fault] at plugs; cases plugs
  obtain ⟨stateKept, occupancyKept, connector, activeKept, _⟩ := s.hears_fields b r.connector t.dyn
  have contests := (h.hears r.connector).setOccupancy_contests (k := hold)
    (show (s.hears b r.connector t.dyn).occupancy ≠ .occupied by rw [occupancyKept]; exact occupancy)
    (stateKept.trans state) (activeKept.trans active) verify seen
  rw [← (h.connect r.connector).reportOccupancy_occupied post contact (was := was) (.inl plugs)] at contests
  rw [Ev.postEvidence_eq, h.connectorReport_eq (.inl notFault), if_neg (by rw [state]; decide),
    contests.connectorChange_none (show BayState.contested ∉ [BayState.unbooked, .arrived, .charging, .done] by decide), contests.energyFigure_unmetered (fun k held => .inl ?_)]
  · exact contests.tail within polls
  · have same : some hold = some k := (activeKept.trans active).symm.trans held
    cases same; exact arrival

end

end Sys2Proof.Machine
end

section
/-!
SUPPORT. The reports that plug a vehicle in or out at a bay in service, from the first frame of the node on (R9, R12, R14 to
R18, R22).
-/
namespace Sys2Proof.Machine

section
variable {s : State} {f : Frame} {b : BayIx} {p : Prop} {ev : Ev} {t : Track} {v : Voice} (h : ev.Follows s f b p t v)
  {c : Contact} (post : s.post b = some (f.src, s.node f.src)) (contact : (s.node f.src).contact = some c)

include h post contact in
/-- A plug-in at a bay whose hold has been captured in the same event. -/
theorem Ev.Follows.report_rebases {r : PostReport} {was polls : Bool} (plugs : r.connector.isPlug = true)
    {hold : Hold} (active : t.dyn.active = some hold) (arrival : hold.arrival ≠ none)
    (state : t.dyn.state = s.thirdBy t.dyn.connector hold) (captured : t.captured = true) (serves : s.Serves b)
    (within : r.drawn ≤ r.inForce) : ∃ again, (ev.postEvidence b r was polls).Follows s f b p { t with
      dyn := { s.finds b r.connector t.dyn hold with active := some { hold with lastPostEnergy := some r.energy } }
      note := t.note.follows again } v := by
  obtain ⟨_, _, connector, activeKept, _⟩ := s.hears_fields b r.connector t.dyn
  obtain ⟨again, found⟩ := h.connectorReport_thirds post contact (was := was) (.inl plugs) active arrival state serves
  refine ⟨again, ?_⟩
  rw [Ev.postEvidence_eq]
  exact (found.energyFigure_base (k := hold) (activeKept.trans active) arrival
    (by show (s.hears b r.connector t.dyn).connector.isPlug = true; rw [connector]; exact plugs) captured r.energy _).tail
      within polls

include h post contact in
/-- A report at an arrived hold in the state that step 3 gives, with the figure that it has. -/
theorem Ev.Follows.report_thirds {r : PostReport} {was polls : Bool}
    (occupied : r.connector.isPlug = true ∨ s.sensor b = none ∧ r.connector = .finished)
    {hold : Hold} (active : t.dyn.active = some hold) (arrival : hold.arrival ≠ none)
    (state : t.dyn.state = s.thirdBy t.dyn.connector hold) (serves : s.Serves b) (last : hold.lastPostEnergy = some r.energy)
    (top : hold.energyDelivered ≤ 4294967295) (within : r.drawn ≤ r.inForce) :
    ∃ again, (ev.postEvidence b r was polls).Follows s f b p
      { t with dyn := s.finds b r.connector t.dyn hold, note := t.note.follows again } v := by
  obtain ⟨_, _, _, activeKept, _⟩ := s.hears_fields b r.connector t.dyn
  obtain ⟨again, found⟩ := h.connectorReport_thirds post contact (was := was) occupied active arrival state serves
  refine ⟨again, ?_⟩
  rw [Ev.postEvidence_eq]
  exact (found.energyFigure_same (k := hold) (activeKept.trans active) last top _).tail within polls

include h post contact in
/-- A plug-in at a bay that is CONTESTED. -/
theorem Ev.Follows.report_contested {r : PostReport} {was polls : Bool} (plugs : r.connector.isPlug = true)
    (state : t.dyn.state = .contested) (occupancy : t.dyn.occupancy = .occupied) {hold : Hold}
    (active : t.dyn.active = some hold) (arrival : hold.arrival = none) (within : r.drawn ≤ r.inForce) :
    (ev.postEvidence b r was polls).Follows s f b p (t.write (s.hears b r.connector)) v := by
  have notFault : r.connector ≠ .fault := fun fault => by rw [fault] at plugs; cases plugs
  obtain ⟨stateKept, occupancyKept, _, activeKept, _⟩ := s.hears_fields b r.connector t.dyn
  have heard := h.hears r.connector
  have stays : (ev.connect b r.connector).reportOccupancy b was = (ev.connect b r.connector).runEnds s b := by
    rw [(h.connect r.connector).reportOccupancy_occupied post contact (.inl plugs)]
    exact Ev.setOccupancy_same heard.tracks.dyn .occupied (occupancyKept.trans occupancy)
  rw [Ev.postEvidence_eq, h.connectorReport_eq (.inl notFault), if_neg (by rw [state]; decide), stays,
    heard.connectorChange_none (by
      rw [show (t.write (s.hears b r.connector)).dyn.state = .contested from stateKept.trans state]; decide),
    heard.energyFigure_unmetered (fun k held => .inl ?_)]
  · exact heard.tail within polls
  · have same : some hold = some k := (activeKept.trans active).symm.trans held
    cases same; exact arrival

end

/-! ## From the first frame of the node on -/

section
variable {s : State} {f : Frame} {x : Transaction} {b : BayIx} {c : Contact} {r : PostReport} (h : s.PostAnswers f x b c r)
  (ok : ∀ e, (s.bay e).checkOk = true) (waitlist : s.waitlist = []) (within : r.drawn ≤ r.inForce)

theorem State.evident_plain (start : s.restoring f b c r = Ev.start (s.answeredBy f)) :
    s.evident f x b c r = (Ev.start (s.answeredBy f)).postEvidence b r (s.plugEvidence b) x.polls := by
  unfold State.evident; rw [start]

/-- A note that ends no hold, with the cause that it carries. -/
structure BayNote.Tells (n : BayNote) (b : BayIx) (before : BayState) (cause : Nat) : Prop where
  opened : n.before = before
  ends : n.causes.contains .holdEnded = false
  waiting : n.causes.contains .holderWaiting = false
  frame : ∀ (s : State) (k : Nat) (after : BayState), s.noteAt k n after = s.bayNoticeAt k b before after cause 0 0

theorem openNote_evident (b : BayIx) (before : BayState) (again more : Bool) :
    (((openNote b before).follows again).follows more).Tells b before 1 := by
  cases again <;> cases more <;> exact ⟨rfl, rfl, rfl, fun _ _ _ => rfl⟩

include h ok waitlist in
/-- A report whose note ends no hold. -/
theorem State.PostAnswers.shown_evident {t : Track} {n : Nat} {fs : List Frame} {before : BayState} {cause : Nat}
    (follows : (s.evident f x b c r).Follows s f b (s.Room fs) t (s.placed n fs)) (note : t.note.Tells b before cause)
    {late : State → Prop} (awaits : ∀ y : State, y.Awaits b t.noShow t.overstay (s.bay b).timer.displacement → late y) :
    s.Shown f b t.dyn t.index late
      (if before = t.dyn.state then fs else fs ++ [s.bayNoticeAt n b before t.dyn.state cause 0 0]) := by
  have shown := h.shown_told ok waitlist follows note.opened note.ends note.waiting awaits
  rwa [note.frame] at shown

include h ok waitlist within in
theorem State.PostAnswers.seats_shown (plugs : r.connector.isPlug = true) (unplugged : (s.bay b).dyn.connector.isPlug = false)
    (active : (s.bay b).dyn.active = none)
    (state : (s.bay b).dyn.state = .unbooked ∨ (s.bay b).dyn.state = .free ∧ (s.bay b).dyn.occupancy ≠ .occupied)
    (refused : s.walksIn b = false) :
    s.Shown f b { s.hears b r.connector (s.bay b).dyn with occupancy := .occupied, state := .unbooked } s.index
      (fun t => s.AwaitsAs t b)
      (if (s.bay b).dyn.state = .free then [s.bayNoticeAt 0 b .free .unbooked 1 0 0] else []) := by
  have start := h.restoring_plain ok (.inr (.inr ⟨by rw [unplugged]; rfl, by
    rcases state with st | ⟨st, _⟩ <;> rw [st] <;> decide⟩))
  have follows := (State.starts (f := f) ok (s.Room [])).report_seats h.post h.contact (was := s.plugEvidence b)
    (polls := x.polls) plugs state active (.inr refused) within
  rw [← State.evident_plain start] at follows
  have shown := h.shown_evident (n := 0) (fs := []) ok waitlist follows
    (openNote_evident b (s.bay b).dyn.state (decide ((s.bay b).dyn.state = .free)) false) (late := fun t => s.AwaitsAs t b)
    (fun _ awaits => awaits)
  have frames : (if (s.bay b).dyn.state = .unbooked then ([] : List Frame)
      else [] ++ [s.bayNoticeAt 0 b (s.bay b).dyn.state .unbooked 1 0 0])
      = if (s.bay b).dyn.state = .free then [s.bayNoticeAt 0 b .free .unbooked 1 0 0] else [] := by
    rcases state with st | ⟨st, _⟩ <;> rw [st]
    · rw [if_pos rfl, if_neg (by decide)]
    · rw [if_neg (by decide), if_pos rfl]; rfl
  rw [← frames]
  exact shown

include h ok waitlist within in
theorem State.PostAnswers.changes_shown
    (occupied : r.connector.isPlug = true ∨ s.sensor b = none ∧ r.connector = .finished)
    (differs : (s.bay b).dyn.connector ≠ r.connector) (state : (s.bay b).dyn.state ∈ [BayState.arrived, .charging, .done])
    {hold : Hold} (active : (s.bay b).dyn.active = some hold) (arrival : hold.arrival ≠ none) (serves : s.Serves b)
    (last : hold.lastPostEnergy = some r.energy) (top : hold.energyDelivered ≤ 4294967295) :
    s.Shown f b (s.finds b r.connector (s.bay b).dyn hold) s.index (fun t => s.AwaitsAs t b)
      (if (s.bay b).dyn.state = s.thirdBy r.connector hold then []
        else [s.bayNoticeAt 0 b (s.bay b).dyn.state (s.thirdBy r.connector hold) 1 0 0]) := by
  have listed : (s.bay b).dyn.state ∈ [BayState.arrived, .charging, .done, .overstay] := by
    simp only [List.mem_cons, List.not_mem_nil, or_false] at state ⊢; tauto
  have notFaulted : (s.bay b).dyn.state ≠ .faulted := fun st => by rw [st] at state; simp at state
  have base := State.starts (f := f) (b := b) ok (s.Room [])
  have evident := openNote_evident b (s.bay b).dyn.state true false
  have reports {w : Ev} {d : BayDyn} (follows : w.Follows s f b (s.Room []) { s.track b with dyn := d } (s.placed 0 []))
      (start : s.restoring f b c r = w) (stateKept : d.state = (s.bay b).dyn.state)
      (connector : d.connector = (s.bay b).dyn.connector) (activeKept : d.active = (s.bay b).dyn.active)
      (found : s.finds b r.connector d hold = s.finds b r.connector (s.bay b).dyn hold) :
      s.Shown f b (s.finds b r.connector (s.bay b).dyn hold) s.index (fun t => s.AwaitsAs t b)
        (if (s.bay b).dyn.state = s.thirdBy r.connector hold then []
          else [s.bayNoticeAt 0 b (s.bay b).dyn.state (s.thirdBy r.connector hold) 1 0 0]) := by
    have changed := follows.report_changes h.post h.contact (was := s.plugEvidence b) (polls := x.polls) (hold := hold) occupied
      (by show d.connector ≠ _; rw [connector]; exact differs) (by show d.state ∈ _; rw [stateKept]; exact state)
      (activeKept.trans active) arrival serves last top within
    rw [← start, show Ev.postEvidence _ b r _ x.polls = s.evident f x b c r from rfl] at changed
    have shown := h.shown_evident (n := 0) (fs := []) ok waitlist changed evident (late := fun t => s.AwaitsAs t b)
      (fun _ awaits => awaits)
    rw [← found]
    exact shown
  by_cases both : (s.bay b).dyn.connector.isPlug = true ∧ r.connector.isPlug = true
  · have occ := base.setOccupancy_arrived (o := .occupied) (by decide) listed
    have start := h.restoring_plugged ok both.1 both.2 (t := (s.track b).occ .occupied) notFaulted occ
    by_cases reachable : c.reachable = true
    · rw [if_pos reachable] at start
      exact reports base start rfl rfl rfl rfl
    · rw [if_neg reachable] at start
      refine reports occ start rfl rfl rfl ?_
      unfold State.finds State.hears State.ended
      split <;> rfl
  · refine reports base (h.restoring_plain ok (.inr (.inr ⟨?_, notFaulted⟩))) rfl rfl rfl rfl
    rw [Bool.and_eq_false_iff]
    by_cases plugged : (s.bay b).dyn.connector.isPlug = true
    · exact .inr (Bool.eq_false_iff.2 fun plugs => both ⟨plugged, plugs⟩)
    · exact .inl (Bool.eq_false_iff.2 plugged)

end

end Sys2Proof.Machine
end

section
/-!
SUPPORT. The walk-in hold, the arrival at a HELD bay and the departure, as a report shows them (R14, R17, R18, R22, R24).
-/
namespace Sys2Proof.Machine

section
variable {s : State} {f : Frame} {x : Transaction} {b : BayIx} {c : Contact} {r : PostReport} (h : s.PostAnswers f x b c r)
  (ok : ∀ e, (s.bay e).checkOk = true) (waitlist : s.waitlist = []) (within : r.drawn ≤ r.inForce)

/-! ## The walk-in hold -/

theorem State.walkIn_charges {k : Connector} (plugs : k.isPlug = true) (stay : 0 < (s.classOf (s.bay b).cls).stay)
    (top : (s.classOf (s.bay b).cls).stay ≤ 480) (overstay : s.timing.overstay ≤ 60) :
    s.thirdBy k (s.walkInHold b) = .charging := by
  have ahead : atOrAfter s.now ((s.walkInHold b).windowEnd + BitVec.ofNat 32 (s.timing.overstay * 60)) = false := by
    show atOrAfter s.now (s.now + BitVec.ofNat 32 ((s.classOf (s.bay b).cls).stay * 60)
      + BitVec.ofNat 32 (s.timing.overstay * 60)) = false
    rw [BitVec.add_assoc, ← BitVec.ofNat_add]
    exact atOrAfter_ahead s.now (by omega) (by omega)
  have unfinished : ¬ (k = .finished ∨ ∃ w, (s.walkInHold b).energyWanted = some w ∧ w ≤ (s.walkInHold b).energyDelivered) := by
    rintro (finished | ⟨w, wanted, _⟩)
    · rw [finished] at plugs; cases plugs
    · cases wanted
  unfold State.thirdBy
  rw [if_neg (by rw [ahead]; exact Bool.false_ne_true), if_neg unfinished, if_pos ((Connector.isPlug_iff k).1 plugs)]

theorem walkInNote_tells {n : BayNote} {b : BayIx} {before : BayState} {restored : Bool}
    (note : n = if restored then (openNote b before).met .faultCleared else openNote b before) (again : Bool) :
    ((n.follows again).met .walkIn).Tells b before 2 := by
  subst note
  cases restored <;> cases again <;> exact ⟨rfl, rfl, rfl, fun _ _ _ => rfl⟩

include h ok waitlist within in
/-- A plug-in that makes a walk-in hold, the bay being UNBOOKED or FREE when the report is taken. -/
theorem State.PostAnswers.walksIn_shown {w : Ev} {t : Track} (start : s.restoring f b c r = w)
    (follows : w.Follows s f b (s.Room []) t (s.placed 0 [])) (plugs : r.connector.isPlug = true)
    (unplugged : t.dyn.connector.isPlug = false)
    (state : t.dyn.state = .unbooked ∨ t.dyn.state = .free ∧ t.dyn.occupancy ≠ .occupied)
    (permits : s.walksIn b = true) (serves : s.Serves b) (stay : 0 < (s.classOf (s.bay b).cls).stay)
    (top : (s.classOf (s.bay b).cls).stay ≤ 480) (overstay : s.timing.overstay ≤ 60) (index : t.index = s.index)
    {before : BayState} (other : before ≠ .charging) {restored : Bool}
    (note : t.note = if restored then (openNote b before).met .faultCleared else openNote b before)
    (found : ({ s.hears b r.connector t.dyn with
        occupancy := .occupied, state := .charging, active := some (s.walkInBased b r.energy) } : BayDyn)
      = { s.hears b r.connector (s.bay b).dyn with
        occupancy := .occupied, state := .charging, active := some (s.walkInBased b r.energy) }) :
    s.Shown f b { s.hears b r.connector (s.bay b).dyn with
        occupancy := .occupied, state := .charging, active := some (s.walkInBased b r.energy) } s.index
      (fun y => y.Awaits b none (some (s.overstayAt (s.walkInBased b r.energy))) (s.bay b).timer.displacement)
      [s.bayNoticeAt 0 b before .charging 2 0 0] := by
  have walks := follows.report_walksIn h.post h.contact (was := s.plugEvidence b) (polls := x.polls) plugs state unplugged
    permits serves within
  rw [← start, show Ev.postEvidence _ b r _ x.polls = s.evident f x b c r from rfl] at walks
  have tells := walkInNote_tells note (decide (t.dyn.state = .free))
  have charging : (((t.seated s b r.connector).walkIn s b).based (s.walkInHold b) r.energy).dyn
      = { s.hears b r.connector t.dyn with
        occupancy := .occupied, state := .charging, active := some (s.walkInBased b r.energy) } := by
    have connector : (s.hears b r.connector t.dyn).connector = r.connector := (s.hears_fields b r.connector t.dyn).2.2.1
    have third : s.third (t.seated s b r.connector).dyn (s.walkInHold b) = .charging := by
      rw [State.third_by, show (t.seated s b r.connector).dyn.connector = r.connector from connector]
      exact State.walkIn_charges plugs stay top overstay
    unfold Track.walkIn
    rw [third]
    rfl
  have shown := h.shown_evident (n := 0) (fs := []) ok waitlist walks tells
    (late := fun y => y.Awaits b none (some (s.overstayAt (s.walkInBased b r.energy))) (s.bay b).timer.displacement)
    (fun _ awaits => awaits)
  rw [charging, found] at shown
  rw [show (((t.seated s b r.connector).walkIn s b).based (s.walkInHold b) r.energy).index = s.index from index,
    if_neg other] at shown
  exact shown

/-! ## The arrival at a HELD bay -/

section
variable (plugs : r.connector.isPlug = true) (state : (s.bay b).dyn.state = .held)
  (occupancy : (s.bay b).dyn.occupancy ≠ .occupied) {hold : Hold} (active : (s.bay b).dyn.active = some hold)

include h ok waitlist within plugs state occupancy active in
theorem State.PostAnswers.captures_shown (open_ : (s.classOf (s.bay b).cls).verify = false ∨ hold.entrySeen = true)
    (serves : s.Serves b) : s.Shown f b { s.finds b r.connector (s.bay b).dyn hold with
        active := some { hold with arrival := some s.now, lastPostEnergy := some r.energy } } s.index
      (fun y => y.Awaits b none (some (s.overstayAt hold)) (s.bay b).timer.displacement)
      [s.bayNoticeAt 0 b .held (s.thirdBy r.connector hold) 1 0 0] := by
  have base := State.starts (f := f) (b := b) ok (s.Room [])
  have moves : BayState.held ≠ s.thirdBy r.connector hold := fun same => by
    have mem := s.thirdBy_mem r.connector hold
    rw [← same] at mem; simp at mem
  have reports {w : Ev} {y : Track} (start : s.restoring f b c r = w)
      (follows : (w.postEvidence b r (s.plugEvidence b) x.polls).Follows s f b (s.Room []) y (s.placed 0 []))
      (note : y.note.Tells b .held 1) (dyn : y.dyn = { s.finds b r.connector (s.bay b).dyn hold with
        active := some { hold with arrival := some s.now, lastPostEnergy := some r.energy } }) (index : y.index = s.index)
      (noShow : y.noShow = none) (overstay : y.overstay = some (s.overstayAt hold)) :
      s.Shown f b { s.finds b r.connector (s.bay b).dyn hold with
          active := some { hold with arrival := some s.now, lastPostEnergy := some r.energy } } s.index
        (fun y => y.Awaits b none (some (s.overstayAt hold)) (s.bay b).timer.displacement)
        [s.bayNoticeAt 0 b .held (s.thirdBy r.connector hold) 1 0 0] := by
    rw [← start, show Ev.postEvidence _ b r _ x.polls = s.evident f x b c r from rfl] at follows
    have shown := h.shown_evident (n := 0) (fs := []) ok waitlist follows note
      (late := fun y => y.Awaits b none (some (s.overstayAt hold)) (s.bay b).timer.displacement)
      (fun _ awaits => by rwa [noShow, overstay] at awaits)
    rw [dyn, index] at shown
    have frames : (if BayState.held = s.thirdBy r.connector hold then ([] : List Frame)
        else [] ++ [s.bayNoticeAt 0 b .held (s.thirdBy r.connector hold) 1 0 0])
        = [s.bayNoticeAt 0 b .held (s.thirdBy r.connector hold) 1 0 0] := if_neg moves
    rw [← frames]
    exact shown
  by_cases early : c.reachable = false ∧ (s.bay b).dyn.connector.isPlug = true
  · obtain ⟨unreachable, plugged⟩ := early
    have captured := base.setOccupancy_captures (k := hold) occupancy state active open_ serves
    have third := s.thirdBy_mem (s.bay b).dyn.connector hold
    have start := h.restoring_plugged ok plugged plugs (fun faulted => by
      have same : s.thirdBy (s.bay b).dyn.connector hold = .faulted := faulted
      rw [same] at third; simp at third) captured
    rw [if_neg (by rw [unreachable]; exact Bool.false_ne_true)] at start
    obtain ⟨again, follows⟩ := captured.report_rebases h.post h.contact (was := s.plugEvidence b) (polls := x.polls) plugs
      (hold := { hold with arrival := some s.now }) rfl (fun none_ => by cases none_) rfl rfl serves within
    refine reports start follows ?_ ?_ rfl rfl rfl
    · have evident := openNote_evident b (s.bay b).dyn.state true again
      rw [state] at evident
      show (((openNote b (s.bay b).dyn.state).met .evidence).follows again).Tells b .held 1
      rw [state]; exact evident
    · unfold State.finds State.hears State.ended
      split <;> rfl
  · have start := h.restoring_plain ok (by
      by_cases reachable : c.reachable = true
      · exact .inl reachable
      · refine .inr (.inr ⟨?_, by rw [state]; decide⟩)
        rw [Bool.and_eq_false_iff]
        exact .inl (Bool.eq_false_iff.2 fun plugged => early ⟨Bool.eq_false_iff.2 reachable, plugged⟩))
    obtain ⟨again, follows⟩ := base.report_captures h.post h.contact (was := s.plugEvidence b) (polls := x.polls) plugs state
      occupancy active open_ serves within
    refine reports start follows ?_ rfl rfl rfl rfl
    show (((openNote b (s.bay b).dyn.state).met .evidence).follows again).Tells b .held 1
    rw [state]; exact openNote_evident b .held true again

include h ok waitlist within plugs state occupancy active in
theorem State.PostAnswers.contests_shown (arrival : hold.arrival = none) (verify : (s.classOf (s.bay b).cls).verify = true)
    (seen : hold.entrySeen = false) : s.Shown f b
      { s.hears b r.connector (s.bay b).dyn with occupancy := .occupied, state := .contested } s.index
      (fun t => s.AwaitsAs t b) [s.bayNoticeAt 0 b .held .contested 1 0 0] := by
  have base := State.starts (f := f) (b := b) ok (s.Room [])
  have note : ((s.track b).note.met .evidence).Tells b .held 1 := by
    show ((openNote b (s.bay b).dyn.state).met .evidence).Tells b .held 1
    rw [state]; exact openNote_evident b .held true false
  have reports {w : Ev} {y : Track} (start : s.restoring f b c r = w)
      (follows : (w.postEvidence b r (s.plugEvidence b) x.polls).Follows s f b (s.Room []) y (s.placed 0 []))
      (shape : y = { s.track b with
        dyn := { s.hears b r.connector (s.bay b).dyn with occupancy := .occupied, state := .contested }
        note := (s.track b).note.met .evidence }) : s.Shown f b
      { s.hears b r.connector (s.bay b).dyn with occupancy := .occupied, state := .contested } s.index
      (fun t => s.AwaitsAs t b) [s.bayNoticeAt 0 b .held .contested 1 0 0] := by
    subst shape
    rw [← start, show Ev.postEvidence _ b r _ x.polls = s.evident f x b c r from rfl] at follows
    exact h.shown_evident (n := 0) (fs := []) ok waitlist follows note (late := fun t => s.AwaitsAs t b)
      (fun _ awaits => awaits)
  by_cases early : c.reachable = false ∧ (s.bay b).dyn.connector.isPlug = true
  · obtain ⟨unreachable, plugged⟩ := early
    have contested := base.setOccupancy_contests (k := hold) occupancy state active verify seen
    have start := h.restoring_plugged ok plugged plugs (show BayState.contested ≠ .faulted by decide) contested
    rw [if_neg (by rw [unreachable]; exact Bool.false_ne_true)] at start
    refine reports start (contested.report_contested h.post h.contact (was := s.plugEvidence b) (polls := x.polls) plugs rfl rfl
      (hold := hold) active arrival within) ?_
    refine congrArg (fun d => ({ s.track b with dyn := d, note := (s.track b).note.met .evidence } : Track)) ?_
    show s.hears b r.connector { (s.bay b).dyn with occupancy := .occupied, state := .contested } = _
    unfold State.hears State.ended
    split <;> rfl
  · have start := h.restoring_plain ok (by
      by_cases reachable : c.reachable = true
      · exact .inl reachable
      · refine .inr (.inr ⟨?_, by rw [state]; decide⟩)
        rw [Bool.and_eq_false_iff]
        exact .inl (Bool.eq_false_iff.2 fun plugged => early ⟨Bool.eq_false_iff.2 reachable, plugged⟩))
    exact reports start (base.report_contests h.post h.contact (was := s.plugEvidence b) (polls := x.polls) plugs state
      occupancy active arrival verify seen within) rfl

end

/-! ## Departure -/

include h ok waitlist in
/-- A report in whose event the arrived hold of the bay departs. -/
theorem State.PostAnswers.departs_shown {t : Track} {hold : Hold} {n : Ticket} {a : Addr} (requester : a ≠ 0)
    (follows : (s.evident f x b c r).Follows s f b (s.Room [s.noticeAt 0 a Kind.holdNotice (s.summaryBytes 6 n (b.val + 1) 1 hold)])
      t ((s.placed 0 []).tell s.controller.own a Kind.holdNotice (s.leaveBytes n b hold (.ended .departed))))
    {before : BayState} (state : t.dyn.state = .free)
    (note : t.note = ((((openNote b before).met .holdEnded).ended .departed).met .evidence)) {late : State → Prop}
    (awaits : ∀ y : State, y.Awaits b t.noShow t.overstay (s.bay b).timer.displacement → late y) :
    s.Shown f b t.dyn t.index late
      [s.noticeAt 0 a Kind.holdNotice (s.summaryBytes 6 n (b.val + 1) 1 hold), s.bayNoticeAt 1 b before .free 4 1 0] := by
  rw [s.placed_tell 0 [] _ _ requester] at follows
  have told : [] ++ [s.noticeAt 0 a Kind.holdNotice (s.leaveBytes n b hold (.ended .departed))]
      = [s.noticeAt 0 a Kind.holdNotice (s.summaryBytes 6 n (b.val + 1) 1 hold)] := rfl
  rw [told] at follows
  refine h.shown ok waitlist follows (fun somebody o => ?_) awaits
  have sends := follows.sends_note waitlist o (by rw [note]; simp [BayNote.raised, BayNote.met, BayNote.ended, openNote]) somebody
  rw [state, note] at sends
  exact sends

include h ok waitlist within in
theorem State.PostAnswers.idles_shown (alone : s.sensor b = none) (idle : r.connector = .idle)
    (state : (s.bay b).dyn.state ∈ [BayState.arrived, .charging, .done, .overstay])
    (occupancy : (s.bay b).dyn.occupancy ≠ .vacant) {hold : Hold} (active : (s.bay b).dyn.active = some hold)
    (staged : (s.bay b).dyn.staged = none) (mode : (s.bay b).dyn.closeMode = .none) {n : Ticket} {a : Addr}
    (ticket : hold.ticket = some n) (requester : hold.requester = some a) (somebody : a ≠ 0) :
    s.Shown f b { s.hears b r.connector (s.bay b).dyn with occupancy := .vacant, active := none, state := .free }
      (s.index.filter (fun i => i.ticket ≠ n)) (fun y => y.Awaits b none none (s.bay b).timer.displacement)
      [s.noticeAt 0 a Kind.holdNotice (s.summaryBytes 6 n (b.val + 1) 1 hold), s.bayNoticeAt 1 b (s.bay b).dyn.state .free 4 1 0] := by
  have base := State.starts (f := f) (b := b) ok
    (s.Room [s.noticeAt 0 a Kind.holdNotice (s.summaryBytes 6 n (b.val + 1) 1 hold)])
  have start := h.restoring_plain ok (.inr (.inr ⟨by rw [idle]; exact Bool.and_false _, fun st => by
    rw [st] at state; simp at state⟩))
  have follows := base.report_departs (r := r) (was := s.plugEvidence b) (polls := x.polls) alone idle state occupancy active
    staged mode ticket requester (fun room => s.placed_room (by
      unfold State.Room at room; rw [List.length_singleton] at room; exact Nat.lt_of_succ_le room)) within
  rw [← State.evident_plain start] at follows
  rw [idle]
  exact h.departs_shown ok waitlist somebody follows rfl rfl (fun _ awaits => awaits)

end

end Sys2Proof.Machine
end

section
/-!
SUPPORT. A FAULTED bay that comes back: by the first answer of its post, or by an IDLE report (R9, R140).
-/
namespace Sys2Proof.Machine

section
variable {s : State} {f : Frame} {b : BayIx} {p : Prop} {ev : Ev} {t : Track} {v : Voice} (h : ev.Follows s f b p t v)
  {c : Contact} (post : s.post b = some (f.src, s.node f.src)) (contact : (s.node f.src).contact = some c)

include h in
theorem Ev.Follows.setOccupancy_unchanged {o : Occupancy} (same : t.dyn.occupancy = o) :
    (ev.setOccupancy b o).Follows s f b p (t.occ o) v := by
  rw [Ev.setOccupancy_same h.tracks.dyn o same]
  have unchanged : t.occ o = t := by unfold Track.occ Track.write; rw [← same]
  rw [unchanged]; exact h

include h in
/-- A FAULTED bay records its occupancy alone. -/
theorem Ev.Follows.setOccupancy_faulted (state : t.dyn.state = .faulted) (o : Occupancy) :
    (ev.setOccupancy b o).Follows s f b p (t.occ o) v := by
  by_cases same : t.dyn.occupancy = o
  · exact h.setOccupancy_unchanged same
  · have answers := h.setOccupancy_rests same (by rw [state]; simp [BayState.rests])
    unfold Track.rested at answers
    rwa [if_pos (by rw [state]; rfl)] at answers

include h in
/-- A bay without a hold, in the state of its occupancy, becomes vacant. -/
theorem Ev.Follows.setOccupancy_frees (state : t.dyn.state = t.dyn.occupancy.freed) : ∃ again,
    (ev.setOccupancy b .vacant).Follows s f b p { t with
      dyn := { t.dyn with occupancy := .vacant, state := .free }, note := t.note.follows again } v := by
  by_cases same : t.dyn.occupancy = .vacant
  · refine ⟨false, ?_⟩
    rw [same] at state
    have unchanged := h.setOccupancy_unchanged same
    have shape : t.occ .vacant = { t with
        dyn := { t.dyn with occupancy := .vacant, state := .free }, note := t.note.follows false } := by
      unfold Track.occ Track.write BayNote.follows
      rw [show BayState.free = t.dyn.state from state.symm]; rfl
    rw [← shape]; exact unchanged
  · have rests : t.dyn.state.rests := by
      rw [state]; unfold Occupancy.freed; split <;> simp [BayState.rests]
    have answers := h.setOccupancy_rests same rests
    unfold Track.rested at answers
    cases occupancy : t.dyn.occupancy with
    | vacant => exact absurd occupancy same
    | occupied =>
      rw [occupancy] at state
      rw [show t.dyn.state = .unbooked from state, if_neg (by decide)] at answers
      exact ⟨true, answers⟩
    | unknown =>
      rw [occupancy] at state
      rw [show t.dyn.state = .free from state, if_pos (by decide)] at answers
      refine ⟨false, ?_⟩
      have shape : t.occ .vacant = { t with
          dyn := { t.dyn with occupancy := .vacant, state := .free }, note := t.note.follows false } := by
        unfold Track.occ Track.write BayNote.follows
        rw [show BayState.free = t.dyn.state from state.symm]; rfl
      rw [← shape]; exact answers

/-- The record of a bay at which an IDLE report has been heard: vacant where there is no sensor. -/
def State.idled (s : State) (b : BayIx) (d : BayDyn) : BayDyn :=
  if s.sensor b = none then { s.hears b .idle d with occupancy := .vacant } else s.hears b .idle d

/-- IDLE at a FAULTED bay (R9, R13). -/
theorem State.hears_sensor {a : Addr} {e : NodeEntry} (sensor : s.sensor b = some (a, e)) (k : Connector) (d : BayDyn) :
    s.hears b k d = { d with connector := k } := by
  unfold State.hears State.ended
  exact if_neg (by rw [sensor]; exact Option.some_ne_none _)

include h post contact in
theorem Ev.Follows.idles_faulted {was : Bool} (state : t.dyn.state = .faulted) (before : s.sensor b = none ∨ was = false) :
    ((ev.connect b .idle).reportOccupancy b was).Follows s f b p (t.write (s.idled b)) v := by
  cases sensor : s.sensor b with
  | none =>
    have heard := (h.hears .idle).setOccupancy_faulted ((s.hears_fields b .idle t.dyn).1.trans state) .vacant
    rw [(h.connect .idle).reportOccupancy_vacant sensor rfl]
    have shape : (t.write (s.hears b .idle)).occ .vacant = t.write (s.idled b) := by
      unfold State.idled Track.occ Track.write; dsimp only; rw [if_pos sensor]
    rw [← shape]; exact heard
  | some e =>
    obtain ⟨a, e⟩ := e
    have off : was = false := before.resolve_left (by rw [sensor]; exact Option.some_ne_none _)
    rw [(h.connect .idle).reportOccupancy_sensor post contact sensor rfl, off, if_neg Bool.false_ne_true]
    have shape : t.connect .idle = t.write (s.idled b) := by
      unfold Track.connect Track.write State.idled
      rw [if_neg (by rw [sensor]; exact Option.some_ne_none _), State.hears_sensor sensor]
    rw [← shape]; exact h.connect .idle

theorem State.idled_fields (s : State) (b : BayIx) (d : BayDyn) : (s.idled b d).state = d.state
    ∧ (s.idled b d).connector = .idle ∧ (s.idled b d).active = d.active ∧ (s.idled b d).closeMode = d.closeMode
    ∧ (s.idled b d).suspect = d.suspect := by
  obtain ⟨state, _, connector, active, _, mode, suspect⟩ := s.hears_fields b .idle d
  unfold State.idled
  split <;> exact ⟨state, connector, active, mode, suspect⟩

include h post contact in
theorem Ev.Follows.report_idles_faulted {r : PostReport} {was polls : Bool} (idle : r.connector = .idle)
    (state : t.dyn.state = .faulted) (before : s.sensor b = none ∨ was = false) (sound : t.dyn.suspect = false)
    (active : t.dyn.active = none) (mode : t.dyn.closeMode = .none) (within : r.drawn ≤ r.inForce) :
    (ev.postEvidence b r was polls).Follows s f b p (((t.write (s.idled b)).met .faultCleared).write
      ({ · with state := (s.idled b t.dyn).occupancy.freed })) v := by
  obtain ⟨stateKept, connector, activeKept, modeKept, suspectKept⟩ := s.idled_fields b t.dyn
  have idles := h.idles_faulted post contact (was := was) state before
  have recovers := idles.recover_empty post contact (stateKept.trans state) (by
    rw [show (t.write (s.idled b)).dyn.connector = .idle from connector]; decide) (suspectKept.trans sound)
    (activeKept.trans active) (modeKept.trans mode)
  rw [Ev.postEvidence_eq, idle, h.connectorReport_eq (.inl (by decide)), if_pos state,
    recovers.energyFigure_unmetered (fun k held => by
      have same : t.dyn.active = some k := activeKept.symm.trans held
      rw [active] at same; cases same)]
  exact recovers.tail within polls

include h post contact in
/-- IDLE at a bay without a hold, in the state of its occupancy. -/
theorem Ev.Follows.report_idles {r : PostReport} {was polls : Bool} (idle : r.connector = .idle)
    (state : t.dyn.state = t.dyn.occupancy.freed) (before : s.sensor b = none ∨ was = false)
    (active : t.dyn.active = none) (within : r.drawn ≤ r.inForce) : ∃ again,
    (ev.postEvidence b r was polls).Follows s f b p { t with
      dyn := { s.idled b t.dyn with state := (s.idled b t.dyn).occupancy.freed }, note := t.note.follows again } v := by
  have notFaulted : t.dyn.state ≠ .faulted := fun st => Occupancy.freed_serves _ (state.symm.trans st)
  obtain ⟨stateKept, occupancyKept, connector, activeKept, _⟩ := s.hears_fields b .idle t.dyn
  have unmetered {y : Track} (activeY : y.dyn.active = t.dyn.active) : y.Unmetered := fun k held => by
    rw [activeY, active] at held; cases held
  cases sensor : s.sensor b with
  | none =>
    obtain ⟨again, frees⟩ := (h.hears .idle).setOccupancy_frees (by
      show (s.hears b .idle t.dyn).state = (s.hears b .idle t.dyn).occupancy.freed
      rw [stateKept, occupancyKept]; exact state)
    rw [← (h.connect .idle).reportOccupancy_vacant (was := was) sensor rfl] at frees
    refine ⟨again, ?_⟩
    have shape : ({ t with dyn := { s.idled b t.dyn with state := (s.idled b t.dyn).occupancy.freed }, note := t.note.follows again } : Track)
        = { t.write (s.hears b .idle) with
          dyn := { (t.write (s.hears b .idle)).dyn with occupancy := .vacant, state := .free }
          note := (t.write (s.hears b .idle)).note.follows again } := by
      unfold State.idled Track.write; dsimp only; rw [if_pos sensor]; rfl
    rw [shape, Ev.postEvidence_eq, idle, h.connectorReport_eq (.inl (by decide)), if_neg notFaulted,
      frees.connectorChange_none (show BayState.free ∉ [BayState.unbooked, .arrived, .charging, .done] by decide),
      frees.energyFigure_unmetered (unmetered activeKept)]
    exact frees.tail within polls
  | some e =>
    obtain ⟨a, e⟩ := e
    have off : was = false := before.resolve_left (by rw [sensor]; exact Option.some_ne_none _)
    have heard := h.connect .idle
    have shape : ({ t with dyn := { s.idled b t.dyn with state := (s.idled b t.dyn).occupancy.freed }, note := t.note.follows false } : Track)
        = t.connect .idle := by
      unfold Track.connect Track.write State.idled BayNote.follows
      rw [if_neg (by rw [sensor]; exact Option.some_ne_none _), State.hears_sensor sensor, if_neg Bool.false_ne_true]
      show ({ t with dyn := { t.dyn with connector := .idle, state := t.dyn.occupancy.freed } } : Track) = _
      rw [← state]
    have change : (ev.connect b .idle).connectorChange b t.dyn.connector = ev.connect b .idle := by
      by_cases same : (t.connect .idle).dyn.connector = t.dyn.connector
      · exact heard.connectorChange_same same
      · by_cases unbooked : t.dyn.state = .unbooked
        · rw [heard.connectorChange_unbooked same unbooked]
          exact if_neg (by rw [show (t.connect .idle).dyn.connector.isPlug = false from rfl]; simp)
        · refine heard.connectorChange_none ?_
          show t.dyn.state ∉ _
          have free : t.dyn.state = .free := by
            rw [state] at unbooked ⊢
            unfold Occupancy.freed at unbooked ⊢
            split
            · next occupied => rw [if_pos occupied] at unbooked; exact absurd rfl unbooked
            · rfl
          rw [free]; decide
    refine ⟨false, ?_⟩
    rw [shape, Ev.postEvidence_eq, idle, h.connectorReport_eq (.inl (by decide)), if_neg notFaulted,
      heard.reportOccupancy_sensor post contact sensor rfl, off, if_neg Bool.false_ne_true, change,
      heard.energyFigure_unmetered (unmetered rfl)]
    exact heard.tail within polls

end

/-! ## As the reports show it -/

section
variable {s : State} {f : Frame} {x : Transaction} {b : BayIx} {c : Contact} {r : PostReport} (h : s.PostAnswers f x b c r)
  (ok : ∀ e, (s.bay e).checkOk = true) (waitlist : s.waitlist = []) (within : r.drawn ≤ r.inForce)
  (state : (s.bay b).dyn.state = .faulted) (sound : (s.bay b).dyn.suspect = false)

/-- A note of a bay that comes back. -/
theorem clearedNote_tells (b : BayIx) (before : BayState) (again : Bool) :
    (((openNote b before).met .faultCleared).follows again).Tells b before 7 := by
  cases again <;> exact ⟨rfl, rfl, rfl, fun _ _ _ => rfl⟩

include state in
/-- The bay's track once its post has come back, its occupancy taken. -/
theorem State.track_note : (s.track b).note = openNote b .faulted := by
  show openNote b (s.bay b).dyn.state = _
  rw [state]

include h ok waitlist within state sound in
theorem State.PostAnswers.idle_recovers (idle : r.connector = .idle) (active : (s.bay b).dyn.active = none)
    (mode : (s.bay b).dyn.closeMode = .none) (before : s.sensor b = none ∨ s.plugEvidence b = false) :
    s.Shown f b { s.idled b (s.bay b).dyn with state := (s.idled b (s.bay b).dyn).occupancy.freed } s.index
      (fun t => s.AwaitsAs t b) [s.bayNoticeAt 0 b .faulted (s.idled b (s.bay b).dyn).occupancy.freed 7 0 0] := by
  have base := State.starts (f := f) (b := b) ok (s.Room [])
  have moves : BayState.faulted ≠ (s.idled b (s.bay b).dyn).occupancy.freed := (Occupancy.freed_serves _).symm
  have frames : (if BayState.faulted = (s.idled b (s.bay b).dyn).occupancy.freed then ([] : List Frame)
      else [] ++ [s.bayNoticeAt 0 b .faulted (s.idled b (s.bay b).dyn).occupancy.freed 7 0 0])
      = [s.bayNoticeAt 0 b .faulted (s.idled b (s.bay b).dyn).occupancy.freed 7 0 0] := if_neg moves
  rw [← frames]
  by_cases early : c.reachable = false ∧ (s.bay b).dyn.connector ≠ .fault
  · obtain ⟨unreachable, fit⟩ := early
    have recovered := base.recover_empty h.post h.contact state fit sound active mode
    have start : s.restoring f b c r = (Ev.start (s.answeredBy f)).recover b := by
      rw [h.restoring_eq ok, if_neg (by rw [unreachable]; exact Bool.false_ne_true), idle]
      dsimp only
      rw [if_neg (by decide), show Connector.idle.isPlug = false from rfl, Bool.and_false, if_neg Bool.false_ne_true]
    obtain ⟨again, follows⟩ := recovered.report_idles h.post h.contact (was := s.plugEvidence b) (polls := x.polls) idle rfl before
      active within
    rw [← start, show Ev.postEvidence _ b r _ x.polls = s.evident f x b c r from rfl] at follows
    have shape : ({ s.idled b { (s.bay b).dyn with state := (s.bay b).dyn.occupancy.freed } with
          state := (s.idled b { (s.bay b).dyn with state := (s.bay b).dyn.occupancy.freed }).occupancy.freed } : BayDyn)
        = { s.idled b (s.bay b).dyn with state := (s.idled b (s.bay b).dyn).occupancy.freed } := by
      unfold State.idled State.hears State.ended
      split <;> rfl
    rw [← shape]
    have note := clearedNote_tells b .faulted again
    rw [← State.track_note state] at note
    have shown := h.shown_evident (n := 0) (fs := []) ok waitlist follows note (late := fun t => s.AwaitsAs t b)
      (fun _ awaits => awaits)
    have same : (s.idled b { (s.bay b).dyn with state := (s.bay b).dyn.occupancy.freed }).occupancy
        = (s.idled b (s.bay b).dyn).occupancy := by
      unfold State.idled State.hears State.ended
      split <;> rfl
    rw [← same]
    exact shown
  · have start : s.restoring f b c r = Ev.start (s.answeredBy f) := by
      rw [h.restoring_eq ok]
      by_cases reachable : c.reachable = true
      · exact if_pos reachable
      · have fault : (s.bay b).dyn.connector = .fault :=
          not_not.1 fun fit => early ⟨Bool.eq_false_iff.2 reachable, fit⟩
        rw [if_neg reachable, idle]
        dsimp only
        rw [if_neg (by decide), show Connector.idle.isPlug = false from rfl, Bool.and_false, if_neg Bool.false_ne_true]
        refine Ev.recover_fails base.tracks.dyn (.inr fun none_ => ?_)
        exact (State.faultCauses_nil.1 none_).1 fault
    have follows := base.report_idles_faulted h.post h.contact (was := s.plugEvidence b) (polls := x.polls) idle state before sound
      active mode within
    rw [← State.evident_plain start] at follows
    have note := clearedNote_tells b .faulted false
    rw [← State.track_note state] at note
    exact h.shown_evident (n := 0) (fs := []) ok waitlist follows note (late := fun t => s.AwaitsAs t b)
      (fun _ awaits => awaits)

section
variable (unreachable : c.reachable = false) (plugs : r.connector.isPlug = true) (fit : (s.bay b).dyn.connector ≠ .fault)

include h ok unreachable plugs state in
/-- The first answer of the post, a plug-in: the occupancy that the restored contact brings into force, then the recovery. -/
theorem State.PostAnswers.restoring_recovers (p : Prop) : ∃ w : Ev, s.restoring f b c r = w.recover b
    ∧ w.Follows s f b p ((s.track b).occ (s.bay b).dyn.regained) (s.placed 0 []) := by
  have base := State.starts (f := f) (b := b) ok p
  have noFault : r.connector ≠ .fault := fun fault => by rw [fault] at plugs; cases plugs
  have eq := h.restoring_eq ok
  rw [if_neg (by rw [unreachable]; exact Bool.false_ne_true), plugs, Bool.and_true] at eq
  dsimp only at eq
  rw [if_neg noFault] at eq
  unfold BayDyn.regained
  by_cases plugged : (s.bay b).dyn.connector.isPlug = true
  · rw [if_pos plugged] at eq ⊢
    exact ⟨_, eq, base.setOccupancy_faulted state .occupied⟩
  · rw [if_neg plugged] at eq ⊢
    exact ⟨_, eq, base⟩

include h ok waitlist within state sound unreachable plugs fit in
theorem State.PostAnswers.restored_seats (active : (s.bay b).dyn.active = none) (mode : (s.bay b).dyn.closeMode = .none)
    (refused : (s.bay b).dyn.connector.isPlug = true ∨ s.walksIn b = false) :
    s.Shown f b { s.hears b r.connector (s.bay b).dyn with occupancy := .occupied, state := .unbooked } s.index
      (fun t => s.AwaitsAs t b) [s.bayNoticeAt 0 b .faulted .unbooked 7 0 0] := by
  obtain ⟨w, start, follows⟩ := h.restoring_recovers ok state unreachable plugs (s.Room [])
  have recovered := follows.recover_empty h.post h.contact state fit sound active mode
  have seated := recovered.report_seats h.post h.contact (was := s.plugEvidence b) (polls := x.polls) plugs (by
      show (s.bay b).dyn.regained.freed = _ ∨ (s.bay b).dyn.regained.freed = _ ∧ (s.bay b).dyn.regained ≠ _
      cases (s.bay b).dyn.regained <;> simp [Occupancy.freed]) active refused within
  rw [← start, show Ev.postEvidence _ b r _ x.polls = s.evident f x b c r from rfl] at seated
  have note := clearedNote_tells b .faulted (decide ((s.bay b).dyn.regained.freed = .free))
  rw [← State.track_note state] at note
  have shown := h.shown_evident (n := 0) (fs := []) ok waitlist seated note (late := fun t => s.AwaitsAs t b)
    (fun _ awaits => awaits)
  have shape : ({ s.hears b r.connector { (s.bay b).dyn with
        occupancy := (s.bay b).dyn.regained, state := (s.bay b).dyn.regained.freed } with
        occupancy := .occupied, state := .unbooked } : BayDyn)
      = { s.hears b r.connector (s.bay b).dyn with occupancy := .occupied, state := .unbooked } := by
    unfold State.hears State.ended
    split <;> rfl
  rw [← shape]
  exact shown

include h ok waitlist within state sound unreachable plugs fit in
theorem State.PostAnswers.restored_walksIn (active : (s.bay b).dyn.active = none) (mode : (s.bay b).dyn.closeMode = .none)
    (unplugged : (s.bay b).dyn.connector.isPlug = false) (permits : s.walksIn b = true) (serves : s.Serves b)
    (stay : 0 < (s.classOf (s.bay b).cls).stay) (top : (s.classOf (s.bay b).cls).stay ≤ 480)
    (overstay : s.timing.overstay ≤ 60) :
    s.Shown f b { s.hears b r.connector (s.bay b).dyn with
        occupancy := .occupied, state := .charging, active := some (s.walkInBased b r.energy) } s.index
      (fun y => y.Awaits b none (some (s.overstayAt (s.walkInBased b r.energy))) (s.bay b).timer.displacement)
      [s.bayNoticeAt 0 b .faulted .charging 2 0 0] := by
  obtain ⟨w, start, follows⟩ := h.restoring_recovers ok state unreachable plugs (s.Room [])
  have recovered := follows.recover_empty h.post h.contact state fit sound active mode
  refine h.walksIn_shown ok waitlist within start recovered plugs unplugged (by
      show (s.bay b).dyn.regained.freed = _ ∨ (s.bay b).dyn.regained.freed = _ ∧ (s.bay b).dyn.regained ≠ _
      cases (s.bay b).dyn.regained <;> simp [Occupancy.freed]) permits serves stay top overstay rfl (by decide) (restored := true) ?_ ?_
  · show (s.track b).note.met .faultCleared = _
    rw [State.track_note state]; rfl
  · show ({ s.hears b r.connector { (s.bay b).dyn with
        occupancy := (s.bay b).dyn.regained, state := (s.bay b).dyn.regained.freed } with
        occupancy := .occupied, state := .charging, active := some (s.walkInBased b r.energy) } : BayDyn) = _
    unfold State.hears State.ended
    split <;> rfl

include h ok waitlist within state sound unreachable plugs fit in
theorem State.PostAnswers.restored_thirds {hold : Hold} (active : (s.bay b).dyn.active = some hold) (arrival : hold.arrival ≠ none)
    (occupancy : (s.bay b).dyn.occupancy ≠ .vacant) (serves : s.Serves b) (last : hold.lastPostEnergy = some r.energy)
    (top : hold.energyDelivered ≤ 4294967295) :
    s.Shown f b (s.finds b r.connector (s.bay b).dyn hold) s.index (fun t => s.AwaitsAs t b)
      [s.bayNoticeAt 0 b .faulted (s.thirdBy r.connector hold) 7 0 0] := by
  obtain ⟨w, start, follows⟩ := h.restoring_recovers ok state unreachable plugs (s.Room [])
  have present : (s.bay b).dyn.regained ≠ .vacant := by
    unfold BayDyn.regained; split
    · decide
    · exact occupancy
  have recovered := follows.recover_arrived (k := hold) h.post h.contact state fit sound active arrival present serves
  obtain ⟨again, thirds⟩ := recovered.report_thirds h.post h.contact (was := s.plugEvidence b) (polls := x.polls) (hold := hold)
    (.inl plugs) active arrival rfl serves last top within
  rw [← start, show Ev.postEvidence _ b r _ x.polls = s.evident f x b c r from rfl] at thirds
  have note := clearedNote_tells b .faulted again
  rw [← State.track_note state] at note
  have shown := h.shown_evident (n := 0) (fs := []) ok waitlist thirds note (late := fun t => s.AwaitsAs t b)
    (fun _ awaits => awaits)
  have moves : BayState.faulted ≠ s.thirdBy r.connector hold := fun same => by
    have mem := s.thirdBy_mem r.connector hold
    rw [← same] at mem; simp at mem
  have frames : (if BayState.faulted = s.thirdBy r.connector hold then ([] : List Frame)
      else [] ++ [s.bayNoticeAt 0 b .faulted (s.thirdBy r.connector hold) 7 0 0])
      = [s.bayNoticeAt 0 b .faulted (s.thirdBy r.connector hold) 7 0 0] := if_neg moves
  have shape : s.finds b r.connector { (s.bay b).dyn with
        occupancy := (s.bay b).dyn.regained, state := s.thirdBy (s.bay b).dyn.connector hold } hold
      = s.finds b r.connector (s.bay b).dyn hold := by
    unfold State.finds State.hears State.ended
    split <;> rfl
  rw [← frames, ← shape]
  exact shown

end

end

end Sys2Proof.Machine
end

section
/-!
SUPPORT. A report of FAULT, and what an answer shows whose event has logged an error (R8, R12, R15).
-/
namespace Sys2Proof.Machine

/-! ## Errors on the track -/

/-- An error leaves the frames that wait in the FIFO where they stand. -/
theorem State.logError_grows (s : State) (e : ErrorReport) : s.uplink.fifo <+: (s.logError e).uplink.fifo := by
  by_cases told : s.notifies e
  · rw [(State.logError_told told).2]
    split
    · exact List.prefix_append _ _
    · exact List.prefix_refl _
  · rw [(State.logError_untold told).2]

section
variable {s : State} {f : Frame} {b : BayIx} {p : Prop} {ev : Ev} {t : Track} {v : Voice}

theorem Ev.Follows.log (h : ev.Follows s f b True t (s.placed 0 [])) (e : ErrorReport) :
    (ev.log e).Follows s f b True t ((s.logError e).placed 0 []) := by
  refine ⟨h.tracks.leaves (Ev.log_books ev e) (Ev.log_desk ev e), fun _ => ?_⟩
  have still := h.tracks.still
  exact Ev.log_placed (h.voice trivial) (congrArg Still.now still) (congrArg Still.siteOffset still)
    (congrArg Still.controller still) e

variable (h : ev.Follows s f b p t v)

include h in
theorem Ev.Follows.noteFault (c : FaultCause) : (ev.noteFault b c).Follows s f b p { t with note := t.note.failed c } v :=
  ⟨h.tracks.noteFault c, fun room => (Ev.noteFault_voice ev b c).trans (h.voice room)⟩

/-- The track of a bay that a fault cause has made FAULTED. -/
def Track.faulted (t : Track) (c : FaultCause) : Track :=
  { t with dyn := { t.dyn with state := .faulted }, note := (t.note.failed c).met .faulted }

include h in
theorem Ev.Follows.gainFault (c : FaultCause) (open_ : t.dyn.state ≠ .closed) (serves : t.dyn.state ≠ .faulted) :
    (ev.gainFault b c).Follows s f b p (t.faulted c) v := by
  rw [Ev.gainFault_serving (by rw [h.tracks.dyn]; exact open_) (by rw [h.tracks.dyn]; exact serves)]
  exact ((h.noteFault c).setState fun charging => by cases charging).note .faulted

/-! ## The end of an event that has logged an error -/

include h in
/-- The notes of an event that raises one for its bay. -/
theorem Ev.Follows.notes (raised : t.note.raised t.dyn.state = true) : ev.desk.notes = [t.note] := by
  obtain ⟨scan, desk⟩ := h.tracks.desk
  have touched := congrArg Desk.notes desk
  unfold Desk.touch at touched
  split at touched
  · exact touched
  · have opened : ev.desk.notes ++ [openNote b t.dyn.state] = [t.note] := touched
    have last : openNote b t.dyn.state = t.note := by simpa using congrArg List.getLast? opened
    rw [← last, openNote_quiet] at raised
    cases raised

/-- What an answer shows whose event has said no more than `u` before its BAY-NOTICE. -/
theorem Ev.Follows.says {u : State} (h : ev.Follows s f b True t (u.placed 0 [])) (controller : u.controller = s.controller)
    (ok : ∀ e, (s.bay e).checkOk = true) (waitlist : s.waitlist = []) (raised : t.note.raised t.dyn.state = true)
    (room : u.uplink.fifo.length + 2 ≤ 32) (o : Option Frame) : (ev.carry o).finish.recorder = u.recorder
      ∧ (u.controller.noticeDest ≠ 0 → u.uplink.fifo ++ [u.noteAt 0 t.note t.dyn.state] <+: (ev.carry o).finish.uplink.fifo) := by
  have notes := h.notes raised
  have voice := h.voice trivial
  have scan : ev.scan = false ∨ ev.books.waitlist = [] := .inr (h.tracks.waitlist.trans waitlist)
  have length : ev.voice.uplink.fifo.length = u.uplink.fifo.length := by rw [voice]; simp [State.placed]
  refine ⟨?_, fun somebody => ?_⟩
  · have flushed : ev.flushNotes.st.recorder = u.recorder := by
      rw [Ev.flushNotes_recorder (by rw [voice]; rfl) (by rw [length, notes, List.length_singleton]; omega), voice]
      rfl
    have grown : ev.flushNotes.voice.uplink.fifo.length ≤ u.uplink.fifo.length + 1 := by
      rw [Ev.flushNotes_voice _ (by rw [voice]; rfl) (by rw [length, notes, List.length_singleton]; omega), notes,
        List.foldl_cons, List.foldl_nil, ← length]
      exact (Voice.raise_fifo _ _ _ (by rw [voice]; rfl)).2
    obtain ⟨_, scanned, noNotes⟩ := Ev.carry_leaves scan o
    have settled := (Ev.finish_voice (ev.carry o) (.inl scanned) (.inr (by
      rw [Ev.carry_books scan]; exact h.tracks.ok ok))).1
    rw [Ev.flushNotes_fixed _ noNotes, Ev.carry_eq scan] at settled
    rw [Ev.carry_eq scan, settled, ← flushed]
    cases o with
    | none => rfl
    | some x =>
      have placed := Ev.place_voice ({ ev.flushNotes with scan := false } : Ev) (f := x)
        (.inr (show ev.flushNotes.voice.uplink.fifo.length < 32 by omega))
      refine (congrArg Voice.recorder placed).trans ?_
      unfold Voice.push
      split <;> rfl
  · have flushed := Ev.flushNotes_note (s := u) (k := 0) (fs := []) (n := t.note) (after := t.dyn.state) (fun _ => voice) notes
      (by rw [h.tracks.still, controller]; rfl) (by rw [h.tracks.bay, h.tracks.dyn]) raised somebody
      (by rw [List.nil_append, List.length_singleton]; omega)
    have fifo : ev.flushNotes.st.uplink.fifo = u.uplink.fifo ++ [u.noteAt 0 t.note t.dyn.state] :=
      congrArg (fun w : Voice => w.uplink.fifo) flushed
    rw [← fifo]
    exact Ev.carry_fifo scan o

/-! ## The occupancy of a FAULTED bay (R12, R13) -/

/-- The record of a bay with a sensor at which plug evidence has ended (R12). -/
def State.lapsed (s : State) (e : NodeEntry) (d : BayDyn) : BayDyn :=
  if e.isReachable = false then { d with occupancy := .unknown }
  else if d.candidate = some .vacant ∧ s.timing.debounce ≤ d.debounce then
    { d with occupancy := .vacant, candidate := none, debounce := 0 }
  else d

theorem State.lapsed_fields (s : State) (e : NodeEntry) (d : BayDyn) : (s.lapsed e d).state = d.state
    ∧ (s.lapsed e d).connector = d.connector ∧ (s.lapsed e d).active = d.active ∧ (s.lapsed e d).staged = d.staged
    ∧ (s.lapsed e d).closeMode = d.closeMode := by
  unfold State.lapsed
  split
  · exact ⟨rfl, rfl, rfl, rfl, rfl⟩
  · split <;> exact ⟨rfl, rfl, rfl, rfl, rfl⟩

include h in
theorem Ev.Follows.plugEnds_eq (e : NodeEntry) : ev.plugEnds b e = if e.isReachable = false then ev.setOccupancy b .unknown
    else if t.dyn.candidate = some .vacant ∧ s.timing.debounce ≤ t.dyn.debounce then
      (ev.modDyn b BayDyn.endRun).setOccupancy b .vacant
    else ev := by
  unfold Ev.plugEnds
  dsimp only
  rw [show (ev.bay b).dyn = t.dyn from h.tracks.dyn, show ev.st.timing = s.timing from congrArg Still.timing h.tracks.still]
  cases e.isReachable <;> rfl

include h in
theorem Ev.Follows.plugEnds_faulted (state : t.dyn.state = .faulted) (e : NodeEntry) :
    (ev.plugEnds b e).Follows s f b p (t.write (s.lapsed e)) v := by
  rw [h.plugEnds_eq e]
  unfold State.lapsed Track.write
  dsimp only
  split
  · exact h.setOccupancy_faulted state .unknown
  · split
    · exact (h.modDyn (g := BayDyn.endRun) rfl).setOccupancy_faulted state .vacant
    · exact h

/-- The record of a bay whose connector is FAULT, its occupancy taken. -/
def State.lapses (s : State) (b : BayIx) (was : Bool) (d : BayDyn) : BayDyn :=
  match s.sensor b with
  | none => d.endRun
  | some (_, e) => if was then s.lapsed e d else d

theorem State.lapses_fields (s : State) (b : BayIx) (was : Bool) (d : BayDyn) : (s.lapses b was d).state = d.state
    ∧ (s.lapses b was d).connector = d.connector := by
  unfold State.lapses
  split
  · exact ⟨rfl, rfl⟩
  · split
    · exact ⟨(s.lapsed_fields _ d).1, (s.lapsed_fields _ d).2.1⟩
    · exact ⟨rfl, rfl⟩

variable {c : Contact} (post : s.post b = some (f.src, s.node f.src)) (contact : (s.node f.src).contact = some c)

include h post contact in
theorem Ev.Follows.reportOccupancy_faulted {was : Bool} (connector : t.dyn.connector = .fault) (state : t.dyn.state = .faulted) :
    (ev.reportOccupancy b was).Follows s f b p (t.write (s.lapses b was)) v := by
  unfold State.lapses Track.write
  cases sensor : s.sensor b with
  | none =>
    rw [h.reportOccupancy_fault sensor connector]
    unfold Ev.runEnds
    rw [if_pos sensor]
    exact h.modDyn (g := BayDyn.endRun) rfl
  | some e =>
    rw [h.reportOccupancy_sensor post contact sensor (by rw [connector]; rfl)]
    dsimp only
    split
    · exact h.plugEnds_faulted state _
    · exact h

/-! ## A report of FAULT (R15) -/

theorem Track.unmetered_fault (connector : t.dyn.connector = .fault) : t.Unmetered :=
  fun _ _ => .inr ⟨by rw [connector]; rfl, by rw [connector]; decide⟩

include h in
theorem Ev.Follows.recover_faulty (connector : t.dyn.connector = .fault) : ev.recover b = ev := by
  refine Ev.recover_fails h.tracks.dyn (.inr fun none_ => ?_)
  refine (State.faultCauses_nil.1 none_).1 ?_
  rw [show (ev.st.bay b).dyn = t.dyn from h.tracks.dyn]
  exact connector

include h in
theorem Ev.Follows.connectorReport_fails {was : Bool} (connector : t.dyn.connector ≠ .fault) : ev.connectorReport b .fault was
    = let w := (((ev.connect b .fault).log { kind := .postFault, bay := some b }).gainFault b .connectorFault).reportOccupancy b was
      if t.dyn.state = .faulted then w.recover b else w.connectorChange b t.dyn.connector := by
  unfold Ev.connectorReport
  dsimp only
  rw [show (ev.bay b).dyn = t.dyn from h.tracks.dyn,
    if_pos (c := Connector.fault = .fault ∧ t.dyn.connector ≠ .fault) ⟨rfl, connector⟩]
  rfl

include post contact in
theorem Ev.Follows.report_faults (h : ev.Follows s f b True t (s.placed 0 [])) {r : PostReport} {was polls : Bool}
    (fault : r.connector = .fault) (connector : t.dyn.connector ≠ .fault) (open_ : t.dyn.state ≠ .closed)
    (serves : t.dyn.state ≠ .faulted) (within : r.drawn ≤ r.inForce) :
    (ev.postEvidence b r was polls).Follows s f b True
      (((t.connect .fault).faulted .connectorFault).write (s.lapses b was))
      ((s.logError { kind := .postFault, bay := some b }).placed 0 []) := by
  have failed := ((h.connect .fault).log { kind := .postFault, bay := some b }).gainFault .connectorFault open_ serves
  have told := failed.reportOccupancy_faulted post contact (was := was) rfl rfl
  have state : (((t.connect .fault).faulted .connectorFault).write (s.lapses b was)).dyn.state = .faulted :=
    (s.lapses_fields b was _).1
  have runs := h.connectorReport_fails (was := was) connector
  dsimp only at runs
  rw [if_neg serves] at runs
  rw [Ev.postEvidence_eq, fault, runs, told.connectorChange_none (by rw [state]; decide),
    told.energyFigure_unmetered (Track.unmetered_fault (s.lapses_fields b was _).2)]
  exact told.tail within polls

include post contact in
/-- At a FAULTED bay the change to FAULT is logged, and nothing else comes of it. -/
theorem Ev.Follows.report_stays (h : ev.Follows s f b True t (s.placed 0 [])) {r : PostReport} {was polls : Bool}
    (fault : r.connector = .fault) (state : t.dyn.state = .faulted) (within : r.drawn ≤ r.inForce) :
    ∃ v, (ev.postEvidence b r was polls).Follows s f b True ((t.connect .fault).write (s.lapses b was)) v
      ∧ s.uplink.fifo <+: v.uplink.fifo := by
  have ends {w : Ev} {v : Voice} (told : w.Follows s f b True (t.connect .fault) v)
      (runs : ev.connectorReport b .fault was = (w.reportOccupancy b was).recover b) :
      (ev.postEvidence b r was polls).Follows s f b True ((t.connect .fault).write (s.lapses b was)) v := by
    have reported := told.reportOccupancy_faulted post contact (was := was) rfl state
    have connector : ((t.connect .fault).write (s.lapses b was)).dyn.connector = .fault := (s.lapses_fields b was _).2
    rw [Ev.postEvidence_eq, fault, runs, reported.recover_faulty connector,
      reported.energyFigure_unmetered (Track.unmetered_fault connector)]
    exact reported.tail within polls
  have heard := h.connect .fault
  by_cases old : t.dyn.connector = .fault
  · refine ⟨_, ends heard ?_, by simp [State.placed]⟩
    rw [h.connectorReport_eq (.inr old), if_pos state]
  · have logged := heard.log { kind := .postFault, bay := some b }
    refine ⟨_, ends logged ?_, by simpa [State.placed] using s.logError_grows _⟩
    have idle : ((ev.connect b .fault).log { kind := .postFault, bay := some b }).gainFault b .connectorFault
        = (ev.connect b .fault).log { kind := .postFault, bay := some b } :=
      Ev.gainFault_idle (.inr (by rw [logged.tracks.dyn]; exact state))
    have runs := h.connectorReport_fails (was := was) old
    dsimp only at runs
    rw [if_pos state] at runs
    rw [runs, idle]

end

/-! ## As the reports show it -/

section
variable {s : State} {f : Frame} {x : Transaction} {b : BayIx} {c : Contact} {r : PostReport} (h : s.PostAnswers f x b c r)
  (ok : ∀ e, (s.bay e).checkOk = true) (waitlist : s.waitlist = []) (within : r.drawn ≤ r.inForce)

include h ok waitlist in
/-- A report whose event leaves the frames that wait where they stand. -/
theorem State.PostAnswers.shown_grown {t : Track} {v : Voice} (follows : (s.evident f x b c r).Follows s f b True t v)
    (grown : s.uplink.fifo <+: v.uplink.fifo) {late : State → Prop}
    (awaits : ∀ y : State, y.Awaits b t.noShow t.overstay (s.bay b).timer.displacement → late y) :
    s.Shown f b t.dyn t.index late [] := by
  refine h.shown ok waitlist follows (fun _ o => Ev.carry_sends (.inr (follows.tracks.waitlist.trans waitlist)) o fun _ => ?_)
    awaits
  rw [List.append_nil]
  refine grown.trans ?_
  rw [← follows.voice trivial]
  have flushed : Moves (s.evident f x b c r) (s.evident f x b c r).flushNotes := Moves.refl.flushNotes
  exact flushed.fifo

section
variable (fault : r.connector = .fault)

/-- The record of a bay whose post reports FAULT. -/
def State.breaks (s : State) (b : BayIx) (d : BayDyn) : BayDyn :=
  s.lapses b (s.plugEvidence b) { d with connector := .fault }

include h ok waitlist within fault in
theorem State.PostAnswers.stays_shown (state : (s.bay b).dyn.state = .faulted) :
    s.Shown f b (s.breaks b (s.bay b).dyn) s.index (fun t => s.AwaitsAs t b) [] := by
  obtain ⟨v, follows, grown⟩ := (State.starts (f := f) ok True).report_stays h.post h.contact (was := s.plugEvidence b)
    (polls := x.polls) fault state within
  rw [← State.evident_plain (h.restoring_plain ok (.inr (.inl fault)))] at follows
  exact h.shown_grown ok waitlist follows grown (late := fun t => s.AwaitsAs t b) (fun _ awaits => awaits)

variable (connector : (s.bay b).dyn.connector ≠ .fault) (open_ : (s.bay b).dyn.state ≠ .closed)
  (serves : (s.bay b).dyn.state ≠ .faulted)

include h ok within fault connector open_ serves in
theorem State.PostAnswers.faults : (s.evident f x b c r).Follows s f b True
    ((((s.track b).connect .fault).faulted .connectorFault).write (s.lapses b (s.plugEvidence b)))
    ((s.logError { kind := .postFault, bay := some b }).placed 0 []) := by
  rw [State.evident_plain (h.restoring_plain ok (.inr (.inl fault)))]
  exact (State.starts (f := f) ok True).report_faults h.post h.contact fault connector open_ serves within

include h ok waitlist within fault connector open_ serves in
theorem State.PostAnswers.faults_shown : s.Shown f b (s.breaks b { (s.bay b).dyn with state := .faulted }) s.index
    (fun t => s.AwaitsAs t b) [] :=
  h.shown_grown ok waitlist (h.faults ok within fault connector open_ serves) (by
    simpa [State.placed] using s.logError_grows _) (late := fun t => s.AwaitsAs t b) (fun _ awaits => awaits)

include h ok waitlist within fault connector open_ serves in
theorem State.PostAnswers.faults_said (room : s.uplink.fifo.length + 3 ≤ 32) :
    ∃ t, exec (.frameReception .downlink f.received) s = .next t
      ∧ t.recorder = (s.logError { kind := .postFault, bay := some b }).recorder
      ∧ (s.controller.noticeDest ≠ 0 →
        (s.logError { kind := .postFault, bay := some b }).uplink.fifo
          ++ [(s.logError { kind := .postFault, bay := some b }).bayNoticeAt 0 b (s.bay b).dyn.state .faulted 6 0 1]
          <+: t.uplink.fifo) := by
  obtain ⟨o, runs⟩ := h.runs
  have follows := h.faults ok within fault connector open_ serves
  have length := State.logError_fifo (s := s) { kind := .postFault, bay := some b } (by omega)
  have state : ((((s.track b).connect .fault).faulted .connectorFault).write (s.lapses b (s.plugEvidence b))).dyn.state
      = .faulted := (s.lapses_fields b _ _).1
  have raised : (faultNote b (s.bay b).dyn.state .connectorFault).raised .faulted = true := faultNote_raised serves
  obtain ⟨recorder, sends⟩ := follows.says (s.logError_controller _) ok waitlist (by rw [state]; exact raised) (by omega) o
  rw [state] at sends
  refine ⟨_, runs, recorder, fun somebody => sends ?_⟩
  rw [s.logError_controller]; exact somebody

end

end

end Sys2Proof.Machine
end

section
/-!
SUPPORT. A report with which plug evidence ends at a bay with a sensor (R12).
-/
namespace Sys2Proof.Machine

section
variable {s : State} {f : Frame} {b : BayIx} {p : Prop} {ev : Ev} {t : Track} {v : Voice} (h : ev.Follows s f b p t v)
  {c : Contact} (post : s.post b = some (f.src, s.node f.src)) (contact : (s.node f.src).contact = some c)

include h post contact in
theorem Ev.Follows.postEvidence_ends {r : PostReport} {polls : Bool} {a : Addr} {e : NodeEntry} (sensor : s.sensor b = some (a, e))
    (unplugged : r.connector.isPlug = false) (noFault : r.connector ≠ .fault) (serves : t.dyn.state ≠ .faulted) :
    ev.postEvidence b r true polls = ((((ev.connect b r.connector).plugEnds b e).connectorChange b t.dyn.connector).energyFigure b
      r.energy (!(ev.bay b).dyn.connector.isPlug && r.connector.isPlug)).tail b r polls := by
  rw [Ev.postEvidence_eq, h.connectorReport_eq (.inl noFault), if_neg serves,
    (h.connect r.connector).reportOccupancy_sensor post contact sensor unplugged, if_pos rfl]

include h in
/-- An UNBOOKED bay is FREE once it is no longer occupied. -/
theorem Ev.Follows.plugEnds_unbooked (state : t.dyn.state = .unbooked) (occupied : t.dyn.occupancy = .occupied) (e : NodeEntry) :
    ∃ again, (ev.plugEnds b e).Follows s f b p { t with
      dyn := { s.lapsed e t.dyn with state := (s.lapsed e t.dyn).occupancy.freed }, note := t.note.follows again } v := by
  have frees {w : Ev} {y : Track} (h : w.Follows s f b p y v) (state : y.dyn.state = .unbooked)
      (occupied : y.dyn.occupancy = .occupied) {o : Occupancy} (other : o ≠ .occupied) :
      (w.setOccupancy b o).Follows s f b p (((y.occ o).write ({ · with state := .free })).met .evidence) v := by
    have answers := h.setOccupancy_rests (o := o) (by rw [occupied]; exact other.symm) (by rw [state]; simp [BayState.rests])
    have rested : BayState.unbooked.rested o = .free := by
      cases o with
      | occupied => exact absurd rfl other
      | vacant | unknown => rfl
    unfold Track.rested at answers
    rw [state, rested, if_neg (by decide)] at answers
    exact answers
  rw [h.plugEnds_eq e]
  unfold State.lapsed
  split
  · exact ⟨true, frees h state occupied (by decide)⟩
  · split
    · exact ⟨true, frees (h.modDyn (g := BayDyn.endRun) rfl) state occupied (by decide)⟩
    · refine ⟨false, ?_⟩
      have shape : ({ t with dyn := { t.dyn with state := t.dyn.occupancy.freed }, note := t.note.follows false } : Track) = t := by
        rw [occupied, show Occupancy.freed .occupied = t.dyn.state from state.symm]; rfl
      rw [shape]; exact h

include h in
/-- A plug-out at a bay without a hold changes nothing by its connector. -/
theorem Ev.Follows.connectorChange_unplugs {old : Connector} (plugged : old.isPlug = true)
    (state : t.dyn.state = .unbooked ∨ t.dyn.state = .free) : ev.connectorChange b old = ev := by
  by_cases same : t.dyn.connector = old
  · exact h.connectorChange_same same
  · rcases state with st | st
    · rw [h.connectorChange_unbooked same st]
      exact if_neg (by rw [plugged]; exact Bool.false_ne_true)
    · exact h.connectorChange_none (by rw [st]; decide)

include h post contact in
theorem Ev.Follows.report_unseats {r : PostReport} {polls : Bool} {a : Addr} {e : NodeEntry} (sensor : s.sensor b = some (a, e))
    (unplugged : r.connector.isPlug = false) (noFault : r.connector ≠ .fault) (plugged : t.dyn.connector.isPlug = true)
    (state : t.dyn.state = .unbooked) (occupied : t.dyn.occupancy = .occupied) (active : t.dyn.active = none)
    (within : r.drawn ≤ r.inForce) : ∃ again, (ev.postEvidence b r true polls).Follows s f b p { t with
      dyn := { s.lapsed e { t.dyn with connector := r.connector } with
        state := (s.lapsed e { t.dyn with connector := r.connector }).occupancy.freed }
      note := t.note.follows again } v := by
  obtain ⟨again, ends⟩ := (h.connect r.connector).plugEnds_unbooked state occupied e
  refine ⟨again, ?_⟩
  rw [h.postEvidence_ends post contact sensor unplugged noFault (by rw [state]; decide),
    ends.connectorChange_unplugs plugged (by
      show Occupancy.freed _ = _ ∨ Occupancy.freed _ = _
      unfold Occupancy.freed; split
      · exact .inl rfl
      · exact .inr rfl),
    ends.energyFigure_unmetered (fun k held => by
      have kept : (s.lapsed e { t.dyn with connector := r.connector }).active = t.dyn.active := (s.lapsed_fields e _).2.2.1
      have same : t.dyn.active = some k := kept.symm.trans held
      rw [active] at same; cases same)]
  exact ends.tail within polls

theorem BayDyn.vacated_vacant {d : BayDyn} (vacant : d.occupancy = .vacant) : d.vacated = .free := by
  unfold BayDyn.vacated; rw [vacant]; rfl

section
variable {r : PostReport} {a : Addr} {e : NodeEntry} (sensor : s.sensor b = some (a, e)) (idle : r.connector = .idle)
  (plugged : t.dyn.connector.isPlug = true) (state : t.dyn.state ∈ [BayState.arrived, .charging, .done])
  {hold : Hold} (active : t.dyn.active = some hold)

/-- The states of an arrived hold before its overstay are states of an arrived hold. -/
theorem BayState.staying {st : BayState} (state : st ∈ [BayState.arrived, .charging, .done]) :
    st ∈ [BayState.arrived, .charging, .done, .overstay] ∧ st ≠ .faulted := by
  simp only [List.mem_cons, List.not_mem_nil, or_false] at state ⊢
  rcases state with rfl | rfl | rfl <;> simp

include h post contact sensor idle plugged state active in
/-- The vehicle may still be there: step 3 of the derivation. -/
theorem Ev.Follows.report_unplugs {polls : Bool} (arrival : hold.arrival ≠ none)
    (present : (s.lapsed e { t.dyn with connector := .idle }).occupancy ≠ .vacant) (serves : s.Serves b)
    (within : r.drawn ≤ r.inForce) : (ev.postEvidence b r true polls).Follows s f b p { t with
      dyn := { s.lapsed e { t.dyn with connector := .idle } with state := s.thirdBy .idle hold }
      note := t.note.met .evidence } v := by
  obtain ⟨listed, inService⟩ := BayState.staying state
  have heard := h.connect .idle
  have ends : ((ev.connect b .idle).plugEnds b e).Follows s f b p ((t.connect .idle).write (s.lapsed e)) v := by
    rw [heard.plugEnds_eq e]
    unfold State.lapsed at present ⊢
    unfold Track.write
    dsimp only
    split
    · exact heard.setOccupancy_arrived (by decide) listed
    · next reachable =>
      rw [if_neg reachable] at present
      split
      · next reached => rw [if_pos (c := t.dyn.candidate = _ ∧ s.timing.debounce ≤ t.dyn.debounce) reached] at present; exact absurd rfl present
      · exact heard
  obtain ⟨stateKept, connector, activeKept, _⟩ := s.lapsed_fields e { t.dyn with connector := .idle }
  have changed := ends.connectorChange_arrived (old := t.dyn.connector) (k := hold) (by
      rw [show ((t.connect .idle).write (s.lapsed e)).dyn.connector = .idle from connector]
      intro same; rw [← same] at plugged; cases plugged)
    (by rw [show ((t.connect .idle).write (s.lapsed e)).dyn.state = t.dyn.state from stateKept]; exact state)
    (activeKept.trans active) arrival present serves
  have third : s.third ((t.connect .idle).write (s.lapsed e)).dyn hold = s.thirdBy .idle hold := by
    rw [State.third_by]; exact congrArg (s.thirdBy · hold) connector
  rw [third] at changed
  rw [h.postEvidence_ends post contact sensor (by rw [idle]; rfl) (by rw [idle]; decide) inService, idle,
    changed.energyFigure_unmetered (fun _ _ => .inr (by
      show (s.lapsed e { t.dyn with connector := .idle }).connector.isPlug = false
        ∧ (s.lapsed e { t.dyn with connector := .idle }).connector ≠ .finished
      rw [connector]; exact ⟨rfl, fun finished => by cases finished⟩))]
  exact changed.tail within polls

include h post contact sensor idle state active in
/-- The vehicle has left: the hold ends DEPARTED (R22). -/
theorem Ev.Follows.report_leaves {polls : Bool} (occupied : t.dyn.occupancy = .occupied)
    (vacant : (s.lapsed e { t.dyn with connector := .idle }).occupancy = .vacant) (staged : t.dyn.staged = none)
    (mode : t.dyn.closeMode = .none) {n : Ticket} {q : Addr} (ticket : hold.ticket = some n) (requester : hold.requester = some q)
    (room : p → v.Room) (within : r.drawn ≤ r.inForce) : (ev.postEvidence b r true polls).Follows s f b p
      ((((t.connect .idle).write (s.lapsed e)).departed n).met .evidence)
      (v.tell s.controller.own q Kind.holdNotice (s.leaveBytes n b hold (.ended .departed))) := by
  obtain ⟨listed, inService⟩ := BayState.staying state
  have heard := h.connect .idle
  have ends : ((ev.connect b .idle).plugEnds b e).Follows s f b p ((((t.connect .idle).write (s.lapsed e)).departed n).met .evidence)
      (v.tell s.controller.own q Kind.holdNotice (s.leaveBytes n b hold (.ended .departed))) := by
    rw [heard.plugEnds_eq e]
    unfold State.lapsed at vacant ⊢
    unfold Track.write
    dsimp only
    split at vacant
    · cases vacant
    · next reachable =>
      split at vacant
      · next reached =>
        rw [if_neg reachable, if_pos (c := (t.connect .idle).dyn.candidate = _ ∧ s.timing.debounce ≤ (t.connect .idle).dyn.debounce) reached,
          if_neg reachable, if_pos (c := (t.connect .idle).dyn.candidate = _ ∧ s.timing.debounce ≤ (t.connect .idle).dyn.debounce) reached]
        exact (heard.modDyn (g := BayDyn.endRun) rfl).setOccupancy_departs (k := hold)
          (show t.dyn.occupancy ≠ .vacant by rw [occupied]; decide) listed active staged mode ticket requester room
      · exact absurd (occupied.symm.trans vacant) (by decide)
  have gone : ((((t.connect .idle).write (s.lapsed e)).departed n).met .evidence).dyn.state = .free :=
    BayDyn.vacated_vacant vacant
  rw [h.postEvidence_ends post contact sensor (by rw [idle]; rfl) (by rw [idle]; decide) inService, idle,
    ends.connectorChange_none (by rw [gone]; decide),
    ends.energyFigure_unmetered (fun k held => by cases held)]
  exact ends.tail within polls

end

end

/-! ## As the reports show it -/

section
variable {s : State} {f : Frame} {x : Transaction} {b : BayIx} {c : Contact} {r : PostReport} (h : s.PostAnswers f x b c r)
  (ok : ∀ e, (s.bay e).checkOk = true) (waitlist : s.waitlist = []) (within : r.drawn ≤ r.inForce)
  (evidence : s.plugEvidence b = true)

include evidence in
theorem State.plugEvidence_plugged : (s.bay b).dyn.connector.isPlug = true := (Bool.and_eq_true_iff.1 evidence).1

include h evidence in
/-- Plug evidence is in force only while the post is REACHABLE (R12). -/
theorem State.PostAnswers.evidence_reachable : c.reachable = true := by
  have reachable : s.postReachable b = true := (Bool.and_eq_true_iff.1 evidence).2
  unfold State.postReachable at reachable
  rw [h.post] at reachable
  unfold NodeEntry.isReachable at reachable
  dsimp only at reachable
  rwa [h.contact] at reachable

include h ok evidence in
theorem State.PostAnswers.evident_ends :
    s.evident f x b c r = (Ev.start (s.answeredBy f)).postEvidence b r true x.polls := by
  rw [State.evident_plain (h.restoring_plain ok (.inl (h.evidence_reachable evidence))), evidence]

section
variable {a : Addr} {e : NodeEntry} (sensor : s.sensor b = some (a, e)) (occupied : (s.bay b).dyn.occupancy = .occupied)

include h ok waitlist within evidence sensor occupied in
theorem State.PostAnswers.unseats_shown (unplugged : r.connector.isPlug = false) (noFault : r.connector ≠ .fault)
    (state : (s.bay b).dyn.state = .unbooked) (active : (s.bay b).dyn.active = none) :
    s.Shown f b { s.lapsed e { (s.bay b).dyn with connector := r.connector } with
        state := (s.lapsed e { (s.bay b).dyn with connector := r.connector }).occupancy.freed } s.index (fun t => s.AwaitsAs t b)
      (if BayState.unbooked = (s.lapsed e { (s.bay b).dyn with connector := r.connector }).occupancy.freed then []
        else [s.bayNoticeAt 0 b .unbooked (s.lapsed e { (s.bay b).dyn with connector := r.connector }).occupancy.freed 1 0 0]) := by
  obtain ⟨again, follows⟩ := (State.starts (f := f) ok (s.Room [])).report_unseats h.post h.contact (polls := x.polls) sensor
    unplugged noFault (State.plugEvidence_plugged evidence) state occupied active within
  rw [← h.evident_ends ok evidence] at follows
  have note := openNote_evident b (s.bay b).dyn.state again false
  rw [state] at note
  refine h.shown_evident (n := 0) (fs := []) ok waitlist follows ?_ (late := fun t => s.AwaitsAs t b) (fun _ awaits => awaits)
  show ((openNote b (s.bay b).dyn.state).follows again).Tells b .unbooked 1
  rw [state]; exact note

section
variable (idle : r.connector = .idle) (state : (s.bay b).dyn.state ∈ [BayState.arrived, .charging, .done])
  {hold : Hold} (active : (s.bay b).dyn.active = some hold)

include h ok waitlist within evidence sensor idle state active in
theorem State.PostAnswers.unplugs_shown (arrival : hold.arrival ≠ none)
    (present : (s.lapsed e { (s.bay b).dyn with connector := .idle }).occupancy ≠ .vacant) (serves : s.Serves b) :
    s.Shown f b { s.lapsed e { (s.bay b).dyn with connector := .idle } with state := s.thirdBy .idle hold } s.index
      (fun t => s.AwaitsAs t b)
      (if (s.bay b).dyn.state = s.thirdBy .idle hold then []
        else [s.bayNoticeAt 0 b (s.bay b).dyn.state (s.thirdBy .idle hold) 1 0 0]) := by
  have follows := (State.starts (f := f) ok (s.Room [])).report_unplugs h.post h.contact (polls := x.polls) sensor idle
    (State.plugEvidence_plugged evidence) state active arrival present serves within
  rw [← h.evident_ends ok evidence] at follows
  exact h.shown_evident (n := 0) (fs := []) ok waitlist follows (openNote_evident b (s.bay b).dyn.state true false)
    (late := fun t => s.AwaitsAs t b) (fun _ awaits => awaits)

include h ok waitlist within evidence sensor occupied idle state active in
theorem State.PostAnswers.leaves_shown
    (vacant : (s.lapsed e { (s.bay b).dyn with connector := .idle }).occupancy = .vacant) (staged : (s.bay b).dyn.staged = none)
    (mode : (s.bay b).dyn.closeMode = .none) {n : Ticket} {q : Addr} (ticket : hold.ticket = some n)
    (requester : hold.requester = some q) (somebody : q ≠ 0) :
    s.Shown f b { s.lapsed e { (s.bay b).dyn with connector := .idle } with active := none, state := .free }
      (s.index.filter (fun i => i.ticket ≠ n)) (fun y => y.Awaits b none none (s.bay b).timer.displacement)
      [s.noticeAt 0 q Kind.holdNotice (s.summaryBytes 6 n (b.val + 1) 1 hold), s.bayNoticeAt 1 b (s.bay b).dyn.state .free 4 1 0] := by
  have base := State.starts (f := f) (b := b) ok
    (s.Room [s.noticeAt 0 q Kind.holdNotice (s.summaryBytes 6 n (b.val + 1) 1 hold)])
  have follows := base.report_leaves h.post h.contact (polls := x.polls) sensor idle state active occupied vacant staged mode
    ticket requester (fun room => s.placed_room (by
      unfold State.Room at room; rw [List.length_singleton] at room; exact Nat.lt_of_succ_le room)) within
  rw [← h.evident_ends ok evidence] at follows
  have vacated : ((((s.track b).connect .idle).write (s.lapsed e)).departed n).dyn.state = .free := BayDyn.vacated_vacant vacant
  have shown := h.departs_shown ok waitlist somebody follows vacated (before := (s.bay b).dyn.state) rfl
    (late := fun y => y.Awaits b none none (s.bay b).timer.displacement) (fun _ awaits => awaits)
  rw [show ((((((s.track b).connect .idle).write (s.lapsed e)).departed n).met .evidence).dyn : BayDyn)
      = { s.lapsed e { (s.bay b).dyn with connector := .idle } with active := none, state := .free } from by
    refine congrArg (fun st => ({ s.lapsed e { (s.bay b).dyn with connector := .idle } with active := none, state := st } : BayDyn)) vacated] at shown
  exact shown

end

end

end

end Sys2Proof.Machine
end

section
/-!
SUPPORT. A bay that enters CHARGING with its post maximum below the minimum (R79), and the obligation on the connector of a
report (O18).
-/
namespace Sys2Proof.Machine

/-! ## What decides on the Charge Queue, past the state of the bay -/

section
variable (ev : Ev) (b : BayIx)

theorem Ev.setCeiling_feed (n : Nat) : (ev.setCeiling b n).feed = ev.feed := by
  unfold Ev.setCeiling
  split
  · rfl
  · exact State.modAlloc_feed ev.st b fun _ => ⟨rfl, rfl, rfl⟩

theorem Ev.ceilingTest_feed (drawn inForce : Nat) : (ev.ceilingTest b drawn inForce).feed = ev.feed := by
  have count (g : BayAlloc → BayAlloc) (kept : ∀ a, (g a).chargingCopy = a.chargingCopy ∧ (g a).enableCopy = a.enableCopy
      ∧ (g a).suspectCopy = a.suspectCopy) : (ev.modAlloc b g).feed = ev.feed := State.modAlloc_feed ev.st b kept
  unfold Ev.ceilingTest
  dsimp only
  split
  · split
    · split
      · exact (Ev.setCeiling_feed _ b _).trans (count _ fun _ => ⟨rfl, rfl, rfl⟩)
      · exact count _ fun _ => ⟨rfl, rfl, rfl⟩
    · split
      · exact (Ev.setCeiling_feed _ b _).trans (count _ fun _ => ⟨rfl, rfl, rfl⟩)
      · exact count _ fun _ => ⟨rfl, rfl, rfl⟩
  · exact count _ fun _ => ⟨rfl, rfl, rfl⟩

theorem Ev.deliveryReport_feed (r : PostReport) (polls : Bool) : (ev.deliveryReport b r polls).feed = ev.feed := by
  unfold Ev.deliveryReport
  dsimp only
  split
  · split
    · rw [Ev.modDelivery_feed, Ev.log_feed, Ev.modDelivery_feed]
    · rw [Ev.modDelivery_feed, Ev.modDelivery_feed]
  · exact Ev.modDelivery_feed ev b _

theorem Ev.tail_feed (r : PostReport) (polls : Bool) : (ev.tail b r polls).feed = ev.feed := by
  unfold Ev.tail
  rw [Ev.deliveryReport_feed, Ev.ceilingTest_feed]

theorem Ev.connect_feed (k : Connector) : (ev.connect b k).feed = ev.feed := by
  unfold Ev.connect
  rw [Ev.modDyn_feed, Ev.touch_feed]

theorem Ev.runEnds_feed (s : State) : (ev.runEnds s b).feed = ev.feed := by
  unfold Ev.runEnds
  split
  · exact Ev.modDyn_feed ev b _
  · rfl

end

section
variable {s : State} {f : Frame} {b : BayIx} {ev : Ev} {t : Track}

theorem Ev.Follows.setOccupancy_arrived_feed {p : Prop} {v : Voice} (h : ev.Follows s f b p t v) {o : Occupancy}
    (occupied : o ≠ .vacant) (state : t.dyn.state ∈ [BayState.arrived, .charging, .done, .overstay]) :
    (ev.setOccupancy b o).feed = ev.feed := by
  by_cases same : t.dyn.occupancy = o
  · rw [Ev.setOccupancy_same h.tracks.dyn o same]
  · rw [h.setOccupancy_eq same, Ev.occupancyResponse_none (h.occ o).tracks.dyn occupied state, Ev.modDyn_feed, Ev.touch_feed]

/-! ## CONFIG-MISMATCH (R79) -/

section
variable (h : ev.Follows s f b True t (s.placed 0 [])) (below : (s.bay b).postMax < s.allocator.settings.minimum)
  (copy : ev.feed.charging b = false)

include h below in
/-- The bay as the allocator knows it is below the minimum. -/
theorem Ev.Follows.below_feed : ev.feed.postMax b < ev.feed.minimum := by
  refine Nat.lt_of_not_le fun serves => ?_
  have still := (Ev.serves_iff (ev := ev) b).2 serves
  rw [h.tracks.still] at still
  exact Nat.not_le.2 below (State.serves_still.1 still)

include h below copy in
/-- The bay enters CHARGING, logs CONFIG-MISMATCH and stays out of the Charge Queue. -/
theorem Ev.Follows.setState_mismatch : (ev.setState b .charging).Follows s f b True (t.write ({ · with state := .charging }))
      ((s.logError { kind := .configMismatch, bay := some b }).placed 0 [])
    ∧ (ev.setState b .charging).feed.queued b = false := by
  have small := h.below_feed below
  have known : ((ev.touch b).modDyn b ({ · with state := .charging })).feed = ev.feed := by rw [Ev.modDyn_feed, Ev.touch_feed]
  have charges : ev.setState b .charging
      = ((ev.touch b).modDyn b ({ · with state := .charging })).reportCharging b true := rfl
  refine ⟨⟨h.tracks.setState .charging, fun _ => ?_⟩, ?_⟩
  · have still : ((ev.touch b).modDyn b ({ · with state := .charging })).books.still = (s.answeredBy f).still := by
      rw [Ev.modDyn_books, Books.put_leaves .. |>.2.2.2.2, Ev.touch_books, h.tracks.still]
    have voice : ((ev.touch b).modDyn b ({ · with state := .charging })).voice = s.placed 0 [] := by
      rw [Ev.modDyn_voice, Ev.touch_voice, h.voice trivial]
    rw [charges]
    generalize (ev.touch b).modDyn b ({ · with state := .charging }) = w at known still voice ⊢
    unfold Ev.reportCharging
    rw [if_neg (c := (w.bay b).alloc.chargingCopy = true)
      (show ¬ w.feed.charging b = true by rw [known, copy]; exact Bool.false_ne_true)]
    dsimp only
    have books : (w.modAlloc b (fun a => { a with chargingCopy := true })).books = w.books := Ev.modAlloc_books w b _
    have kept : (w.modAlloc b (fun a => { a with chargingCopy := true })).feed.postMax b
        < (w.modAlloc b (fun a => { a with chargingCopy := true })).feed.minimum := by
      rw [Ev.copyCharging_feed, known]; exact small
    rw [if_pos (by rw [Bool.true_and]; exact decide_eq_true kept), Ev.syncQueue_voice]
    have quiet : (w.modAlloc b (fun a => { a with chargingCopy := true })).voice = s.placed 0 [] := voice
    exact Ev.log_placed quiet (by rw [books, still]; rfl) (by rw [books, still]; rfl) (by rw [books, still]; rfl) _
  · rw [charges, Ev.reportCharging_feed, known, if_neg (by rw [copy]; exact Bool.false_ne_true)]
    show (if b = b then Feed.eligible _ b else _) = false
    rw [if_pos rfl]
    unfold Feed.eligible
    rw [decide_eq_false (Nat.not_le.2 small), Bool.and_false]

variable {c : Contact} (post : s.post b = some (f.src, s.node f.src)) (contact : (s.node f.src).contact = some c)

include h below copy post contact in
theorem Ev.Follows.report_mismatches {r : PostReport} {was polls : Bool} (plugs : r.connector.isPlug = true)
    (unplugged : t.dyn.connector.isPlug = false) (state : t.dyn.state = .arrived) {hold : Hold}
    (active : t.dyn.active = some hold) (arrival : hold.arrival ≠ none) (third : s.thirdBy r.connector hold = .charging)
    (last : hold.lastPostEnergy = some r.energy) (top : hold.energyDelivered ≤ 4294967295) (within : r.drawn ≤ r.inForce) :
    (ev.postEvidence b r was polls).Follows s f b True
      { t with dyn := s.finds b r.connector t.dyn hold, note := t.note.met .evidence }
      ((s.logError { kind := .configMismatch, bay := some b }).placed 0 [])
    ∧ (ev.postEvidence b r was polls).feed.queued b = false := by
  have listed : t.dyn.state ∈ [BayState.arrived, .charging, .done, .overstay] := by rw [state]; simp
  have noFault : r.connector ≠ .fault := fun fault => by rw [fault] at plugs; cases plugs
  have found := h.occupies post contact (was := was) (.inl plugs) listed
  have heard := h.hears r.connector
  obtain ⟨stateKept, _, connector, activeKept, _⟩ := s.hears_fields b r.connector t.dyn
  have known : ((ev.connect b r.connector).reportOccupancy b was).feed = ev.feed := by
    rw [(h.connect r.connector).reportOccupancy_occupied post contact (.inl plugs),
      heard.setOccupancy_arrived_feed (by decide) (by
        rw [show (t.write (s.hears b r.connector)).dyn.state = t.dyn.state from stateKept]; exact listed),
      Ev.runEnds_feed, Ev.connect_feed]
  rw [Ev.postEvidence_eq, h.connectorReport_eq (.inl noFault), if_neg (by rw [state]; decide)]
  generalize hw : (ev.connect b r.connector).reportOccupancy b was = w at found known
  have rederives : w.rederive b = w.setState b .charging := by
    rw [Ev.rederive_arrived (h := hold) (by rw [found.tracks.dyn]; exact activeKept.trans active) arrival
      (by rw [found.tracks.dyn]; exact fun vacant => by cases vacant), found.tracks.dyn, found.tracks.still]
    refine congrArg (w.setState b) ?_
    refine Eq.trans ?_ third
    show s.thirdBy (s.hears b r.connector t.dyn).connector hold = _
    rw [connector]
  have changes : w.connectorChange b t.dyn.connector = (w.setState b .charging).note b .evidence := by
    have dyn : (w.bay b).dyn = ((t.write (s.hears b r.connector)).occ .occupied).dyn := found.tracks.dyn
    have differs : (w.bay b).dyn.connector ≠ t.dyn.connector := by
      rw [dyn, show ((t.write (s.hears b r.connector)).occ .occupied).dyn.connector = r.connector from connector]
      intro same; rw [← same, plugs] at unplugged; cases unplugged
    unfold Ev.connectorChange
    dsimp only
    rw [if_neg differs, show (w.bay b).dyn.state = .arrived from (congrArg BayDyn.state dyn).trans (stateKept.trans state)]
    dsimp only
    rw [rederives]
  obtain ⟨follows, out⟩ := found.setState_mismatch below (by rw [known]; exact copy)
  have noted := follows.note .evidence
  rw [← changes] at noted
  have queued : (w.connectorChange b t.dyn.connector).feed.queued b = false := by rw [changes, Ev.note_feed]; exact out
  have shape : (((t.write (s.hears b r.connector)).occ .occupied).write ({ · with state := .charging })).met .evidence
      = { t with dyn := s.finds b r.connector t.dyn hold, note := t.note.met .evidence } := by
    unfold State.finds; rw [third]; rfl
  rw [shape] at noted
  have metered := noted.energyFigure_same (k := hold) (e := r.energy) (activeKept.trans active) last top
    (!(ev.bay b).dyn.connector.isPlug && r.connector.isPlug)
  refine ⟨metered.tail within polls, ?_⟩
  rw [Ev.tail_feed]
  rcases noted.energyFigure_kept (k := hold) (e := r.energy) (activeKept.trans active) last top
    (!(ev.bay b).dyn.connector.isPlug && r.connector.isPlug) with same | written
  · rw [same]; exact queued
  · rw [written, Ev.modDyn_feed]; exact queued

end

end

section
variable {s : State} {f : Frame} {x : Transaction} {b : BayIx} {c : Contact} {r : PostReport} (h : s.PostAnswers f x b c r)
  (ok : ∀ e, (s.bay e).checkOk = true) (waitlist : s.waitlist = []) (within : r.drawn ≤ r.inForce)

include h ok waitlist within in
theorem State.PostAnswers.mismatches_shown (below : (s.bay b).postMax < s.allocator.settings.minimum)
    (plugs : r.connector.isPlug = true) (unplugged : (s.bay b).dyn.connector.isPlug = false)
    (state : (s.bay b).dyn.state = .arrived) {hold : Hold} (active : (s.bay b).dyn.active = some hold)
    (arrival : hold.arrival ≠ none) (last : hold.lastPostEnergy = some r.energy) (top : hold.energyDelivered ≤ 4294967295)
    (third : s.thirdBy r.connector hold = .charging) (copy : (s.bay b).alloc.chargingCopy = false)
    (room : s.uplink.fifo.length + 3 ≤ 32) :
    ∃ t, exec (.frameReception .downlink f.received) s = .next t
      ∧ (t.bay b).dyn = { s.hears b r.connector (s.bay b).dyn with occupancy := .occupied, state := .charging }
      ∧ t.recorder = (s.logError { kind := .configMismatch, bay := some b }).recorder
      ∧ b ∉ t.allocator.queue.map (·.bay)
      ∧ (s.controller.noticeDest ≠ 0 →
        (s.logError { kind := .configMismatch, bay := some b }).uplink.fifo
          ++ [(s.logError { kind := .configMismatch, bay := some b }).bayNoticeAt 0 b .arrived .charging 1 0 0]
          <+: t.uplink.fifo) := by
  have start := h.restoring_plain ok (.inr (.inr ⟨by rw [unplugged]; rfl, by rw [state]; decide⟩))
  obtain ⟨follows, out⟩ := (State.starts (f := f) ok True).report_mismatches below copy h.post h.contact
    (was := s.plugEvidence b) (polls := x.polls) plugs unplugged state active arrival third last top within
  rw [← State.evident_plain start] at follows out
  obtain ⟨o, runs, moved⟩ := h.moved ok waitlist follows
  have length := State.logError_fifo (s := s) { kind := .configMismatch, bay := some b } (by omega)
  have after : (s.finds b r.connector (s.bay b).dyn hold).state = .charging := third
  have raised : (((s.track b).note.met .evidence) : BayNote).raised (s.finds b r.connector (s.bay b).dyn hold).state = true := by
    rw [after]
    unfold BayNote.raised
    show ((s.bay b).dyn.state != .charging || _ || _) = true
    rw [state]; rfl
  obtain ⟨recorder, sends⟩ := follows.says (s.logError_controller _) ok waitlist raised (by omega) o
  have scan : (s.evident f x b c r).scan = false ∨ (s.evident f x b c r).books.waitlist = [] :=
    .inr (follows.tracks.waitlist.trans waitlist)
  obtain ⟨_, scanned, _⟩ := Ev.carry_leaves scan o
  have feed : ((s.evident f x b c r).carry o).finish.feed = (s.evident f x b c r).feed := by
    refine Eq.trans ?_ (Ev.carry_feed scan o)
    cases owed : ((s.evident f x b c r).carry o).recompute with
    | true => exact (Ev.finish_feed _ owed (.inl scanned) (by rw [Ev.carry_books scan]; exact follows.tracks.ok ok)).1
    | false => exact Ev.finish_feed_calm _ owed (.inl scanned)
  refine ⟨_, runs, ?_, recorder, fun here => ?_, fun somebody => ?_⟩
  · rw [moved.dyn]
    unfold State.finds
    rw [third]
    rfl
  · have queued := State.queued_iff.2 here
    have same : ((s.evident f x b c r).carry o).finish.feed.queued b = true := queued
    rw [feed, out] at same; cases same
  · have sent := sends (by rw [s.logError_controller]; exact somebody)
    have frame : (s.logError { kind := .configMismatch, bay := some b }).noteAt 0 ((s.track b).note.met .evidence)
        (s.finds b r.connector (s.bay b).dyn hold).state
        = (s.logError { kind := .configMismatch, bay := some b }).bayNoticeAt 0 b .arrived .charging 1 0 0 := by
      rw [after, ← state]; rfl
    rw [← frame]; exact sent

end

/-! ## The obligation -/

theorem State.hears_eq (s : State) (b : BayIx) (k : Connector) (d : BayDyn) : s.hears b k d
    = if s.sensor b = none then { d with connector := k, candidate := none, debounce := 0 } else { d with connector := k } := by
  unfold State.hears State.ended BayDyn.endRun
  rfl

theorem Connector.unplugged_iff (k : Connector) : k.isPlug = false ↔ ¬ (k = .plugged ∨ k = .charging) := by
  rw [← Connector.isPlug_iff, Bool.not_eq_true]

section
variable {s : State} {b : BayIx}

/-- A report at a bay with a sensor node changes the connector alone before its occupancy is taken. -/
theorem State.hears_sensed {a : Addr} {e : NodeEntry} (sensor : s.sensor b = some (a, e)) (k : Connector) :
    s.hears b k (s.bay b).dyn = { (s.bay b).dyn with connector := k } := State.hears_sensor sensor k _

theorem State.breaks_heard (alone : s.sensor b = none ∨ s.plugEvidence b = false) (d : BayDyn) :
    s.breaks b d = s.hears b .fault d := by
  unfold State.breaks State.lapses
  cases sensor : s.sensor b with
  | none =>
    rw [State.hears_eq, if_pos sensor]; rfl
  | some y =>
    obtain ⟨a, e⟩ := y
    have off : s.plugEvidence b = false := alone.resolve_left (by rw [sensor]; exact Option.some_ne_none _)
    rw [State.hears_sensor sensor]
    dsimp only
    rw [off, if_neg Bool.false_ne_true]

end

/-- Settles O18: each report followed on the track of its bay. -/
theorem postStatusMovesBay : Obligations.PostStatusMovesBay := by
  intro s f x b c r h ok waitlist within d cls alone heard third same check moves plugs pluggedIn walksIn departs
  have heardIs : s.hears b r.connector d = heard := State.hears_eq s b r.connector d
  have plugged (both : plugs) : r.connector.isPlug = true := (Connector.isPlug_iff _).2 both
  have unplugged (off : ¬ pluggedIn) : d.connector.isPlug = false := (Connector.unplugged_iff _).2 off
  refine ⟨fun serves => ⟨?_, ?_, ?_, ?_, ?_, ?_, ?_, ?_⟩, ?_⟩
  · intro plug off active state
    refine ⟨fun permits stay top overstay => ?_, fun refused => ?_⟩
    · rw [← heardIs]
      exact h.walksIn_shown ok waitlist within (h.restoring_plain ok (.inr (.inr ⟨by rw [unplugged off]; rfl, by
          rcases state with st | ⟨st, _⟩ <;> rw [st] <;> decide⟩))) (State.starts ok (s.Room [])) (plugged plug) (unplugged off)
        state permits serves stay top overstay rfl (by rcases state with st | ⟨st, _⟩ <;> rw [st] <;> decide)
        (restored := false) rfl rfl
    · rw [← heardIs]
      exact h.seats_shown ok waitlist within (plugged plug) (unplugged off) active state refused
  · intro hold plug state active arrival occupancy
    rw [← heardIs]
    exact ⟨fun verify seen => h.contests_shown ok waitlist within (plugged plug) state occupancy active arrival verify seen,
      fun open_ => h.captures_shown ok waitlist within (plugged plug) state occupancy active open_ serves⟩
  · intro hold bare idle state active arrival occupancy n q ticket requester somebody staged mode
    rw [← heardIs]
    exact h.idles_shown ok waitlist within bare idle state occupancy active staged mode ticket requester somebody
  · intro hold occupied differs state active arrival occupancy last top
    rw [← heardIs]
    exact h.changes_shown ok waitlist within (occupied.imp_left plugged) differs state active arrival serves last top
  · intro fault evidence
    have broken := State.breaks_heard evidence
    rw [← fault] at broken
    refine ⟨fun state => ?_, fun connector open_ inService => ⟨?_, fun room => ?_⟩⟩
    · rw [← heardIs, ← broken]
      exact h.stays_shown ok waitlist within fault state
    · have shown := h.faults_shown ok waitlist within fault connector open_ inService
      rw [broken] at shown
      rw [← heardIs]
      refine Eq.mp (congrArg (fun y => s.Shown f b y s.index (fun t => s.AwaitsAs t b) []) ?_) shown
      rw [State.hears_eq, State.hears_eq]
      split <;> rfl
    · exact h.faults_said ok waitlist within fault connector open_ inService room
  · intro a e sensor evidence occupied off lapsed
    have heardSensed : { d with connector := r.connector } = heard := (State.hears_sensed sensor r.connector).symm.trans heardIs
    have lapsedIs : s.lapsed e { d with connector := r.connector } = lapsed := by
      show s.lapsed e _ = if e.isReachable = false then { heard with occupancy := .unknown }
        else if d.candidate = some .vacant ∧ s.timing.debounce ≤ d.debounce then
          { heard with occupancy := .vacant, candidate := none, debounce := 0 } else heard
      rw [← heardSensed]; rfl
    refine ⟨fun state active noFault => ?_, fun hold idle state active arrival => ⟨fun gone n q ticket requester somebody staged
      mode => ?_, fun present => ?_⟩, fun fault open_ inService => ?_⟩
    · have shown := h.unseats_shown ok waitlist within evidence sensor occupied ((Connector.unplugged_iff _).2 off) noFault state
        active
      have kept : (s.lapsed e { d with connector := r.connector }).state = .unbooked := (s.lapsed_fields e _).1.trans state
      rw [show ({ (s.bay b).dyn with connector := r.connector } : BayDyn) = { d with connector := r.connector } from rfl] at shown
      rw [lapsedIs] at shown kept
      split
      · next stays =>
        rw [stays, show Occupancy.freed .occupied = .unbooked from rfl, if_pos rfl, ← kept] at shown
        exact shown
      · next leaves =>
        rw [show lapsed.occupancy.freed = .free from if_neg leaves, if_neg (by decide)] at shown
        exact shown
    · rw [idle] at lapsedIs
      have shown := h.leaves_shown ok waitlist within evidence sensor occupied idle state active
        ((congrArg BayDyn.occupancy lapsedIs).trans gone) staged mode ticket requester somebody
      rw [show s.lapsed e { (s.bay b).dyn with connector := .idle } = lapsed from lapsedIs] at shown
      exact shown
    · have thirds : third = s.thirdBy .idle := by rw [← idle]; rfl
      rw [idle] at lapsedIs
      have shown := h.unplugs_shown ok waitlist within evidence sensor idle state active arrival (by
        rw [show s.lapsed e { (s.bay b).dyn with connector := .idle } = lapsed from lapsedIs]; exact present) serves
      rw [show s.lapsed e { (s.bay b).dyn with connector := .idle } = lapsed from lapsedIs, ← thirds] at shown
      exact shown
    · have noted : d.connector ≠ .fault := fun broken => by
        have plug := State.plugEvidence_plugged evidence
        rw [show (s.bay b).dyn.connector = .fault from broken] at plug; cases plug
      have shown := h.faults_shown ok waitlist within fault noted open_ inService
      have broken : s.breaks b { d with state := .faulted } = { lapsed with state := .faulted } := by
        rw [← lapsedIs, fault]
        unfold State.breaks State.lapses
        rw [sensor, evidence]
        dsimp only
        rw [if_pos rfl]
        unfold State.lapsed
        split
        · rfl
        · dsimp only; split <;> rfl
      rw [broken] at shown
      exact shown
  · intro idle state sound active mode
    have idled : s.idled b d = if s.sensor b = none then { heard with occupancy := .vacant } else heard := by
      unfold State.idled; rw [← idle, heardIs]
    refine ⟨fun bare => ?_, fun sensed evidence => ?_⟩
    · have shown := h.idle_recovers ok waitlist within state sound idle active mode (.inl bare)
      rw [show s.idled b (s.bay b).dyn = { heard with occupancy := .vacant } from idled.trans (if_pos bare)] at shown
      exact shown
    · have shown := h.idle_recovers ok waitlist within state sound idle active mode (.inr evidence)
      rw [show s.idled b (s.bay b).dyn = heard from idled.trans (if_neg sensed)] at shown
      have occupancy : heard.occupancy = d.occupancy := by
        rw [← heardIs]; exact (s.hears_fields b r.connector d).2.1
      rw [occupancy] at shown
      exact shown
  · intro unreachable plug fit state sound mode
    refine ⟨fun active => ⟨fun off permits stay top overstay => ?_, fun refused => ?_⟩,
      fun hold active arrival occupancy last top => ?_⟩
    · rw [← heardIs]
      exact h.restored_walksIn ok waitlist within state sound unreachable (plugged plug) fit active mode (unplugged off) permits
        serves stay top overstay
    · rw [← heardIs]
      exact h.restored_seats ok waitlist within state sound unreachable (plugged plug) fit active mode
        (refused.imp_left (Connector.isPlug_iff _).2)
    · rw [← heardIs]
      exact h.restored_thirds ok waitlist within state sound unreachable (plugged plug) fit active arrival occupancy serves last
        top
  · intro hold below plug off state active arrival occupancy last top charges copy room failed
    rw [← heardIs]
    exact h.mismatches_shown ok waitlist within below (plugged plug) (unplugged off) state active arrival last top charges copy
      room

end Sys2Proof.Machine
end

section
/-!
SUPPORT. What an event and its end leave of the delivery record of a bay (R91, R132, R136).
-/
namespace Sys2Proof.Machine

/-! ## The arbiter's choice -/

/-- The arbiter leaves the record of a bay, or sends its ALLOT, which was PENDING. -/
theorem State.arbitrate_delivery (s : State) (b : BayIx) : (s.arbitrate.bay b).delivery = (s.bay b).delivery
    ∨ (s.bay b).delivery.state = .pending ∧ (s.arbitrate.bay b).delivery = (s.bay b).delivery.allotted := by
  have allots {c : BayIx} (pending : (s.bay c).delivery.state = .pending) :
      ((s.chooseAllot c).bay b).delivery = (s.bay b).delivery
        ∨ (s.bay b).delivery.state = .pending ∧ ((s.chooseAllot c).bay b).delivery = (s.bay b).delivery.allotted := by
    cases post : s.post c with
    | none =>
      have same : s.chooseAllot c = s := by unfold State.chooseAllot; rw [post]
      rw [same]; exact .inl rfl
    | some x =>
      rw [State.chooseAllot_delivery (a := x.1) (e := x.2) post b]
      by_cases here : b = c
      · subst here; rw [if_pos rfl]; exact .inr ⟨pending, rfl⟩
      · rw [if_neg here]; exact .inl rfl
  rcases s.arbitrate_cases with same | ⟨c, shed, chosen⟩ | ⟨_, source, served⟩
  · rw [same]; exact .inl rfl
  · rw [chosen]
    exact allots (State.isShed_iff.1 (State.mem_sheds.1 (List.mem_of_mem_head? shed))).1
  · obtain ⟨t, serve, turned⟩ := Option.map_eq_some_iff.1 served
    rw [← turned]
    show (t.bay b).delivery = _ ∨ _ ∧ (t.bay b).delivery = _
    cases source with
    | raise =>
      obtain ⟨c, offer, rfl⟩ := Option.map_eq_some_iff.1 serve
      exact allots (State.isRaise_iff.1 ((s.raiseOffer_iff c).1 offer).2.2.1).1
    | forward =>
      unfold State.serve at serve
      dsimp only at serve
      split at serve
      · cases serve
      · cases serve
        unfold State.chooseForward
        split <;> exact .inl rfl
    | poll =>
      obtain ⟨x, _, rfl⟩ := Option.map_eq_some_iff.1 serve
      exact .inl rfl

/-! ## The end of the event -/

/-- What holds of a delivery record whatever target it is handed and when its ALLOT is sent. -/
structure Delivery.Persists (P : Delivery → Prop) : Prop where
  handed : ∀ d n, P d → P (d.handTarget n)
  sent : ∀ d, d.state = .pending → P d → P d.allotted

section
variable {P : Delivery → Prop} (persists : Delivery.Persists P) {b : BayIx}

theorem State.rotate_delivery (s : State) (e : ChargeEntry) (b : BayIx) : ((s.rotate e).bay b).delivery = (s.bay b).delivery := by
  rw [State.rotate_bay]
  split <;> rfl

include persists in
theorem Ev.recomputeFuel_delivery (n : Nat) (ev : Ev) (ok : ev.books.Ok) (h : P (ev.bay b).delivery) :
    P ((Ev.recomputeFuel n ev).bay b).delivery := by
  induction n generalizing ev with
  | zero => exact h
  | succ n ih =>
    have compared := Ev.compareQueue_ok ev ok
    have talks := ev.flushNotes_talks
    unfold Talks at talks
    have first : P ((ev.compareQueue.onState State.retarget).bay b).delivery := by
      show P (ev.compareQueue.st.retarget.bay b).delivery
      rw [State.retarget_delivery]
      refine persists.handed _ _ ?_
      rw [compared, talks]; exact h
    have books : (ev.compareQueue.onState State.retarget).books = ev.books := by
      rw [compared]; exact (State.retarget_books _).trans ev.flushNotes_books
    unfold Ev.recomputeFuel
    dsimp only
    split
    · exact first
    · next e _ =>
      refine ih _ ?_ ?_
      · have rotated : ((ev.compareQueue.onState State.retarget).onState (·.rotate e)).books = ev.books :=
          (State.rotate_books _ e).trans books
        rw [rotated]
        exact ok
      · show P ((State.rotate _ e).bay b).delivery
        rw [State.rotate_delivery]
        exact first

include persists in
theorem State.settle_delivery {s : State} (h : P (s.bay b).delivery) : P (s.settle.bay b).delivery := by
  have here : P (s.deliverDue.bay b).delivery := by rw [State.deliverDue_delivery]; exact h
  rcases s.deliverDue.arbitrate_delivery b with same | ⟨pending, sent⟩
  · show P (s.deliverDue.arbitrate.bay b).delivery
    rw [same]; exact here
  · show P (s.deliverDue.arbitrate.bay b).delivery
    rw [sent]; exact persists.sent _ pending here

include persists in
theorem Ev.finish_delivery {ev : Ev} (scan : ev.scan = false ∨ ev.books.waitlist = []) (ok : ev.books.Ok)
    (h : P (ev.bay b).delivery) : P (ev.finish.bay b).delivery := by
  obtain ⟨v, finish, _, _, books, _, same⟩ := ev.finish_recompute scan
  have talks := ev.flushNotes_talks
  unfold Talks at talks
  have here : P (v.bay b).delivery := by
    rw [same, show ({ ev.flushNotes with scan := false } : Ev).bay b = ev.flushNotes.st.bay b from rfl, talks]; exact h
  have ran : P (v.runRecompute.bay b).delivery := by
    unfold Ev.runRecompute
    split
    · have fueled := Ev.recomputeFuel_delivery persists 130 v (by rw [books]; exact ok) here
      generalize Ev.recomputeFuel (129 + 1) v = x at fueled ⊢
      exact fueled
    · exact here
  have told := v.runRecompute.flushNotes_talks
  unfold Talks at told
  rw [finish]
  refine State.settle_delivery persists ?_
  rw [told]; exact ran

end

/-! ## The shared operations -/

section
variable (ev : Ev) (b : BayIx)

abbrev Ev.deliveries (ev : Ev) : (BayIx → Delivery) × Scheduler := ev.st.deliveries

theorem Ev.modDyn_deliveries (g : BayDyn → BayDyn) : (ev.modDyn b g).deliveries = ev.deliveries :=
  State.modBay_deliveries ev.st b fun y => by unfold Bay.modDyn; dsimp only; split <;> rfl

theorem Ev.touch_deliveries : (ev.touch b).deliveries = ev.deliveries := congrArg State.deliveries (ev.touch_st b)

theorem Ev.note_deliveries (c : BayCause) : (ev.note b c).deliveries = ev.deliveries := ev.touch_deliveries b

theorem Ev.noteFault_deliveries (c : FaultCause) : (ev.noteFault b c).deliveries = ev.deliveries := ev.touch_deliveries b

theorem Ev.reportCharging_deliveries (v : Bool) : (ev.reportCharging b v).deliveries = ev.deliveries := by
  unfold Ev.reportCharging
  split
  · rfl
  · dsimp only
    have copied : (ev.modAlloc b (fun a => { a with chargingCopy := v })).deliveries = ev.deliveries :=
      State.modBay_deliveries ev.st b fun _ => rfl
    refine (Ev.syncQueue_deliveries _ b).trans (Eq.trans ?_ copied)
    split
    · exact (Ev.log_talks _ _).deliveries
    · rfl

theorem Ev.setState_deliveries (st : BayState) : (ev.setState b st).deliveries = ev.deliveries := by
  unfold Ev.setState
  rw [Ev.reportCharging_deliveries, Ev.modDyn_deliveries, Ev.touch_deliveries]

end

end Sys2Proof.Machine
end

section
/-!
SUPPORT. The close of a reply window that takes nothing from a node's contact state (R139, R141, R142).
-/
namespace Sys2Proof.Machine

/-! ## Contact records -/

section
variable {s : State} {a : Addr}

theorem State.modContact_modContact (f g : Contact → Contact) :
    (s.modContact a f).modContact a g = s.modContact a (fun c => g (f c)) := by
  have nodes : (s.nodes.modify (addrIx a) (fun e => { e with contact := e.contact.map f })).modify (addrIx a)
      (fun e => { e with contact := e.contact.map g })
      = s.nodes.modify (addrIx a) (fun e => { e with contact := e.contact.map (fun c => g (f c)) }) := by
    refine Table.ext_get fun i => ?_
    by_cases same : i = addrIx a
    · subst same
      rw [Table.get_modify_same, Table.get_modify_same, Table.get_modify_same]
      dsimp only
      rw [Option.map_map]; rfl
    · rw [Table.get_modify_other _ _ same, Table.get_modify_other _ _ same, Table.get_modify_other _ _ same]
  unfold State.modContact
  dsimp only
  rw [nodes]

/-- A contact record written from what it holds. -/
theorem State.modContact_set {c : Contact} (contact : (s.node a).contact = some c) (f : Contact → Contact) :
    s.modContact a f = s.modContact a (fun _ => f c) := by
  have here : (s.nodes.get (addrIx a)).contact = some c := contact
  unfold State.modContact Table.modify
  dsimp only
  rw [here]; rfl

theorem State.modContact_contact {c : Contact} (contact : (s.node a).contact = some c) (f : Contact → Contact) :
    ((s.modContact a f).node a).contact = some (f c) := by
  rw [State.modContact_node, if_pos rfl]
  show (s.node a).contact.map f = _
  rw [contact]; rfl

end

theorem State.linkLost_nodes {s u : State} (nodes : u.nodes = s.nodes) (now : u.now = s.now) (timing : u.timing = s.timing)
    (b : BayIx) : u.linkLostNow b = s.linkLostNow b := by
  unfold State.linkLostNow State.post; rw [nodes, now, timing]

/-! ## The link-loss test (R142) -/

section
variable {s : State} {b : BayIx}

theorem State.linkLossTest_none (stays : s.linkLostNow b = false ∨ (s.bay b).delivery.linkLost = true) : s.linkLossTest b = s := by
  rw [State.linkLossTest_eq]
  refine State.modBay_same ?_
  unfold Bay.linkLossTest
  refine if_neg ?_
  rcases stays with off | lost
  · rw [off]; simp
  · rw [lost]; simp

theorem State.linkLossTest_lost (lost : s.linkLostNow b = true) (fresh : (s.bay b).delivery.linkLost = false)
    (settled : (s.bay b).delivery.state ≠ .inFlight) : s.linkLossTest b = s.modDelivery b Delivery.lose := by
  unfold State.linkLossTest
  dsimp only
  rw [lost, fresh, if_pos (by simpa using settled)]

end

/-! ## The transaction that ends (R139) -/

theorem Ev.start_finish (u : State) : (Ev.start u).finish = u.settle := Ev.finish_onState u id

theorem Ev.start_log (u : State) (e : ErrorReport) : (Ev.start u).log e = Ev.start (u.logError e) := Ev.noted_log u [] e

/-- The transaction has ended, and NO-ANSWER is logged. -/
def State.unanswered (s : State) (x : Transaction) : State :=
  (s.setTransaction none).logError { kind := .noAnswer, bay := (s.node x.frame.dest).bay, header := some x.frame.header }

section
variable {s : State} {x : Transaction}

theorem State.unanswered_talks : Talks (s.setTransaction none) (s.unanswered x) := State.logError_talks _ _

theorem State.unanswered_node (a : Addr) : (s.unanswered x).node a = s.node a := by
  have talks := State.unanswered_talks (s := s) (x := x)
  unfold Talks at talks
  rw [talks]; rfl

theorem State.unanswered_bay (b : BayIx) : (s.unanswered x).bay b = s.bay b := by
  have talks := State.unanswered_talks (s := s) (x := x)
  unfold Talks at talks
  rw [talks]; rfl

/-- The part before a failure is counted: the due time of a POLL, the bay of an ALLOT. -/
def State.uncounted (s : State) (x : Transaction) : State :=
  match x.kind with
  | .allot b _ => (s.unanswered x).modDelivery b (fun d => { d with state := .waitContact })
  | _ => (s.unanswered x).modContact x.frame.dest (fun c => { c with due := s.now + secs s.timing.pollInterval })

/-- A failure counted below the limit K (R141). -/
theorem Ev.countFailure_below {u : State} {a : Addr} {c : Contact} (contact : (u.node a).contact = some c)
    (below : c.reachable = false ∨ min 7 (c.failures + 1) < u.timing.failLimit) :
    (Ev.start u).countFailure a = Ev.start (u.modContact a (fun c' => { c' with failures := min 7 (c.failures + 1) })) := by
  unfold Ev.countFailure
  dsimp only
  rw [show ((Ev.start u).st.node a).contact = some c from contact]
  dsimp only
  refine if_neg fun limit => ?_
  obtain ⟨reachable, reached⟩ := Bool.and_eq_true_iff.1 limit
  rcases below with off | less
  · rw [off] at reachable; cases reachable
  · exact absurd (of_decide_eq_true reached) (Nat.not_le.2 less)

/-- An ALLOT that has gone unanswered below the limit: its bay, before the link-loss test. -/
def State.awaiting (s : State) (x : Transaction) (c : Contact) (b : BayIx) : State :=
  ((s.unanswered x).modDelivery b (fun d => { d with state := .waitContact })).modContact x.frame.dest
    (fun _ => ⟨c.reachable, min 7 (c.failures + 1), c.last, c.due⟩)

section
variable (up : s.heldInReset = false) (outstanding : s.scheduler.transaction = some x) (window : x.phase = .window)
  (dest : x.destLost = false)

include up outstanding window in
theorem replyWindow_destLost (lost : x.destLost = true) :
    exec .replyWindowClose s = .next (s.setTransaction none).settle := by
  rw [replyWindowClose_runs up outstanding window]
  have closed : (Ev.start s).windowClosed x = (Ev.start s).onState (·.setTransaction none) := if_pos lost
  rw [closed, Ev.finish_onState]

include up outstanding window dest in
theorem replyWindow_retries (fresh : x.retried = false) (own : ∀ v, x.kind ≠ .forward v) :
    exec .replyWindowClose s = .next (s.setTransaction (some { x with retried := true, phase := .waiting })).settle := by
  rw [replyWindowClose_runs up outstanding window]
  have closed : (Ev.start s).windowClosed x
      = (Ev.start s).onState (·.setTransaction (some { x with retried := true, phase := .waiting })) := by
    unfold Ev.windowClosed
    rw [dest, if_neg Bool.false_ne_true, fresh]
    cases kind : x.kind with
    | forward v => exact absurd kind (own v)
    | poll | allot b q => rfl
  rw [closed, Ev.finish_onState]

include up outstanding window dest in
theorem replyWindow_forward {v : Bool} (kind : x.kind = .forward v) : exec .replyWindowClose s
    = .next ((s.setTransaction none).logError { kind := .noAnswer, header := some x.frame.header }).settle := by
  rw [replyWindowClose_runs up outstanding window]
  have closed : (Ev.start s).windowClosed x
      = (Ev.start (s.setTransaction none)).log { kind := .noAnswer, header := some x.frame.header } := by
    unfold Ev.windowClosed Ev.endUnanswered
    rw [dest, if_neg Bool.false_ne_true, kind]
    rfl
  rw [closed, Ev.finish_log]

variable (retried : x.retried = true)

include up outstanding window dest retried in
theorem replyWindow_poll (kind : x.kind = .poll) : exec .replyWindowClose s
    = .next ((Ev.start (s.uncounted x)).countFailure x.frame.dest).finish := by
  rw [replyWindowClose_runs up outstanding window]
  have closed : (Ev.start s).windowClosed x = (Ev.start (s.uncounted x)).countFailure x.frame.dest := by
    unfold Ev.windowClosed Ev.endUnanswered State.uncounted
    rw [dest, if_neg Bool.false_ne_true, kind]
    dsimp only
    rw [retried, if_pos rfl]
    have ended : ((Ev.start s).onState (·.setTransaction none)).log
        { kind := .noAnswer, bay := ((Ev.start s).st.node x.frame.dest).bay, header := some x.frame.header }
        = Ev.start (s.unanswered x) := Ev.start_log (s.setTransaction none) _
    rw [ended]
    rfl
  rw [closed]

include up outstanding window dest retried in
theorem replyWindow_allot {b : BayIx} {q : Nat} (kind : x.kind = .allot b q) : exec .replyWindowClose s
    = .next (((Ev.start (s.uncounted x)).countFailure x.frame.dest).onState (·.linkLossTest b)).finish := by
  rw [replyWindowClose_runs up outstanding window]
  have closed : (Ev.start s).windowClosed x
      = ((Ev.start (s.uncounted x)).countFailure x.frame.dest).onState (·.linkLossTest b) := by
    unfold Ev.windowClosed Ev.endUnanswered State.uncounted
    rw [dest, if_neg Bool.false_ne_true, kind]
    dsimp only
    rw [retried, if_pos rfl]
    have ended : ((Ev.start s).onState (·.setTransaction none)).log
        { kind := .noAnswer, bay := ((Ev.start s).st.node x.frame.dest).bay, header := some x.frame.header }
        = Ev.start (s.unanswered x) := Ev.start_log (s.setTransaction none) _
    rw [ended]
    rfl
  rw [closed]

/-! ## Below the limit -/

section
variable {c : Contact} (contact : (s.node x.frame.dest).contact = some c)

include contact in
/-- The contact record when the failure is counted. -/
theorem State.uncounted_poll (kind : x.kind = .poll) : ((s.uncounted x).node x.frame.dest).contact
    = some { c with due := s.now + secs s.timing.pollInterval } := by
  unfold State.uncounted
  rw [kind]
  exact State.modContact_contact (by rw [State.unanswered_node]; exact contact) _

include contact in
theorem State.uncounted_allot {b : BayIx} {q : Nat} (kind : x.kind = .allot b q) :
    ((s.uncounted x).node x.frame.dest).contact = some c := by
  unfold State.uncounted
  rw [kind]
  show ((s.unanswered x).node x.frame.dest).contact = some c
  rw [State.unanswered_node]; exact contact

theorem State.uncounted_timing : (s.uncounted x).timing = s.timing := by
  have talks := State.unanswered_talks (s := s) (x := x)
  unfold Talks at talks
  have timing : (s.unanswered x).timing = s.timing := by rw [talks]; rfl
  unfold State.uncounted
  split <;> exact timing

variable (below : c.reachable = false ∨ min 7 (c.failures + 1) < s.timing.failLimit)

include up outstanding window dest retried contact below in
theorem replyWindow_poll_below (kind : x.kind = .poll) : exec .replyWindowClose s
    = .next ((s.unanswered x).modContact x.frame.dest
      (fun _ => ⟨c.reachable, min 7 (c.failures + 1), c.last, s.now + secs s.timing.pollInterval⟩)).settle := by
  have counts := Ev.countFailure_below (State.uncounted_poll contact kind) (below.imp_right fun less => by
    rw [State.uncounted_timing]; exact less)
  have writes : (s.uncounted x).modContact x.frame.dest (fun c' => { c' with failures := min 7 (c.failures + 1) })
      = (s.unanswered x).modContact x.frame.dest
        (fun _ => ⟨c.reachable, min 7 (c.failures + 1), c.last, s.now + secs s.timing.pollInterval⟩) := by
    unfold State.uncounted
    rw [kind]
    dsimp only
    rw [State.modContact_modContact, State.modContact_set (c := c) (by rw [State.unanswered_node]; exact contact)]
  rw [replyWindow_poll up outstanding window dest retried kind, counts, Ev.start_finish, writes]

include up outstanding window dest retried contact below in
theorem replyWindow_allot_below {b : BayIx} {q : Nat} (kind : x.kind = .allot b q) : exec .replyWindowClose s
    = .next ((s.awaiting x c b).linkLossTest b).settle := by
  have counts := Ev.countFailure_below (State.uncounted_allot contact kind) (below.imp_right fun less => by
    rw [State.uncounted_timing]; exact less)
  have writes : (s.uncounted x).modContact x.frame.dest (fun c' => { c' with failures := min 7 (c.failures + 1) })
      = s.awaiting x c b := by
    rw [State.modContact_set (State.uncounted_allot contact kind)]
    unfold State.uncounted State.awaiting
    rw [kind]
  rw [replyWindow_allot up outstanding window dest retried kind, counts, writes, Ev.finish_onState]

end

end

end

end Sys2Proof.Machine
end

section
/-!
SUPPORT. The event in which a node becomes UNREACHABLE, followed on the record and the delivery record of its bay (R8, R11
to R13, R141, R142).
-/
namespace Sys2Proof.Machine

/-- An event from `u` that has made `d` of the record of bay `b` and `r` of its delivery record, told by the note `n`. -/
structure Ev.Sees (u : State) (b : BayIx) (ev : Ev) (d : BayDyn) (n : BayNote) (r : Delivery) : Prop where
  sound : (u.bay b).checkOk = true
  books : ev.books = u.books.put b ({ · with dyn := d })
  desk : ev.desk.touch b d.state = ⟨[n], false, false⟩
  voice : ev.voice = u.placed 0 []
  delivery : (ev.bay b).delivery = r
  bay : n.bay = b

/-- The delivery record after the link-loss test. -/
def Delivery.tested (lost : Bool) (r : Delivery) : Delivery :=
  if lost = true ∧ r.linkLost = false ∧ r.state ≠ .inFlight then r.lose else r

section
variable {u : State} {b : BayIx} {ev : Ev} {d : BayDyn} {n : BayNote} {r : Delivery} (h : ev.Sees u b d n r)

theorem State.sees_start (sound : (u.bay b).checkOk = true) :
    (Ev.start u).Sees u b (u.bay b).dyn (openNote b (u.bay b).dyn.state) (u.bay b).delivery where
  sound := sound
  books := (Books.put_id rfl).symm
  desk := rfl
  voice := Ev.start_voice u
  delivery := rfl
  bay := rfl

include h in
theorem Ev.Sees.dyn : (ev.books.bays b).dyn = d := by rw [h.books, Books.put_same]

include h in
theorem Ev.Sees.still : ev.books.still = u.still := by rw [h.books]; rfl

include h in
theorem Ev.Sees.written (g : BayDyn → BayDyn) : ev.books.put b (·.setDyn g) = u.books.put b ({ · with dyn := g d }) := by
  rw [h.books, Books.put_put]
  refine Books.put_congr ?_
  unfold BayBook.setDyn
  have ok : (u.books.bays b).ok = true := h.sound
  dsimp only
  rw [ok, ite_self]

include h in
theorem Ev.Sees.modDyn {g : BayDyn → BayDyn} (state : (g d).state = d.state) : (ev.modDyn b g).Sees u b (g d) n r where
  sound := h.sound
  books := by rw [Ev.modDyn_books, h.written]
  desk := by rw [Ev.modDyn_desk, state]; exact h.desk
  voice := h.voice
  delivery := (congrFun (congrArg Prod.fst (ev.modDyn_deliveries b g)) b).trans h.delivery
  bay := h.bay

include h in
theorem Ev.Sees.touch : (ev.touch b).Sees u b d n r where
  sound := h.sound
  books := by rw [Ev.touch_books]; exact h.books
  desk := by rw [Ev.touch_desk, h.dyn, h.desk]; exact Desk.touch_known _ h.bay
  voice := (Ev.touch_voice ev b).trans h.voice
  delivery := (congrFun (congrArg Prod.fst (ev.touch_deliveries b)) b).trans h.delivery
  bay := h.bay

include h in
theorem Ev.Sees.setState {st : BayState} (quiet : st ≠ .charging) : (ev.setState b st).Sees u b { d with state := st } n r where
  sound := h.sound
  books := by rw [Ev.setState_books, h.written]
  desk := by rw [Ev.setState_desk, h.dyn, h.desk]; exact Desk.touch_known _ h.bay
  voice := (Ev.setState_voice _ _ fun charging => absurd charging quiet).trans h.voice
  delivery := (congrFun (congrArg Prod.fst (ev.setState_deliveries b st)) b).trans h.delivery
  bay := h.bay

include h in
theorem Ev.Sees.note (c : BayCause) : (ev.note b c).Sees u b d (n.met c) r where
  sound := h.sound
  books := by rw [Ev.note_books]; exact h.books
  desk := by
    rw [Ev.note_desk, h.dyn, h.desk, Desk.modNote_known _ h.bay]
    exact Desk.touch_known (n := n.met c) _ h.bay
  voice := (Ev.note_voice ev b c).trans h.voice
  delivery := (congrFun (congrArg Prod.fst (ev.note_deliveries b c)) b).trans h.delivery
  bay := h.bay

include h in
theorem Ev.Sees.noteFault (c : FaultCause) : (ev.noteFault b c).Sees u b d (n.failed c) r where
  sound := h.sound
  books := by rw [Ev.noteFault_books]; exact h.books
  desk := by
    rw [Ev.noteFault_desk, h.dyn, h.desk, Desk.modNote_known _ h.bay]
    exact Desk.touch_known (n := n.failed c) _ h.bay
  voice := (Ev.noteFault_voice ev b c).trans h.voice
  delivery := (congrFun (congrArg Prod.fst (ev.noteFault_deliveries b c)) b).trans h.delivery
  bay := h.bay

/-! ## A fault cause (R8) -/

/-- The note of a bay that a fault cause has reached. -/
def BayNote.reached (n : BayNote) (before : BayState) (c : FaultCause) : BayNote :=
  if before = .closed ∨ before = .faulted then n else (n.failed c).met .faulted

include h in
theorem Ev.Sees.gainFault (c : FaultCause) : (ev.gainFault b c).Sees u b d.failing (n.reached d.state c) r := by
  unfold BayNote.reached
  by_cases idle : d.state = .closed ∨ d.state = .faulted
  · rw [if_pos idle, Ev.gainFault_idle (by rw [h.dyn]; exact idle), BayDyn.failing_idle idle]
    exact h
  · obtain ⟨open_, serves⟩ := not_or.1 idle
    rw [if_neg idle, Ev.gainFault_serving (by rw [h.dyn]; exact open_) (by rw [h.dyn]; exact serves),
      BayDyn.failing_serving open_]
    exact ((h.noteFault c).setState (by decide)).note .faulted

/-! ## Occupancy (R12 to R14) -/

include h in
theorem Ev.Sees.setOccupancy_eq {o : Occupancy} (differs : d.occupancy ≠ o) :
    ev.setOccupancy b o = ((ev.touch b).modDyn b ({ · with occupancy := o })).occupancyResponse b :=
  if_neg (c := (ev.bay b).dyn.occupancy = o) (by rw [Ev.bay_dyn, h.dyn]; exact differs)

include h in
/-- A bay out of service records its occupancy alone. -/
theorem Ev.Sees.setOccupancy_out (out : d.state = .closed ∨ d.state = .faulted) (o : Occupancy) :
    (ev.setOccupancy b o).Sees u b { d with occupancy := o } n r := by
  by_cases same : d.occupancy = o
  · rw [Ev.setOccupancy_same h.dyn o same, show ({ d with occupancy := o } : BayDyn) = d from by rw [← same]]
    exact h
  · have written := h.touch.modDyn (g := ({ · with occupancy := o })) rfl
    rw [h.setOccupancy_eq same, Ev.occupancyResponse_rests written.dyn (by
      rcases out with st | st <;> rw [st] <;> simp [BayState.rests])]
    rw [if_pos (by rcases out with st | st <;> rw [st] <;> cases o <;> rfl)]
    exact written

/-- The state of a bay whose occupancy becomes UNKNOWN (Table 1-5). -/
def BayState.unsure (st : BayState) : BayState := if st = .unbooked then .free else if st = .contested then .held else st

theorem Ev.occupancyResponse_unknown (dyn : (ev.books.bays b).dyn = d) (unknown : d.occupancy = .unknown) :
    ev.occupancyResponse b
      = if d.state.unsure = d.state then ev else (ev.setState b d.state.unsure).note b .evidence := by
  unfold Ev.occupancyResponse BayState.unsure
  dsimp only
  rw [show (ev.bay b).dyn = d from dyn, unknown]
  cases st : d.state <;> rfl

include h in
theorem Ev.Sees.setOccupancy_unknown (differs : d.occupancy ≠ .unknown) : (ev.setOccupancy b .unknown).Sees u b
    { d with occupancy := .unknown, state := d.state.unsure } (n.follows (decide (d.state.unsure ≠ d.state))) r := by
  have written := h.touch.modDyn (g := ({ · with occupancy := .unknown })) rfl
  rw [h.setOccupancy_eq differs, Ev.occupancyResponse_unknown written.dyn rfl]
  unfold BayNote.follows
  by_cases same : d.state.unsure = d.state
  · rw [if_pos same, if_neg (by simpa using same), same]
    exact written
  · rw [if_neg same, if_pos (by simpa using same)]
    have quiet : d.state.unsure ≠ .charging := by
      intro charging
      unfold BayState.unsure at charging same
      split at charging
      · cases charging
      · next other =>
        split at charging
        · cases charging
        · next another => exact same (by rw [if_neg other, if_neg another])
    exact (written.setState quiet).note .evidence

include h in
theorem Ev.Sees.sensor : ev.st.sensor b = u.sensor b := by
  unfold State.sensor
  rw [show ev.st.nodes = u.nodes from congrArg Still.nodes h.still]

include h in
/-- Plug evidence has ended at a bay out of service (R12). -/
theorem Ev.Sees.plugEnds_out (out : d.state = .closed ∨ d.state = .faulted) (e : NodeEntry) :
    (ev.plugEnds b e).Sees u b (u.lapsed e d) n r := by
  have runs : ev.plugEnds b e = if e.isReachable = false then ev.setOccupancy b .unknown
      else if d.candidate = some .vacant ∧ u.timing.debounce ≤ d.debounce then
        (ev.modDyn b BayDyn.endRun).setOccupancy b .vacant
      else ev := by
    unfold Ev.plugEnds
    dsimp only
    rw [show (ev.bay b).dyn = d from h.dyn, show ev.st.timing = u.timing from congrArg Still.timing h.still]
    cases e.isReachable <;> rfl
  rw [runs]
  unfold State.lapsed
  split
  · exact h.setOccupancy_out out .unknown
  · split
    · exact (h.modDyn (g := BayDyn.endRun) rfl).setOccupancy_out out .vacant
    · exact h

/-- The record of a bay out of service whose post is lost (R12, R13). -/
def State.unposted (u : State) (b : BayIx) (was : Bool) (d : BayDyn) : BayDyn :=
  match u.sensor b with
  | none => { d with occupancy := .unknown }
  | some (_, e) => if was then u.lapsed e d else d

include h in
theorem Ev.Sees.postLost_out (out : d.state = .closed ∨ d.state = .faulted) (was : Bool) :
    (ev.postLost b was).Sees u b (u.unposted b was d) n r := by
  unfold Ev.postLost State.unposted
  rw [h.sensor]
  cases u.sensor b with
  | none => exact h.setOccupancy_out out .unknown
  | some e =>
    dsimp only
    split
    · exact h.plugEnds_out out _
    · exact h

/-! ## The link-loss test (R142) -/

theorem State.linkLossTest_books (s : State) (b : BayIx) : (s.linkLossTest b).books = s.books := by
  unfold State.linkLossTest
  dsimp only
  split
  · exact State.modDelivery_books s b _
  · rfl

include h in
theorem Ev.Sees.linkLost : ev.st.linkLostNow b = u.linkLostNow b :=
  State.linkLost_nodes (congrArg Still.nodes h.still) (congrArg Still.now h.still) (congrArg Still.timing h.still) b

include h in
theorem Ev.Sees.linkLossTest : (ev.onState (·.linkLossTest b)).Sees u b d n (r.tested (u.linkLostNow b)) where
  sound := h.sound
  books := by rw [Ev.onState_books, State.linkLossTest_books]; exact h.books
  desk := h.desk
  voice := (Ev.onState_voice ev fun s => by rw [State.linkLossTest_eq]; exact ⟨rfl, rfl, rfl⟩).trans h.voice
  delivery := by
    show ((ev.st.linkLossTest b).bay b).delivery = _
    rw [State.linkLossTest_eq, State.bay_modBay, if_pos rfl, Bay.linkLossTest_delivery, h.linkLost]
    rw [show (ev.st.bay b).delivery = r from h.delivery]
    rfl
  bay := h.bay

/-! ## The end of the event -/

include h in
theorem Ev.Sees.notes (raised : n.raised d.state = true) : ev.desk.notes = [n] := by
  have touched := congrArg Desk.notes h.desk
  unfold Desk.touch at touched
  split at touched
  · exact touched
  · have opened : ev.desk.notes ++ [openNote b d.state] = [n] := touched
    have last : openNote b d.state = n := by simpa using congrArg List.getLast? opened
    rw [← last, openNote_quiet] at raised
    cases raised

include h in
theorem Ev.Sees.fewNotes : ev.desk.notes.length ≤ 1 := by
  have touched := congrArg Desk.notes h.desk
  unfold Desk.touch at touched
  split at touched
  · rw [touched]; exact Nat.le_refl 1
  · have opened : ev.desk.notes ++ [openNote b d.state] = [n] := touched
    have length := congrArg List.length opened
    rw [List.length_append, List.length_singleton, List.length_singleton] at length
    omega

/-- What the end of such an event shows. -/
structure State.Strands (u : State) (b : BayIx) (t : State) (d : BayDyn) (n : BayNote) : Prop where
  dyn : (t.bay b).dyn = d
  others : ∀ e, e ≠ b → (t.bay e).dyn = (u.bay e).dyn
  recorder : t.recorder = u.recorder
  index : t.index = u.index
  nodes : t.nodes = u.nodes
  notice : u.controller.noticeDest ≠ 0 → n.raised d.state = true → u.uplink.fifo ++ [u.noteAt 0 n d.state] <+: t.uplink.fifo

include h in
theorem Ev.Sees.strands (ok : ∀ e, (u.bay e).checkOk = true) (waitlist : u.waitlist = [])
    (room : u.uplink.fifo.length + 1 ≤ 32) : u.Strands b ev.finish d n := by
  have scan : ev.scan = false ∨ ev.books.waitlist = [] := .inr (by rw [h.books]; exact waitlist)
  have order : ev.books.Ok := by
    rw [h.books]
    exact Books.Ok.put (k := u.books) ok b fun _ good => good
  have length : ev.voice.uplink.fifo.length = u.uplink.fifo.length := by rw [h.voice]; simp [State.placed]
  have few := h.fewNotes
  have shows_ := Ev.finish_shows ev scan (.inr order)
  rw [h.books] at shows_
  refine ⟨?_, fun e other => ?_, ?_, shows_.index, congrArg Still.nodes shows_.still, fun somebody raised => ?_⟩
  · rw [shows_.dyn, Books.put_same]
  · rw [shows_.dyn, Books.put_other _ _ other]; rfl
  · rw [(Ev.finish_voice ev scan (.inr order)).1, Ev.flushNotes_recorder (by rw [h.voice]; rfl) (by rw [length]; omega),
      h.voice]
    rfl
  · have sent := Ev.finish_sends_note (s := u) (k := 0) (fs := []) (n := n) (after := d.state) (fun _ => h.voice)
      (h.notes raised) (congrArg Still.controller h.still) (by rw [h.bay, h.dyn]) raised somebody
    exact sent (by simpa using room)

include h in
theorem Ev.Sees.keeps {P : Delivery → Prop} (persists : Delivery.Persists P) (ok : ∀ e, (u.bay e).checkOk = true)
    (waitlist : u.waitlist = []) (holds : P r) : P (ev.finish.bay b).delivery := by
  refine Ev.finish_delivery persists (.inr (by rw [h.books]; exact waitlist)) ?_ (by rw [h.delivery]; exact holds)
  rw [h.books]
  exact Books.Ok.put (k := u.books) ok b fun _ good => good

end

end Sys2Proof.Machine
end

section
/-!
SUPPORT. The node that becomes UNREACHABLE: its contact record, the nodes of its bay, and the errors logged (R141).
-/
namespace Sys2Proof.Machine

/-! ## One contact record written -/

/-- The Node Map of `u` is that of `s` but for the contact record of one node. -/
def State.Renewed (s u : State) (a : Addr) (k : Contact) : Prop :=
  ∀ a', u.node a' = if a' = a then { s.node a with contact := some k } else s.node a'

section
variable {s u : State} {a : Addr} {k : Contact} (h : s.Renewed u a k)

theorem State.renewed_refl {c : Contact} (contact : (s.node a).contact = some c) : s.Renewed s a c := by
  intro a'
  split
  · next same => rw [same, ← contact]
  · rfl

include h in
theorem State.Renewed.of_nodes {v : State} (nodes : v.nodes = u.nodes) : s.Renewed v a k := by
  intro a'
  rw [← h a']
  unfold State.node; rw [nodes]

include h in
theorem State.Renewed.modContact (f : Contact → Contact) : s.Renewed (u.modContact a f) a (f k) := by
  intro a'
  rw [State.modContact_node]
  by_cases same : a' = a
  · rw [if_pos same, if_pos same, h a, if_pos rfl]; rfl
  · rw [if_neg same, if_neg same, h a', if_neg same]

include h in
theorem State.Renewed.contact : (u.node a).contact = some k := by rw [h a, if_pos rfl]

include h in
theorem State.Renewed.kept (a' : Addr) : (u.node a').role = (s.node a').role ∧ (u.node a').bay = (s.node a').bay := by
  rw [h a']
  split
  · next same => rw [same]; exact ⟨rfl, rfl⟩
  · exact ⟨rfl, rfl⟩

include h in
theorem State.Renewed.nodesOf (r : Role) (b : BayIx) :
    nodeOf u.nodes r b = (nodeOf s.nodes r b).map (fun e => (e.1, u.node e.1)) :=
  nodeOf_congr (fun i => h.kept (BitVec.ofFin i)) r b

include h in
theorem State.Renewed.nodesOf_other {r : Role} (other : (s.node a).role ≠ r) (b : BayIx) :
    nodeOf u.nodes r b = nodeOf s.nodes r b := by
  rw [h.nodesOf]
  cases found : nodeOf s.nodes r b with
  | none => rfl
  | some x =>
    obtain ⟨n, e⟩ := x
    obtain ⟨entry, role, _⟩ := nodeOf_some found
    have apart : n ≠ a := fun same => other (by
      rw [← same, show s.node n = e from entry]; exact role)
    rw [Option.map_some, h n, if_neg apart, show s.node n = e from entry]

include h in
theorem State.Renewed.postReachable {c : Contact} (contact : (s.node a).contact = some c) (same : k.reachable = c.reachable)
    (b : BayIx) : u.postReachable b = s.postReachable b := by
  unfold State.postReachable
  rw [show u.post b = (s.post b).map (fun e => (e.1, u.node e.1)) from h.nodesOf .post b]
  cases post : s.post b with
  | none => rfl
  | some x =>
    obtain ⟨n, e⟩ := x
    have entry : s.node n = e := (State.post_some post).1
    dsimp only [Option.map_some]
    rw [h n]
    by_cases here : n = a
    · rw [if_pos here]
      rw [here] at entry
      rw [entry] at contact ⊢
      unfold NodeEntry.isReachable
      rw [contact]
      exact same
    · rw [if_neg here, entry]

include h in
/-- Whether a post is link-lost goes by its contact state and its last contact (R142). -/
theorem State.Renewed.linkLost {c : Contact} (contact : (s.node a).contact = some c) (reachable : k.reachable = c.reachable)
    (last : k.last = c.last) (now : u.now = s.now) (timing : u.timing = s.timing) (b : BayIx) :
    u.linkLostNow b = s.linkLostNow b := by
  unfold State.linkLostNow
  rw [show u.post b = (s.post b).map (fun e => (e.1, u.node e.1)) from h.nodesOf .post b, now, timing]
  cases post : s.post b with
  | none => rfl
  | some x =>
    obtain ⟨n, e⟩ := x
    have entry : s.node n = e := (State.post_some post).1
    dsimp only [Option.map_some]
    rw [h n]
    by_cases here : n = a
    · rw [if_pos here]
      rw [here] at entry
      rw [entry] at contact ⊢
      rw [contact]
      dsimp only
      rw [reachable, last]
    · rw [if_neg here, entry]

end

/-! ## The part that has lost a node -/

/-- A failure counted at the limit: the node UNREACHABLE, and NODE-UNREACHABLE logged. -/
def State.stranded (w : State) (a : Addr) (n : Nat) (b : BayIx) : State :=
  ((w.modContact a (fun c => { c with failures := n })).modContact a (fun c => { c with reachable := false })).logError
    { kind := .nodeUnreachable, bay := some b }

theorem State.logError_books (s : State) (e : ErrorReport) : (s.logError e).books = s.books := by
  have logged := Ev.log_books (Ev.start s) e
  rw [Ev.start_log] at logged
  exact logged

theorem State.modContact_books (s : State) (a : Addr) (f : Contact → Contact) : (s.modContact a f).books
    = { s.books with still := { s.still with nodes := (s.modContact a f).nodes } } := rfl

section
variable {w : State} {a : Addr} {n : Nat} {b : BayIx}

theorem State.stranded_talks : Talks ((w.modContact a (fun c => { c with failures := n })).modContact a
    (fun c => { c with reachable := false })) (w.stranded a n b) := State.logError_talks _ _

theorem State.stranded_nodes : (w.stranded a n b).nodes = ((w.modContact a (fun c => { c with failures := n })).modContact a
    (fun c => { c with reachable := false })).nodes := by
  have talks := State.stranded_talks (w := w) (a := a) (n := n) (b := b)
  unfold Talks at talks
  rw [talks]

theorem State.stranded_bay (e : BayIx) : (w.stranded a n b).bay e = w.bay e := by
  have talks := State.stranded_talks (w := w) (a := a) (n := n) (b := b)
  unfold Talks at talks
  rw [talks]; rfl

theorem State.stranded_books : (w.stranded a n b).books
    = { w.books with still := { w.still with nodes := (w.stranded a n b).nodes } } := by
  rw [State.stranded_nodes]
  unfold State.stranded
  rw [State.logError_books]
  rfl

variable {c : Contact} (contact : (w.node a).contact = some c) (reachable : c.reachable = true)
  (limit : w.timing.failLimit ≤ min 7 (c.failures + 1)) (bay : (w.node a).bay = some b)

include contact reachable limit bay in
theorem Ev.countFailure_post (role : (w.node a).role = .post) : (Ev.start w).countFailure a
    = (((Ev.start (w.stranded a (min 7 (c.failures + 1)) b)).gainFault b .postUnreachable).postLost b
      (w.plugEvidence b)).onState (·.linkLossTest b) := by
  have logged := Ev.start_log ((w.modContact a (fun c' => { c' with failures := min 7 (c.failures + 1) })).modContact a
    (fun c => { c with reachable := false })) { kind := .nodeUnreachable, bay := some b }
  unfold Ev.countFailure
  dsimp only
  rw [show ((Ev.start w).st.node a).contact = some c from contact]
  dsimp only
  rw [if_pos (by rw [reachable]; exact decide_eq_true limit), show ((Ev.start w).st.node a).role = .post from role,
    show ((Ev.start w).st.node a).bay = some b from bay]
  exact congrArg (fun v : Ev => ((v.gainFault b .postUnreachable).postLost b (w.plugEvidence b)).onState (·.linkLossTest b)) logged

include contact reachable limit bay in
theorem Ev.countFailure_sensor (role : (w.node a).role = .sensor) : (Ev.start w).countFailure a
    = (Ev.start (w.stranded a (min 7 (c.failures + 1)) b)).sensorLost b := by
  have logged := Ev.start_log ((w.modContact a (fun c' => { c' with failures := min 7 (c.failures + 1) })).modContact a
    (fun c => { c with reachable := false })) { kind := .nodeUnreachable, bay := some b }
  unfold Ev.countFailure
  dsimp only
  rw [show ((Ev.start w).st.node a).contact = some c from contact]
  dsimp only
  rw [if_pos (by rw [reachable]; exact decide_eq_true limit), show ((Ev.start w).st.node a).role = .sensor from role,
    show ((Ev.start w).st.node a).bay = some b from bay]
  exact congrArg (fun v : Ev => v.sensorLost b) logged

end

/-! ## The part before the count -/

section
variable {s : State} {x : Transaction} {c : Contact} (contact : (s.node x.frame.dest).contact = some c)

/-- The due time of the node once the failure is counted. -/
def State.dueAfter (s : State) (x : Transaction) (c : Contact) : Time :=
  if x.kind = .poll then s.now + secs s.timing.pollInterval else c.due

include contact in
theorem State.uncounted_renewed (own : x.kind = .poll ∨ ∃ b q, x.kind = .allot b q) :
    s.Renewed (s.uncounted x) x.frame.dest { c with due := s.dueAfter x c } := by
  have unanswered : s.Renewed (s.unanswered x) x.frame.dest c :=
    fun a => (State.unanswered_node a).trans (State.renewed_refl contact a)
  unfold State.uncounted State.dueAfter
  rcases own with poll | ⟨b, q, allot⟩
  · rw [poll, if_pos rfl]
    exact unanswered.modContact _
  · rw [allot, if_neg (by simp)]
    exact unanswered.of_nodes rfl

theorem State.unanswered_books : (s.unanswered x).books = s.books := State.logError_books _ _

theorem State.uncounted_books : (s.uncounted x).books = { s.books with still := { s.still with nodes := (s.uncounted x).nodes } } := by
  have unanswered := State.unanswered_books (s := s) (x := x)
  unfold State.uncounted
  cases kind : x.kind with
  | allot b q =>
    dsimp only
    refine (State.modDelivery_books _ b _).trans ?_
    show _ = ({ s.books with still := { s.still with nodes := (s.unanswered x).nodes } } : Books)
    rw [← unanswered]
    refine congrArg (fun k : Still => ({ (s.unanswered x).books with still := k } : Books)) ?_
    show _ = ({ s.books.still with nodes := _ } : Still)
    rw [← unanswered]; rfl
  | poll | forward v =>
    dsimp only
    rw [State.modContact_books, unanswered, show (s.unanswered x).still = s.still from congrArg Books.still unanswered]

theorem State.uncounted_errors : SameErrors (s.unanswered x) (s.uncounted x) := by
  unfold State.uncounted
  split <;> exact ⟨rfl, rfl, rfl, rfl, rfl, rfl⟩

/-- The errors of an event at the limit K: NO-ANSWER and NODE-UNREACHABLE. -/
def State.lostErrors (s : State) (x : Transaction) (b : BayIx) : State :=
  (s.unanswered x).logError { kind := .nodeUnreachable, bay := some b }

/-- The part that has lost the node of the transaction. -/
def State.lostNode (s : State) (x : Transaction) (c : Contact) (b : BayIx) : State :=
  (s.uncounted x).stranded x.frame.dest (min 7 (c.failures + 1)) b

theorem State.lostNode_errors (c : Contact) (b : BayIx) : (s.lostNode x c b).recorder = (s.lostErrors x b).recorder
    ∧ (s.lostNode x c b).uplink.fifo = (s.lostErrors x b).uplink.fifo
    ∧ (s.lostNode x c b).noticeTag = (s.lostErrors x b).noticeTag := by
  obtain ⟨recorder, fifo, tag, now, site, controller⟩ := State.uncounted_errors (s := s) (x := x)
  have same : SameErrors (s.unanswered x) (((s.uncounted x).modContact x.frame.dest
    (fun c' => { c' with failures := min 7 (c.failures + 1) })).modContact x.frame.dest (fun c => { c with reachable := false })) :=
    ⟨recorder, fifo, tag, now, site, controller⟩
  exact same.logError _

theorem State.lostNode_books (c : Contact) (b : BayIx) : (s.lostNode x c b).books
    = { s.books with still := { s.still with nodes := (s.lostNode x c b).nodes } } := by
  have before := State.uncounted_books (s := s) (x := x)
  unfold State.lostNode
  rw [State.stranded_books, before, show (s.uncounted x).still = { s.still with nodes := (s.uncounted x).nodes } from
    congrArg Books.still before]

include contact in
theorem State.lostNode_renewed (own : x.kind = .poll ∨ ∃ b q, x.kind = .allot b q) (b : BayIx) :
    s.Renewed (s.lostNode x c b) x.frame.dest ⟨false, min 7 (c.failures + 1), c.last, s.dueAfter x c⟩ := by
  have renewed := ((State.uncounted_renewed contact own).modContact
    (fun c' => { c' with failures := min 7 (c.failures + 1) })).modContact (fun c => { c with reachable := false })
  exact renewed.of_nodes State.stranded_nodes

theorem State.lostNode_fifo (b : BayIx) (room : s.uplink.fifo.length + 3 ≤ 32) :
    (s.lostErrors x b).uplink.fifo.length + 1 ≤ 32 := by
  have first := State.logError_fifo (s := s.setTransaction none)
    { kind := .noAnswer, bay := (s.node x.frame.dest).bay, header := some x.frame.header }
    (show s.uplink.fifo.length < 32 by omega)
  have start : (s.setTransaction none).uplink.fifo.length = s.uplink.fifo.length := rfl
  rw [start] at first
  have second := State.logError_fifo (s := s.unanswered x) { kind := .nodeUnreachable, bay := some b }
    (show (s.unanswered x).uplink.fifo.length < 32 by unfold State.unanswered; omega)
  have middle : (s.unanswered x).uplink.fifo.length ≤ s.uplink.fifo.length + 1 := first
  show ((s.unanswered x).logError _).uplink.fifo.length + 1 ≤ 32
  omega

end

end Sys2Proof.Machine
end

section
/-!
SUPPORT. What becomes of the bay of a node that is lost, and the obligation on the close of a reply window (O13).
-/
namespace Sys2Proof.Machine

/-! ## Delivery records -/

theorem Delivery.tested_twice (lost : Bool) (r : Delivery) : (r.tested lost).tested lost = r.tested lost := by
  unfold Delivery.tested
  by_cases taken : lost = true ∧ r.linkLost = false ∧ r.state ≠ .inFlight
  · rw [if_pos taken]
    exact if_neg fun again => by cases again.2.1
  · rw [if_neg taken, if_neg taken]

/-- A delivery record that the link-loss expiry has brought to rest, whatever is sent after it. -/
def Delivery.AtRest (r : Delivery) : Prop :=
  r.inForce = some 0 ∧ r.drawn = 0 ∧ r.linkLost = true ∧ r.repeatMark = false ∧ r.overdrawCount = 0

theorem Delivery.atRest_persists : Delivery.Persists Delivery.AtRest where
  handed d n := by rw [Delivery.handTarget_eq]; exact id
  sent d _ := fun ⟨inForce, drawn, lost, _, count⟩ => ⟨inForce, drawn, lost, rfl, count⟩

/-- A bay left WAIT-CONTACT keeps its delivery record but for the target. -/
def Delivery.Waits (r d : Delivery) : Prop := d = { r with target := d.target, state := .waitContact }

theorem Delivery.waits_persists (r : Delivery) : Delivery.Persists r.Waits where
  handed d n waits := by
    have state : d.state = .waitContact := congrArg Delivery.state waits
    rw [Delivery.handTarget_eq, state, if_pos (by decide)]
    unfold Delivery.Waits at waits ⊢
    rw [waits]
  sent d pending waits := by
    have state : d.state = .waitContact := congrArg Delivery.state waits
    rw [pending] at state; cases state

/-! ## The part that has lost the node -/

section
variable {s : State} {x : Transaction} {c : Contact} {b : BayIx}

theorem State.lostNode_book (e : BayIx) : ((s.lostNode x c b).bay e).book = (s.bay e).book :=
  congrFun (congrArg Books.bays (State.lostNode_books c b)) e

theorem State.lostNode_dyn (e : BayIx) : ((s.lostNode x c b).bay e).dyn = (s.bay e).dyn :=
  congrArg BayBook.dyn (State.lostNode_book e)

theorem State.lostNode_ok (ok : ∀ e, (s.bay e).checkOk = true) (e : BayIx) : ((s.lostNode x c b).bay e).checkOk = true :=
  (congrArg BayBook.ok (State.lostNode_book e)).trans (ok e)

theorem State.lostNode_still : (s.lostNode x c b).still = { s.still with nodes := (s.lostNode x c b).nodes } :=
  congrArg Books.still (State.lostNode_books c b)

/-- What a reply window leaves owed by the bay's post. -/
def State.owed (s : State) (x : Transaction) (b : BayIx) : Delivery :=
  if x.kind = .poll then (s.bay b).delivery else { (s.bay b).delivery with state := .waitContact }

theorem State.lostNode_delivery (own : x.kind = .poll ∨ ∃ q, x.kind = .allot b q) :
    ((s.lostNode x c b).bay b).delivery = s.owed x b := by
  unfold State.lostNode State.owed
  rw [State.stranded_bay]
  unfold State.uncounted
  rcases own with poll | ⟨q, allot⟩
  · rw [poll, if_pos rfl]
    show ((s.unanswered x).bay b).delivery = _
    rw [State.unanswered_bay]
  · rw [allot, if_neg (by simp)]
    show (((s.unanswered x).modBay b _).bay b).delivery = _
    rw [State.bay_modBay, if_pos rfl, State.unanswered_bay]

/-- What the close of the reply window makes of the bay of the lost node. -/
def State.Becomes (s : State) (x : Transaction) (c : Contact) (b : BayIx) (d' : BayDyn) (more : State → Prop) : Prop :=
  ∃ t, exec .replyWindowClose s = .next t
    ∧ (t.node x.frame.dest).contact = some ⟨false, min 7 (c.failures + 1), c.last, s.dueAfter x c⟩
    ∧ (t.bay b).dyn = d' ∧ (∀ e, e ≠ b → (t.bay e).dyn = (s.bay e).dyn)
    ∧ t.recorder = (s.lostErrors x b).recorder ∧ t.index = s.index
    ∧ (s.controller.noticeDest ≠ 0 → (s.bay b).dyn.state ≠ d'.state →
        (s.lostErrors x b).uplink.fifo ++ [(s.lostErrors x b).bayNoticeAt 0 b (s.bay b).dyn.state d'.state
          (if d'.state = .faulted then 6 else 1) 0 (if d'.state = .faulted then 2 else 0)] <+: t.uplink.fifo)
    ∧ more t

/-- A note that tells of its bay as the close of a reply window does. -/
def BayNote.TellsLoss (n : BayNote) (b : BayIx) (before after : BayState) : Prop :=
  before ≠ after → n.raised after = true ∧ n.payload after = [byteOf (b.val + 1), byteOf before.code, byteOf after.code,
    byteOf (if after = .faulted then 6 else 1), byteOf 0, byteOf (if after = .faulted then 2 else 0)]

section
variable (contact : (s.node x.frame.dest).contact = some c) (ok : ∀ e, (s.bay e).checkOk = true) (waitlist : s.waitlist = [])
  (room : s.uplink.fifo.length + 3 ≤ 32)

include contact ok waitlist room in
theorem Ev.Sees.becomes {ev : Ev} {d' : BayDyn} {n : BayNote} {r : Delivery} (h : ev.Sees (s.lostNode x c b) b d' n r)
    (runs : exec .replyWindowClose s = .next ev.finish) (own : x.kind = .poll ∨ ∃ q, x.kind = .allot b q)
    (tells : n.TellsLoss b (s.bay b).dyn.state d'.state) {more : State → Prop} (also : more ev.finish) :
    s.Becomes x c b d' more := by
  obtain ⟨recorder, fifo, tag⟩ := State.lostNode_errors (s := s) (x := x) c b
  have short := State.lostNode_fifo (x := x) b room
  have strands := h.strands (State.lostNode_ok ok)
    ((congrArg Books.waitlist (State.lostNode_books (s := s) (x := x) c b)).trans waitlist) (by rw [fifo]; exact short)
  have controller : (s.lostNode x c b).controller = s.controller := congrArg Still.controller State.lostNode_still
  have errors : (s.lostErrors x b).controller = s.controller :=
    (State.logError_controller _ _).trans (State.logError_controller _ _)
  have renewed := State.lostNode_renewed contact (own.imp_right fun ⟨q, kind⟩ => ⟨b, q, kind⟩) b
  refine ⟨_, runs, ?_, strands.dyn, fun e other => ?_, strands.recorder.trans recorder, ?_, fun somebody moves => ?_, also⟩
  · exact (renewed.of_nodes strands.nodes).contact
  · rw [strands.others e other, State.lostNode_dyn]
  · exact strands.index.trans (congrArg Books.index (State.lostNode_books c b))
  · obtain ⟨raised, payload⟩ := tells moves
    have sent := strands.notice (by rw [controller]; exact somebody) raised
    have frame : (s.lostNode x c b).noteAt 0 n d'.state = (s.lostErrors x b).bayNoticeAt 0 b (s.bay b).dyn.state d'.state
        (if d'.state = .faulted then 6 else 1) 0 (if d'.state = .faulted then 2 else 0) := by
      unfold State.noteAt State.bayNoticeAt State.noticeAt
      rw [payload, tag, controller, errors]
    rw [fifo, frame] at sent
    exact sent

/-! ## A post (R8, R12, R142) -/

variable (up : s.heldInReset = false) (outstanding : s.scheduler.transaction = some x) (window : x.phase = .window)
  (dest : x.destLost = false) (retried : x.retried = true) (reachable : c.reachable = true)
  (limit : s.timing.failLimit ≤ min 7 (c.failures + 1)) (bay : (s.node x.frame.dest).bay = some b)

/-- The record of the bay once its post is lost. -/
def State.postless (s : State) (b : BayIx) (d : BayDyn) : BayDyn :=
  match s.sensor b with
  | none => { d.failing with occupancy := .unknown }
  | some (_, e) => if s.plugEvidence b then s.lapsed e d.failing else d.failing

theorem State.postless_state (d : BayDyn) : (s.postless b d).state = d.failing.state := by
  unfold State.postless
  split
  · rfl
  · split
    · exact (s.lapsed_fields _ _).1
    · rfl

theorem reachedNote_tells (b : BayIx) (st : BayState) : ((openNote b st).reached st .postUnreachable).TellsLoss b st
    (if st = .closed then .closed else .faulted) := by
  intro moves
  have serves : ¬ (st = .closed ∨ st = .faulted) := by
    rintro (closed | faulted)
    · exact moves (by rw [if_pos closed, closed])
    · exact moves (by rw [if_neg (by rw [faulted]; decide), faulted])
  obtain ⟨open_, inService⟩ := not_or.1 serves
  unfold BayNote.reached
  rw [if_neg serves, if_neg open_]
  exact ⟨faultNote_raised (c := .postUnreachable) inService, rfl⟩

include contact ok up outstanding window dest retried reachable limit bay in
theorem State.post_lost (role : (s.node x.frame.dest).role = .post) (own : x.kind = .poll ∨ ∃ q, x.kind = .allot b q) :
    ∃ ev : Ev, exec .replyWindowClose s = .next ev.finish ∧ ev.Sees (s.lostNode x c b) b (s.postless b (s.bay b).dyn)
      ((openNote b (s.bay b).dyn.state).reached (s.bay b).dyn.state .postUnreachable)
      ((s.owed x b).tested ((s.lostNode x c b).linkLostNow b)) := by
  have some_ : x.kind = .poll ∨ ∃ b q, x.kind = .allot b q := own.imp_right fun ⟨q, kind⟩ => ⟨b, q, kind⟩
  have before := State.uncounted_renewed contact some_
  have after := State.lostNode_renewed contact some_ b
  have timing : (s.uncounted x).timing = s.timing := State.uncounted_timing
  have evidence : (s.uncounted x).plugEvidence b = s.plugEvidence b := by
    have dyn : ((s.uncounted x).bay b).dyn = (s.bay b).dyn :=
      congrArg BayBook.dyn (congrFun (congrArg Books.bays (State.uncounted_books (s := s) (x := x))) b)
    unfold State.plugEvidence
    rw [dyn, before.postReachable contact rfl]
  have counts := Ev.countFailure_post (w := s.uncounted x) (b := b) before.contact reachable (by rw [timing]; exact limit)
    ((before.kept _).2.trans bay) ((before.kept _).1.trans role)
  rw [evidence] at counts
  have base := State.sees_start (u := s.lostNode x c b) (b := b) (State.lostNode_ok ok b)
  rw [State.lostNode_dyn, State.lostNode_delivery own] at base
  have out : (s.bay b).dyn.failing.state = .closed ∨ (s.bay b).dyn.failing.state = .faulted := by
    unfold BayDyn.failing
    dsimp only
    split
    · exact .inl rfl
    · exact .inr rfl
  have lost := ((base.gainFault .postUnreachable).postLost_out out (s.plugEvidence b)).linkLossTest
  have record : (s.lostNode x c b).unposted b (s.plugEvidence b) (s.bay b).dyn.failing = s.postless b (s.bay b).dyn := by
    unfold State.unposted State.postless
    rw [show (s.lostNode x c b).sensor b = s.sensor b from after.nodesOf_other (by rw [role]; decide) b]
    have lapsed (e : NodeEntry) (d : BayDyn) : (s.lostNode x c b).lapsed e d = s.lapsed e d := by
      unfold State.lapsed
      rw [show (s.lostNode x c b).timing = s.timing from congrArg Still.timing State.lostNode_still]
    cases s.sensor b with
    | none => rfl
    | some y => dsimp only; rw [lapsed]
  rw [record] at lost
  have counted : (Ev.start (s.uncounted x)).countFailure x.frame.dest
      = (((Ev.start (s.lostNode x c b)).gainFault b .postUnreachable).postLost b (s.plugEvidence b)).onState (·.linkLossTest b) :=
    counts
  rw [← counted] at lost
  rcases own with poll | ⟨q, allot⟩
  · exact ⟨_, replyWindow_poll up outstanding window dest retried poll, lost⟩
  · have again := lost.linkLossTest
    rw [Delivery.tested_twice] at again
    exact ⟨_, replyWindow_allot up outstanding window dest retried allot, again⟩

/-- What the link-loss test has made of the delivery record. -/
def State.Recorded (s : State) (x : Transaction) (c : Contact) (b : BayIx) (t : State) : Prop :=
  s.post b = some (x.frame.dest, s.node x.frame.dest) →
    (atOrAfter s.now (c.last + BitVec.ofNat 32 s.timing.linkLoss) = true → (s.bay b).delivery.linkLost = false →
        (x.kind = .poll → (s.bay b).delivery.state ≠ .inFlight) → (t.bay b).delivery.AtRest)
      ∧ (x.kind ≠ .poll → atOrAfter s.now (c.last + BitVec.ofNat 32 s.timing.linkLoss) = false
          ∨ (s.bay b).delivery.linkLost = true → (s.bay b).delivery.Waits (t.bay b).delivery)

include contact ok waitlist room up outstanding window dest retried reachable limit bay in
theorem State.post_becomes (role : (s.node x.frame.dest).role = .post) (own : x.kind = .poll ∨ ∃ q, x.kind = .allot b q) :
    s.Becomes x c b (s.postless b (s.bay b).dyn) (s.Recorded x c b) := by
  have some_ : x.kind = .poll ∨ ∃ b q, x.kind = .allot b q := own.imp_right fun ⟨q, kind⟩ => ⟨b, q, kind⟩
  obtain ⟨ev, runs, sees⟩ := s.post_lost contact ok up outstanding window dest retried reachable limit bay role own
  refine sees.becomes contact ok waitlist room runs own ?_ fun post => ?_
  · rw [State.postless_state]
    exact reachedNote_tells b _
  · have renewed := State.lostNode_renewed contact some_ b
    have ended : (s.lostNode x c b).linkLostNow b = atOrAfter s.now (c.last + secs s.timing.linkLoss) := by
      have here : (s.lostNode x c b).post b = some (x.frame.dest, (s.lostNode x c b).node x.frame.dest) :=
        (renewed.nodesOf .post b).trans (by rw [show nodeOf s.nodes .post b = _ from post]; rfl)
      unfold State.linkLostNow
      rw [here]
      dsimp only
      rw [renewed.contact, show (s.lostNode x c b).now = s.now from congrArg Still.now State.lostNode_still,
        show (s.lostNode x c b).timing = s.timing from congrArg Still.timing State.lostNode_still]
      rfl
    rw [ended] at sees
    have empty := (congrArg Books.waitlist (State.lostNode_books (s := s) (x := x) c b)).trans waitlist
    refine ⟨fun expired fresh flying => ?_, fun sent stays => ?_⟩
    · refine sees.keeps Delivery.atRest_persists (State.lostNode_ok ok) empty ?_
      unfold Delivery.tested
      have due : atOrAfter s.now (c.last + secs s.timing.linkLoss) = true ∧ (s.owed x b).linkLost = false
          ∧ (s.owed x b).state ≠ .inFlight := by
        refine ⟨expired, ?_, ?_⟩ <;> unfold State.owed <;> split
        · exact fresh
        · exact fresh
        · next poll => exact flying poll
        · exact fun none_ => by cases none_
      rw [if_pos due]
      exact ⟨rfl, rfl, rfl, rfl, rfl⟩
    · refine sees.keeps (Delivery.waits_persists _) (State.lostNode_ok ok) empty ?_
      unfold Delivery.tested State.owed
      rw [if_neg sent, if_neg (by
        rintro ⟨expired, fresh, _⟩
        rcases stays with off | lost
        · rw [show atOrAfter s.now (c.last + secs s.timing.linkLoss) = false from off] at expired; cases expired
        · exact Bool.false_ne_true (fresh.symm.trans lost))]
      rfl

/-! ## A sensor (R11) -/

theorem unsureNote_tells (b : BayIx) (st : BayState) :
    ((openNote b st).follows (decide (st.unsure ≠ st))).TellsLoss b st st.unsure := by
  intro moves
  have changes : st.unsure ≠ st := fun same => moves same.symm
  unfold BayNote.follows
  rw [if_pos (by simpa using changes)]
  refine ⟨?_, ?_⟩
  · unfold BayNote.raised
    rw [show ((openNote b st).met .evidence).before = st from rfl, bne_iff_ne.2 moves]; rfl
  · cases st with
    | unbooked | contested => rfl
    | free | held | arrived | charging | done | overstay | faulted | closed => exact absurd rfl moves

include contact ok waitlist room up outstanding window dest retried reachable limit bay in
theorem State.sensor_becomes (role : (s.node x.frame.dest).role = .sensor) (poll : x.kind = .poll) :
    s.Becomes x c b (if s.plugEvidence b = true ∨ (s.bay b).dyn.occupancy = .unknown then (s.bay b).dyn.endRun
      else { (s.bay b).dyn.endRun with occupancy := .unknown, state := (s.bay b).dyn.state.unsure }) (fun _ => True) := by
  have some_ : x.kind = .poll ∨ ∃ b q, x.kind = .allot b q := .inl poll
  have before := State.uncounted_renewed contact some_
  have after := State.lostNode_renewed contact some_ b
  have counts := Ev.countFailure_sensor (w := s.uncounted x) (b := b) before.contact reachable
    (by rw [State.uncounted_timing]; exact limit) ((before.kept _).2.trans bay) ((before.kept _).1.trans role)
  have runs := replyWindow_poll up outstanding window dest retried poll
  rw [counts] at runs
  have base := State.sees_start (u := s.lostNode x c b) (b := b) (State.lostNode_ok ok b)
  rw [State.lostNode_dyn] at base
  have ended := base.modDyn (g := BayDyn.endRun) rfl
  have evidence : ((Ev.start (s.lostNode x c b)).modDyn b BayDyn.endRun).st.plugEvidence b = s.plugEvidence b := by
    have reaches : ((Ev.start (s.lostNode x c b)).modDyn b BayDyn.endRun).st.postReachable b = s.postReachable b := by
      unfold State.postReachable State.post
      rw [show ((Ev.start (s.lostNode x c b)).modDyn b BayDyn.endRun).st.nodes = (s.lostNode x c b).nodes from
        congrArg Still.nodes ended.still, after.nodesOf_other (by rw [role]; decide) b]
    unfold State.plugEvidence
    rw [reaches, show (((Ev.start (s.lostNode x c b)).modDyn b BayDyn.endRun).st.bay b).dyn = (s.bay b).dyn.endRun from ended.dyn]
    rfl
  have loses : (Ev.start (s.lostNode x c b)).sensorLost b = if s.plugEvidence b then
      (Ev.start (s.lostNode x c b)).modDyn b BayDyn.endRun
      else ((Ev.start (s.lostNode x c b)).modDyn b BayDyn.endRun).setOccupancy b .unknown := by
    unfold Ev.sensorLost
    dsimp only
    rw [evidence]
  have runs : exec .replyWindowClose s = .next ((Ev.start (s.lostNode x c b)).sensorLost b).finish := runs
  rw [loses] at runs
  have quiet : (openNote b (s.bay b).dyn.state).TellsLoss b (s.bay b).dyn.state (s.bay b).dyn.endRun.state :=
    fun moves => absurd rfl moves
  by_cases stays : s.plugEvidence b = true ∨ (s.bay b).dyn.occupancy = .unknown
  · rw [if_pos stays]
    by_cases plug : s.plugEvidence b = true
    · rw [if_pos plug] at runs
      exact ended.becomes contact ok waitlist room runs (.inl poll) quiet trivial
    · rw [if_neg plug, Ev.setOccupancy_same ended.dyn .unknown (stays.resolve_left plug)] at runs
      exact ended.becomes contact ok waitlist room runs (.inl poll) quiet trivial
  · rw [if_neg stays]
    obtain ⟨plug, known⟩ := not_or.1 stays
    rw [if_neg plug] at runs
    exact (ended.setOccupancy_unknown known).becomes contact ok waitlist room runs (.inl poll) (unsureNote_tells b _) trivial

end

end

/-! ## The obligation -/

section
variable {s : State} {b : BayIx} {d : BayDyn}

theorem State.postless_alone (alone : s.sensor b = none) : s.postless b d = { d.failing with occupancy := .unknown } := by
  unfold State.postless; rw [alone]

theorem State.postless_unplugged {a : Addr} {e : NodeEntry} (sensor : s.sensor b = some (a, e)) (off : s.plugEvidence b = false) :
    s.postless b d = d.failing := by
  unfold State.postless
  rw [sensor, off]
  exact if_neg Bool.false_ne_true

theorem State.postless_plugged {a : Addr} {e : NodeEntry} (sensor : s.sensor b = some (a, e)) (on : s.plugEvidence b = true) :
    s.postless b d = s.lapsed e d.failing := by
  unfold State.postless
  rw [sensor, on]
  exact if_pos rfl

end

section
variable {s : State} {x : Transaction} {c : Contact} {b : BayIx}

theorem State.awaiting_delivery : ((s.awaiting x c b).bay b).delivery = { (s.bay b).delivery with state := .waitContact } := by
  show (((s.unanswered x).modBay b _).bay b).delivery = _
  rw [State.bay_modBay, if_pos rfl, State.unanswered_bay]

theorem State.awaiting_linkLost (contact : (s.node x.frame.dest).contact = some c) :
    (s.awaiting x c b).linkLostNow b = s.linkLostNow b := by
  have unanswered : s.Renewed (s.unanswered x) x.frame.dest c :=
    fun a => (State.unanswered_node a).trans (State.renewed_refl contact a)
  have waits : s.Renewed ((s.unanswered x).modDelivery b (fun d => { d with state := .waitContact })) x.frame.dest c :=
    unanswered.of_nodes rfl
  have still : (s.unanswered x).still = s.still := congrArg Books.still State.unanswered_books
  exact (waits.modContact (fun _ => ⟨c.reachable, min 7 (c.failures + 1), c.last, c.due⟩)).linkLost contact rfl rfl
    (congrArg Still.now still) (congrArg Still.timing still) b

end

/-- Settles O13: window by window. -/
theorem windowCloses : Obligations.WindowCloses := by
  refine ⟨fun s x up outstanding window => ⟨fun dest fresh own => ?_, fun lost => ?_⟩,
    fun s x v up outstanding window dest kind => ?_, ?_⟩
  · exact replyWindow_retries up outstanding window dest fresh own
  · exact replyWindow_destLost up outstanding window lost
  · exact replyWindow_forward up outstanding window dest kind
  intro s x c up outstanding window dest retried contact n unanswered due
  refine ⟨fun poll below => ?_, fun b q allot below => ?_, ?_⟩
  · exact replyWindow_poll_below up outstanding window dest retried contact below poll
  · intro waits d
    refine ⟨fun stays => ?_, fun lost fresh => ?_⟩
    · rw [replyWindow_allot_below up outstanding window dest retried contact below allot,
        State.linkLossTest_none (s := s.awaiting x c b) (by
          rw [State.awaiting_linkLost contact, State.awaiting_delivery]; exact stays)]
      rfl
    · rw [replyWindow_allot_below up outstanding window dest retried contact below allot,
        State.linkLossTest_lost (s := s.awaiting x c b) (by rw [State.awaiting_linkLost contact]; exact lost)
          (by rw [State.awaiting_delivery]; exact fresh) (by rw [State.awaiting_delivery]; exact fun flying => by cases flying)]
      refine congrArg (fun t : State => Host.Outcome.next t.settle) (State.modBay_congr ?_)
      show ({ (s.awaiting x c b).bay b with delivery := ((s.awaiting x c b).bay b).delivery.lose } : Bay) = _
      rw [State.awaiting_delivery]
      rfl
  · intro b own reachable limit bay ok waitlist room d r lost becomes
    refine ⟨fun role => ?_, fun role => ?_⟩
    · intro out record
      have post := s.post_becomes contact ok waitlist room up outstanding window dest retried reachable limit bay role
        (own.imp_right And.right)
      refine ⟨fun alone => ?_, fun a e sensor => ⟨fun off => ?_, fun on gone => ?_, fun on there candidate run => ?_,
        fun on there fresh => ?_⟩⟩
      · rw [State.postless_alone alone] at post
        exact post
      · rw [State.postless_unplugged sensor off] at post
        exact post
      · rw [State.postless_plugged sensor on, State.lapsed, if_pos gone] at post
        exact post
      · rw [State.postless_plugged sensor on, State.lapsed, if_neg (by rw [there]; decide), if_pos ⟨candidate, run⟩] at post
        exact post
      · rw [State.postless_plugged sensor on, State.lapsed, if_neg (by rw [there]; decide), if_neg (by
          rintro ⟨candidate, run⟩
          exact fresh.elim (fun other => other candidate) (fun less => Nat.not_le.2 less run))] at post
        exact post
    · have poll : x.kind = .poll := own.resolve_right fun both => by
        have same := both.1.symm.trans role
        cases same
      have sensor := s.sensor_becomes contact ok waitlist room up outstanding window dest retried reachable limit bay role poll
      refine ⟨fun off known => ?_, fun stays => ?_⟩
      · rw [if_neg (by
          rintro (on | unknown)
          · rw [off] at on; cases on
          · exact known unknown)] at sensor
        exact sensor
      · rw [if_pos stays] at sensor
        exact sensor

end Sys2Proof.Machine
end

section
/-!
SUPPORT. What a reckoning of the Charge Queue (bays brought into line, targets, rotations) may change of the part, and the
state from which a recompute makes its last targets (R78, R85 to R93).
-/
namespace Sys2Proof.Machine

/-- `t` is `s` but for what a reckoning of the Charge Queue may change: the parts of the bay records that the allocator
and the scheduler keep, the rotation deadlines, the queue, and the budget handed over. -/
structure Reckoned (s t : State) : Prop where
  rest : t = { s with
    bays := t.bays, expiries := t.expiries, allocator := { s.allocator with queue := t.allocator.queue },
    scheduler := { s.scheduler with budget := t.scheduler.budget } }
  book : ∀ b, (t.bay b).book = (s.bay b).book
  config : ∀ b, (t.bay b).config = (s.bay b).config
  expiries : ∀ x ∈ t.expiries, x ∈ s.expiries ∨ ∃ b, x = .rotation b
  underDraw : (∀ b, (s.bay b).alloc.underDraw = 0) → ∀ b, (t.bay b).alloc.underDraw = 0

theorem Reckoned.refl (s : State) : Reckoned s s := ⟨rfl, fun _ => rfl, fun _ => rfl, fun _ h => .inl h, id⟩

theorem Reckoned.trans {s t u : State} (h : Reckoned s t) (h' : Reckoned t u) : Reckoned s u where
  rest := by
    have first := h.rest
    have second := h'.rest
    generalize t.bays = bays, t.expiries = expiries, t.allocator.queue = queue, t.scheduler.budget = budget at first
    rw [first] at second
    exact second
  book b := (h'.book b).trans (h.book b)
  config b := (h'.config b).trans (h.config b)
  expiries x here := (h'.expiries x here).elim (h.expiries x) .inr
  underDraw zero := h'.underDraw (h.underDraw zero)

theorem Reckoned.foldl {f : State → α → State} (step : ∀ s x, Reckoned s (f s x)) (l : List α) (s : State) :
    Reckoned s (l.foldl f s) := by
  induction l generalizing s with
  | nil => exact .refl s
  | cons x l ih => exact (step s x).trans (ih (f s x))

/-! ## The steps of a reckoning -/

/-- A change of a bay's record that leaves what the engine keeps, and the configuration. -/
structure Bay.Reckons (f : Bay → Bay) : Prop where
  book : ∀ y, (f y).book = y.book
  config : ∀ y, (f y).config = y.config
  underDraw : ∀ y, y.alloc.underDraw = 0 → (f y).alloc.underDraw = 0

theorem Bay.reckons_alloc {f : BayAlloc → BayAlloc} (h : ∀ a, a.underDraw = 0 → (f a).underDraw = 0) :
    Bay.Reckons (fun y => { y with alloc := f y.alloc }) := ⟨fun _ => rfl, fun _ => rfl, fun y => h y.alloc⟩

theorem Bay.reckons_rotation (r : Rotation) : Bay.Reckons (fun y => { y with timer := { y.timer with rotation := r } }) :=
  ⟨fun _ => rfl, fun _ => rfl, fun _ => id⟩

theorem State.reckoned_modBay (s : State) (b : BayIx) {f : Bay → Bay} (h : Bay.Reckons f) : Reckoned s (s.modBay b f) where
  rest := rfl
  book c := by rw [State.bay_modBay]; split <;> simp [h.book]
  config c := by rw [State.bay_modBay]; split <;> simp [h.config]
  expiries _ here := .inl here
  underDraw zero c := by
    rw [State.bay_modBay]; split
    · exact h.underDraw _ (zero c)
    · exact zero c

section
variable (s : State) (b : BayIx)

theorem State.reckoned_setQueue (q : List ChargeEntry) : Reckoned s (s.setQueue q) :=
  ⟨rfl, fun _ => rfl, fun _ => rfl, fun _ here => .inl here, id⟩

theorem State.reckoned_modAlloc {f : BayAlloc → BayAlloc} (h : ∀ a, a.underDraw = 0 → (f a).underDraw = 0) :
    Reckoned s (s.modAlloc b f) := s.reckoned_modBay b (Bay.reckons_alloc h)

theorem State.reckoned_clearRotation : Reckoned s (s.clearRotation b) := s.reckoned_modBay b (Bay.reckons_rotation .clear)

theorem State.reckoned_setRotation (v : Time) : Reckoned s (s.setRotation b v) := by
  unfold State.setRotation
  split
  · have set := s.reckoned_modBay b (Bay.reckons_rotation (.due v))
    refine ⟨rfl, set.book, set.config, fun x here => ?_, set.underDraw⟩
    exact (List.mem_append.1 here).imp_right fun last => ⟨b, List.mem_singleton.1 last⟩
  · exact s.reckoned_modBay b (Bay.reckons_rotation (.set v))

theorem State.reckoned_freshRotation : Reckoned s (s.freshRotation b) := by
  unfold State.freshRotation
  dsimp only
  split
  · split
    · exact s.reckoned_setRotation b _
    · exact s.reckoned_clearRotation b
  · exact s.reckoned_clearRotation b

theorem State.reckoned_linkLossTest : Reckoned s (s.linkLossTest b) := by
  unfold State.linkLossTest
  dsimp only
  split
  · exact s.reckoned_modBay b ⟨fun _ => rfl, fun _ => rfl, fun _ => id⟩
  · exact .refl s

theorem State.reckoned_markAdmitted (v : Bool) : Reckoned s (s.markAdmitted b v) := by
  unfold State.markAdmitted
  dsimp only
  split
  · split
    · exact .refl s
    · have taken := s.reckoned_modAlloc b (f := fun a => { a with admittedSince := some s.now }) (fun _ => id)
      split
      · exact taken.trans (State.reckoned_setRotation _ b _)
      · exact taken.trans (State.reckoned_clearRotation _ b)
  · split
    · exact .refl s
    · refine (s.reckoned_modAlloc b ?_).trans (State.reckoned_clearRotation _ b)
      exact fun _ => id

theorem State.reckoned_rotate (e : ChargeEntry) : Reckoned s (s.rotate e) := by
  refine ((s.reckoned_setQueue _).trans (State.reckoned_modAlloc _ e.bay ?_)).trans (State.reckoned_clearRotation _ e.bay)
  exact fun _ => id

theorem BayAlloc.retarget_underDraw {a : BayAlloc} (zero : a.underDraw = 0) (n : Nat) : (a.retarget n).underDraw = 0 := by
  unfold BayAlloc.retarget
  split
  · exact zero
  · rfl

/-- The targets written in and handed over (R90, R91). -/
theorem State.reckoned_targets (ts : List (BayIx × Nat)) :
    Reckoned s (State.handOver { s with bays := retargeted s.bays ts }) := by
  have bay (b : BayIx) : (State.handOver { s with bays := retargeted s.bays ts }).bay b
      = { s.bay b with
          alloc := (s.bay b).alloc.retarget (targetIn ts b.val)
          delivery := (s.bay b).delivery.handTarget ((s.bay b).alloc.retarget (targetIn ts b.val)).target } := by
    refine (Table.get_map _ _ b).trans ?_
    rw [retargeted_get]
    rfl
  refine ⟨rfl, fun b => ?_, fun b => ?_, fun _ here => .inl here, fun zero b => ?_⟩
  · rw [bay]; rfl
  · rw [bay]; rfl
  · rw [bay]; exact BayAlloc.retarget_underDraw (zero b) _

theorem State.reckoned_retarget : Reckoned s s.retarget := by
  rw [State.retarget_eq]
  exact (Reckoned.foldl (fun s b => s.reckoned_markAdmitted b _) allBays s).trans (State.reckoned_targets _ _)

theorem Ev.reckoned_modAlloc (ev : Ev) (b : BayIx) {f : BayAlloc → BayAlloc} (h : ∀ a, a.underDraw = 0 → (f a).underDraw = 0) :
    Reckoned ev.st (ev.modAlloc b f).st := ev.st.reckoned_modAlloc b h

theorem Ev.reckoned_syncQueue (ev : Ev) (b : BayIx) : Reckoned ev.st (ev.syncQueue b).st := by
  unfold Ev.syncQueue
  split
  · split
    · exact .refl _
    · exact (ev.st.reckoned_setQueue (insertEntry ⟨b, (ev.bay b).holdPriority, ev.st.now⟩ ev.st.allocator.queue)).trans
        (State.reckoned_modAlloc _ b (f := fun a => { a with ceiling := (ev.bay b).postMax, underDraw := 0 }) fun _ _ => rfl)
  · split
    · refine ((ev.st.reckoned_setQueue _).trans (State.reckoned_modAlloc _ b ?_)).trans (State.reckoned_clearRotation _ b)
      exact fun _ _ => rfl
    · exact .refl _

theorem Ev.reckoned_reportAfresh (ev : Ev) (b : BayIx) : Reckoned ev.st (ev.reportAfresh b).st := by
  refine Reckoned.trans ?_ (Ev.reckoned_syncQueue _ b)
  exact Ev.reckoned_modAlloc _ b fun _ => id

end

theorem Reckoned.ok {s t : State} (h : Reckoned s t) (ok : ∀ b, (s.bay b).checkOk = true) (b : BayIx) :
    (t.bay b).checkOk = true := (congrArg BayBook.ok (h.book b)).trans (ok b)

/-! ## A recompute -/

/-- What holds of a state whatever targets are made in it and whatever bay of the queue is rotated; `Q` from the first
targets on. -/
structure Recomputed (P Q : State → Prop) : Prop where
  targets : ∀ s, P s → Q s.retarget
  rotates : ∀ s, ∀ e ∈ s.allocator.queue, Q s → Q (s.rotate e)
  weaken : ∀ s, Q s → P s

section
variable {P Q : State → Prop} (h : Recomputed P Q)
include h

theorem Ev.recomputeFuel_keeps (n : Nat) (ev : Ev) (notes : ev.notes = []) (ok : ∀ b, (ev.bay b).checkOk = true)
    (start : Q ev.st) : Q (Ev.recomputeFuel n ev).st ∧ Reckoned ev.st (Ev.recomputeFuel n ev).st
      ∧ (Ev.recomputeFuel n ev).notes = [] := by
  induction n generalizing ev with
  | zero => exact ⟨start, .refl _, notes⟩
  | succ n ih =>
    have compared : ev.compareQueue = ev := (Ev.compareQueue_ok ev ok).trans (ev.flushNotes_fixed notes)
    have made : Q (ev.onState State.retarget).st := h.targets _ (h.weaken _ start)
    have reckoned : Reckoned ev.st (ev.onState State.retarget).st := ev.st.reckoned_retarget
    have quiet : (ev.onState State.retarget).notes = [] := (ev.onState_notes _).trans notes
    rw [Ev.recomputeFuel, compared]
    generalize ev.onState State.retarget = x at made reckoned quiet
    split
    · exact ⟨made, reckoned, quiet⟩
    · next e chosen =>
      have moved : Reckoned ev.st (x.onState (·.rotate e)).st := reckoned.trans (x.st.reckoned_rotate e)
      obtain ⟨last, rest, told⟩ := ih (x.onState (·.rotate e)) quiet (moved.ok ok)
        (h.rotates _ e (State.rotationChoice_mem chosen) made)
      exact ⟨last, moved.trans rest, told⟩

theorem Ev.recomputeFuel_brings (n : Nat) (ev : Ev) (notes : ev.notes = []) (ok : ∀ b, (ev.bay b).checkOk = true)
    (start : P ev.st) : Q (Ev.recomputeFuel (n + 1) ev).st ∧ Reckoned ev.st (Ev.recomputeFuel (n + 1) ev).st
      ∧ (Ev.recomputeFuel (n + 1) ev).notes = [] := by
  have compared : ev.compareQueue = ev := (Ev.compareQueue_ok ev ok).trans (ev.flushNotes_fixed notes)
  have made : Q (ev.onState State.retarget).st := h.targets _ start
  have reckoned : Reckoned ev.st (ev.onState State.retarget).st := ev.st.reckoned_retarget
  have quiet : (ev.onState State.retarget).notes = [] := (ev.onState_notes _).trans notes
  rw [Ev.recomputeFuel, compared]
  generalize ev.onState State.retarget = x at made reckoned quiet
  split
  · exact ⟨made, reckoned, quiet⟩
  · next e chosen =>
    have moved : Reckoned ev.st (x.onState (·.rotate e)).st := reckoned.trans (x.st.reckoned_rotate e)
    obtain ⟨last, rest, told⟩ := Ev.recomputeFuel_keeps h n (x.onState (·.rotate e)) quiet (moved.ok ok)
      (h.rotates _ e (State.rotationChoice_mem chosen) made)
    exact ⟨last, moved.trans rest, told⟩

end

end Sys2Proof.Machine
end

section
/-!
SUPPORT. A warm reset before the Charge Queue is brought into line: each block cleared, the deadlines set afresh and the
link-loss tests made (R75, R92, R98, R142, R179).
-/
namespace Sys2Proof.Machine

/-! ## The Node Map -/

theorem State.warm_post (s : State) (b : BayIx) : s.warm.post b = (s.post b).map (fun e => (e.1, e.2.warm s.now)) :=
  nodeOf_map (f := NodeEntry.warm s.now) (fun _ => rfl) (fun _ => rfl) .post b

theorem State.warm_linkLostNow (s : State) (b : BayIx) : s.warm.linkLostNow b = s.linkLostNow b := by
  unfold State.linkLostNow
  rw [State.warm_post]
  cases s.post b with
  | none => rfl
  | some x =>
    obtain ⟨a, ⟨role, permissions, bay, contact⟩⟩ := x
    cases contact <;> rfl

/-! ## The bays -/

theorem State.warm_bay (s : State) (b : BayIx) : s.warm.bay b = { s.freshTimers (s.bay b) with
    alloc := { (s.bay b).alloc with underDraw := 0 }
    delivery := if (s.post b).isSome then (s.bay b).delivery.warm else (s.bay b).delivery } := by
  exact s.eachBay_bay (fun b y => { s.freshTimers y with
    alloc := { (s.freshTimers y).alloc with underDraw := 0 }
    delivery := if (s.post b).isSome then (s.freshTimers y).delivery.warm else (s.freshTimers y).delivery }) b

/-- The rotation deadline of a bay set afresh (R92, R98). -/
def State.renewed (s : State) (y : Bay) : Rotation :=
  match y.alloc.admittedSince with
  | some since =>
    let v := since + mins s.allocator.settings.rotation
    if (s.classOf y.cls).mode = .rotate then (if atOrAfter s.now v then .due v else .set v) else .clear
  | none => .clear

theorem State.freshRotation_bay (s : State) (b c : BayIx) : (s.freshRotation b).bay c
    = if c = b then { s.bay c with timer := { (s.bay c).timer with rotation := s.renewed (s.bay c) } } else s.bay c := by
  have cleared : (s.clearRotation b).bay c = if c = b then _ else s.bay c := s.bay_modBay b c _
  by_cases same : c = b
  · subst same
    rw [if_pos rfl]
    unfold State.freshRotation State.renewed
    dsimp only
    cases (s.bay c).alloc.admittedSince with
    | none => exact cleared.trans (if_pos rfl)
    | some since =>
      dsimp only
      by_cases rotates : (s.classOf (s.bay c).cls).mode = .rotate
      · rw [if_pos rotates, if_pos rotates, State.setRotation_bay, if_pos rfl]
      · rw [if_neg rotates, if_neg rotates]; exact cleared.trans (if_pos rfl)
  · rw [if_neg same]
    unfold State.freshRotation
    dsimp only
    split
    · split
      · rw [State.setRotation_bay, if_neg same]
      · rw [cleared, if_neg same]
    · rw [cleared, if_neg same]

/-- A change made at each bay in turn, while `P` holds. -/
theorem State.foldl_bay {f : State → BayIx → State} {g : Bay → Bay} {P : State → Prop}
    (step : ∀ s b c, P s → (f s b).bay c = if c = b then g (s.bay c) else s.bay c) (keep : ∀ s b, P s → P (f s b))
    {s : State} (start : P s) (c : BayIx) : (allBays.foldl f s).bay c = g (s.bay c) := by
  have fold (l : List BayIx) (nodup : l.Nodup) (t : State) (ht : P t) :
      (l.foldl f t).bay c = if c ∈ l then g (t.bay c) else t.bay c := by
    induction l generalizing t with
    | nil => rfl
    | cons b l ih =>
      obtain ⟨absent, rest⟩ := List.nodup_cons.1 nodup
      rw [List.foldl_cons, ih rest _ (keep t b ht), step t b c ht]
      by_cases same : c = b
      · subst same
        rw [if_neg absent, if_pos rfl, if_pos List.mem_cons_self]
      · simp [same]
  rw [fold allBays allBays_nodup s start, if_pos (c := c ∈ allBays) (List.mem_finRange c)]

theorem Reckoned.renewed {s t : State} (h : Reckoned s t) (y : Bay) : t.renewed y = s.renewed y := by
  rw [h.rest]; rfl

theorem Reckoned.linkLostNow {s t : State} (h : Reckoned s t) (b : BayIx) : t.linkLostNow b = s.linkLostNow b := by
  rw [h.rest]; rfl

/-- The part after a warm reset, its Charge Queue not yet brought into line. -/
@[irreducible] def State.restarted (s : State) : State := (allBays.foldl State.freshRotation s.warm).linkLossTests

theorem State.warm_restarted (s : State) : Reckoned s.warm s.restarted := by
  unfold State.restarted
  exact (Reckoned.foldl State.reckoned_freshRotation allBays s.warm).trans (Reckoned.foldl State.reckoned_linkLossTest allBays _)

theorem State.eachBay_allocator (s : State) (g : BayIx → Bay → Bay) : (s.eachBay g).allocator = s.allocator := rfl

theorem State.restarted_allocator (s : State) : s.restarted.allocator = s.allocator := by
  have one (t : State) (b : BayIx) : (t.freshRotation b).allocator = t.allocator := by
    unfold State.freshRotation State.setRotation
    dsimp only
    repeat' split
    all_goals rfl
  have all (l : List BayIx) (t : State) : (l.foldl State.freshRotation t).allocator = t.allocator := by
    induction l generalizing t with
    | nil => rfl
    | cons b l ih => rw [List.foldl_cons, ih, one]
  unfold State.restarted
  rw [State.linkLossTests_eq, State.eachBay_allocator, all]
  rfl

theorem State.restarted_bay (s : State) (b : BayIx) : s.restarted.bay b
    = Bay.linkLossTest (s.linkLostNow b) { s.warm.bay b with timer := { (s.warm.bay b).timer with
        rotation := s.warm.renewed (s.warm.bay b) } } := by
  have rotated := State.foldl_bay (f := State.freshRotation) (P := Reckoned s.warm)
    (g := fun y => { y with timer := { y.timer with rotation := s.warm.renewed y } })
    (fun t b c h => by rw [State.freshRotation_bay, h.renewed]) (fun t b h => h.trans (t.reckoned_freshRotation b))
    (.refl s.warm) b
  have lost := (Reckoned.foldl State.reckoned_freshRotation allBays s.warm).linkLostNow b
  unfold State.restarted
  rw [State.linkLossTests_eq, State.eachBay_bay, rotated, lost, State.warm_linkLostNow]

end Sys2Proof.Machine
end

section
/-!
SUPPORT. The engine's report of every bay after a warm reset, and a recompute that admits the whole Charge Queue (R78, R81,
R86, R93, R98).
-/
namespace Sys2Proof.Machine

/-! ## The report -/

section
variable (ev : Ev) (b : BayIx)

theorem Ev.reportAfresh_feed : (ev.reportAfresh b).feed = ({ ev.feed with
    charging := fun c => if c = b then (ev.bay b).dyn.state == .charging else ev.feed.charging c } : Feed).sync b := by
  unfold Ev.reportAfresh
  rw [Ev.syncQueue_feed, Ev.copyCharging_feed]

theorem Ev.reportAfresh_deliveries : (ev.reportAfresh b).st.deliveries = ev.st.deliveries :=
  (Ev.syncQueue_deliveries _ b).trans (ev.st.modBay_deliveries b (fun _ => rfl))

theorem Ev.reportAfresh_desk : (ev.reportAfresh b).desk = ev.desk := by
  unfold Ev.reportAfresh
  rw [Ev.syncQueue_desk, Ev.modAlloc_desk]

theorem Ev.reportAfresh_buffer : (ev.reportAfresh b).buffer = ev.buffer := by
  have voice : (ev.reportAfresh b).voice = ev.voice := by
    unfold Ev.reportAfresh
    rw [Ev.syncQueue_voice, Ev.modAlloc_voice]
  exact congrArg Voice.buffer voice

theorem Ev.reportAfresh_states (c : BayIx) : ((ev.reportAfresh b).bay c).dyn.state = (ev.bay c).dyn.state :=
  congrArg (fun y : BayBook => y.dyn.state) ((ev.reckoned_reportAfresh b).book c)

end

/-- The feed once every bay of a list has been reported, `v` telling which are CHARGING. -/
def Feed.reported (k : Feed) (v : BayIx → Bool) (l : List BayIx) : Feed :=
  { k with
    charging := fun c => if c ∈ l then v c else k.charging c
    queued := fun c => if c ∈ l then ({ k with charging := v } : Feed).eligible c else k.queued c }

theorem Feed.reported_cons (k : Feed) (v : BayIx → Bool) (b : BayIx) (l : List BayIx) :
    (({ k with charging := fun c => if c = b then v b else k.charging c } : Feed).sync b).reported v l
      = k.reported v (b :: l) := by
  refine Feed.ext (funext fun c => ?_) (funext fun c => ?_) rfl rfl rfl rfl rfl
  · show (if c ∈ l then _ else if c = b then (_ && _) else _) = if c ∈ b :: l then _ else _
    by_cases later : c ∈ l
    · rw [if_pos later, if_pos (List.mem_cons_of_mem b later)]; rfl
    · rw [if_neg later]
      by_cases same : c = b
      · subst same
        rw [if_pos rfl, if_pos List.mem_cons_self]
        simp [Feed.eligible]
      · rw [if_neg same, if_neg (by simpa using ⟨same, later⟩)]
  · show (if c ∈ l then v c else if c = b then v b else k.charging c) = if c ∈ b :: l then v c else k.charging c
    by_cases later : c ∈ l
    · rw [if_pos later, if_pos (List.mem_cons_of_mem b later)]
    · rw [if_neg later]
      by_cases same : c = b
      · rw [if_pos same, if_pos (by simp [same]), same]
      · rw [if_neg same, if_neg (by simpa using ⟨same, later⟩)]

section
variable {v : BayIx → Bool} (l : List BayIx) (ev : Ev) (charging : ∀ c, ((ev.bay c).dyn.state == .charging) = v c)
include charging

theorem Ev.foldl_reportAfresh_feed : (l.foldl Ev.reportAfresh ev).feed = ev.feed.reported v l := by
  induction l generalizing ev with
  | nil => rfl
  | cons b l ih =>
    rw [List.foldl_cons, ih _ (fun c => by rw [Ev.reportAfresh_states]; exact charging c), Ev.reportAfresh_feed, charging,
      Feed.reported_cons]

end

/-! ## The report that finds the queue in line -/

/-- The queue, and what a bay's place in it goes by, stand. -/
structure Stands (s t : State) : Prop where
  queue : t.allocator.queue = s.allocator.queue
  ceiling : ∀ b, (t.bay b).alloc.ceiling = (s.bay b).alloc.ceiling
  since : ∀ b, (t.bay b).alloc.admittedSince = (s.bay b).alloc.admittedSince
  rotation : ∀ b, (t.bay b).timer.rotation = (s.bay b).timer.rotation

theorem Stands.refl (s : State) : Stands s s := ⟨rfl, fun _ => rfl, fun _ => rfl, fun _ => rfl⟩

theorem Stands.trans {s t u : State} (h : Stands s t) (h' : Stands t u) : Stands s u :=
  ⟨h'.queue.trans h.queue, fun b => (h'.ceiling b).trans (h.ceiling b), fun b => (h'.since b).trans (h.since b),
    fun b => (h'.rotation b).trans (h.rotation b)⟩

theorem Ev.syncQueue_inLine {ev : Ev} {b : BayIx} (h : ev.feed.queued b = ev.feed.eligible b) : ev.syncQueue b = ev := by
  have queued : ev.st.inQueue b = ev.feed.queued b := rfl
  unfold Ev.syncQueue
  rw [State.eligible_feed, queued, ← h]
  split <;> rfl

theorem Ev.copyCharging_stands (ev : Ev) (b : BayIx) (v : Bool) :
    Stands ev.st (ev.modAlloc b (fun a => { a with chargingCopy := v })).st := by
  have bay (c : BayIx) : (ev.modAlloc b (fun a => { a with chargingCopy := v })).st.bay c
      = if c = b then _ else ev.st.bay c := ev.st.modAlloc_bay b c _
  refine ⟨rfl, fun c => ?_, fun c => ?_, fun c => ?_⟩
  all_goals rw [bay]; split <;> rfl

theorem Ev.foldl_reportAfresh_stands {v : BayIx → Bool} (l : List BayIx) (ev : Ev)
    (charging : ∀ c, ((ev.bay c).dyn.state == .charging) = v c)
    (inLine : ∀ c, ev.feed.queued c = ({ ev.feed with charging := v } : Feed).eligible c) :
    Stands ev.st (l.foldl Ev.reportAfresh ev).st := by
  induction l generalizing ev with
  | nil => exact .refl _
  | cons b l ih =>
    have copied := ev.copyCharging_feed b (v b)
    have step : ev.reportAfresh b = ev.modAlloc b (fun a => { a with chargingCopy := v b }) := by
      unfold Ev.reportAfresh
      rw [charging]
      refine Ev.syncQueue_inLine ?_
      rw [copied]
      refine (inLine b).trans ?_
      simp [Feed.eligible]
    have later := ih (ev.modAlloc b (fun a => { a with chargingCopy := v b }))
      (fun c => by rw [← step, Ev.reportAfresh_states]; exact charging c) (fun c => by rw [copied]; exact inLine c)
    rw [List.foldl_cons, step]
    exact (ev.copyCharging_stands b (v b)).trans later

/-! ## A recompute that admits every bay of the queue -/

section
variable {s : State} (fits : s.allocator.queue.length ≤ budgetOf s.allocator.settings / s.allocator.settings.minimum)
include fits

theorem State.targets_all {e : ChargeEntry} (here : e ∈ s.allocator.queue) : s.targets.any (fun x => x.1 == e.bay) = true := by
  rw [State.admitted_iff, decide_eq_true_iff, State.admittedBays, min_eq_left fits, List.take_length]
  exact List.mem_map.2 ⟨e, here, rfl⟩

theorem State.retarget_admits {e : ChargeEntry} (here : e ∈ s.allocator.queue) :
    (s.retarget.bay e.bay).alloc.ceiling = (s.bay e.bay).alloc.ceiling
      ∧ (s.retarget.bay e.bay).alloc.admittedSince.isSome = true
      ∧ ∀ since, (s.bay e.bay).alloc.admittedSince = some since →
        (s.retarget.bay e.bay).alloc.admittedSince = some since
          ∧ (s.retarget.bay e.bay).timer.rotation = (s.bay e.bay).timer.rotation := by
  rw [State.retarget_bay, State.targets_all fits here]
  dsimp only
  obtain ⟨since', ceiling', _⟩ := BayAlloc.retarget_keeps
    ((s.bay e.bay).admission s.now (s.rotates e.bay) s.rotationValue true).alloc (targetIn s.targets e.bay.val)
  rw [since', ceiling']
  unfold Bay.admission
  cases since : (s.bay e.bay).alloc.admittedSince with
  | none => exact ⟨rfl, rfl, fun _ absent => nomatch absent⟩
  | some t => exact ⟨rfl, by rw [since]; rfl, fun _ same => ⟨since.trans same, rfl⟩⟩

theorem State.rotationChoice_all : s.retarget.rotationChoice = none := by
  unfold State.rotationChoice
  rw [State.retarget_allocator, List.find?_eq_none.2]
  intro e here
  obtain ⟨_, admitted, _⟩ := State.retarget_admits fits here
  intro absent
  rw [Option.isNone_iff_eq_none.1 absent] at admitted
  cases admitted

end

theorem Ev.recomputeFuel_once {ev : Ev} (n : Nat) (notes : ev.notes = []) (ok : ∀ b, (ev.bay b).checkOk = true)
    (fits : ev.st.allocator.queue.length ≤ budgetOf ev.st.allocator.settings / ev.st.allocator.settings.minimum) :
    Ev.recomputeFuel (n + 1) ev = ev.onState State.retarget := by
  have compared : ev.compareQueue = ev := (Ev.compareQueue_ok ev ok).trans (ev.flushNotes_fixed notes)
  have calm : (ev.onState State.retarget).st.rotationChoice = none := State.rotationChoice_all fits
  rw [Ev.recomputeFuel, compared]
  generalize ev.onState State.retarget = x at calm ⊢
  rw [calm]

end Sys2Proof.Machine
end

section
/-!
SUPPORT. The event of a warm reset up to the state before the arbiter's choice that ends it (R98, R136, R142, R146, R179).
-/
namespace Sys2Proof.Machine

/-! ## The event before it ends -/

/-- The bay is stored CHARGING. -/
def State.chargingBays (s : State) (b : BayIx) : Bool := (s.bay b).dyn.state == .charging

theorem State.restarted_book (s : State) (b : BayIx) : (s.restarted.bay b).book = (s.freshTimers (s.bay b)).book := by
  refine (s.warm_restarted.book b).trans ?_
  rw [s.warm_bay]
  rfl

theorem State.restarted_dyn (s : State) (b : BayIx) : (s.restarted.bay b).dyn = (s.bay b).dyn :=
  congrArg BayBook.dyn (s.restarted_book b)

theorem State.restarted_config (s : State) (b : BayIx) : (s.restarted.bay b).config = (s.bay b).config := by
  refine (s.warm_restarted.config b).trans ?_
  rw [s.warm_bay]
  rfl

/-- The part with all that a warm reset does but the recompute; `answers` are the frames that the FIFO then holds. -/
structure State.Warmed (s : State) (answers : List Frame) (t : State) : Prop where
  reckoned : Reckoned { s.warm with uplink := { s.warm.uplink with fifo := answers } } t
  delivery : ∀ b, (t.bay b).delivery = (s.restarted.bay b).delivery
  feed : t.feed = s.restarted.feed.reported s.chargingBays allBays
  stands : (∀ b, s.restarted.feed.queued b = ({ s.restarted.feed with charging := s.chargingBays } : Feed).eligible b) →
    Stands s.restarted t

/-- An event that owes a recompute and nothing else, in a part so warmed. -/
structure Ev.WarmReset (s : State) (answers : List Frame) (ev : Ev) : Prop where
  warmed : s.Warmed answers ev.st
  notes : ev.notes = []
  scan : ev.scan = false
  recompute : ev.recompute = true

theorem Ev.foldl_same {α : Type} {f : Ev → BayIx → Ev} {g : Ev → α} (same : ∀ ev b, g (f ev b) = g ev) (l : List BayIx)
    (ev : Ev) : g (l.foldl f ev) = g ev := by
  induction l generalizing ev with
  | nil => rfl
  | cons b l ih => rw [List.foldl_cons, ih, same]

theorem Ev.foldl_reckoned (l : List BayIx) (ev : Ev) : Reckoned ev.st (l.foldl Ev.reportAfresh ev).st := by
  induction l generalizing ev with
  | nil => exact .refl _
  | cons b l ih => exact (ev.reckoned_reportAfresh b).trans (ih _)

theorem Ev.onState_buffer (ev : Ev) (f : State → State) : (ev.onState f).buffer = ev.buffer := rfl

section
variable (ev : Ev)

/-- The event with its part restarted, the Charge Queue not yet brought into line. -/
def Ev.reboot : Ev :=
  ((ev.onState State.warm).onState (fun s => allBays.foldl State.freshRotation s)).onState State.linkLossTests

theorem Ev.reboot_st : ev.reboot.st = ev.st.restarted := by
  unfold State.restarted Ev.reboot Ev.onState
  with_reducible rfl

theorem Ev.reboot_desk : ev.reboot.desk = ev.desk := by
  unfold Ev.reboot
  rw [Ev.onState_desk, Ev.onState_desk, Ev.onState_desk]

theorem Ev.reboot_buffer : ev.reboot.buffer = ev.buffer := by
  unfold Ev.reboot
  rw [Ev.onState_buffer, Ev.onState_buffer, Ev.onState_buffer]

/-- The engine's report of every bay to the allocator. -/
def Ev.reportAll : Ev := allBays.foldl Ev.reportAfresh ev

theorem Ev.reportAll_reckoned : Reckoned ev.st ev.reportAll.st := Ev.foldl_reckoned allBays ev

theorem Ev.reportAll_desk : ev.reportAll.desk = ev.desk := Ev.foldl_same Ev.reportAfresh_desk allBays ev

theorem Ev.reportAll_buffer : ev.reportAll.buffer = ev.buffer :=
  Ev.foldl_same (g := Ev.buffer) Ev.reportAfresh_buffer allBays ev

theorem State.delivery_of {s t : State} (h : t.deliveries = s.deliveries) (b : BayIx) :
    (t.bay b).delivery = (s.bay b).delivery := congrFun (congrArg Prod.fst h) b

theorem State.warm_fifo (s : State) : ({ s.warm with uplink := { s.warm.uplink with fifo := [] } } : State) = s.warm := rfl

theorem Ev.reportAll_warmed {s : State} (st : ev.st = s.restarted) : s.Warmed [] ev.reportAll.st := by
  have charging (c : BayIx) : ((ev.bay c).dyn.state == .charging) = s.chargingBays c := by
    unfold Ev.bay
    rw [st, s.restarted_dyn]
    rfl
  have reckoned := ev.reportAll_reckoned
  have deliveries : ev.reportAll.st.deliveries = ev.st.deliveries :=
    Ev.foldl_same (g := fun x => x.st.deliveries) Ev.reportAfresh_deliveries allBays ev
  have feed := Ev.foldl_reportAfresh_feed allBays ev charging
  have stands := Ev.foldl_reportAfresh_stands allBays ev charging
  unfold Ev.feed at feed stands
  rw [st] at reckoned deliveries feed stands
  have whole : Reckoned { s.warm with uplink := { s.warm.uplink with fifo := [] } } ev.reportAll.st := by
    rw [s.warm_fifo]
    exact s.warm_restarted.trans reckoned
  exact ⟨whole, State.delivery_of deliveries, feed, stands⟩

theorem Ev.warmReset_runs : ev.warmReset
    = let x := ev.reboot.reportAll.wantRecompute
      if (x.st.suspension.emergency && !x.st.suspension.suspended) = true then x.enterSuspension none else x := by
  unfold Ev.warmReset Ev.reboot Ev.reportAll
  with_reducible rfl

end

theorem Ev.warmReset_eq {ev : Ev} (calm : ev.st.suspension.emergency = true → ev.st.suspension.suspended = true) :
    ev.warmReset = ev.reboot.reportAll.wantRecompute := by
  have kept : ev.reboot.reportAll.wantRecompute.st.suspension = ev.st.suspension := by
    rw [Ev.wantRecompute_st, (ev.reboot.reportAll_warmed ev.reboot_st).reckoned.rest]; rfl
  rw [ev.warmReset_runs]
  dsimp only
  rw [kept, if_neg]
  intro enters
  obtain ⟨emergency, free⟩ := Bool.and_eq_true_iff.1 enters
  rw [calm emergency] at free
  cases free

theorem State.Warmed.owing {s : State} {answers : List Frame} {ev : Ev} (h : s.Warmed answers ev.st) (desk : ev.desk = .clear) :
    ev.wantRecompute.WarmReset s answers := ⟨h, congrArg Desk.notes desk, congrArg Desk.scan desk, rfl⟩

theorem Ev.warmReset_warm {ev : Ev} (clear : ev.desk = .clear)
    (calm : ev.st.suspension.emergency = true → ev.st.suspension.suspended = true) : ev.warmReset.WarmReset ev.st [] := by
  rw [Ev.warmReset_eq calm]
  refine (ev.reboot.reportAll_warmed ev.reboot_st).owing ?_
  rw [Ev.reportAll_desk, Ev.reboot_desk, clear]

/-- The answer is the first frame of the emptied FIFO (R100, R179). -/
theorem State.Warmed.answered {s t : State} (h : s.Warmed [] t) (f : Frame) : s.Warmed [f] (t.pushUplink f) where
  reckoned := by
    obtain ⟨rest, book, config, expiries, underDraw⟩ := h.reckoned
    refine ⟨?_, book, config, expiries, underDraw⟩
    generalize t.bays = bays, t.expiries = waiting, t.allocator.queue = queue, t.scheduler.budget = budget at rest
    rw [rest]
    rfl
  delivery := h.delivery
  feed := h.feed
  stands inLine := by
    obtain ⟨queue, ceiling, since, rotation⟩ := h.stands inLine
    exact ⟨queue, ceiling, since, rotation⟩

end Sys2Proof.Machine
end

section
/-!
SUPPORT. The end of the event of a warm reset: the recompute, its hand-over, and what it leaves of the Charge Queue that
was in line already (R91, R98, R132, R142, R146).
-/
namespace Sys2Proof.Machine

/-! ## The delivery records -/

/-- What becomes of a delivery record that is UNKNOWN, or at rest, whatever targets it is handed (R132). -/
structure Delivery.Follows (d x : Delivery) : Prop where
  unknown : d.state = .unknown → x = { d with target := x.target }
  atRest : d.inForce = some 0 → d.repeatMark = false → d.state = (if d.target = 0 then .settled else .pending) →
    x = { d with target := x.target, state := if x.target = 0 then .settled else .pending }

theorem Delivery.Follows.refl (d : Delivery) : d.Follows d :=
  ⟨fun _ => rfl, fun _ _ state => by rw [← state]⟩

theorem Delivery.Follows.handTarget {d x : Delivery} (h : d.Follows x) (n : Nat) : d.Follows (x.handTarget n) := by
  obtain ⟨unknown, atRest⟩ := h
  refine ⟨fun state => ?_, fun inForce mark state => ?_⟩
  · have same := unknown state
    generalize x.target = m at same
    subst same
    rw [Delivery.handTarget_eq, if_pos ⟨by simp [state], by simp [state]⟩]
  · have same := atRest inForce mark state
    generalize x.target = m at same
    subst same
    rw [Delivery.handTarget_eq, if_neg (c := _ ≠ DeliveryState.settled ∧ _) (by by_cases none : m = 0 <;> simp [none])]
    simp [inForce, mark, eq_comm (a := n)]

/-- The record that a warm reset leaves of a bay with a post, before any target is handed to it (R142, R146). -/
theorem State.restarted_delivery {s : State} {b : BayIx} (post : (s.post b).isSome = true) : (s.restarted.bay b).delivery
    = if s.linkLostNow b = true then (s.bay b).delivery.warm.lose else (s.bay b).delivery.warm := by
  rw [s.restarted_bay, Bay.linkLossTest_delivery, s.warm_bay]
  dsimp only
  rw [if_pos post]
  by_cases lost : s.linkLostNow b = true
  · rw [if_pos lost, if_pos ⟨lost, rfl, nofun⟩]
  · rw [if_neg lost, if_neg fun both => lost both.1]

section
variable {s : State} {b : BayIx} {x : Delivery} (post : (s.post b).isSome = true)
  (follows : (s.restarted.bay b).delivery.Follows x)
include post follows

theorem Delivery.Follows.heard (found : s.linkLostNow b = false) :
    x = ⟨x.target, none, none, (s.bay b).delivery.drawn, (s.bay b).delivery.sequence, false, 0, false, .unknown⟩ := by
  rw [State.restarted_delivery post, if_neg (by rw [found]; nofun)] at follows
  exact follows.unknown rfl

theorem Delivery.Follows.lost (lost : s.linkLostNow b = true) : x = ⟨x.target, some 0, none, 0, (s.bay b).delivery.sequence,
    false, 0, true, if x.target = 0 then .settled else .pending⟩ := by
  rw [State.restarted_delivery post, if_pos lost] at follows
  exact follows.atRest rfl rfl rfl

end

/-! ## The recompute -/

theorem Ev.onState_st (ev : Ev) (f : State → State) : (ev.onState f).st = f ev.st := rfl

/-- What a warm reset has brought about when its recompute has been made. -/
structure State.Recomputes (s : State) (answers : List Frame) (x : State) : Prop where
  reckoned : Reckoned { s.warm with uplink := { s.warm.uplink with fifo := answers } } x
  follows : ∀ b, (s.restarted.bay b).delivery.Follows (x.bay b).delivery
  handed : ∀ b, (x.bay b).delivery.target = (x.bay b).alloc.target
  budget : x.scheduler.budget = budgetOf s.allocator.settings
  within : x.WithinBudget
  feed : x.feed = s.restarted.feed.reported s.chargingBays allBays
  whole : (∀ b, s.restarted.feed.queued b = ({ s.restarted.feed with charging := s.chargingBays } : Feed).eligible b) →
    s.allocator.queue.length ≤ budgetOf s.allocator.settings / s.allocator.settings.minimum →
    ∃ t, Stands s.restarted t ∧ t.allocator.settings = s.allocator.settings ∧ x = t.retarget

theorem State.retarget_handed (s : State) (b : BayIx) : (s.retarget.bay b).delivery.target = (s.retarget.bay b).alloc.target := by
  rw [State.retarget_delivery, State.retarget_target, Delivery.handTarget_eq]

theorem State.rotate_handed {s : State} (e : ChargeEntry) {b : BayIx} (h : (s.bay b).delivery.target = (s.bay b).alloc.target) :
    ((s.rotate e).bay b).delivery.target = ((s.rotate e).bay b).alloc.target := by
  rw [s.rotate_bay]
  split
  · exact h
  · exact h

theorem State.rotate_leaves (s : State) (e : ChargeEntry) : (s.rotate e).allocator.settings = s.allocator.settings
    ∧ (s.rotate e).scheduler = s.scheduler := ⟨rfl, rfl⟩

/-- What the targets of a recompute and its rotations keep of the state `t` that it begins on. -/
structure State.Follows (t y : State) : Prop where
  feed : y.feed = t.feed
  settings : y.allocator.settings = t.allocator.settings
  delivery : ∀ b, (t.bay b).delivery.Follows (y.bay b).delivery

/-- The targets have been handed over. -/
structure State.Handed (t y : State) : Prop extends State.Follows t y where
  handed : ∀ b, (y.bay b).delivery.target = (y.bay b).alloc.target
  budget : y.scheduler.budget = budgetOf t.allocator.settings

theorem State.recomputed (t : State) : Recomputed t.Follows t.Handed where
  targets y h := by
    refine ⟨⟨y.retarget_feed.trans h.feed, ?_, fun b => ?_⟩, y.retarget_handed, ?_⟩
    · rw [State.retarget_allocator]; exact h.settings
    · rw [State.retarget_delivery]; exact (h.delivery b).handTarget _
    · rw [State.retarget_scheduler, ← h.settings]
  rotates y e here h := by
    obtain ⟨settings, scheduler⟩ := y.rotate_leaves e
    refine ⟨⟨(State.rotate_feed here).trans h.feed, settings.trans h.settings, fun b => ?_⟩,
      fun b => State.rotate_handed e (h.handed b), ?_⟩
    · rw [State.rotate_delivery]; exact h.delivery b
    · rw [scheduler]; exact h.budget
  weaken _ h := h.toFollows

theorem State.warm_ok {s : State} (ok : ∀ b, (s.bay b).checkOk = true) (b : BayIx) : (s.warm.bay b).checkOk = true := by
  rw [s.warm_bay]; exact ok b

section
variable {s : State} {answers : List Frame} {ev : Ev} (h : ev.WarmReset s answers) (ok : ∀ b, (s.bay b).checkOk = true)
include h ok

theorem Ev.WarmReset.recomputes (n : Nat) : s.Recomputes answers (Ev.recomputeFuel (n + 1) ev).st
    ∧ (Ev.recomputeFuel (n + 1) ev).notes = [] := by
  obtain ⟨warmed, notes, _, _⟩ := h
  obtain ⟨reckoned, delivery, feed, stands⟩ := warmed
  have settings : ev.st.allocator.settings = s.allocator.settings := by rw [reckoned.rest]; rfl
  have records : ∀ b, (ev.bay b).checkOk = true := reckoned.ok (State.warm_ok ok)
  obtain ⟨made, moved, quiet⟩ := Ev.recomputeFuel_brings ev.st.recomputed n ev notes records
    ⟨rfl, rfl, fun b => Delivery.Follows.refl _⟩
  have within := Ev.recomputeFuel_withinBudget n ev
  have once := Ev.recomputeFuel_once n notes records
  generalize Ev.recomputeFuel (n + 1) ev = x at made moved quiet within once ⊢
  refine ⟨⟨reckoned.trans moved, fun b => ?_, made.handed, ?_, within, made.feed.trans feed, fun inLine fits => ?_⟩, quiet⟩
  · rw [← delivery]; exact made.delivery b
  · rw [made.budget, settings]
  · have stood := stands inLine
    have single := once (by rw [settings, stood.queue, s.restarted_allocator]; exact fits)
    exact ⟨ev.st, stood, settings, (congrArg Ev.st single).trans (ev.onState_st _)⟩

end

end Sys2Proof.Machine
end

section
/-!
SUPPORT. What a part keeps through a warm reset, and its deadlines (R26, R27, R75, R98, R111, R112, R120, R126).
-/
namespace Sys2Proof.Machine

/-! ## The end of the event -/

theorem Ev.WarmReset.finish {s : State} {answers : List Frame} {ev : Ev} (h : ev.WarmReset s answers)
    (ok : ∀ b, (s.bay b).checkOk = true) : ∃ x, s.Recomputes answers x ∧ ev.finish = x.settle := by
  obtain ⟨recomputes, quiet⟩ := h.recomputes ok 129
  obtain ⟨_, notes, scan, owed⟩ := h
  have scanned : ev.flushNotes.runScan = ev := by
    rw [Ev.flushNotes_none notes]
    exact if_neg (by rw [scan]; nofun)
  have ran : ev.runRecompute = { Ev.recomputeFuel (129 + 1) ev with recompute := false } := if_pos owed
  unfold Ev.finish
  rw [scanned, ran]
  generalize Ev.recomputeFuel (129 + 1) ev = x at recomputes quiet ⊢
  exact ⟨x.st, recomputes, by rw [Ev.flushNotes_none (ev := { x with recompute := false }) quiet]⟩

theorem State.arbitrate_forward {s : State} (empty : s.downlink.forward = []) : s.arbitrate.downlink.forward = [] := by
  have allots (b : BayIx) : (s.chooseAllot b).downlink.forward = [] := by
    unfold State.chooseAllot
    split <;> exact empty
  rcases s.arbitrate_cases with same | ⟨b, _, shed⟩ | ⟨_, source, served⟩
  · rw [same, empty]
  · rw [shed, allots]
  · obtain ⟨t, serve, turned⟩ := Option.map_eq_some_iff.1 served
    rw [← turned]
    show t.downlink.forward = []
    cases source with
    | raise =>
      obtain ⟨b, _, rfl⟩ := Option.map_eq_some_iff.1 serve
      exact allots b
    | forward =>
      unfold State.serve at serve
      rw [empty] at serve
      cases serve
    | poll =>
      obtain ⟨o, _, rfl⟩ := Option.map_eq_some_iff.1 serve
      exact empty

/-! ## Deadlines -/

/-- A deadline that is due is delivered, and one that is not stands (R59). -/
theorem awaited_time (now v : Time) : (some v).filter (fun v => !atOrAfter now v) = if atOrAfter now v = true then none else some v := by
  by_cases due : atOrAfter now v = true <;> simp [Option.filter, due]

theorem clearDue_some (now : Time) (d : Deadline) : clearDue now (some d) = if atOrAfter now d.due = true then none else some d := by
  by_cases due : atOrAfter now d.due = true <;> simp [clearDue, Option.filter, due]

section
variable (s : State) (y : Bay)

theorem State.freshTimers_noShow : (s.freshTimers y).timer.noShow
    = y.dyn.active.bind (fun h => if h.arrival = none then some (noShowOf h) else none) := by
  unfold State.freshTimers
  cases y.dyn.active with
  | none => rfl
  | some h => cases arrival : h.arrival <;> simp [BayTimer.setActive, Hold.arrived, arrival]

theorem State.freshTimers_overstay : (s.freshTimers y).timer.overstay
    = y.dyn.active.bind (fun h => if h.arrival = none then none else some (s.overstayOf h)) := by
  unfold State.freshTimers
  cases y.dyn.active with
  | none => rfl
  | some h => cases arrival : h.arrival <;> simp [BayTimer.setActive, Hold.arrived, arrival]

theorem State.freshTimers_check : (s.freshTimers y).timer.displacement = y.dyn.staged.map s.checkOf := rfl

end

/-! ## What is kept -/

section
variable {s x : State} {answers : List Frame} (h : s.Recomputes answers x)
include h

theorem State.Recomputes.book (b : BayIx) : (x.bay b).book = (s.freshTimers (s.bay b)).book := by
  refine (h.reckoned.book b).trans ?_
  show (s.warm.bay b).book = _
  rw [s.warm_bay]; rfl

theorem State.Recomputes.config (b : BayIx) : (x.bay b).config = (s.bay b).config := by
  refine (h.reckoned.config b).trans ?_
  show (s.warm.bay b).config = _
  rw [s.warm_bay]; rfl

/-- All but the bays, the lists' deadlines, the Charge Queue and the arbiter's choice is as the reset has cleared it. -/
theorem State.Recomputes.rest : ∃ (bays : Table Bay 128) (expiries : List Expiry) (queue : List ChargeEntry) (scheduler : Scheduler),
    x.settle = { s.warm with
      bays := bays, expiries := expiries, waitlist := x.deliverDue.waitlist, early := x.deliverDue.early
      allocator := { s.allocator with queue := queue }, scheduler := scheduler
      uplink := { s.warm.uplink with fifo := answers } } := by
  have chosen := x.deliverDue.arbitrate_chosen.rest
  have forward := State.arbitrate_forward (s := x.deliverDue) (by
    show x.downlink.forward = []
    rw [h.reckoned.rest]; rfl)
  have cleared := h.reckoned.rest
  have delivered : x.deliverDue = { x with
    bays := x.deliverDue.bays, expiries := x.deliverDue.expiries, waitlist := x.deliverDue.waitlist,
    early := x.deliverDue.early } := rfl
  rw [forward] at chosen
  refine ⟨x.settle.bays, x.deliverDue.expiries, x.allocator.queue, x.settle.scheduler, ?_⟩
  unfold State.settle
  generalize x.deliverDue.arbitrate = z at chosen ⊢
  generalize x.deliverDue = y at chosen delivered ⊢
  generalize x.bays = bays, x.expiries = expiries, x.allocator.queue = queue, x.scheduler.budget = budget at cleared ⊢
  rw [chosen, delivered, cleared]
  rfl

theorem State.Recomputes.now : x.now = s.now := by rw [h.reckoned.rest]; rfl

/-- The frames, the queues and the tables after a warm reset. -/
theorem State.Recomputes.ports : x.settle.uplink = ⟨answers, s.controller.resetMode.keep s.uplink.sending, Receiver.fresh⟩
    ∧ x.settle.downlink = ⟨[], s.controller.resetMode.keep s.downlink.sending, Receiver.fresh⟩
    ∧ x.settle.requests = [] ∧ x.settle.management = [] := by
  obtain ⟨bays, expiries, queue, scheduler, rest⟩ := h.rest
  generalize x.settle = z at rest ⊢
  rw [rest]
  exact ⟨rfl, rfl, rfl, rfl⟩

theorem State.Recomputes.tables : x.settle.noticeTag = s.noticeTag ∧ x.settle.index = s.index ∧ x.settle.now = s.now
    ∧ x.settle.siteOffset = s.siteOffset ∧ x.settle.classes = s.classes ∧ x.settle.kinds = s.kinds
    ∧ x.settle.timing = s.timing ∧ x.settle.controller = s.controller ∧ x.settle.suspension = s.suspension
    ∧ x.settle.allocator.settings = s.allocator.settings ∧ x.settle.recorder = s.recorder
    ∧ x.settle.scrubber = s.scrubber ∧ x.settle.resetPinTaken = s.resetPinTaken := by
  obtain ⟨bays, expiries, queue, scheduler, rest⟩ := h.rest
  generalize x.settle = z at rest ⊢
  rw [rest]
  exact ⟨rfl, rfl, rfl, rfl, rfl, rfl, rfl, rfl, rfl, rfl, rfl, rfl, rfl⟩

theorem State.Recomputes.node (a : Addr) : x.settle.node a = (s.node a).warm s.now := by
  obtain ⟨bays, expiries, queue, scheduler, rest⟩ := h.rest
  generalize x.settle = z at rest ⊢
  rw [rest]
  exact Table.get_map ..

theorem State.Recomputes.dyns : x.settle.dyns = s.dyns := by
  rw [x.settle_sameRecords.dyns, State.dyns_eq, State.dyns_eq]
  exact List.map_congr_left fun b _ => congrArg BayBook.dyn (h.book b)

theorem State.Recomputes.configs : x.settle.bays.map Bay.config = s.bays.map Bay.config := by
  refine Table.ext_get fun b => ?_
  rw [Table.get_map, Table.get_map]
  exact ((x.deliverDue.arbitrate_bay b).2.2.2.2.1.trans (congrArg Bay.config (x.deliverDue_bay b))).trans (h.config b)

/-! ## The lists -/

theorem State.Recomputes.waitlist : x.deliverDue.waitlist = s.waitlist.map (fun e =>
    { e with deadline := if atOrAfter s.now e.hold.graceEnd = true then none else some e.hold.graceEnd }) := by
  have fresh : x.waitlist = s.waitlist.map (fun e => { e with deadline := some e.hold.graceEnd }) := by
    rw [h.reckoned.rest]; rfl
  show x.waitlist.map (fun e => ({ e with deadline := e.deadline.filter (fun v => !atOrAfter x.now v) } : WaitEntry)) = _
  rw [fresh, h.now, List.map_map]
  exact List.map_congr_left fun e _ => congrArg (fun d => ({ e with deadline := d } : WaitEntry)) (awaited_time _ _)

theorem State.Recomputes.early : x.deliverDue.early = s.early.map (fun e =>
    { e with deadline := if atOrAfter s.now (e.recorded + 600) = true then none else some (e.recorded + 600) }) := by
  have fresh : x.early = s.early.map (fun e => { e with deadline := some (e.recorded + 600) }) := by
    rw [h.reckoned.rest]; rfl
  show x.early.map (fun e => ({ e with deadline := e.deadline.filter (fun v => !atOrAfter x.now v) } : EarlyEntry)) = _
  rw [fresh, h.now, List.map_map]
  exact List.map_congr_left fun e _ => congrArg (fun d => ({ e with deadline := d } : EarlyEntry)) (awaited_time _ _)

theorem State.Recomputes.timers (b : BayIx) :
    (x.deliverDue.bay b).timer.noShow = clearDue s.now ((s.bay b).dyn.active.bind (fun h =>
        if h.arrival = none then some (noShowOf h) else none))
      ∧ (x.deliverDue.bay b).timer.overstay = clearDue s.now ((s.bay b).dyn.active.bind (fun h =>
        if h.arrival = none then none else some (s.overstayOf h)))
      ∧ (x.deliverDue.bay b).timer.displacement = clearDue s.now ((s.bay b).dyn.staged.map s.checkOf) := by
  rw [x.deliverDue_bay, h.now, Bay.deliver_timer, ← s.freshTimers_noShow, ← s.freshTimers_overstay]
  have noShow := congrArg BayBook.noShow (h.book b)
  have overstay := congrArg BayBook.overstay (h.book b)
  have check := congrArg BayBook.check (h.book b)
  exact ⟨congrArg (clearDue s.now) noShow, congrArg (clearDue s.now) overstay, congrArg (clearDue s.now) check⟩

/-- The hold expiries that a bay brings. -/
theorem State.Recomputes.bayExpiries {b : BayIx} {v : Expiry} (other : ∀ b, v ≠ .rotation b) : v ∈ (x.bay b).dueExpiries x.now b ↔
    (∃ h, (s.bay b).dyn.active = some h ∧ h.arrival = none ∧ atOrAfter s.now h.graceEnd = true
        ∧ v = .noShow b h.ticket h.graceEnd)
      ∨ (∃ h, (s.bay b).dyn.active = some h ∧ h.arrival ≠ none ∧ atOrAfter s.now (s.overstayTime h) = true
        ∧ v = .overstay b h.ticket (s.overstayTime h))
      ∨ (∃ h, (s.bay b).dyn.staged = some h ∧ atOrAfter s.now (s.checkTime h) = true
        ∧ v = .displacement b h.ticket (s.checkTime h)) := by
  have noShow : (x.bay b).timer.noShow = _ := (congrArg BayBook.noShow (h.book b)).trans (s.freshTimers_noShow (s.bay b))
  have overstay : (x.bay b).timer.overstay = _ := (congrArg BayBook.overstay (h.book b)).trans (s.freshTimers_overstay (s.bay b))
  have check : (x.bay b).timer.displacement = _ := (congrArg BayBook.check (h.book b)).trans (s.freshTimers_check (s.bay b))
  rw [Bay.mem_dueExpiries, noShow, overstay, check, h.now]
  refine or_congr ?_ (or_congr ?_ ?_)
  · cases (s.bay b).dyn.active with
    | none => simp
    | some h => by_cases arrived : h.arrival = none <;> simp [arrived, noShowOf]
  · cases (s.bay b).dyn.active with
    | none => simp
    | some h => by_cases arrived : h.arrival = none <;> simp [arrived, State.overstayOf]
  · cases (s.bay b).dyn.staged with
    | none => simp [other]
    | some h => simp [other, State.checkOf]

theorem State.Recomputes.mem_expiries {v : Expiry} (other : ∀ b, v ≠ .rotation b) : v ∈ x.deliverDue.expiries ↔
    (∃ b, v ∈ (x.bay b).dueExpiries x.now b)
      ∨ (∃ e t, e ∈ s.waitlist ∧ e.hold.ticket = some t ∧ atOrAfter s.now e.hold.graceEnd = true
        ∧ v = .waitlist t e.hold.graceEnd)
      ∨ (∃ e, e ∈ s.early ∧ atOrAfter s.now (e.recorded + 600) = true ∧ v = .early e.ticket (e.recorded + 600)) := by
  have waits : x.waitlist = s.waitlist.map (fun e => { e with deadline := some e.hold.graceEnd }) := by
    rw [h.reckoned.rest]; rfl
  have early : x.early = s.early.map (fun e => { e with deadline := some (e.recorded + 600) }) := by
    rw [h.reckoned.rest]; rfl
  have lost : v ∉ x.expiries := fun here => by
    rcases h.reckoned.expiries v here with before | ⟨b, rotation⟩
    · exact nomatch before
    · exact other b rotation
  rw [State.mem_deliverDue_expiries, or_iff_right lost, waits, early, h.now]
  refine or_congr .rfl (or_congr ?_ ?_)
  · simp only [List.mem_map]
    constructor
    · rintro ⟨_, ⟨e, here, rfl⟩, t, w, ticket, deadline, due, rfl⟩
      cases deadline
      exact ⟨e, t, here, ticket, due, rfl⟩
    · rintro ⟨e, t, here, ticket, due, rfl⟩
      exact ⟨_, ⟨e, here, rfl⟩, t, _, ticket, rfl, due, rfl⟩
  · simp only [List.mem_map]
    constructor
    · rintro ⟨_, ⟨e, here, rfl⟩, w, deadline, due, rfl⟩
      obtain rfl : e.recorded + 600 = w := Option.some.inj deadline
      exact ⟨e, here, due, rfl⟩
    · rintro ⟨e, here, due, rfl⟩
      exact ⟨_, ⟨e, here, rfl⟩, _, rfl, due, rfl⟩

theorem State.Recomputes.waitHolds : x.settle.waitHolds = s.waitHolds := by
  unfold State.waitHolds
  rw [x.settle_waitlist, h.waitlist, List.map_map]
  rfl

end

end Sys2Proof.Machine
end

section
/-!
SUPPORT. The Charge Queue after a warm reset (R78, R86, R92, R98), and the obligation on warm resets (O7).
-/
namespace Sys2Proof.Machine

/-! ## The Charge Queue -/

section
variable (s : State) (b : BayIx)

theorem State.restarted_alloc : (s.restarted.bay b).alloc = { (s.bay b).alloc with underDraw := 0 } := by
  rw [s.restarted_bay, (Bay.linkLossTest_leaves _ _).2.2.1, s.warm_bay]

theorem State.restarted_rotation : (s.restarted.bay b).timer.rotation = s.renewed (s.bay b) := by
  rw [s.restarted_bay, (Bay.linkLossTest_leaves _ _).2.1, s.warm_bay]
  rfl

/-- The bay belongs in the Charge Queue by its stored state (R78). -/
def State.Belongs : Prop := (s.bay b).dyn.state = .charging ∧ (s.bay b).alloc.enableCopy = true
  ∧ (s.bay b).alloc.suspectCopy = false ∧ s.allocator.suspendedCopy = false
  ∧ s.allocator.settings.minimum ≤ (s.bay b).postMax

theorem State.belongs_iff : ({ s.restarted.feed with charging := s.chargingBays } : Feed).eligible b = true ↔ s.Belongs b := by
  have postMax : (s.restarted.bay b).postMax = (s.bay b).postMax := congrArg BayConfig.postMax (s.restarted_config b)
  show (s.chargingBays b && (s.restarted.bay b).alloc.enableCopy && !(s.restarted.bay b).alloc.suspectCopy
    && !s.restarted.allocator.suspendedCopy
    && decide (s.restarted.allocator.settings.minimum ≤ (s.restarted.bay b).postMax)) = true ↔ _
  rw [s.restarted_alloc, s.restarted_allocator, postMax]
  simp [State.Belongs, State.chargingBays, and_assoc]

theorem State.restarted_queued : s.restarted.feed.queued b = true ↔ b ∈ s.allocator.queue.map (·.bay) := by
  rw [State.queued_iff, s.restarted_allocator]

end

section
variable {s x : State} {answers : List Frame} (h : s.Recomputes answers x)
include h

theorem State.Recomputes.queued (b : BayIx) : b ∈ x.allocator.queue.map (·.bay) ↔ s.Belongs b := by
  rw [← State.queued_iff, h.feed, ← s.belongs_iff]
  show (if b ∈ allBays then _ else _) = true ↔ _
  rw [if_pos (c := b ∈ allBays) (List.mem_finRange b)]

theorem State.Recomputes.underDraw (b : BayIx) : (x.bay b).alloc.underDraw = 0 := by
  refine h.reckoned.underDraw (fun c => ?_) b
  show (s.warm.bay c).alloc.underDraw = 0
  rw [s.warm_bay]

/-- A Charge Queue that was in line and is admitted whole stands (R98). -/
theorem State.Recomputes.stands (inLine : ∀ b, b ∈ s.allocator.queue.map (·.bay) ↔ s.Belongs b)
    (fits : s.allocator.queue.length ≤ budgetOf s.allocator.settings / s.allocator.settings.minimum) :
    x.allocator.queue = s.allocator.queue
      ∧ ∀ e ∈ s.allocator.queue, (x.bay e.bay).alloc.ceiling = (s.bay e.bay).alloc.ceiling
        ∧ ∀ since, (s.bay e.bay).alloc.admittedSince = some since →
          (x.bay e.bay).alloc.admittedSince = some since ∧ (x.bay e.bay).timer.rotation = s.renewed (s.bay e.bay) := by
  obtain ⟨t, ⟨queue, ceiling, since, rotation⟩, settings, rfl⟩ := h.whole (fun b => by
    rw [Bool.eq_iff_iff, s.restarted_queued, s.belongs_iff]; exact inLine b) fits
  rw [s.restarted_allocator] at queue
  refine ⟨by rw [State.retarget_allocator, queue], fun e here => ?_⟩
  obtain ⟨ceiling', _, since'⟩ := State.retarget_admits (s := t) (by rw [settings, queue]; exact fits) (e := e)
    (by rw [queue]; exact here)
  refine ⟨?_, fun time admitted => ?_⟩
  · rw [ceiling', ceiling, s.restarted_alloc]
  · obtain ⟨same, deadline⟩ := since' time (by rw [since, s.restarted_alloc]; exact admitted)
    exact ⟨same, by rw [deadline, rotation, s.restarted_rotation]⟩

end

/-- A fresh rotation deadline at the end of its event (R66, R92). -/
theorem State.renewed_fallDue {s : State} {y : Bay} {since : Time} (admitted : y.alloc.admittedSince = some since) :
    (s.renewed y).fallDue s.now = if (s.classOf y.cls).mode ≠ .rotate then .clear
      else if atOrAfter s.now (since + mins s.allocator.settings.rotation) = true then
        .due (since + mins s.allocator.settings.rotation)
      else .set (since + mins s.allocator.settings.rotation) := by
  unfold State.renewed
  rw [admitted]
  dsimp only
  by_cases rotates : (s.classOf y.cls).mode = .rotate
  · rw [if_pos rotates, if_neg (not_not.2 rotates)]
    by_cases due : atOrAfter s.now (since + mins s.allocator.settings.rotation) = true
    · rw [if_pos due]; rfl
    · rw [if_neg due, Rotation.fallDue_set, if_neg due]
  · rw [if_neg rotates, if_pos rotates]; rfl

/-! ## The statement -/

section
variable {s x : State} {answers : List Frame} (h : s.Recomputes answers x)
include h

theorem State.Recomputes.post (b : BayIx) : (x.deliverDue.post b).isSome = (s.post b).isSome := by
  have same : x.deliverDue.post b = s.warm.post b := by
    show nodeOf x.nodes .post b = _
    rw [h.reckoned.rest]; rfl
  rw [same, s.warm_post, Option.isSome_map]

theorem State.Recomputes.delivered {b : BayIx} (post : (s.post b).isSome = true) :
    let d := (s.bay b).delivery
    let target := (x.deliverDue.bay b).alloc.target
    (s.linkLostNow b = false → (x.deliverDue.bay b).delivery = ⟨target, none, none, d.drawn, d.sequence, false, 0, false, .unknown⟩
        ∧ x.deliverDue.committed b = (s.bay b).postMax)
      ∧ (s.linkLostNow b = true → (x.deliverDue.bay b).delivery = ⟨target, some 0, none, 0, d.sequence, false, 0, true,
          if target = 0 then .settled else .pending⟩) := by
  have here : x.deliverDue.bay b = (x.bay b).deliver x.now := x.deliverDue_bay b
  have postMax : (x.bay b).postMax = (s.bay b).postMax := congrArg BayConfig.postMax (h.config b)
  have follows := h.follows b
  have handed := h.handed b
  unfold State.committed
  rw [h.post, post, here]
  show (_ → (x.bay b).delivery = _ ∧ _) ∧ (_ → (x.bay b).delivery = _)
  refine ⟨fun found => ?_, fun lost => ?_⟩
  · have record := follows.heard post found
    rw [handed] at record
    refine ⟨record, ?_⟩
    have inForce : (x.bay b).delivery.inForce = none := by rw [record]
    show (if !true then 0 else if (x.bay b).alloc.suspectCopy then (x.bay b).postMax else
      match (x.bay b).delivery.inForce with
      | none => (x.bay b).postMax
      | some f => max (max f ((x.bay b).delivery.unacknowledged.getD 0)) (x.bay b).delivery.drawn) = _
    rw [inForce, postMax]
    simp
  · have record := follows.lost post lost
    rw [handed] at record
    exact record

end

end Sys2Proof.Machine
end

section
/-!
SUPPORT. The obligation on warm resets (O7).
-/
namespace Sys2Proof.Machine

theorem exec_warmReset (s : State) : exec .warmReset s = execWarmReset s := rfl

theorem exec_reset (s : State) : exec .reset s = execReset s := rfl

/-- The RESET pin low takes a warm reset (R114). -/
theorem execWarmReset_runs {s : State} (running : s.heldInReset = false) (high : s.resetPinTaken = false)
    (ok : ∀ b, (s.bay b).checkOk = true) (calm : s.suspension.emergency = true → s.suspension.suspended = true) :
    ∃ x, State.Recomputes { s with resetPinTaken := true } [] x ∧ exec .warmReset s = .next x.settle := by
  have warm := Ev.warmReset_warm (ev := Ev.start { s with resetPinTaken := true }) rfl calm
  obtain ⟨x, recomputes, finish⟩ := warm.finish ok
  refine ⟨x, recomputes, ?_⟩
  rw [exec_warmReset, execWarmReset, s.event_runs _ running (by rw [high]; rfl)]
  exact congrArg Host.Outcome.next finish

/-- The answer of a RESET (R172). -/
def Request.resetAnswer (r : Request) (own : Addr) : List Frame :=
  if r.src = 0 then [] else [⟨r.src, own, Kind.mgmtAnswer, r.tag, [r.kind, 0]⟩]

theorem Ev.wantRecompute_buffer (ev : Ev) : ev.wantRecompute.buffer = ev.buffer := rfl

theorem Ev.warmReset_buffer {ev : Ev} (calm : ev.st.suspension.emergency = true → ev.st.suspension.suspended = true) :
    ev.warmReset.buffer = ev.buffer := by
  rw [Ev.warmReset_eq calm, Ev.wantRecompute_buffer, Ev.reportAll_buffer, Ev.reboot_buffer]

theorem State.Warmed.cleared {s t : State} {answers : List Frame} (h : s.Warmed answers t) : t.controller = s.controller
    ∧ t.uplink.fifo = answers := by
  have rest := h.reckoned.rest
  generalize t.bays = bays, t.expiries = expiries, t.allocator.queue = queue, t.scheduler.budget = budget at rest
  rw [rest]
  exact ⟨rfl, rfl⟩

theorem Ev.WarmReset.answered {s : State} {ev : Ev} (h : ev.WarmReset s []) (buffer : ev.buffer = []) (r : Request) :
    (ev.status r .ok).WarmReset s (r.resetAnswer s.controller.own) := by
  obtain ⟨warmed, notes, scan, owed⟩ := h
  obtain ⟨controller, empty⟩ := warmed.cleared
  have built : ev.status r .ok = ev.answer (ev.st.buildAnswer r.src r.tag Kind.mgmtAnswer [r.kind, 0]) := ev.status_ok r
  obtain ⟨notes', scan', owed', _⟩ := ev.answer_leaves (ev.st.buildAnswer r.src r.tag Kind.mgmtAnswer [r.kind, 0])
  rw [built]
  refine ⟨?_, notes'.trans notes, scan'.trans scan, owed'.trans owed⟩
  unfold Request.resetAnswer State.buildAnswer
  by_cases null : r.src = 0
  · rw [if_pos null, if_pos (c := r.src = Config.nullAddr) null]
    have silent : (ev.answer none).st = ev.st := by unfold Ev.answer; rw [buffer]; rfl
    rw [silent]
    exact warmed
  · rw [if_neg null, if_neg (c := r.src = Config.nullAddr) null, Ev.answer_alone _ _ buffer, State.placeUplink,
      if_pos (by rw [empty]; decide), controller]
    exact warmed.answered _

/-- The RESET operation takes one, and answers in the emptied FIFO (R100, R179). -/
theorem execReset_runs {s : State} {r : Request} {q : List Request} (running : s.heldInReset = false)
    (head : s.management = r :: q) (kind : r.kind = Kind.control) (code : byteAt r.payload 0 = 12) (payload : r.payload ≠ [])
    (ok : ∀ b, (s.bay b).checkOk = true) (calm : s.suspension.emergency = true → s.suspension.suspended = true) :
    ∃ x, State.Recomputes { s with management := q } (r.resetAnswer s.controller.own) x ∧ exec .reset s = .next x.settle := by
  have warm := Ev.warmReset_warm (ev := Ev.startRequest { s with management := q }) rfl calm
  have buffer := Ev.warmReset_buffer (ev := Ev.startRequest { s with management := q }) calm
  obtain ⟨x, recomputes, finish⟩ := (warm.answered buffer r).finish ok
  refine ⟨x, recomputes, ?_⟩
  rw [exec_reset, execReset, s.takeControl_runs _ running head kind code payload (List.length_pos_iff.2 payload)]
  exact congrArg Host.Outcome.next finish

/-! ## The statement -/

theorem ResetMode.keep_eq (m : ResetMode) (f : Option Frame) : m.keep f = if m = .boundary then f else none := by
  cases m <;> rfl

section
variable {s x : State} {answers : List Frame} (h : s.Recomputes answers x)
include h

theorem State.Recomputes.inBudget : x.deliverDue.WithinBudget :=
  ((Moves.refl (ev₀ := Ev.start x)).deliverDue).withinBudget h.within

theorem State.Recomputes.scheduler :
    x.scheduler = ⟨budgetOf s.allocator.settings, .raise, s.scheduler.cursor, s.scheduler.tag, none⟩ := by
  have budget := h.budget
  have rest := congrArg State.scheduler h.reckoned.rest
  rw [budget] at rest
  exact rest

end

/-- Settles O7: the reset clears every block before the engine reports its bays, and the recompute that ends its event
leaves what it has cleared. -/
theorem warmResets : Obligations.WarmResets := by
  unfold Obligations.WarmResets
  intro kept delivered timed allotted warm
  have keeps {s x : State} {answers : List Frame} (h : s.Recomputes answers x) : kept s x.settle := by
    obtain ⟨uplink, downlink, requests, management⟩ := h.ports
    obtain ⟨tag, index, now, offset, classes, kinds, timing, controller, suspension, settings, recorder, scrubber, _⟩ := h.tables
    refine ⟨requests, management, by rw [downlink], by rw [uplink]; rfl, by rw [downlink]; rfl, ?_, ?_, tag, h.dyns,
      h.waitHolds, index, now, offset, classes, kinds, timing, controller, suspension, settings, recorder, scrubber,
      h.configs, fun a => ?_⟩
    · rw [uplink, ← ResetMode.keep_eq]
    · rw [downlink, ← ResetMode.keep_eq]
    · rw [h.node]; exact ⟨rfl, rfl, rfl, rfl⟩
  have delivers {s x : State} {answers : List Frame} (h : s.Recomputes answers x) : delivered s x.deliverDue := by
    refine ⟨fun b a e post => h.delivered (by rw [post]; rfl), fun b => ?_, h.inBudget, h.scheduler⟩
    rw [x.deliverDue_bay]; exact h.handed b
  have times {s x : State} {answers : List Frame} (h : s.Recomputes answers x) : timed s x.deliverDue := by
    refine ⟨fun b => ?_, h.waitlist, h.early, fun v other => ?_⟩
    · obtain ⟨noShow, overstay, check⟩ := h.timers b
      dsimp only
      rw [noShow, overstay, check]
      refine ⟨fun none_ => ?_, fun x active arrival => ?_, fun x active arrival => ?_, fun none_ => ?_, fun x staged => ?_⟩
      · rw [none_]; exact ⟨rfl, rfl⟩
      · rw [active, Option.bind_some, Option.bind_some, if_pos arrival, if_pos arrival, clearDue_some]; exact ⟨rfl, rfl⟩
      · rw [active, Option.bind_some, Option.bind_some, if_neg arrival, if_neg arrival, clearDue_some]; exact ⟨rfl, rfl⟩
      · rw [none_]; rfl
      · rw [staged, Option.map_some, clearDue_some]; rfl
    · rw [h.mem_expiries other]
      simp only [h.bayExpiries other, exists_or, or_assoc]
      rfl
  have allots {s x : State} {answers : List Frame} (h : s.Recomputes answers x) : allotted s x.deliverDue := by
    refine ⟨fun b => by rw [x.deliverDue_bay]; exact h.underDraw b, h.queued, fun inLine fits => ?_⟩
    obtain ⟨queue, bays⟩ := h.stands inLine fits
    refine ⟨queue, fun e here => ?_⟩
    obtain ⟨ceiling, admitted⟩ := bays e here
    rw [x.deliverDue_bay]
    refine ⟨ceiling, fun since was => ?_⟩
    obtain ⟨same, rotation⟩ := admitted since was
    refine ⟨same, ?_⟩
    show Rotation.fallDue x.now (x.bay e.bay).timer.rotation = _
    rw [h.now, rotation, State.renewed_fallDue was]
    rfl
  have fifo {s x : State} {answers : List Frame} (h : s.Recomputes answers x) : x.settle.uplink.fifo = answers := by
    rw [h.ports.1]
  have all {s x : State} {answers : List Frame} (h : s.Recomputes answers x) : warm s x.deliverDue answers :=
    ⟨keeps h, fifo h, delivers h, times h, allots h⟩
  refine ⟨fun s running high ok calm => ?_, fun s r q running head kind code payload ok calm => ?_⟩
  · obtain ⟨x, recomputes, runs⟩ := execWarmReset_runs running high ok calm
    obtain ⟨_, _, _, _, _, _, _, _, _, _, _, _, taken⟩ := recomputes.tables
    exact ⟨x.deliverDue, runs, taken, all (s := { s with resetPinTaken := true }) recomputes⟩
  · obtain ⟨x, recomputes, runs⟩ := execReset_runs running head kind code payload ok calm
    obtain ⟨_, _, _, _, _, _, _, _, _, _, _, _, taken⟩ := recomputes.tables
    exact ⟨x.deliverDue, runs, taken, all (s := { s with management := q }) recomputes⟩

end Sys2Proof.Machine
end
